-- ==== Sys2Proof/Word.lean ====
section
/-!
DEFINITION. The word types of the Ritra and its finite index types (spec/00_scope.md R6 to R8,
spec/01_the_ritra_package.md R21, R25, R28).
-/

namespace Sys2Proof

/-- One byte of any memory (R7: multi-byte values are little-endian). -/
abbrev Byte := BitVec 8

/-- One 64-bit register word, and one scalar register (R158). -/
abbrev Word := BitVec 64

/-- A parcel, 0 to 7 (R21). -/
abbrev ParcelId := Fin 8

/-- A logical reach of a parcel, 0 to 127 (R25). -/
abbrev ReachId := Fin 128

/-- A cluster of a parcel, 0 to 15 (R28). -/
abbrev ClusterId := Fin 16

/-- A sparse map: keys strictly rising; a key that is not listed stands for the map's default value. -/
abbrev SMap (α : Type) := List (Nat × α)

end Sys2Proof
end

