-- ==== Sys2Proof/Syntax.lean ====
section
/-!
DEFINITION. The commands of the block: one constructor of `Instr` per row of spec/opcode_table.json, in the
table's order, with the operands the rule of the row names. An instruction row names only the reach; the
128-bit instruction itself is fetched from IMEM (R157).
-/

namespace Sys2Proof

/-- Who performs a register access: the host, the surveyor or the running task (R17, R191). -/
inductive Requester where
  | host
  | surveyor
  | task
deriving DecidableEq, Repr

/-- The ports of a parcel (R298, R328): six river links and three UCIe ports. -/
inductive Port where
  | xp | xn | yp | yn | zp | zn
  | ringPlus | ringMinus | hubPort
deriving DecidableEq, Repr

/-- The registers of a function's configuration space and MSI-X table that the spec names (R331, R332, R347, R463), as PCI
Express has them: a half of a 64-bit BAR (BAR 0 to 5), the function mask of MSI-X, and the mask of a vector. -/
inductive ConfigReg where
  | bar (k : Fin 6)
  | msixControl
  | msixMask (v : Fin 4)
deriving DecidableEq, Repr

/-- A register by its block and byte offset within the block (R337 to R343), or of the configuration space of function
`fn`: 0 for the hub and p + 1 for parcel p. -/
inductive RegAddr where
  | reach (p : ParcelId) (l : ReachId) (off : Nat)
  | cluster (p : ParcelId) (c : ClusterId) (off : Nat)
  | parcel (p : ParcelId) (off : Nat)
  | hub (off : Nat)
  | config (fn : Fin 9) (r : ConfigReg)
deriving DecidableEq, Repr

/-- What stands in the cells of an access (R350, R401): nothing wrong; an error that the code corrects, with its symbol; an
uncorrectable one, which the test of R403 then finds hard or soft; or, in stacked memory, an error in four or more symbols
that the code takes for good data, `bytes` in their place, or miscorrects to them, with the symbol that it corrects.
`unit` is the byte address or physical offset within the memory concerned. -/
inductive CellError where
  | none
  | corrected (unit : Nat) (symbol : Nat)
  | uncorrectable (unit : Nat) (hard : Bool)
  | wrong (unit : Nat) (bytes : List Byte) (symbol : Option Nat)
deriving DecidableEq, Repr

/-- A host memory access of R333: a read of `len` bytes, or a write of the bytes given. -/
inductive MemAccess where
  | read (len : Nat)
  | write (bytes : List Byte)
deriving DecidableEq, Repr

/-- The Ethernet II frame that carries a message on a chain segment (R362): its addresses, its EtherType, and whether its FCS
is correct. -/
structure Frame where
  dst : BitVec 48
  src : BitVec 48
  etype : BitVec 16
  fcs : Bool
deriving DecidableEq, Repr

/-- The way by which a dictionary message reaches the surveyor, or leaves it (R361, R362, R367, R372). -/
inductive Path where
  | chainA (f : Frame)
  | chainB (f : Frame)
  | i3c
deriving DecidableEq, Repr

/-- One management message (R363). The length field is the length of `data`; `rsv` is bytes 18 to 23. -/
structure Msg where
  ver : Byte
  kind : Byte
  role : Byte
  status : Byte
  seq : BitVec 32
  index : BitVec 16
  sub : Byte
  flags : Byte
  offset : BitVec 32
  rsv : BitVec 48
  data : List Byte
  tag : BitVec 128
deriving DecidableEq, Repr

/-- One flit as received or sent (R290): header fields, 244 payload bytes and the CRC. -/
structure Flit where
  ftype : BitVec 4
  vc : BitVec 3
  last : Bool
  seq : BitVec 12
  ack : BitVec 12
  crd : BitVec 32
  payload : List Byte
  crc : BitVec 32
deriving DecidableEq, Repr

/-- One packet: the header fields of R315 and the body. -/
structure Packet where
  ptype : BitVec 4
  dst : BitVec 14
  src : BitVec 14
  via : BitVec 14
  viaEn : Bool
  dir0 : BitVec 3
  dir1 : BitVec 3
  id : BitVec 16
  gen : BitVec 4
  win : BitVec 6
  off : BitVec 24
  stamp : BitVec 32
  tag : BitVec 16
  pver : BitVec 4
  body : List Byte
  rsv : BitVec 16 := 0              -- the reserved header bits 55:53, 127 and 187:176, which a router forwards (R307)
deriving DecidableEq, Repr

/-- The contents of a NEG record (R300). Times are in units of 0.1 ns of the sender's own oscillator, as LINK_STAT.lat is. -/
structure Neg where
  dev : BitVec 14
  parcel : ParcelId
  link : BitVec 3
  vmax : BitVec 4
  vmin : BitVec 4
  tick : BitVec 3
  buffers : List (BitVec 8)         -- flit buffers of each virtual channel
  count : Word                      -- datum count and offset at the flit's first bit
  off : BitVec 13
  stamp : Nat                       -- the time of this NEG
  echo : Option Nat                 -- the time of the last NEG received, as that NEG gave it; none before the first
  hold : Nat                        -- how long that NEG was held
deriving DecidableEq, Repr

/-- One FAULT notice (R312): origin device, dimension (0 X, 1 Y, 2 Z), new state, sequence number. -/
structure FaultRec where
  origin : BitVec 14
  dim : Fin 3
  down : Bool
  seq : BitVec 8
deriving DecidableEq, Repr

/-- One MAP record (R293, R312): the part of a map of the devices `first` to `last`, with the links it marks as
(device, dimension). -/
structure MapRec where
  first : BitVec 14
  last : BitVec 14
  marks : List (BitVec 14 × Fin 3)
deriving DecidableEq, Repr

/-- How the host side of a hub DMA transfer ended (R354): well, or with Unsupported Request, Completer Abort or
poisoned data. -/
inductive HostEnd where
  | ok
  | hostError
deriving DecidableEq, Repr

/-- The causes that fence a parcel (R407). -/
inductive ContainCause where
  | controlError
  | clusterBufferHard
  | thermalTrip
  | hubPortDown
deriving DecidableEq, Repr

/-- The commands (spec/opcode_table.json). -/
inductive Instr where
  /-- R172 -/
  | matb (p : ParcelId) (l : ReachId) (err : CellError)
  /-- R119 -/
  | matlBuild (p : ParcelId) (l : ReachId)
  /-- R121 -/
  | rtBuildStart (p : ParcelId) (c : ClusterId)
  /-- R120 -/
  | matlLook (p : ParcelId) (l : ReachId)
  /-- R121 -/
  | rtLookStart (p : ParcelId) (l : ReachId)
  /-- R113 -/
  | rifl (p : ParcelId) (l : ReachId)
  /-- R100 -/
  | dlta (p : ParcelId) (l : ReachId)
  /-- R177 -/
  | move (p : ParcelId) (l : ReachId)
  /-- R77 -/
  | movePoolSave (p : ParcelId) (l : ReachId)
  /-- R78 -/
  | movePoolRestore (p : ParcelId) (l : ReachId)
  /-- R178 -/
  | moveImemLoad (p : ParcelId) (l : ReachId)
  /-- R212 -/
  | moveHalo (p : ParcelId) (l : ReachId)
  /-- R256 -/
  | moveLocalCopy (p : ParcelId) (l : ReachId)
  /-- R317 -/
  | moveMessageSend (p : ParcelId) (l : ReachId)
  /-- R319 -/
  | messageIdAvailable (p : ParcelId) (l : ReachId)
  /-- R238 -/
  | moveExpand (p : ParcelId) (l : ReachId)
  /-- R238 -/
  | moveStoreUnstructured (p : ParcelId) (l : ReachId)
  /-- R238 -/
  | moveStore24 (p : ParcelId) (l : ReachId)
  /-- R238 -/
  | moveStore24Masked (p : ParcelId) (l : ReachId)
  /-- R233 -/
  | gath (p : ParcelId) (l : ReachId)
  /-- R233 -/
  | scat (p : ParcelId) (l : ReachId)
  /-- R180 -/
  | casc (p : ParcelId) (l : ReachId)
  /-- R80 -/
  | cascadeHop (p : ParcelId) (l : ReachId)
  /-- R82 -/
  | cascadeBroken (p : ParcelId) (l : ReachId)
  /-- R181 -/
  | conf (p : ParcelId) (l : ReachId)
  /-- R84: the first add waiting at the controllers of parcel `p` -/
  | confluenceAdd (p : ParcelId)
  /-- R182 -/
  | talyClaim (p : ParcelId) (l : ReachId)
  /-- R182 -/
  | talySet (p : ParcelId) (l : ReachId)
  /-- R182 -/
  | talyRead (p : ParcelId) (l : ReachId)
  /-- R183 -/
  | stakWait (p : ParcelId) (l : ReachId)
  /-- R183 -/
  | stakStep (p : ParcelId) (l : ReachId)
  /-- R183 -/
  | stakArm (p : ParcelId) (l : ReachId)
  /-- R357 -/
  | fencAcq (p : ParcelId) (l : ReachId)
  /-- R357 -/
  | fencRel (p : ParcelId) (l : ReachId)
  /-- R357 -/
  | fencFull (p : ParcelId) (l : ReachId)
  /-- R185 -/
  | syncLocal (p : ParcelId) (l : ReachId)
  /-- R185 -/
  | syncClusterBarrier (p : ParcelId) (l : ReachId)
  /-- R185 -/
  | syncParcelBarrier (p : ParcelId) (l : ReachId)
  /-- R186 -/
  | scl (p : ParcelId) (l : ReachId)
  /-- R187 -/
  | brc (p : ParcelId) (l : ReachId)
  /-- R187 -/
  | brcHalt (p : ParcelId) (l : ReachId)
  /-- R188 -/
  | csrRead (p : ParcelId) (l : ReachId)
  /-- R188 -/
  | csrWrite (p : ParcelId) (l : ReachId)
  /-- R171: the `k`-th instruction in flight of the reach, oldest first -/
  | instructionComplete (p : ParcelId) (l : ReachId) (k : Nat)
  /-- R450 -/
  | sampleRecordWrite (p : ParcelId)
  /-- R159 -/
  | taskRun (rq : Requester) (p : ParcelId) (l : ReachId) (strict : Bool)
  /-- R160 -/
  | taskStopRequest (rq : Requester) (p : ParcelId) (l : ReachId) (strict : Bool)
  /-- R160 -/
  | taskStopComplete (p : ParcelId) (l : ReachId)
  /-- R161 -/
  | reachReset (rq : Requester) (p : ParcelId) (l : ReachId)
  /-- R161 -/
  | reachResetComplete (p : ParcelId) (l : ReachId)
  /-- R193 -/
  | taskImageSave (rq : Requester) (p : ParcelId) (l : ReachId) (mask : BitVec 4) (addr : BitVec 27)
  /-- R194 -/
  | taskImageRestore (rq : Requester) (p : ParcelId) (l : ReachId) (mask : BitVec 4) (addr : BitVec 27)
  /-- R193 -/
  | taskImageDone (p : ParcelId) (l : ReachId)
  /-- R191 -/
  | profileWordWrite (rq : Requester) (p : ParcelId) (l : ReachId) (n : Fin 64) (w : Fin 3) (v : Word)
  /-- R191 -/
  | profileCommit (rq : Requester) (p : ParcelId) (l : ReachId) (n : Fin 64) (v : Word)
  /-- R196 -/
  | traverseWordWrite (rq : Requester) (p : ParcelId) (l : ReachId) (n : Fin 32) (w : Fin 15) (v : Word)
  /-- R196 -/
  | traverseCommit (rq : Requester) (p : ParcelId) (l : ReachId) (n : Fin 32) (v : Word)
  /-- R96: the configuration register of a code book, or one of its levels -/
  | codebookWrite (rq : Requester) (p : ParcelId) (c : ClusterId) (k : Fin 8) (level : Option (Fin 16)) (v : Word)
  /-- R108 -/
  | actSegWrite (rq : Requester) (p : ParcelId) (l : ReachId) (n : Fin 128) (w : Fin 2) (v : Word)
  /-- R214 -/
  | fuseCfgWrite (rq : Requester) (p : ParcelId) (l : ReachId) (v : Word)
  /-- R258: SP_WIN, or CB_WIN when `cb` -/
  | windowWrite (rq : Requester) (p : ParcelId) (l : ReachId) (cb : Bool) (v : Word)
  /-- R229 -/
  | swzKeyWrite (rq : Requester) (p : ParcelId) (l : ReachId) (k : Fin 16) (v : Word)
  /-- R185: a cluster's barrier, or the parcel's when `c` is none -/
  | syncBarMembersWrite (rq : Requester) (p : ParcelId) (c : Option ClusterId) (k : Fin 16) (v : Word)
  /-- R345 -/
  | doorbell (p : ParcelId) (v : Word)
  /-- R347 -/
  | intEnWrite (rq : Requester) (p : ParcelId) (v : Word)
  /-- R83 -/
  | confRegionWrite (rq : Requester) (p : ParcelId) (k : Fin 64) (v : Word)
  /-- R318 -/
  | msgChanWrite (rq : Requester) (p : ParcelId) (k : Fin 64) (w : Fin 2) (v : Word)
  /-- R321 -/
  | rxWinWrite (rq : Requester) (p : ParcelId) (k : Fin 64) (w : Fin 2) (v : Word)
  /-- R309 -/
  | torusCfgWrite (rq : Requester) (v : Word)
  /-- R269 -/
  | datumCfgWrite (rq : Requester) (v : Word)
  /-- R265 -/
  | datumLoadWrite (rq : Requester) (v : Word)
  /-- R283 -/
  | stakeSchedWrite (rq : Requester) (k : Fin 16) (w : Fin 2) (v : Word)
  /-- R299 -/
  | linkEnWrite (rq : Requester) (p : ParcelId) (port : Port) (en : Bool)
  /-- R298 -/
  | linkRetrain (rq : Requester) (p : ParcelId) (port : Port)
  /-- R306 -/
  | linkVerPktWrite (rq : Requester) (p : ParcelId) (pkt : BitVec 4)
  /-- R244 -/
  | chanRotateArm (rq : Requester) (p : ParcelId) (w : Fin 2) (v : Word)
  /-- R244 -/
  | rotationStart (p : ParcelId)
  /-- R244 -/
  | rotationBlockMigrated (p : ParcelId)
  /-- R354 -/
  | hubDmaArm (rq : Requester) (c : Fin 8) (v : Word)
  /-- R354 -/
  | hubDmaStart (c : Fin 8)
  /-- R355 -/
  | hubDmaDone (c : Fin 8) (host : HostEnd)
  /-- R431 -/
  | pwrCfgWrite (rq : Requester) (v : Word)
  /-- R437 -/
  | pwrParcelWrite (rq : Requester) (p : ParcelId) (v : Word)
  /-- R445 -/
  | perfFreeze (rq : Requester) (p : ParcelId) (freeze : Bool)
  /-- R445 -/
  | perfSnapRequest (rq : Requester) (p : ParcelId)
  /-- R446 -/
  | counterSnapshot (p : ParcelId)
  /-- R449 -/
  | sampleEnable (rq : Requester) (p : ParcelId) (v : Word)
  /-- R418 -/
  | stayDtimeWrite (rq : Requester) (dtime : BitVec 16)
  /-- R416 -/
  | stayRearm (rq : Requester)
  /-- R13, R333: `size` is 4 or 8 bytes -/
  | registerWrite (rq : Requester) (a : RegAddr) (size : Nat) (v : Word)
  /-- R17, R333: a read of `size` bytes, 4 or 8, latching the rest of a wider register -/
  | latchedRead (rq : Requester) (a : RegAddr) (size : Nat)
  /-- R333: `fn` is 0 for the hub and p + 1 for parcel p; `cxl` marks an access through CXL.mem -/
  | winMemAccess (fn : Fin 9) (cxl : Bool) (off : Nat) (acc : MemAccess) (err : CellError)
  /-- R344 -/
  | winDbgAccess (p : ParcelId) (off : Nat) (acc : MemAccess)
  /-- R335 -/
  | functionLevelResetParcel (p : ParcelId)
  /-- R335 -/
  | functionLevelResetHub
  /-- R370 -/
  | dictRead (path : Path) (m : Msg)
  /-- R373 -/
  | dictWrite (path : Path) (m : Msg)
  /-- R365 -/
  | domainSegmentWrite (path : Path) (m : Msg)
  /-- R365 -/
  | stagedWriteTimeout (index : BitVec 16) (sub : Byte)
  /-- R364 -/
  | discover (path : Path) (m : Msg)
  /-- R364 -/
  | discoverAnswer
  /-- R369 -/
  | keyWrite (path : Path) (m : Msg)
  /-- R411 -/
  | firmwareImageLoad (path : Path) (m : Msg)
  /-- R374 -/
  | requestConfigure
  /-- R374 -/
  | requestReady
  /-- R375 -/
  | requestRun
  /-- R375 -/
  | requestQuiesce
  /-- R376: `v` is the value written to 0x2002:p+1 -/
  | parcelStateRequest (p : ParcelId) (v : Byte)
  /-- R375 -/
  | quiesceReachStop (p : ParcelId) (l : ReachId)
  /-- R446 -/
  | snapshotOnCommand
  /-- R367 -/
  | i3cPrivateWrite (m : Msg)
  /-- R367 -/
  | i3cPrivateRead
  /-- R367 -/
  | entdaa (addr : BitVec 7)
  /-- R261 -/
  | datumTick
  /-- R265 -/
  | datumSyncPulse
  /-- R273 -/
  | datumJumpCorrection
  /-- R273 -/
  | clockGatingEnd
  /-- R271 -/
  | referenceLost
  /-- R271 -/
  | referenceQualified
  /-- R270 -/
  | holdoverExpiry
  /-- R266 -/
  | idleFlitRx (p : ParcelId) (port : Port) (f : Flit)
  /-- R270 -/
  | sourceLinkLost
  /-- R274: everything bound to stakes that parcel `p` has reached -/
  | stakeReached (p : ParcelId)
  /-- R279 -/
  | stretchEnd (p : ParcelId) (l : ReachId)
  /-- R284 -/
  | schedNone (k : Fin 16)
  /-- R285 -/
  | schedReachClockSetting (k : Fin 16)
  /-- R285 -/
  | clockChangeApply (p : ParcelId)
  /-- R412 -/
  | schedLockSwitchover (k : Fin 16)
  /-- R412 -/
  | lockSwitchoverApply (p : ParcelId)
  /-- R413 -/
  | schedSurveyorSwitchover (k : Fin 16)
  /-- R413 -/
  | surveyorRestartDone
  /-- R446 -/
  | schedCounterSnapshot (k : Fin 16)
  /-- R431 -/
  | schedPowerRateLimit (k : Fin 16)
  /-- R296: `decodable` says that the codeword of the flit was decodable -/
  | dataFlitRx (p : ParcelId) (port : Port) (f : Flit) (decodable : Bool)
  /-- R296 -/
  | nakRx (p : ParcelId) (port : Port) (ack : BitVec 12)
  /-- R296 -/
  | retryTimeout (p : ParcelId) (port : Port)
  /-- R297 -/
  | linkRetryExhaust (p : ParcelId) (port : Port)
  /-- R299 -/
  | signalDetected (p : ParcelId) (port : Port)
  /-- R299 -/
  | trainingConverged (p : ParcelId) (port : Port)
  /-- R299 -/
  | trainingTimeout (p : ParcelId) (port : Port)
  /-- R299 -/
  | frameLock (p : ParcelId) (port : Port)
  /-- R299 -/
  | frameSearchTimeout (p : ParcelId) (port : Port)
  /-- R300 -/
  | negRx (p : ParcelId) (port : Port) (n : Neg)
  /-- R299 -/
  | negTimeout (p : ParcelId) (port : Port)
  /-- R303 -/
  | lossOfSignal (p : ParcelId) (port : Port)
  /-- R303 -/
  | missingIdleFlits (p : ParcelId) (port : Port)
  /-- R299 -/
  | holdExpiry (p : ParcelId) (port : Port)
  /-- R327 -/
  | uciePortDown (p : ParcelId) (port : Port)
  /-- R312 -/
  | faultRecordRx (p : ParcelId) (port : Port) (r : FaultRec)
  /-- R293, R312: a part of the partner's map -/
  | mapRecordRx (p : ParcelId) (port : Port) (m : MapRec)
  /-- R308 -/
  | verRx (p : ParcelId) (port : Port) (vmax : BitVec 4) (vmin : BitVec 4)
  /-- R308 -/
  | versionSwitch (p : ParcelId) (port : Port)
  /-- R314: a packet received on a port of parcel `p` and not addressed to it -/
  | packetForward (p : ParcelId) (k : Packet)
  /-- R322 -/
  | messagePacketRx (p : ParcelId) (k : Packet)
  /-- R322 -/
  | messageAnswerRx (p : ParcelId) (id : BitVec 16) (result : Byte)
  /-- R323 -/
  | messageLost (p : ParcelId) (id : BitVec 16)
  /-- R324 -/
  | confluenceRowRx (p : ParcelId) (k : Packet)
  /-- R324 -/
  | confluenceAnswerRx (p : ParcelId) (id : BitVec 16) (mask : BitVec 16)
  /-- R324 -/
  | confluenceAnswerTimeout (p : ParcelId) (id : BitVec 16)
  /-- R325 -/
  | readyTokenRx (p : ParcelId) (port : Port) (tag : BitVec 16)
  /-- R325 -/
  | cascadeTileRx (p : ParcelId) (port : Port) (k : Packet)
  /-- R349: `sector` is the sector number, address divided by 64 -/
  | scrubSector (p : ParcelId) (sector : Nat) (err : CellError)
  /-- R404 -/
  | reachRemap (p : ParcelId) (l : ReachId)
  /-- R405 -/
  | reachRetire (p : ParcelId) (l : ReachId)
  /-- R407 -/
  | parcelContain (p : ParcelId) (cause : ContainCause)
  /-- R376: `ok` says that the parcel trained and was repaired -/
  | parcelTrainingEnd (p : ParcelId) (ok : Bool)
  /-- R393: whether the read-back of copy A and of copy B agreed (R396) -/
  | fieldBookWrite (okA : Bool) (okB : Bool)
  /-- R416: the filtered levels after the change -/
  | stayInputChange (a : Bool) (b : Bool)
  /-- R416 -/
  | discrepancyTimeReached
  /-- R417 -/
  | stayQuiesce
  /-- R427: the power of the tick that has just ended, package and parcels, in W -/
  | governorTick (pkg : Nat) (parcels : List Nat)
  /-- R428 -/
  | spateDropRequest
  /-- R429 -/
  | spateCutShort
  /-- R430 -/
  | recoveryEnd
  /-- R433 -/
  | thermalCapRaise (p : ParcelId)
  /-- R433: sensor `n` of parcel `p` (0 to 47), or of the hub (48 to 51); temperature in 0.1 degrees C -/
  | sensorSample (p : ParcelId) (n : Fin 52) (temp : Int)
  /-- R469 -/
  | thermtripRelease
  /-- R436 -/
  | channelThrottleRise (p : ParcelId) (g : Fin 32)
  /-- R436 -/
  | channelThrottleFall (p : ParcelId) (g : Fin 32)
  /-- R112 -/
  | calWindowClose (p : ParcelId) (l : ReachId) (m : Fin 4)
  /-- R242 -/
  | channelSkewWindowClose (p : ParcelId)
  /-- R448 -/
  | bwWindowClose (p : ParcelId)
  /-- R465: the level of HOSTRST_SCOPE that is sampled -/
  | auxGood (scope : Bool)
  /-- R374 -/
  | surveyorBoot
  /-- R467 -/
  | auxLost
  /-- R465: the input voltage in mV -/
  | vin48Qualified (mv : Nat)
  /-- R467: the input voltage in mV -/
  | vin48OutOfRange (mv : Nat)
  /-- R374 -/
  | identifyToTrain
  /-- R466: bit p says that parcel p trained -/
  | trainingComplete (trained : BitVec 8)
  /-- R462 -/
  | resetNAsserted
  /-- R462 -/
  | resetNReleased
  /-- R463 -/
  | perstNAsserted
  /-- R466 -/
  | perstNReleased
  /-- R468: the cell values shifted in -/
  | extest (cells : List Bool)
  /-- R468: the land levels captured, then the values shifted in -/
  | samplePreload (captured : List Bool) (shifted : List Bool)
  /-- R468 -/
  | extestPulse (cells : List Bool)
  /-- R468 -/
  | extestTrain (cells : List Bool)
  /-- R468 -/
  | highz
  /-- R468 -/
  | clamp
  /-- R468: BYPASS, also after Test-Logic-Reset -/
  | bypass
  /-- R294 -/
  | flitSlot (p : ParcelId) (port : Port)
  /-- R466 -/
  | hostLinkTrained
deriving DecidableEq, Repr

end Sys2Proof
end

