-- ==== Sys2Proof/Decode.lean ====
section
/-!
DEFINITION. The decoder over the rows of spec/opcode_table.json that give bits: there are none, the rows are
commands. (The part's own instruction word is decoded by the machine that fetches it, Machine/Issue.lean.)
-/

namespace Sys2Proof

/-- The command that a word spells: none, as no row of the table gives bits. -/
def decodeTableWord (_nbits _w : Nat) : Option Instr := none

end Sys2Proof
end

