-- ==== Sys2Proof/Config.lean ====
section
/-!
DEFINITION. What this part fixes (*impl* values), and the free values: constants without a body, so that nothing can
be proved of them beyond their type (log 6, log 7, log 8).
-/

namespace Sys2Proof.Config

/-- Reach scratchpad size in bytes (09 R245). -/
def spSize : Nat := 393216

/-- CLUSTER_BUF_SIZE of this part (09 R245). -/
def cbSize : Nat := 4194304

/-- IMEM_SIZE of this part (12 R339). -/
def imemSize : Nat := 16384

/-- RT_BANK_ELEMS of this part (12 R339). -/
def rtBankElems : Nat := 4096

/-- Bytes of stacked memory of one parcel (12 R336). -/
def smSize : Nat := 0x600000000

/-- A free natural number for each use; the step applies it to `State.free` (log 7): shallow counts (05 R150), the
scan that is or is not complete in time (05 R139), the discover delay. -/
opaque free : Nat → Nat

/-- AES-128-CMAC (RFC 4493, 13 R363): a function of the key and the bytes; the standard is not in the spec (log 8). -/
opaque cmac : BitVec 128 → List Byte → BitVec 128

/-- SHA-384 of a byte string, 48 bytes (14 R411); the standard is not in the spec (log 8). -/
opaque sha384 : List Byte → List Byte

/-- Whether an ECDSA P-384 signature (96 bytes) verifies over a digest under a public key (14 R411; log 8). -/
opaque ecdsaOk : (key digest signature : List Byte) → Bool

/-- The fused hash of the firmware key (14 R411; a fuse, left free, log 8). -/
opaque fusedKeyHash : List Byte

/-- The fused minimum security version (14 R411; a fuse, left free, log 8). -/
opaque fusedMinVersion : Nat

/-- The cc that the `n`-th back-invalidation snoop keeps an access waiting (12 R348, which bounds none; log 13). -/
opaque snoopWait : Nat → Nat

/-- The power drawn from the auxiliary supply, in mW, at an instant given in cycles since reset: a measurement (13 R385, log 11). -/
opaque auxPower : Nat → BitVec 16

end Sys2Proof.Config
end

