-- ==== Sys2Proof/Machine/Bits.lean ====
section
/-!
DEFINITION. Bit fields, byte order, rounding, the checksums, the random generator and binary32 arithmetic that the
chapters share (00 R7, R8; 03 R64; 04 R93, R102, R103; 11 R290; 14 R390).
-/

namespace Sys2Proof.Machine

/-- The field of `n` bits whose lowest bit is `lo` (R6). -/
def field (w lo n : Nat) : Nat := (w >>> lo) % 2 ^ n

/-- One bit of a word. -/
def bit (w i : Nat) : Bool := w.testBit i

/-- A Boolean as a bit value. -/
def b2n (b : Bool) : Nat := if b then 1 else 0

/-- The field of a fixed-width word. -/
def bvf {k : Nat} (w : BitVec k) (lo n : Nat) : Nat := field w.toNat lo n

/-- One bit of a fixed-width word. -/
def bvb {k : Nat} (w : BitVec k) (i : Nat) : Bool := w.toNat.testBit i

/-- `v`, cut to `n` bits, placed at bit `lo`. -/
def place (lo n v : Nat) : Nat := (v % 2 ^ n) <<< lo

/-- `w` with its field `[lo + n - 1 : lo]` replaced. -/
def putField {k : Nat} (w : BitVec k) (lo n v : Nat) : BitVec k :=
  (w &&& ~~~ (BitVec.ofNat k (place lo n (2 ^ n - 1)))) ||| BitVec.ofNat k (place lo n v)

/-- `w` with one bit replaced. -/
def putBit {k : Nat} (w : BitVec k) (i : Nat) (b : Bool) : BitVec k := putField w i 1 (b2n b)

/-- The two's complement value of the low `n` bits of `v` (R8). -/
def signed (n v : Nat) : Int :=
  let u := v % 2 ^ n
  if n = 0 then 0 else if 2 ^ (n - 1) ≤ u then (u : Int) - (2 : Int) ^ n else u

/-- The low `n` bits of an integer in two's complement. -/
def unsignedBits (n : Nat) (v : Int) : Nat := (v % ((2 : Int) ^ n)).toNat

/-- `v` as `n` little-endian bytes (R7). -/
def leBytes : Nat → Nat → List Byte
  | 0, _ => []
  | n + 1, v => BitVec.ofNat 8 v :: leBytes n (v / 256)

/-- The value of little-endian bytes (R7). -/
def leVal : List Byte → Nat
  | [] => 0
  | b :: bs => b.toNat + 256 * leVal bs

/-- Integer division rounded upwards. -/
def ceilDiv (a b : Nat) : Nat := if b = 0 then 0 else (a + b - 1) / b

/-- The nearest value of `[lo, hi]`. -/
def clampInt (lo hi x : Int) : Int := if x < lo then lo else if hi < x then hi else x

/-- Saturating addition at an `n`-bit limit. -/
def satAdd (n a b : Nat) : Nat := min (a + b) (2 ^ n - 1)

/-! ### Rounding (R64, R102) -/

/-- The nearest rounding of the exact rational `N/D`, ties to even (R102). -/
def rneRat (N : Int) (D : Nat) : Int :=
  let q := N / (D : Int)
  let r := N % (D : Int)
  if 2 * r > D ∨ (2 * r = D ∧ q % 2 = 1) then q + 1 else q

/-- `rne_shift` of R64; a shift of 0 is exact. -/
def rneShift (x : Int) (n : Nat) : Int := if n = 0 then x else rneRat x (2 ^ n)

/-- Stochastic rounding of `N/D` with the 32-bit draw `u` (R102). -/
def stochRat (N : Int) (D : Nat) (u : Nat) : Int :=
  let q := N / (D : Int)
  let r := N % (D : Int)
  let f32 := (r * 2 ^ 32) / (D : Int)
  if (u : Int) < f32 then q + 1 else q

/-! ### The xorshift generator (R103) -/

/-- A seed of zero is replaced by 1. -/
def xsSeed (x : Word) : Word := if x = 0 then 1 else x

/-- One advance of the generator. -/
def xsAdvance (x : Word) : Word :=
  let a := x ^^^ (x <<< 13)
  let b := a ^^^ (a >>> 7)
  b ^^^ (b <<< 17)

/-- The draw of a state: bits [63:32]. -/
def xsDraw (x : Word) : Nat := (x >>> 32).toNat

/-- `n` advances. -/
def xsIter : Nat → Word → Word
  | 0, x => x
  | n + 1, x => xsIter n (xsAdvance x)

/-! ### Checksums -/

/-- One bit step of the reflected CRC-32C register (R290). -/
def crc32cBit (c : BitVec 32) : BitVec 32 :=
  if c.getLsbD 0 then (c >>> 1) ^^^ 0x82F63B78#32 else c >>> 1

/-- `n` bit steps. -/
def crc32cBits : Nat → BitVec 32 → BitVec 32
  | 0, c => c
  | n + 1, c => crc32cBits n (crc32cBit c)

/-- CRC-32C over bytes (R290): Castagnoli polynomial, reflected, initial value and final XOR all ones. -/
def crc32c (bs : List Byte) : BitVec 32 :=
  (bs.foldl (fun c b => crc32cBits 8 (c ^^^ b.zeroExtend 32)) 0xFFFFFFFF#32) ^^^ 0xFFFFFFFF#32

/-- One bit step of the CRC-16 register (R390). -/
def crc16Bit (c : BitVec 16) : BitVec 16 :=
  if c.getLsbD 15 then (c <<< 1) ^^^ 0x1021#16 else c <<< 1

/-- `n` bit steps. -/
def crc16Bits : Nat → BitVec 16 → BitVec 16
  | 0, c => c
  | n + 1, c => crc16Bits n (crc16Bit c)

/-- CRC-16 of R390: polynomial 0x1021, initial value 0xFFFF, not reflected, no final XOR. -/
def crc16 (bs : List Byte) : BitVec 16 :=
  bs.foldl (fun c b => crc16Bits 8 (c ^^^ BitVec.ofNat 16 (b.toNat * 256))) 0xFFFF#16

/-! ### Binary32 (R91, R101) -/

/-- Number of binary digits of `n`. -/
def bitLen (n : Nat) : Nat := if n = 0 then 0 else n.log2 + 1

/-- A finite binary32 pattern as (negative, significand, exponent): its value is significand times 2^exponent. -/
def fp32Parts (b : Nat) : Bool × Nat × Int :=
  let e := field b 23 8
  let f := field b 0 23
  if e = 0 then (b.testBit 31, f, -149) else (b.testBit 31, 2 ^ 23 + f, (e : Int) - 150)

/-- Whether the pattern is infinite or not a number. -/
def fp32Special (b : Nat) : Bool := field b 23 8 == 255

/-- A factor that R101 refuses: zero, subnormal, infinite or not a number. -/
def fp32BadFactor (b : Nat) : Bool := field b 23 8 == 0 || fp32Special b

/-- The binary32 pattern nearest to (-1)^neg * m * 2^e, ties to even, subnormals kept (IEEE 754). -/
def fp32Round (neg : Bool) (m : Nat) (e : Int) : Nat :=
  let s := b2n neg * 2 ^ 31
  if m = 0 then s else
  let top : Int := (bitLen m : Int) + e
  -- exponent of the result's last place: 24 significant digits, not below -149
  let ulp : Int := max (top - 24) (-149)
  let sh : Int := ulp - e
  let q : Nat := if 0 < sh then (rneRat (m : Int) (2 ^ sh.toNat)).toNat else m * 2 ^ (-sh).toNat
  let (q, ulp) := if q = 2 ^ 24 then (2 ^ 23, ulp + 1) else (q, ulp)
  if q < 2 ^ 23 then s + q
  else
    let be : Int := ulp + 150
    if 255 ≤ be then s + 255 * 2 ^ 23 else s + be.toNat * 2 ^ 23 + (q - 2 ^ 23)

/-- The quiet pattern that an invalid operation gives (IEEE 754; its payload is the model's, log 16). -/
def fp32NaN : Nat := 0x7FC00000

/-- Binary32 multiplication. -/
def fp32Mul (a b : Nat) : Nat :=
  let (sa, ma, ea) := fp32Parts a
  let (sb, mb, eb) := fp32Parts b
  if fp32Special a || fp32Special b then
    let nan (x : Nat) := fp32Special x && field x 0 23 != 0
    if nan a || nan b || (!fp32Special a && ma == 0) || (!fp32Special b && mb == 0) then fp32NaN
    else b2n (sa != sb) * 2 ^ 31 + 255 * 2 ^ 23
  else fp32Round (sa != sb) (ma * mb) (ea + eb)

/-- Binary32 addition. -/
def fp32Add (a b : Nat) : Nat :=
  let (sa, ma, ea) := fp32Parts a
  let (sb, mb, eb) := fp32Parts b
  if fp32Special a || fp32Special b then
    let nan (x : Nat) := fp32Special x && field x 0 23 != 0
    if nan a || nan b || (fp32Special a && fp32Special b && sa != sb) then fp32NaN
    else if fp32Special a then a else b
  else
    let e := min ea eb
    let va : Int := (if sa then -1 else 1) * (ma * 2 ^ (ea - e).toNat : Nat)
    let vb : Int := (if sb then -1 else 1) * (mb * 2 ^ (eb - e).toNat : Nat)
    let v := va + vb
    let neg := if v = 0 then sa && sb else decide (v < 0)
    fp32Round neg v.natAbs e

/-- The binary32 pattern of `n * 2^-k`, rounded to nearest even. -/
def fp32OfScaled (n k : Nat) : Nat := fp32Round false n (-(k : Int))

/-! ### Bit strings (R93) -/

/-- The bits of a byte string, bit 0 of the first byte first. -/
def bitAt (bs : List Byte) (i : Nat) : Bool := (bs.getD (i / 8) 0).toNat.testBit (i % 8)

/-- Element `i` of a packed vector of `b`-bit codes (R93). -/
def unpackAt (bs : List Byte) (b i : Nat) : Nat := field (leVal bs) (i * b) b

/-- Pack `b`-bit codes (R93), as a number whose bit 0 is the first bit of the string. -/
def packNat (b : Nat) : List Nat → Nat
  | [] => 0
  | c :: cs => c % 2 ^ b + 2 ^ b * packNat b cs

/-- Pack `b`-bit codes into whole bytes, the unused bits of the last byte zero (R93). -/
def packBytes (b : Nat) (cs : List Nat) : List Byte := leBytes ((cs.length * b + 7) / 8) (packNat b cs)

end Sys2Proof.Machine
end

