-- ==== Sys2Proof/Machine/Sparse.lean ====
section
/-!
DEFINITION. Operations on sparse maps (`SMap`): keys strictly rising. `SMap.put` lists every value; `SMap.store`
drops an entry equal to the default, so that equal maps are equal lists.
-/

namespace Sys2Proof.Machine

/-- The listed value of a key. -/
def SMap.find {α : Type} : SMap α → Nat → Option α
  | [], _ => none
  | (j, v) :: m, k => if j = k then some v else if k < j then none else SMap.find m k

/-- The value of a key; `d` where it is not listed. -/
def SMap.get {α : Type} (d : α) (m : SMap α) (k : Nat) : α := (SMap.find m k).getD d

/-- Remove a key. -/
def SMap.erase {α : Type} : SMap α → Nat → SMap α
  | [], _ => []
  | (j, v) :: m, k => if j = k then m else if k < j then (j, v) :: m else (j, v) :: SMap.erase m k

/-- Set the value of a key. -/
def SMap.put {α : Type} : SMap α → Nat → α → SMap α
  | [], k, a => [(k, a)]
  | (j, v) :: m, k, a =>
    if j = k then (k, a) :: m else if k < j then (k, a) :: (j, v) :: m else (j, v) :: SMap.put m k a

/-- Set the value of a key, listing nothing for the default `d`. -/
def SMap.store {α : Type} [DecidableEq α] (d : α) (m : SMap α) (k : Nat) (a : α) : SMap α :=
  if a = d then SMap.erase m k else SMap.put m k a

/-- Change the value of a key. -/
def SMap.modify {α : Type} (d : α) (m : SMap α) (k : Nat) (f : α → α) : SMap α :=
  SMap.put m k (f (SMap.get d m k))

/-- Keys strictly rising. -/
def SMap.sorted {α : Type} : SMap α → Bool
  | [] => true
  | [_] => true
  | (j, _) :: (k, v) :: m => decide (j < k) && SMap.sorted ((k, v) :: m)

/-- A strictly rising list of numbers with `k` put in (a set). -/
def setInsert : List Nat → Nat → List Nat
  | [], k => [k]
  | j :: m, k => if j = k then j :: m else if k < j then k :: j :: m else j :: setInsert m k

/-- A set without `k`. -/
def setErase (m : List Nat) (k : Nat) : List Nat := m.filter (fun j => j != k)

/-- Replace the element at a position. -/
def listSet {α : Type} : List α → Nat → α → List α
  | [], _, _ => []
  | _ :: m, 0, a => a :: m
  | b :: m, n + 1, a => b :: listSet m n a

/-- Change the element at a position. -/
def listModify {α : Type} : List α → Nat → (α → α) → List α
  | [], _, _ => []
  | b :: m, 0, f => f b :: m
  | b :: m, n + 1, f => b :: listModify m n f

/-- Remove the element at a position. -/
def listRemove {α : Type} : List α → Nat → List α
  | [], _ => []
  | _ :: m, 0 => m
  | b :: m, n + 1 => b :: listRemove m n

/-! ### Byte memories: canonical lists of cells, an unlisted byte reads 0 -/

/-- The byte at an address. -/
def memByte (m : List (Nat × BitVec 8)) (a : Nat) : Byte := SMap.get 0 m a

/-- Write one byte, keeping the canonical form. -/
def memSet (m : List (Nat × BitVec 8)) (a : Nat) (b : Byte) : List (Nat × BitVec 8) := SMap.store 0 m a b

/-- Read `n` consecutive bytes. -/
def memRead (m : List (Nat × BitVec 8)) (a : Nat) : Nat → List Byte
  | 0 => []
  | n + 1 => memByte m a :: memRead m (a + 1) n

/-- Write consecutive bytes. -/
def memWrite (m : List (Nat × BitVec 8)) (a : Nat) : List Byte → List (Nat × BitVec 8)
  | [] => m
  | b :: bs => memWrite (memSet m a b) (a + 1) bs

/-- Clear an interval of `n` bytes from `a`. -/
def memClear (m : List (Nat × BitVec 8)) (a n : Nat) : List (Nat × BitVec 8) :=
  m.filter (fun c => c.1 < a || a + n ≤ c.1)

/-- The canonical form: addresses strictly rising, no byte equal to what an unlisted address reads as. -/
def memWf : List (Nat × BitVec 8) → Bool
  | [] => true
  | [c] => c.2 != 0
  | c :: d :: m => c.2 != 0 && decide (c.1 < d.1) && memWf (d :: m)

end Sys2Proof.Machine
end

