-- ==== Sys2Proof/Machine/State.lean ====
section
/-!
DEFINITION. The state of the package as plain data (INVENTORY.md lists every piece with its rule), the queue of
waiting commands, and the state after reset. A field's default is its reset value.
-/

namespace Sys2Proof.Machine

/-- A byte memory: canonical list of cells, an unlisted byte reads 0 (log 4). -/
abbrev Mem := List Host.Cell

/-- A stake: a datum count and a cc offset within that tick (R274). -/
structure Stake where
  count : Nat := 0
  off : Nat := 0
deriving DecidableEq, Repr

/-! ### Memories, and what can be wrong in their cells -/

/-- A byte memory of the package. -/
inductive Space where
  | sm (p : Nat)
  | cb (p c : Nat)
  | sp (p l : Nat)
  | imem (p l : Nat)
deriving DecidableEq, Repr

/-- The other protected memories of a reach (R401): pool entries, the words of the PROFILE, TRAVERSE and ACT_SEG tables, the
match unit, the scalar registers, and the plane files, plane buffers and chunk registers, which are protected by parity. -/
inductive WordMem where
  | pool | prof | trv | seg | assoc | regs | planes
deriving DecidableEq, Repr

/-- Where an upset stands. -/
inductive Site where
  | cells (k : Space)
  | words (p l : Nat) (m : WordMem)
deriving DecidableEq, Repr

/-- An error that stands in a unit of a memory and that no read has met yet (R350, R401, R403; log 101): one that the code
corrects, with the symbol, or one that it does not, hard or soft; in stacked memory also one that the code takes for another
word. -/
structure Upset where
  site : Site
  unit : Nat
  symbol : Nat := 0
  fatal : Bool := false
  hard : Bool := false
  wrong : Option (List Byte) := none    -- the data that a miscorrection delivers as good (R350)
  missed : Bool := false                -- and the code sees nothing at all
deriving DecidableEq, Repr

/-! ### Reach -/

/-- One pool entry: 36 bits and the overflow bit (R66). -/
structure PoolEntry where
  v : BitVec 36 := 0
  ovf : Bool := false
deriving DecidableEq, Repr

/-- The running statistics of one tile row (R77, R87): the maximum, and the sum as its 64 stored bits. -/
structure RowStat where
  mx : Int := -34359738368
  sum : Word := 0
deriving DecidableEq, Repr

/-- The accumulators of one calibration monitor (R111, R112). -/
structure CalAcc where
  count : Nat := 0
  clamps : Nat := 0
  sumSq : Nat := 0
  chCount : SMap Nat := []
  chSum : SMap Nat := []
deriving DecidableEq, Repr

/-- The fields of a SAT_GUARD or SAT_OUT record that an instruction gathers (R72). -/
structure SatRec where
  slot : Nat
  row : Nat
  col : Nat
  idx : Nat
  count : Nat
  low : Bool
  meaning : Nat
deriving DecidableEq, Repr

/-- The unit that executes an instruction (R170, R189). -/
inductive FuncUnit where
  | array | ratingTable | riffle | delta | reachDma | parcelDma | cascadePort | tally | sequencer
deriving DecidableEq, Repr

/-- An address interval of the scoreboard (R166): 0 scratchpad, 1 cluster buffer, 2 IMEM; both ends included. -/
structure Interval where
  space : Nat
  lo : Nat
  hi : Nat
deriving DecidableEq, Repr

/-- A read set or a write set (R166). -/
structure AccessSet where
  ivs : List Interval := []
  slots : BitVec 32 := 0
  scalars : BitVec 32 := 0
  tables : BitVec 8 := 0
deriving DecidableEq, Repr

/-- What an issued instruction took at issue (R54, R158): its address, its word, the scalars, its profile and its
traverse. -/
structure Job where
  pc : BitVec 32 := 0
  word : BitVec 128 := 0
  sc : SMap Word := []
  prof : BitVec 256 := 0
  trv : BitVec 1024 := 0
deriving DecidableEq, Repr

/-- What an issued instruction still waits for before it runs or ends. -/
inductive Await where
  | none
  | stake (st : Stake)        -- released by STAK ARM (R183)
  | msgId                     -- a free message identifier (R319)
  | build                     -- a rating-table build waiting to start (R121)
  | cascadeIn                 -- a cascade sum from the predecessor (R80, R325)
  | readyToken                -- a READY token of the successor (R325)
  | adds (n : Nat)            -- confluence adds not yet accepted or refused (R181, R324)
  | turn                      -- an older instruction of the same DMA queue that has not started (R189)
deriving DecidableEq, Repr

/-- What a sampling record takes at issue (R450). -/
structure SampleTag where
  count : Nat
  off : Nat
  headCc : Nat
  cyc : Nat
  addr : Word
  clock : Nat
deriving DecidableEq, Repr

/-- How the slices of the array follow each other (R52), in cycles of the run of R55: the start and the end of the last
slice, and the end of the last fill. -/
structure ArrayLine where
  st : Nat := 0
  et : Nat := 0
  fe : Nat := 0
deriving DecidableEq, Repr

/-- What stood before one piece, chunk, row or vector of an instruction in flight (R280): the bytes that it replaced, the pool
with its mode tags, the row statistics and monitors, and the two records gathered so far. -/
structure Undo where
  bytes : List (Space × Host.Cell) := []
  pool : Option (SMap PoolEntry × BitVec 32) := none
  rows : Option (SMap RowStat × SMap CalAcc) := none
  guard : Option SatRec := none
  out : Option SatRec := none
deriving DecidableEq, Repr

/-- One instruction in flight. `undo` lists its pieces in the order in which they were written. -/
structure Flight where
  no : Nat
  job : Job
  unit : FuncUnit
  status : Nat := 0
  wait : Await := .none
  guard : Option SatRec := none
  out : Option SatRec := none
  rd : AccessSet := {}
  wr : AccessSet := {}
  inStep : Bool := false
  rtGen : Option Nat := none
  tag : Option SampleTag := none
  undo : List Undo := []
  sent : Nat := 0                   -- outputs of a CONF that have certainly been sent (R280)
deriving DecidableEq, Repr

/-- What the instruction at the head of issue waits for. -/
inductive Wait where
  | none
  | stake (st : Stake) (isStep : Bool)     -- STAK WAIT or STEP held for its stake (R183)
  | unset                                  -- STAK ARM held while the datum is UNSET (R270)
  | fence                                  -- a FENC in flight (R184)
  | syncLocal                              -- SYNC local (R185)
  | clusterBar (k : Nat)                   -- SYNC at a cluster barrier
  | parcelBar (k : Nat)                    -- SYNC at a parcel barrier
  | look                                   -- MATL look on an incomplete generation (R121)
  | scan                                   -- the scan of R280
deriving DecidableEq, Repr

/-- An open sealed step (R277). -/
structure OpenStep where
  opening : Stake
  closing : Stake
  abort : Bool
  alw : Nat
  rate : Nat
  stretched : Bool := false
  late : Bool := false              -- restored after its closing stake had passed (R194)
deriving DecidableEq, Repr

/-- Task and issue state of a reach (R156, R159, R162). -/
structure Task where
  run : Bool := false
  strict : Bool := false
  fault : Bool := false
  halt : Bool := false
  stopFault : Bool := false         -- issue has stopped on a stopping event; the task stops once nothing is in flight
  stopHalt : Bool := false          -- issue has stopped on a HALT
  retired : Bool := false
  failing : Bool := false
  failHard : Bool := false
  resetting : Bool := false
  pc : BitVec 32 := 0
  faultWord : BitVec 128 := 0
  faultNo : Option Nat := none
  imgMask : BitVec 4 := 0
  imgOp : BitVec 2 := 0
  imgBusy : Bool := false
  imgAddr : BitVec 27 := 0
  overruns : BitVec 16 := 0
  lastStretch : BitVec 32 := 0
  step : Option OpenStep := none
  left : Option Stake := none
  atOnce : Bool := false
  wait : Wait := .none
  arm : Option Stake := none
  drain : Bool := false             -- issue held after a lock switch-over until nothing is in flight (R412)
  issueNo : Nat := 0
  headCc : Nat := 0
  sampleCd : Nat := 0
  ceCount : Nat := 0
deriving DecidableEq, Repr

/-- One reach (R26). -/
structure Reach where
  task : Task := {}
  spWin : Word := 0x6000000000000#64        -- base 0, size 0x6000 at bit 36 (R257)
  cbWin : Word := 0x40000000000000#64       -- base 0, size 0x4_0000 at bit 36 (R257)
  fuse : Word := 0
  swz : SMap Word := []
  prof : SMap (BitVec 256) := []
  profStage : SMap Word := []
  trv : SMap (BitVec 1024) := []
  trvStage : SMap Word := []
  actSeg : SMap Word := []
  calCfg : SMap Word := []
  calWin : SMap Word := []
  calAcc : SMap CalAcc := []
  calSnap : SMap CalAcc := []
  calWall : SMap Nat := []               -- the boundary of the last close of each monitor
  calUse : SMap (Word × Word) := []      -- CAL_CFG and CAL_WIN as they stood at the last close (R112)
  s : SMap Word := []
  pool : SMap PoolEntry := []
  paired : BitVec 32 := 0
  stats : SMap RowStat := []
  spad : Mem := []
  spPoison : List Nat := []
  imem : Mem := []
  imemPoison : List Nat := []
  ruined : List (WordMem × Nat) := []    -- poisoned words of the other memories (R401)
  cnt : SMap Word := []
  cntOld : SMap Word := []               -- the counters before this cc, and what this cc has counted (R440)
  cntInc : SMap Nat := []
  snap : SMap Word := []
  flights : List Flight := []
  latch : SMap Nat := []
  line : ArrayLine := {}
deriving DecidableEq, Repr

/-! ### Cluster -/

/-- A barrier register and the reaches that wait at it (R185). -/
structure Barrier where
  members : BitVec 8 := 0
  arrived : BitVec 8 := 0
  round : Bool := false
  waiting : List Nat := []
deriving DecidableEq, Repr

/-- A rating-table bank (R119, R121): its generation, grid, extent, entries, and whether it is built or failed. -/
structure RtBank where
  gen : BitVec 16 := 0
  live : Bool := false
  complete : Bool := false
  failed : Bool := false
  e : Nat := 0
  wc : Nat := 0
  grid : List Int := []
  table : List (List Int) := []
deriving DecidableEq, Repr

/-- An access that waits: a register write until the instructions that read the register complete (R96, R108, R214), any
access to a reach that is being reset (R161), and the host's accesses to the same function behind one that waits (R359). -/
inductive Held where
  | reg (rq : Requester) (addr : RegAddr) (size : Nat) (value : Word)
  | read (rq : Requester) (addr : RegAddr) (size : Nat)
  | mem (off : Nat) (acc : MemAccess) (err : CellError)
  | dbg (off : Nat) (acc : MemAccess)
deriving DecidableEq, Repr

/-- One cluster (R26). -/
structure Cluster where
  buf : Mem := []
  poison : List Nat := []
  rtGen : BitVec 16 := 0
  bank0 : RtBank := {}
  bank1 : RtBank := {}
  tally : SMap Word := []
  bar : SMap Barrier := []
  cbCfg : SMap Word := []
  cbLvl : SMap Word := []
  cnt : SMap Word := []
  cntOld : SMap Word := []
  cntInc : SMap Nat := []
  snap : SMap Word := []
  reachMap : SMap Nat := []        -- a logical reach not listed sits at its own position (log 5)
  spare : Nat := 8                 -- physical position of the spare; 0xFF once used (R404)
  hardUnits : List Nat := []       -- units with a hard fault that training has not repaired (R403, R409)
  spareRows : Nat := 64            -- spare rows left (R409)
deriving DecidableEq, Repr

/-! ### Links -/

/-- Link states (R298). -/
inductive LinkState where
  | off | detect | train | align | negotiate | up | hold
deriving DecidableEq, Repr

/-- A control record waiting to be sent (R293). -/
inductive Ctl where
  | neg
  | fault (r : FaultRec)
  | map (first last : BitVec 14) (marks : List (BitVec 14 × Fin 3))
  | ready (tag : BitVec 16)
  | ver (vmax vmin : BitVec 4)
deriving DecidableEq, Repr

/-- One link engine and its registers (R294 to R303). -/
structure Link where
  en : Bool := true
  state : LinkState := .off
  ver : BitVec 4 := 0
  peer : BitVec 14 := 0
  pport : BitVec 3 := 0
  lat : BitVec 16 := 0
  reason : BitVec 8 := 0
  downs : BitVec 8 := 0
  wiringSaid : Bool := false
  txSeq : BitVec 12 := 1
  rxNext : BitVec 12 := 1
  retry : List Flit := []
  resend : List Flit := []
  resends : Nat := 0
  nakOwed : Bool := false
  gapSeen : Bool := false
  credits : SMap Nat := []
  owed : SMap Nat := []
  ctl : List Ctl := []
  data : SMap (List Flit) := []
  lastVc : Nat := 7
  midVc : Option Nat := none
  idleDue : Bool := false
  idleSeen : Bool := false
  missed : Nat := 0
  peerMax : BitVec 4 := 0
  peerMin : BitVec 4 := 0
  verSent : Bool := false
  verOut : Bool := false            -- the own VER has left (R308)
  verGot : Bool := false            -- the partner's VER has come
  negDue : Nat := 0                 -- wall time from which the next NEG may leave (R299)
  negGot : Option (Nat × Nat) := none   -- the last NEG received: its own time, and when it came (R300)
  negSent : Option Neg := none      -- the last NEG sent
  frame : Nat := 0                  -- number of the frame being sent, and flits of it that have left (R288)
  inFrame : Nat := 0
  frameWord : BitVec 40 := 0        -- the last frame word sent
  verTicks : Option Nat := none
  verNew : BitVec 4 := 0
  rx : SMap (List Byte) := []
  tokens : List (BitVec 16) := []
  sent : Option Flit := none
  srcRoot : BitVec 14 := 0
  srcHops : BitVec 6 := 63
  srcTick : BitVec 3 := 0
  srcCount : Nat := 0
  srcOff : Nat := 0
  srcWall : Nat := 0
deriving DecidableEq, Repr

/-! ### Parcel -/

/-- Package and parcel states with the encodings of R376. -/
inductive PState where
  | off | identify | train | configure | ready | run | quiesce | contain
deriving DecidableEq, Repr

/-- One confluence add on its way (R84): word address, width, value, and where its answer goes. -/
structure ConfAdd where
  addr : Nat
  wide : Bool
  value : Int
  dev : BitVec 14
  parcel : Nat
  reach : Nat
  flight : Nat
  rowId : Option (BitVec 16) := none
  col : Nat := 0                    -- its column in the row, or its number among the outputs of its CONF
  arrived : Nat := 0                -- wall time of its arrival (R84)
  via : Nat := 0                    -- the unit that brought a row of another device (R389)
deriving DecidableEq, Repr

/-- A cascade sum between two reaches (R80). -/
structure CascadeSum where
  dest : Nat
  first : Nat
  last : Nat
  tag : BitVec 16
  paired : Bool
  hop : Nat
  vals : List (Int × Bool)
deriving DecidableEq, Repr

/-- A message or confluence row without an answer (R319, R324). -/
structure Outstanding where
  id : BitVec 16
  chan : Nat
  count : Nat
  reach : Nat
  flight : Nat
  adds : Nat
deriving DecidableEq, Repr

/-- The answers gathered for a confluence row of another device (R324). -/
structure RowAnswer where
  src : BitVec 14
  id : BitVec 16
  left : Nat
  mask : BitVec 16
deriving DecidableEq, Repr

/-- Fabric and messages of a parcel (R312 to R325). -/
structure Fabric where
  linkMax : BitVec 4 := 1
  linkMin : BitVec 4 := 1
  pkt : BitVec 4 := 1
  down : List (Nat × Nat) := []         -- marked links: (device, dimension)
  lastFault : SMap (BitVec 8) := []     -- last FAULT sequence number per origin
  chan : SMap (BitVec 128) := []
  rxWin : SMap (BitVec 128) := []
  nextId : BitVec 16 := 0
  idLast : SMap Nat := []
  msgs : List Outstanding := []
  rows : List Outstanding := []
  rowAnswers : List RowAnswer := []
  genRec : SMap (BitVec 4) := []
  inbox : List (BitVec 3 × Packet) := []     -- received packets with the channel they came on
  routes : SMap (Bool × BitVec 14 × BitVec 3 × BitVec 3) := []
deriving DecidableEq, Repr

/-- A sampling record waiting to be written (R450): the cc in which it fell due, its reach, its bytes. -/
structure SampleDue where
  cyc : Nat
  reach : Nat
  bytes : List Byte
deriving DecidableEq, Repr

/-- Interrupt and monitor registers of a parcel (R345, R353, R445 to R450). -/
structure Monitors where
  intStat : BitVec 4 := 0
  intEn : BitVec 4 := 0
  intBar : BitVec 16 := 0
  intWin : Word := 0
  ce : BitVec 32 := 0
  ue : BitVec 16 := 0
  freezeAsked : Bool := false
  frozen : Bool := false
  snapAsked : Bool := false
  snapDue : Bool := false           -- asked before the boundary that the package stands at (R446)
  snapWall : Option Nat := none     -- the boundary of the last snapshot
  snapDone : Bool := false
  snapSeq : BitVec 32 := 0
  snapCount : Nat := 0
  snapClock : Nat := 0
  snapFrozen : Bool := false
  cnt : SMap Word := []
  cntOld : SMap Word := []
  cntInc : SMap Nat := []
  snap : SMap Word := []
  bwCfg : Word := 0x400
  bwNext : Option Word := none
  bwAcc : SMap Nat := []
  bwInc : SMap Nat := []            -- the bytes among them that moved in this cc (R448)
  bwWall : Option Nat := none       -- the boundary of the last close
  bwPort : SMap (BitVec 128) := []
  smpCfg : Word := 0
  smpNext : BitVec 10 := 0
  smpFull : Bool := false
  smpWritten : BitVec 32 := 0
  smpDropped : BitVec 16 := 0
  smpQueue : List SampleDue := []
  smpCyc : Option Nat := none       -- the cc of the last record written (R450)
  smpBuf : SMap (BitVec 512) := []
  skewCfg : Word := 0x2000400#64        -- window 0x400, thr 0x20 (R242)
  skewNext : Option Word := none
  skewWall : Option Nat := none
  skewAcc : SMap Nat := []
deriving DecidableEq, Repr

/-- Channel-hash key registers (R243, R244). -/
structure ChanKeys where
  key : BitVec 32 := 0
  keyNext : BitVec 32 := 0
  latched : BitVec 32 := 0
  arm : Bool := false
  busy : Bool := false
  done : Bool := false
  mark : BitVec 18 := 0
  tick : Word := 0
deriving DecidableEq, Repr

/-- Power and thermal state of a parcel (R423 to R437). Clock settings are encoded as in R284 (9 is 1.5 GHz). -/
structure Power where
  weight : BitVec 8 := 0x10
  floor : BitVec 8 := 0x28
  fMin : BitVec 4 := 0
  weightNew : BitVec 8 := 0x10
  floorNew : BitVec 8 := 0x28
  fMinNew : BitVec 4 := 0
  sched : Nat := 9
  pwrCap : Nat := 9
  thermCap : Nat := 9
  now : Nat := 9
  capWait : Bool := false           -- a requested power cap waits for its boundary (R428)
  ticks : List Nat := []
  sinceCap : Option Nat := none     -- ticks since a lowered power cap was applied
  heldPower : Bool := false
  heldHeat : Bool := false
  hotTicks : Nat := 0
  coolTicks : Nat := 0
  sinceLower : Option Nat := none
  overTicks : Nat := 0
  sensors : SMap Int := []
  thrLevel : SMap Nat := []
  thrSince : SMap Nat := []
  thrCool : SMap Nat := []
deriving DecidableEq, Repr

/-- One parcel (R26). -/
structure Parcel where
  state : PState := .off
  containCause : BitVec 16 := 0
  gen : BitVec 4 := 0
  mem : Mem := []
  poison : List Nat := []
  reaches : SMap Reach := []
  clusters : SMap Cluster := []
  region : SMap Word := []
  adds : List ConfAdd := []
  sums : List CascadeSum := []
  bar : SMap Barrier := []
  keys : ChanKeys := {}
  links : SMap Link := []
  wasReady : Bool := false
  fab : Fabric := {}
  mon : Monitors := {}
  pwr : Power := {}
  bank : Bool := false
  bankNew : Option Bool := none
  held : List Held := []
  latch : SMap Nat := []
  cyc : Nat := 0
deriving DecidableEq, Repr

/-! ### Hub -/

/-- Datum states (R269). -/
inductive DatumState where
  | unset | cabled | inband | root | holdover | freerun
deriving DecidableEq, Repr

/-- A correction waiting for the next tick boundary (R273). -/
inductive Jump where
  | ahead (target : Nat)
  | behind (j : Nat)
deriving DecidableEq, Repr

/-- The datum (R261 to R273). -/
structure Datum where
  src : BitVec 2 := 2
  tick : BitVec 3 := 2
  tickNew : Option (BitVec 3) := none
  root : Bool := false
  delay : BitVec 16 := 0
  load : Word := 0
  armed : Bool := false
  count : Nat := 0
  state : DatumState := .unset
  hops : BitVec 6 := 63
  srcport : BitVec 6 := 0
  miss : BitVec 8 := 0
  phaseErr : BitVec 16 := 0
  qualified : Bool := false
  seen : Bool := false                 -- a pulse since the last epoch boundary (R271)
  missedLast : Bool := false           -- the last epoch boundary had no pulse (R271)
  lostAt : Nat := 0                    -- count at which the reference or source was lost (R286)
  lostSrc : Nat := 255                 -- what was lost: parcel * 8 + link, or 255 for the cabled reference
  jump : Option Jump := none
  gated : Option Nat := none
  skipped : List (Nat × Nat) := []     -- ranges of counts that forward jumps skipped (R273, R275)
deriving DecidableEq, Repr

/-- One event waiting for the arbiter (R390, R394). -/
structure Event where
  count : Nat
  off : Nat
  code : Nat
  source : Nat
  payload : List Byte
deriving DecidableEq, Repr

/-- A flood counter (R394). -/
structure Flood where
  code : Nat
  count : Nat
  off : Nat
  lastCount : Nat
  lastOff : Nat
  held : Nat
  mixed : Bool
deriving DecidableEq, Repr

/-- The field book and its arbiter (R388 to R400). -/
structure Book where
  slots : SMap Event := []
  floods : SMap Flood := []
  lastSrc : Nat := 65535
  writing : Option Nat := none      -- the source whose record is being written (R393)
  copyA : SMap (BitVec 512) := []
  copyB : SMap (BitVec 512) := []
  failA : Bool := false
  failB : Bool := false
  lgMode : Bool := false
  seq : BitVec 32 := 0
  written : BitVec 32 := 0
  lgLost : BitVec 16 := 0
  unsent : List (BitVec 512) := []     -- records whose notice waits for the surveyor (R413), oldest first
  lgUnsent : List (BitVec 512) := []   -- records of the last-gasp file whose notice waits for it (R397), oldest first
  lastGasp : List (BitVec 512) := []
  lastGaspNv : List (BitVec 512) := []
  notice : BitVec 16 := 0x0280
  classAt : SMap Nat := []         -- wall time of the last notice of each class
deriving DecidableEq, Repr

/-- The stay monitor (R415 to R419). -/
structure Stay where
  state : BitVec 2 := 0
  a : Bool := false
  b : Bool := false
  timer : Bool := false
  firstB : Bool := false
  dtime : BitVec 16 := 20
  inUse : BitVec 16 := 20
  shorts : BitVec 32 := 0
  since : Nat := 0                  -- wall time at which the timer started
  quiesce : Bool := false           -- a stay quiesce is ordered
  due : Bool := false               -- and its stay stake has come (R417)
deriving DecidableEq, Repr

/-- Package power (R423 to R437). -/
structure PkgPower where
  limit : BitVec 11 := 0x708
  limitNew : Option (BitVec 11) := none
  state : BitVec 2 := 0
  ticks : Nat := 0
  start : Nat := 0
  peak : Nat := 0
  asked : Bool := false             -- a drop request since the start of the spate (R428)
  drop32 : Bool := false            -- the request at 32 ms has been made
  cut40 : Bool := false             -- the cut-short at 40 ms has been made
  hist : List Nat := []
  vinMv : Nat := 0
  hubSensors : SMap Int := []
  thermtrip : Bool := false
  hotAt : Nat := 0                  -- wall time of the last sample at or above 105.0 degrees (R469)
deriving DecidableEq, Repr

/-- One hub DMA channel (R354). -/
structure Dma where
  host : Word := 0
  sys : Word := 0
  tick : Word := 0
  len : BitVec 32 := 0
  dir : Bool := false
  arm : Bool := false
  busy : Bool := false
  done : Bool := false
  status : BitVec 3 := 0
  barEn : Bool := false
  bar : BitVec 4 := 0
  taken : Word := 0                 -- word 2 as the running transfer took it
deriving DecidableEq, Repr

/-- The last completion that the host saw (R334, R335, R352). -/
inductive HostReply where
  | none
  | data (bytes : List Byte) (poisoned : Bool)
  | unsupported
  | abort
  | retry                               -- Configuration Request Retry Status (R466)
deriving DecidableEq, Repr

/-- The host port (R331 to R348, R462 to R466). -/
structure HostPort where
  linkUp : Bool := false
  success : Bool := false
  bars : SMap Word := []                -- addresses of the windows, by function * 3 + window (R332, R463)
  reply : HostReply := .none
  intStat : BitVec 4 := 0
  intEn : BitVec 4 := 0
  fnMask : BitVec 9 := 0
  vecMask : SMap Bool := []
  vecPend : SMap Bool := []
  sent : List (Nat × Nat) := []         -- MSI-X messages sent: (function, vector)
  dma : SMap Dma := []
  hostMem : Mem := []
  snoop : SMap (List Nat) := []         -- per parcel, lines in the snoop filter, oldest first
  backInv : Nat := 0
  latch : SMap Nat := []
deriving DecidableEq, Repr

/-- A segmented write being staged (R365): its requester, known by its role, its entry, its bytes, and the wall time of
its last segment. -/
structure Staged where
  who : Byte
  index : BitVec 16
  sub : Byte
  bytes : List Byte
  seen : Nat
deriving DecidableEq, Repr

/-- A staged STAKE_SCHED value of a requester (R382). -/
structure SchedStage where
  who : Byte
  k : Nat
  sub : Nat
  value : Nat
deriving DecidableEq, Repr

/-- What the controller saw of the last I3C private read (R367). -/
inductive I3cReply where
  | none
  | nack
  | data (m : Msg)
deriving DecidableEq, Repr

/-- The surveyor, the chain and the dictionary's own storage (R361 to R387). -/
structure Dict where
  boot : Byte := 0
  key1 : BitVec 128 := 0
  key2 : BitVec 128 := 1               -- service key, a fuse (log 5)
  key3 : BitVec 128 := 0
  seq1 : BitVec 32 := 0
  seq2 : BitVec 32 := 0
  seq3 : BitVec 32 := 0
  cache1 : Option Msg := none
  cache2 : Option Msg := none
  cache3 : Option Msg := none
  macA : BitVec 48 := 0
  macB : BitVec 48 := 0
  plcaA : Byte := 0xFF
  plcaB : Byte := 0xFF
  nodesA : Byte := 8
  nodesB : Byte := 8
  phyA : Bool := false
  phyB : Bool := false
  i3cId : BitVec 48 := 0
  i3cAddr : BitVec 7 := 0
  ibiEn : Bool := true
  i3cOut : List Msg := []
  ibis : List Byte := []               -- In-Band Interrupts raised, by their mandatory byte (R367)
  i3cLast : I3cReply := .none          -- the last private read (R367)
  chainOut : List (Path × Msg) := []   -- answers and notices sent, newest first
  held : List (Path × Msg) := []       -- requests held during a surveyor restart
  discover : List (Path × Msg) := []   -- discovers without their answer, oldest first
  staged : List Staged := []
  schedStage : List SchedStage := []
  snapLatch : SMap (List Byte) := []     -- snapshot images by role * 8 + parcel (R447)
  grant : Bool := false
  snaps : BitVec 32 := 0
  snapWall : Option Nat := none
  serial : Word := 0
  dieSerial : SMap Word := []
  stepping : BitVec 32 := 0xB0
  shallow : SMap (BitVec 32) := []
  sparings : SMap Nat := []
deriving DecidableEq, Repr

/-- One firmware bank (R410, R411). -/
structure Bank where
  image : List Byte := []
  verified : Bool := false
  version : List Byte := []
  measure : List Byte := []
  vmax : BitVec 4 := 1
  vmin : BitVec 4 := 1
deriving DecidableEq, Repr

/-- Firmware and the lock (R410 to R413). -/
structure Firmware where
  bank0 : Bank := { verified := true }
  bank1 : Bank := {}
  prefer : Bool := false
  result : Byte := 0
  surveyor : Bool := false
  restarting : Bool := false
deriving DecidableEq, Repr

/-- The test access port (R468). -/
structure Tap where
  ir : BitVec 4 := 15
  cells : List Bool := []
  captured : List Bool := []
  driven : Bool := false
  highz : Bool := false
  pulse : Bool := false
  train : Bool := false
deriving DecidableEq, Repr

/-- Supplies and reset lands (R462 to R467); `true` means asserted for the two resets. -/
structure Lands where
  auxGood : Bool := false
  vinOk : Bool := false
  scope : Bool := false
  resetN : Bool := true
  perstN : Bool := true
deriving DecidableEq, Repr

/-- The hub die. -/
structure Hub where
  state : PState := .off
  sched : SMap (BitVec 128) := []
  torus : Word := 0x800000000#64         -- expiry 0x08 (R309)
  pwr : PkgPower := {}
  port : HostPort := {}
  dict : Dict := {}
  fw : Firmware := {}
  tap : Tap := {}
  lands : Lands := {}
deriving DecidableEq, Repr

/-- A bit that clears by a written 1, set by the hardware (R14). The `again` forms: the bit stood already. -/
inductive HwBit where
  | int (p n : Nat)
  | intAgain (p n : Nat)
  | hubInt (n : Nat)
  | hubIntAgain (n : Nat)
  | sat (p k : Nat)
  | drift (p l m : Nat)
  | fault (p l : Nat)
  | halt (p l : Nat)
  | rotated (p : Nat)
  | dmaDone (c : Nat)
  | snapDone (p : Nat)
deriving DecidableEq, Repr

/-- A write of a DMA engine to stacked memory that is posted and not yet visible (R356): its memory, who wrote, through which
unit, and the bytes. -/
structure Posted where
  p : Nat
  writer : Nat
  unit : FuncUnit
  cells : List Host.Cell
  fenced : Bool := false            -- a FENC.rel of the writer stands behind it (R357)
deriving DecidableEq, Repr

/-- The state of the package. `pending` is the queue of waiting commands, first in first out; `free` counts the
free values taken (log 7); `phase` and `wall` count cycles of 1.5 GHz within the tick and since reset (log 3). -/
structure State where
  parcels : SMap Parcel := []
  datum : Datum := {}
  book : Book := {}
  stay : Stay := {}
  hub : Hub := {}
  phase : Nat := 0
  wall : Nat := 0
  free : Nat := 0
  hwSet : List HwBit := []          -- the bits that the hardware has set in this cycle (R14)
  upsets : List Upset := []         -- errors standing in memory cells (log 101)
  posted : List Posted := []        -- writes not yet visible, oldest first (R356)
  pending : List Instr := []
deriving DecidableEq, Repr

/-- Why a step faults. -/
inductive Fault where
  /-- Raised by `execIdleFlitRx` and `execDataFlitRx` on a flit whose payload is not 244 bytes (R290), and by
  `execGovernorTick` on a list of other than eight powers: operands that no event of the part has. Safe: no claim about a
  next state follows. -/
  | illFormed (what : String)
deriving DecidableEq, Repr

/-- Why a step is refused. -/
inductive Refusal where
  /-- The command has no meaning in the model yet; raised by `exec`'s arms only. Safe. -/
  | notModelled (mnemonic : String)
deriving DecidableEq, Repr

/-- The package without any supply, before AUX33 rises: every register at its reset value (log 10). -/
def State.reset : State := {}

end Sys2Proof.Machine
end

