-- ==== Sys2Proof/Machine/Ops.lean ====
section
/-!
DEFINITION. The named operations that the meanings share: reaching a parcel, cluster, reach or link; time and stakes
(10 R262, R274); raising an event (14 R389 to R394); interrupts (12 R347); counters (16 R439); stopping a task
(06 R160, R164); memory with poison (12 R352, 14 R401).
-/

/-- The errors that have come to stand in memory cells by an instant, given in cycles since reset: which cells fail, and when,
is left open (12 R350, 14 R401; log 101). -/
opaque Sys2Proof.Config.upsets : Nat → List Sys2Proof.Machine.Upset

namespace Sys2Proof.Machine

/-- The outcome of a command. -/
abbrev Out := Host.Outcome State Fault Refusal

/-! ### Reaching the parts of the state -/

/-- Parcel `p`. -/
def State.parcel (s : State) (p : Nat) : Parcel := SMap.get {} s.parcels p

/-- Replace parcel `p`. -/
def State.setParcel (s : State) (p : Nat) (x : Parcel) : State :=
  { s with parcels := SMap.put s.parcels p x }

/-- Change parcel `p`. -/
def State.updParcel (s : State) (p : Nat) (f : Parcel → Parcel) : State := s.setParcel p (f (s.parcel p))

/-- Logical reach `l` of parcel `p`. -/
def State.reach (s : State) (p l : Nat) : Reach := SMap.get {} (s.parcel p).reaches l

/-- Replace reach `l` of parcel `p`. -/
def State.setReach (s : State) (p l : Nat) (r : Reach) : State :=
  s.updParcel p (fun x => { x with reaches := SMap.put x.reaches l r })

/-- Change reach `l` of parcel `p`. -/
def State.updReach (s : State) (p l : Nat) (f : Reach → Reach) : State := s.setReach p l (f (s.reach p l))

/-- Change the task state of a reach. -/
def State.updTask (s : State) (p l : Nat) (f : Task → Task) : State :=
  s.updReach p l (fun r => { r with task := f r.task })

/-- Cluster `c` of parcel `p`. -/
def State.cluster (s : State) (p c : Nat) : Cluster := SMap.get {} (s.parcel p).clusters c

/-- Replace cluster `c` of parcel `p`. -/
def State.setCluster (s : State) (p c : Nat) (x : Cluster) : State :=
  s.updParcel p (fun y => { y with clusters := SMap.put y.clusters c x })

/-- Change cluster `c` of parcel `p`. -/
def State.updCluster (s : State) (p c : Nat) (f : Cluster → Cluster) : State := s.setCluster p c (f (s.cluster p c))

/-- The cluster of a logical reach (R25). -/
def clusterOf (l : Nat) : Nat := l / 8

/-- The number of a port (R298, R328): 0 to 5 river links, 8 to 10 UCIe. -/
def portNo : Port → Nat
  | .xp => 0 | .xn => 1 | .yp => 2 | .yn => 3 | .zp => 4 | .zn => 5
  | .ringPlus => 8 | .ringMinus => 9 | .hubPort => 10

/-- Whether a port is a river link. -/
def isRiver (q : Port) : Bool := portNo q < 6

/-- Link `q` of parcel `p`. -/
def State.link (s : State) (p : Nat) (q : Port) : Link := SMap.get {} (s.parcel p).links (portNo q)

/-- Change link `q` of parcel `p`. -/
def State.updLink (s : State) (p : Nat) (q : Port) (f : Link → Link) : State :=
  s.updParcel p (fun x => { x with links := SMap.put x.links (portNo q) (f (SMap.get {} x.links (portNo q))) })

/-- Change the monitors of parcel `p`. -/
def State.updMon (s : State) (p : Nat) (f : Monitors → Monitors) : State :=
  s.updParcel p (fun x => { x with mon := f x.mon })

/-- Change the fabric of parcel `p`. -/
def State.updFab (s : State) (p : Nat) (f : Fabric → Fabric) : State :=
  s.updParcel p (fun x => { x with fab := f x.fab })

/-- Change the power state of parcel `p`. -/
def State.updPwr (s : State) (p : Nat) (f : Power → Power) : State :=
  s.updParcel p (fun x => { x with pwr := f x.pwr })

/-- Change the datum. -/
def State.updDatum (s : State) (f : Datum → Datum) : State := { s with datum := f s.datum }

/-- Change the hub. -/
def State.updHub (s : State) (f : Hub → Hub) : State := { s with hub := f s.hub }

/-- Change the host port. -/
def State.updPort (s : State) (f : HostPort → HostPort) : State :=
  s.updHub (fun h => { h with port := f h.port })

/-- Change the dictionary storage. -/
def State.updDict (s : State) (f : Dict → Dict) : State := s.updHub (fun h => { h with dict := f h.dict })

/-- Change the package power state. -/
def State.updPkgPwr (s : State) (f : PkgPower → PkgPower) : State :=
  s.updHub (fun h => { h with pwr := f h.pwr })

/-- Apply `f` for every parcel number. -/
def forParcels (s : State) (f : State → Nat → State) : State := (List.range 8).foldl f s

/-- Apply `f` for every reach number. -/
def forReaches (s : State) (f : State → Nat → State) : State := (List.range 128).foldl f s

/-! ### Time and stakes -/

/-- Cycles per tick of clock setting `clk` (0 is 0.6 GHz) at tick setting `tick` (R262). -/
def ncOf (clk tick : Nat) : Nat := (6 + clk) * 256 * 2 ^ tick / 10

/-- Cycles per tick of parcel `p` at the current settings. -/
def State.nc (s : State) (p : Nat) : Nat := ncOf (s.parcel p).pwr.now s.datum.tick.toNat

/-- Cycles of 1.5 GHz per tick: the range of `phase` (log 3). -/
def State.nMax (s : State) : Nat := ncOf 9 s.datum.tick.toNat

/-- The cc offset within the tick in the clock domain of parcel `p`: 0 while UNSET (R270), the last cc of the tick
while the clocks are gated (R273). -/
def State.offset (s : State) (p : Nat) : Nat :=
  if s.datum.state = .unset then 0
  else if s.datum.gated.isSome then s.nc p - 1
  else min (s.phase * s.nc p / s.nMax) (s.nc p - 1)

/-- The instant of now in parcel `p`. -/
def State.now (s : State) (p : Nat) : Stake := { count := s.datum.count, off := s.offset p }

/-- Order of stakes (R274). -/
def Stake.lt (a b : Stake) : Bool := a.count < b.count || (a.count == b.count && a.off < b.off)

/-- Order of stakes, equal included. -/
def Stake.le (a b : Stake) : Bool := a.count < b.count || (a.count == b.count && a.off ≤ b.off)

/-- The stake `cc` cycles after `st`, at `nc` cycles per tick (R276). -/
def Stake.plus (st : Stake) (cc nc : Nat) : Stake :=
  if nc = 0 then st else { count := st.count + (st.off + cc) / nc, off := (st.off + cc) % nc }

/-- Tick length in ns (R262). -/
def State.tickNs (s : State) : Nat := 256 * 2 ^ s.datum.tick.toNat

/-- Ticks in `ms` milliseconds, rounded up and down. -/
def State.ticksUp (s : State) (ms : Nat) : Nat := ceilDiv (ms * 1000000) s.tickNs

/-- Ticks in `ms` milliseconds, rounded down. -/
def State.ticksDown (s : State) (ms : Nat) : Nat := ms * 1000000 / s.tickNs

/-- A free value for this use (log 7). -/
def State.freeValue (s : State) : Nat := Config.free s.free

/-- Move on to the next free value. -/
def State.useFree (s : State) : State := { s with free := s.free + 1 }

/-! ### Events (R388 to R394) -/

/-- Source of a reach (R389). -/
def srcReach (p l : Nat) : Nat := p * 1024 + l

/-- Source of a cluster. -/
def srcCluster (p c : Nat) : Nat := 8192 + p * 1024 + c

/-- Source of a parcel unit. -/
def srcParcel (p unit : Nat) : Nat := 16384 + p * 1024 + unit

/-- Source of a hub unit. -/
def srcHub (unit : Nat) : Nat := 24576 + unit

/-- The parcel of a source; a hub unit is stamped in the clock domain of parcel 0 (R390). -/
def srcParcelOf (src : Nat) : Nat := if 24576 ≤ src then 0 else field src 10 3

/-- Zero bytes up to offset `n`. -/
def padTo (n : Nat) (bs : List Byte) : List Byte := bs ++ List.replicate (n - bs.length) 0

/-- Payload packing of R391: each (size, value) at the next multiple of its size. -/
def packFields : List (Nat × Nat) → List Byte → List Byte
  | [], acc => acc
  | (n, v) :: fs, acc => packFields fs (padTo (if n = 0 then acc.length else ceilDiv acc.length n * n) acc ++ leBytes n v)

/-- A payload whose fields stand at given offsets: (offset, size, value) in rising order. -/
def placeFields : List (Nat × Nat × Nat) → List Byte → List Byte
  | [], acc => acc
  | (o, n, v) :: fs, acc => placeFields fs (padTo o acc ++ leBytes n v)

/-- The next source in rotating order after the last one served. -/
def nextSource (b : Book) : Option (Nat × Event) :=
  match b.slots.find? (fun e => decide (b.lastSrc < e.1)) with
  | some e => some e
  | none => b.slots.head?

/-- The number of the slot that the next record takes (R392). -/
def Book.slotNo (b : Book) : Nat := b.seq.toNat % 4096

/-- A slot whose mark is written 0x00 (R392, R393). -/
def unmarked (m : SMap (BitVec 512)) (n : Nat) : SMap (BitVec 512) := SMap.put m n (putField (SMap.get 0 m n) 120 8 0)

/-- An arbiter that writes nothing starts the record of the next source, whose slot is marked as being written (R393). -/
def Book.start (b : Book) : Book :=
  if b.writing.isSome then b
  else match nextSource b with
    | none => b
    | some (src, _) => { b with
      writing := some src
      copyA := if b.failA || b.lgMode then b.copyA else unmarked b.copyA b.slotNo
      copyB := if b.failB || b.lgMode then b.copyB else unmarked b.copyB b.slotNo }

/-- The arbiter takes an event (R394): a free pending slot, or the flood counter. -/
def Book.raise (b : Book) (e : Event) : Book :=
  match SMap.find b.slots e.source with
  | none => Book.start { b with slots := SMap.put b.slots e.source e }
  | some _ =>
    let f : Flood := match SMap.find b.floods e.source with
      | none => { code := e.code, count := e.count, off := e.off, lastCount := e.count, lastOff := e.off,
                  held := 1, mixed := false }
      | some f => { f with lastCount := e.count, lastOff := e.off, held := f.held + 1,
                           mixed := f.mixed || e.code != f.code }
    { b with floods := SMap.put b.floods e.source f }

/-- Raise event `code` from source `src` with a payload (R388, R390). -/
def raise (s : State) (src code : Nat) (payload : List Byte) : State :=
  let p := srcParcelOf src
  { s with book := s.book.raise { count := s.datum.count, off := s.offset p, code := code, source := src,
                                  payload := payload } }

/-! Event codes (R420). -/
def evSatGuard : Nat := 0x1001
def evSatOut : Nat := 0x1002
def evIllegalProfile : Nat := 0x1003
def evShapeExceeds : Nat := 0x1010
def evIllegalEncoding : Nat := 0x1011
def evCalibDrift : Nat := 0x1020
def evMetaCount : Nat := 0x2001
def evMetaIndex : Nat := 0x2002
def evMetaOrder : Nat := 0x2003
def evMetaChecksum : Nat := 0x2004
def evAlign : Nat := 0x3001
def evBound : Nat := 0x3002
def evPermInvalid : Nat := 0x3003
def evGatherList : Nat := 0x3004
def evStepOverrun : Nat := 0x4001
def evDatumLoss : Nat := 0x4002
def evStakePast : Nat := 0x4003
def evDatumJump : Nat := 0x4004
def evLinkDown : Nat := 0x5001
def evLinkRetryExhaust : Nat := 0x5002
def evMsgStaleGen : Nat := 0x5003
def evPeerVersion : Nat := 0x5004
def evMemCe : Nat := 0x6001
def evMemUe : Nat := 0x6002
def evConfSat : Nat := 0x6003
def evChannelSkew : Nat := 0x6004
def evSpateExpired : Nat := 0x7001
def evAllowanceDenied : Nat := 0x7002
def evThermalTrip : Nat := 0x7003
def evChannelHot : Nat := 0x7004
def evDictAccess : Nat := 0x8001
def evDictState : Nat := 0x8002
def evLogFlood : Nat := 0x9001
def evLogMemoryFail : Nat := 0x9002
def evStayDiscrepancy : Nat := 0x9003
def evStayAsserted : Nat := 0x9004
def evReachSpared : Nat := 0x9005

/-- The payload of every BOUND record (R474). -/
def boundPayload (pc origin operand mem parcel lo hi limit requester : Nat) : List Byte :=
  placeFields [(0, 4, pc), (4, 1, origin), (5, 1, operand), (6, 1, mem), (7, 1, parcel), (8, 8, lo), (16, 8, hi),
    (24, 8, limit), (32, 2, requester)] []

/-- The payload of every ILLEGAL_ENCODING record (R473). -/
def illegalPayload (origin slot lowBit pc addr value : Nat) : List Byte :=
  placeFields [(0, 1, origin), (1, 1, slot), (2, 2, lowBit), (4, 4, pc), (8, 8, addr), (16, 8, value)] []

/-! ### Hardware sets of this cycle (R14) -/

/-- The hardware sets a bit in this cycle. -/
def State.mark (s : State) (b : HwBit) : State := { s with hwSet := b :: s.hwSet }

/-- The hardware has set the bit in this cycle: a write of 1 leaves it set. -/
def State.marked (s : State) (b : HwBit) : Bool := s.hwSet.contains b

/-- A bit after a write of `w` to it: a written 1 clears it, unless the hardware has set it in this cycle (R14). -/
def w1c (old w set : Bool) : Bool := old && (!w || set)

/-! ### Interrupts (R345 to R347) -/

/-- Send MSI-X vector `v` of function `fn`, or mark it pending while it is masked; without a link nothing is sent, and a
function that the link has not brought out of its reset state holds nothing pending (log 14). -/
def msix (s : State) (fn v : Nat) : State :=
  s.updPort (fun h =>
    if !h.linkUp then h
    else if bvb h.fnMask fn || SMap.get false h.vecMask (fn * 4 + v)
    then { h with vecPend := SMap.put h.vecPend (fn * 4 + v) true }
    else { h with sent := (fn, v) :: h.sent })

/-- INT_STAT bit `n` of parcel `p` is set by its source. -/
def setInt (s : State) (p n : Nat) : State :=
  let m := (s.parcel p).mon
  let s1 := (s.updMon p (fun m => { m with intStat := putBit m.intStat n true })).mark
    (if bvb m.intStat n then .intAgain p n else .int p n)
  if bvb m.intEn n && !bvb m.intStat n then msix s1 (p + 1) n else s1

/-- HUB_INT_STAT bit `n` is set by its source (R346). -/
def setHubInt (s : State) (n : Nat) : State :=
  let h := s.hub.port
  let s1 := (s.updPort (fun h => { h with intStat := putBit h.intStat n true })).mark
    (if bvb h.intStat n then .hubIntAgain n else .hubInt n)
  if bvb h.intEn n && !bvb h.intStat n then msix s1 0 n else s1

/-! ### Counters (R439, R440) -/

/-- A counter word after `n` more counts: modulo 2^48 with the sticky wrap bit. -/
def cntAdd (w : Word) (n : Nat) : Word :=
  let v := bvf w 0 48 + n
  BitVec.ofNat 64 (v % 2 ^ 48 + (b2n (bvb w 48 || decide (2 ^ 48 ≤ v))) * 2 ^ 48)

/-- Counter `k` of a counter file after `n` more counts. -/
def cntBump (m : SMap Word) (k n : Nat) : SMap Word := if n = 0 then m else SMap.put m k (cntAdd (SMap.get 0 m k) n)

/-- The counts of this cc after `n` more in counter `k` (R440). -/
def incBump (m : SMap Nat) (k n : Nat) : SMap Nat := if n = 0 then m else SMap.put m k (SMap.get 0 m k + n)

/-- Count in CNT[k] of a reach. -/
def bumpCnt (s : State) (p l k n : Nat) : State :=
  if (s.parcel p).mon.frozen || n == 0 then s
  else s.updReach p l (fun r => { r with cnt := cntBump r.cnt k n, cntInc := incBump r.cntInc k n })

/-- Count in CCNT[k] of a cluster. -/
def bumpCcnt (s : State) (p c k n : Nat) : State :=
  if (s.parcel p).mon.frozen || n == 0 then s
  else s.updCluster p c (fun r => { r with cnt := cntBump r.cnt k n, cntInc := incBump r.cntInc k n })

/-- Count in PCNT[k] of a parcel. -/
def bumpPcnt (s : State) (p k n : Nat) : State :=
  if (s.parcel p).mon.frozen || n == 0 then s
  else s.updMon p (fun r => { r with cnt := cntBump r.cnt k n, cntInc := incBump r.cntInc k n })

/-- Count bytes of bandwidth port `k` (R448). -/
def bumpBw (s : State) (p k n : Nat) : State :=
  if n == 0 then s else s.updMon p (fun r => { r with
    bwAcc := SMap.put r.bwAcc k (SMap.get 0 r.bwAcc k + n), bwInc := incBump r.bwInc k n })

/-! ### Scalars -/

/-- Read a scalar register; s0 reads as 0 (R158). -/
def Reach.scalar (r : Reach) (n : Nat) : Word := if n = 0 then 0 else SMap.get 0 r.s n

/-- Write a scalar register; s0 ignores writes (R158). -/
def Reach.setScalar (r : Reach) (n : Nat) (v : Word) : Reach :=
  if n = 0 then r else { r with s := SMap.store 0 r.s n v, ruined := r.ruined.filter (fun x => x != (.regs, n)) }

/-- Write a scalar register of a reach. -/
def setScalar (s : State) (p l n : Nat) (v : Word) : State := s.updReach p l (fun r => r.setScalar n v)

/-! ### Memories -/

/-- The cells of a memory. -/
def cells (s : State) : Space → Mem
  | .sm p => (s.parcel p).mem
  | .cb p c => (s.cluster p c).buf
  | .sp p l => (s.reach p l).spad
  | .imem p l => (s.reach p l).imem

/-- Replace the cells of a memory. -/
def setCells (s : State) (k : Space) (m : Mem) : State :=
  match k with
  | .sm p => s.updParcel p (fun x => { x with mem := m })
  | .cb p c => s.updCluster p c (fun x => { x with buf := m })
  | .sp p l => s.updReach p l (fun x => { x with spad := m })
  | .imem p l => s.updReach p l (fun x => { x with imem := m })

/-- Bytes of one poisonable unit: a 64 B sector (R350), a 16 B unit (R246), an IMEM word of 8 B (R401). -/
def unitSize : Space → Nat
  | .sm _ => 64
  | .cb _ _ => 16
  | .sp _ _ => 16
  | .imem _ _ => 8

/-- The poisoned units of a memory, by number. -/
def poisoned (s : State) : Space → List Nat
  | .sm p => (s.parcel p).poison
  | .cb p c => (s.cluster p c).poison
  | .sp p l => (s.reach p l).spPoison
  | .imem p l => (s.reach p l).imemPoison

/-- Replace the poisoned units of a memory. -/
def setPoisoned (s : State) (k : Space) (m : List Nat) : State :=
  match k with
  | .sm p => s.updParcel p (fun x => { x with poison := m })
  | .cb p c => s.updCluster p c (fun x => { x with poison := m })
  | .sp p l => s.updReach p l (fun x => { x with spPoison := m })
  | .imem p l => s.updReach p l (fun x => { x with imemPoison := m })

/-- One byte of a memory. -/
def rdByte (s : State) (k : Space) (a : Nat) : Byte := memByte (cells s k) a

/-- `n` bytes of a memory. -/
def rdBytes (s : State) (k : Space) (a n : Nat) : List Byte := memRead (cells s k) a n

/-- Whether an interval of `n` bytes from `a` holds poison; the number of the first poisoned unit. -/
def poisonIn (s : State) (k : Space) (a n : Nat) : Option Nat :=
  if n = 0 then none
  else (poisoned s k).find? (fun u => a / unitSize k ≤ u && u ≤ (a + n - 1) / unitSize k)

/-- The units that a list of written cells touches, without repeats. -/
def touched (k : Space) (ws : List Host.Cell) : List Nat :=
  ws.foldl (fun m c => setInsert m (c.1 / unitSize k)) []

/-- Whether the written cells cover a whole unit. -/
def covers (k : Space) (ws : List Host.Cell) (u : Nat) : Bool :=
  (List.range (unitSize k)).all (fun i => ws.any (fun c => c.1 == u * unitSize k + i))

/-- Write cells in order. A whole write of a unit clears its poison and an error that stands in it; a partial one of a
poisoned unit is dropped (R352, R401). The second part is the number of dropped units. -/
def writeCells (s : State) (k : Space) (ws : List Host.Cell) : State × Nat :=
  let bad := if (poisoned s k).isEmpty then [] else (touched k ws).filter (fun u => (poisoned s k).contains u)
  let drop := bad.filter (fun u => !covers k ws u)
  let keep := if drop.isEmpty then ws else ws.filter (fun c => !drop.contains (c.1 / unitSize k))
  let m := keep.foldl (fun m c => memSet m c.1 c.2) (cells s k)
  let s1 := setCells s k m
  let s2 := if bad.isEmpty then s1 else setPoisoned s1 k ((poisoned s k).filter (fun u => !bad.contains u || drop.contains u))
  ({ s2 with upsets := s.upsets.filter (fun u => !(decide (u.site = .cells k) && covers k ws u.unit)) }, drop.length)

/-- The cells of consecutive bytes. -/
def cellsOf (a : Nat) : List Byte → List Host.Cell
  | [] => []
  | b :: bs => (a, b) :: cellsOf (a + 1) bs

/-- The source that reports an error of a memory (R389, R401). -/
def spaceSource : Space → Nat
  | .sm p => srcParcel p 0
  | .cb p c => srcCluster p c
  | .sp p l => srcReach p l
  | .imem p l => srcReach p l

/-- The parcel of a memory. -/
def spaceParcel : Space → Nat
  | .sm p => p
  | .cb p _ => p
  | .sp p _ => p
  | .imem p _ => p

/-- The system address of a stacked-memory byte, or the physical offset in an on-die memory (R352, R401). -/
def errAddress (s : State) (k : Space) (a : Nat) : Nat :=
  match k with
  | .sm p => bvf s.hub.torus 0 14 * 2 ^ 38 + p * 2 ^ 35 + a
  | _ => a

/-! ### The channel hash (R240) -/

/-- Column `j` (17 to 34) of the hash under a key. -/
def hashCol (key : BitVec 32) (j : Nat) : Nat := bvf (xsIter (j - 16) (xsSeed (key.zeroExtend 64))) 0 9

/-- XOR of the columns of the set bits of `h` = a[34:17]. -/
def hashHigh (key : BitVec 32) (h : Nat) : Nat :=
  (List.range 18).foldl (fun x i => if h.testBit i then x ^^^ hashCol key (17 + i) else x) 0

/-- The pseudo-channel of a parcel-space address under a key. -/
def pseudoChannel (key : BitVec 32) (a : Nat) : Nat := field a 8 9 ^^^ hashHigh key (field a 17 18)

/-- The key in force for an address: below the mark of a rotation the new one (R244). -/
def ChanKeys.keyFor (c : ChanKeys) (a : Nat) : BitVec 32 :=
  if c.busy && field a 17 18 < c.mark.toNat then c.latched else c.key

/-- The channel group of an address in parcel `p`. -/
def channelGroup (s : State) (p a : Nat) : Nat :=
  field (pseudoChannel ((s.parcel p).keys.keyFor a) a) 4 5

/-- Raise MEM_UE for a unit of a memory (R352, R401). -/
def raiseUe (s : State) (k : Space) (unit requester : Nat) : State :=
  let a := unit * unitSize k
  let pc := match k with
    | .sm p => pseudoChannel ((s.parcel p).keys.keyFor a) a
    | _ => 0
  raise s (spaceSource k) evMemUe
    (packFields [(1, spaceParcel k), (8, errAddress s k a), (2, pc), (2, requester)] [])

/-- MEM_ERR.ue counts a stacked-memory sector that is poisoned (R353). -/
def countUe (s : State) (k : Space) : State :=
  match k with
  | .sm p => s.updMon p (fun m => { m with ue := BitVec.ofNat 16 (satAdd 16 m.ue.toNat 1) })
  | _ => s

/-- Poison a unit, with its MEM_UE (R352). -/
def poisonUnit (s : State) (k : Space) (unit requester : Nat) : State :=
  if (poisoned s k).contains unit then s
  else raiseUe (countUe (setPoisoned s k (setInsert (poisoned s k) unit)) k) k unit requester

/-- MEM_CE of a stacked-memory sector: counted by MEM_ERR.ce (R351, R353). -/
def smCorrected (s : State) (p sector symbol source : Nat) : State :=
  let a := sector * 64
  let s1 := s.updMon p (fun m => { m with ce := BitVec.ofNat 32 (satAdd 32 m.ce.toNat 1) })
  raise s1 (srcParcel p 0) evMemCe (packFields [(1, p), (8, errAddress s (.sm p) a),
    (2, pseudoChannel ((s.parcel p).keys.keyFor a) a), (4, symbol), (2, source)] [])

/-- A read of stacked memory corrects the errors that stand in the sectors of its bytes (R351; log 101). -/
def smMeet (s : State) (k : Space) (requester : Nat) (as : List Nat) : State :=
  match k with
  | .sm p =>
    let hit (u : Upset) : Bool := decide (u.site = .cells (.sm p)) && !u.fatal && as.any (fun a => a / 64 == u.unit)
    (s.upsets.filter hit).foldl (fun t u => smCorrected t p u.unit u.symbol requester)
      { s with upsets := s.upsets.filter (fun u => !hit u) }
  | _ => s

/-- An error comes to stand in a memory. Wrong data that the code takes for good are the contents of their sector from here on
(R350); an error that it miscorrects is seen once, as a corrected one. -/
def plant (s : State) (u : Upset) : State :=
  let s1 := match u.site, u.wrong with
    | .cells (.sm p), some bs => setCells s (.sm p) ((cellsOf (u.unit * 64) (bs.take 64)).foldl (fun m c => memSet m c.1 c.2)
        (cells s (.sm p)))
    | _, _ => s
  if u.missed then s1 else { s1 with upsets := s1.upsets ++ [u] }

/-- What an access finds in its cells comes to stand there, where the access touches the place. -/
def plantIn (s : State) (k : Space) (a n : Nat) (err : CellError) : State :=
  let put (at_ : Nat) (u : Upset) : State :=
    if 0 < n ∧ a / unitSize k ≤ at_ / unitSize k ∧ at_ / unitSize k ≤ (a + n - 1) / unitSize k
    then plant s { u with site := .cells k, unit := at_ / unitSize k } else s
  match err with
  | .none => s
  | .corrected at_ symbol => put at_ { site := .cells k, unit := 0, symbol := symbol }
  | .uncorrectable at_ hard => put at_ { site := .cells k, unit := 0, fatal := true, hard := hard }
  | .wrong at_ bytes symbol =>
    put at_ { site := .cells k, unit := 0, symbol := symbol.getD 0, wrong := some bytes, missed := symbol.isNone }

/-- Count stacked-memory accesses at the byte addresses given: PCNT bytes, bandwidth ports 0 and 1, and the granules of
each group (R242, R443, R448). -/
def smCount (s : State) (k : Space) (write : Bool) (as : List Nat) : State :=
  match k with
  | .sm p =>
    let s1 := bumpPcnt s p (if write then 2 else 1) as.length
    let s2 := bumpBw s1 p (b2n write) as.length
    let gs := (as.foldl (fun m a => setInsert m (a / 256)) []).map (fun g => channelGroup s p (g * 256))
    s2.updMon p (fun m => { m with skewAcc := gs.foldl (fun c g => SMap.put c g (SMap.get 0 c g + 1)) m.skewAcc })
  | _ => s

/-- The snoops of `n` lines leave a parcel: PCNT[12] counts them, and PCNT[13] the cc that the access waits, which nothing
bounds, a free value (R348, R443; log 13). -/
def snooped (s : State) (p n : Nat) : State :=
  bumpPcnt (bumpPcnt (s.updPort (fun h => { h with backInv := h.backInv + n })) p 12 n) p 13
    (Config.snoopWait s.hub.port.backInv)

/-- A device access to cached lines first invalidates them (R348): the lines leave the filter. -/
def backInvalidate (s : State) (k : Space) (as : List Nat) : State :=
  match k with
  | .sm p =>
    let ls := SMap.get [] s.hub.port.snoop p
    let hit := ls.filter (fun x => as.any (fun a => a / 64 == x))
    if hit.isEmpty then s
    else
      snooped (s.updPort (fun h => { h with snoop := SMap.put h.snoop p (ls.filter (fun x => !hit.contains x)) })) p hit.length
  | _ => s

/-- An instruction or engine of the part writes cells: back-invalidation, poison rules, counts; each dropped unit
raises MEM_UE with the requester named (R352). -/
def devWrite (s : State) (k : Space) (requester : Nat) (ws : List Host.Cell) : State :=
  let as := ws.map (fun c => c.1)
  let s1 := smCount (backInvalidate s k as) k true as
  let bad := if (poisoned s1 k).isEmpty then []
    else (touched k ws).filter (fun u => (poisoned s1 k).contains u && !covers k ws u)
  bad.foldl (fun t u => raiseUe t k u requester) (writeCells s1 k ws).1

/-- Bookkeeping of a read of the byte addresses given by an instruction or engine of the part, `requester`. -/
def devReadAt (s : State) (k : Space) (requester : Nat) (as : List Nat) : State :=
  smMeet (smCount (backInvalidate s k as) k false as) k requester as

/-- Bookkeeping of a read of consecutive bytes. -/
def devRead (s : State) (k : Space) (requester a n : Nat) : State :=
  devReadAt s k requester (match k with | .sm _ => (List.range n).map (fun i => a + i) | _ => [])

/-! ### Posted writes (R356, R357) -/

/-- A DMA engine writes cells: a write to stacked memory is posted, any other is visible at once. -/
def postWrite (s : State) (k : Space) (writer : Nat) (u : FuncUnit) (ws : List Host.Cell) : State :=
  match k with
  | .sm p => if ws.isEmpty then s else { s with posted := s.posted ++ [{ p := p, writer := writer, unit := u, cells := ws }] }
  | _ => devWrite s k writer ws

/-- The posted writes of a test become visible, in their order. -/
def drainIf (s : State) (sel : Posted → Bool) : State :=
  (s.posted.filter sel).foldl (fun t w => devWrite t (.sm w.p) w.writer w.cells)
    { s with posted := s.posted.filter (fun w => !sel w) }

/-- Every posted write of an agent becomes visible. -/
def drainOf (s : State) (writer : Nat) : State := drainIf s (fun w => w.writer == writer)

/-- A FENC.rel of an agent stands behind its posted writes. -/
def fencePosted (s : State) (writer : Nat) : State :=
  { s with posted := s.posted.map (fun w => { w with fenced := w.fenced || w.writer == writer }) }

/-- A write of an agent that a FENC.rel follows its posted writes makes them visible with it, or before it (R357); one that
stays in the reach's own scratchpad, `wr`, does not. -/
def drainFenced (s : State) (p l : Nat) (wr : AccessSet) : State :=
  if s.posted.isEmpty || (!wr.ivs.isEmpty && wr.ivs.all (fun i => i.space == 0)) then s
  else drainIf s (fun w => w.fenced && w.writer == srcReach p l)

/-- A memory as an agent's unit reads it: its own posted writes of the same queue come first (R356). -/
def viewOf (s : State) (k : Space) (writer : Nat) (u : FuncUnit) : Mem :=
  match k with
  | .sm p => (s.posted.filter (fun w => w.p == p && w.writer == writer && w.unit == u)).foldl
      (fun m w => w.cells.foldl (fun m c => memSet m c.1 c.2) m) (cells s k)
  | _ => cells s k

/-- The poisoned units of a memory as an agent's unit reads it: its own posted writes cover some. -/
def viewPoison (s : State) (k : Space) (writer : Nat) (u : FuncUnit) : List Nat :=
  match k with
  | .sm p => (poisoned s k).filter (fun n =>
      !s.posted.any (fun w => w.p == p && w.writer == writer && w.unit == u && covers k w.cells n))
  | _ => poisoned s k

/-! ### What an instruction replaces (R280) -/

/-- What stands at the bytes that a piece is about to write, as an agent's unit sees them. -/
def bytesBefore (s : State) (writer : Nat) (u : FuncUnit) (as : List (Space × Nat)) : List (Space × Host.Cell) :=
  as.map (fun x => (x.1, (x.2, memByte (viewOf s x.1 writer u) x.2)))

/-- The pool of a reach and its mode tags. -/
def Reach.poolNow (r : Reach) : Option (SMap PoolEntry × BitVec 32) := some (r.pool, r.paired)

/-! ### Task control -/

/-- The task runs and issue has not stopped (R164, R187). -/
def Task.issuing (t : Task) : Bool := t.run && !t.stopFault && !t.stopHalt

/-- TASK_CTL.idle: nothing issuing and no instruction in flight (R159). -/
def Reach.idle (r : Reach) : Bool :=
  !r.task.run && r.flights.isEmpty && decide (r.task.wait = .none)

/-- Remove a waiting SYNC of a reach from its barrier (R160). -/
def Barrier.withdraw (b : Barrier) (l : Nat) : Barrier :=
  if b.waiting.contains l then { b with waiting := b.waiting.filter (fun x => x != l), arrived := b.arrived - 1 }
  else b

/-- Withdraw whatever waits at the head of issue (R160, R280): a waiting SYNC leaves its barrier. A FENC has issued. -/
def withdrawHead (s : State) (p l : Nat) : State :=
  let s1 := match (s.reach p l).task.wait with
    | .clusterBar k => s.updCluster p (clusterOf l) (fun c =>
        { c with bar := SMap.put c.bar k (Barrier.withdraw (SMap.get ({} : Barrier) c.bar k) l) })
    | .parcelBar k => s.updParcel p (fun x => { x with bar := SMap.put x.bar k (Barrier.withdraw (SMap.get ({} : Barrier) x.bar k) l) })
    | _ => s
  s1.updTask p l (fun t => { t with wait := if t.wait = .fence then .fence else .none })

/-- The 128 bits of TASK_FAULT (R159). -/
def faultWord (code reason faultPc resumePc : Nat) : BitVec 128 :=
  BitVec.ofNat 128 (place 0 16 code + place 16 8 reason + place 32 32 faultPc + place 64 32 resumePc)

/-- A task whose issue has stopped stops once nothing is in flight (R164, R187): run clears (R160), fault or halt is
set, INT_STAT.stop rises where one of them became 1 (R345), and every write of the task is visible (R358). -/
def finishStop (s : State) (p l : Nat) : State :=
  let r := s.reach p l
  if r.flights.isEmpty && (r.task.stopFault || r.task.stopHalt) then
    let s1 := s.updTask p l (fun t => { t with
      run := false, fault := t.fault || t.stopFault, halt := t.halt || t.stopHalt
      stopFault := false, stopHalt := false })
    let s2 := if r.task.stopFault then s1.mark (.fault p l) else s1
    let s3 := drainOf (if r.task.stopHalt then s2.mark (.halt p l) else s2) (srcReach p l)
    if (r.task.stopFault && !r.task.fault) || (r.task.stopHalt && !r.task.halt) then setInt s3 p 0 else s3
  else s

/-- A stopping event of instruction number `no` at `faultPc` (R163, R164): issue stops at once, TASK_FAULT holds the
oldest stopping event in program order, and the task stops once nothing is in flight. -/
def stopTask (s : State) (p l : Nat) (no code reason faultPc : Nat) : State :=
  let older := match (s.reach p l).task.faultNo with
    | some n => decide (n ≤ no)
    | none => false
  let s1 := withdrawHead s p l
  let s2 := s1.updTask p l (fun t => { t with
    stopFault := true
    faultNo := if older then t.faultNo else some no
    faultWord := if older then t.faultWord else faultWord code reason faultPc t.pc.toNat })
  finishStop s2 p l

end Sys2Proof.Machine
end

