-- ==== Sys2Proof/Machine/Issue.lean ====
section
/-!
DEFINITION. Issue and completion of the reach's instructions (06 R157 to R171, R189): fetching the 128-bit word, the
order of the issue checks, the scoreboard, the queues, the status at completion and the sampling record
(16 R449, R450).
-/

namespace Sys2Proof.Machine

/-! ### The word and the captured operands -/

/-- The 128-bit instruction at a PC (R157). -/
def fetchWord (r : Reach) (pc : Nat) : BitVec 128 := BitVec.ofNat 128 (leVal (memRead r.imem pc 16))

/-- Opcode of a word (R169). -/
def wOp (w : BitVec 128) : Nat := bvf w 0 4
/-- Profile index of a word. -/
def wProf (w : BitVec 128) : Nat := bvf w 4 6
/-- Traverse index of a word. -/
def wTrv (w : BitVec 128) : Nat := bvf w 10 5
/-- Status register of a word. -/
def wSd (w : BitVec 128) : Nat := bvf w 15 5

/-- What the instruction at the head takes at issue (R54, R158). -/
def headJob (s : State) (p l : Nat) : Job :=
  let r := s.reach p l
  let w := fetchWord r r.task.pc.toNat
  { pc := r.task.pc, word := w, sc := r.s, prof := SMap.get 0 r.prof (wProf w), trv := SMap.get 0 r.trv (wTrv w) }

/-- Field of a captured instruction. -/
def Job.f (j : Job) (lo n : Nat) : Nat := bvf j.word lo n

/-- Captured scalar register. -/
def Job.scalar (j : Job) (n : Nat) : Word := if n = 0 then 0 else SMap.get 0 j.sc n

/-- Value of the scalar named by the five bits at `lo`. -/
def Job.sv (j : Job) (lo : Nat) : Nat := (j.scalar (j.f lo 5)).toNat

/-- Profile index of a captured instruction. -/
def Job.profNo (j : Job) : Nat := wProf j.word

/-- Traverse index of a captured instruction. -/
def Job.trvNo (j : Job) : Nat := wTrv j.word

/-! ### Failed checks -/

/-- A failed issue check: event code, reason, payload. -/
structure Fail where
  code : Nat
  reason : Nat := 0
  payload : List Byte
deriving DecidableEq, Repr

/-- A failed check. -/
def mkFail (code reason : Nat) (payload : List Byte) : Option Fail :=
  some { code := code, reason := reason, payload := payload }

/-- The first failing check in the order given (R163). -/
def firstFail (cs : List (Option Fail)) : Option Fail := cs.findSome? id

/-- ILLEGAL_ENCODING of an instruction field (R473, origin 0). -/
def failIllegal (j : Job) (bad : Bool) (lowBit : Nat) : Option Fail :=
  if bad then mkFail evIllegalEncoding 0
      (illegalPayload 0 0xFF lowBit j.pc.toNat 0 0) else none

/-- ILLEGAL_PROFILE with the lowest reason of the list (R59). -/
def failProfile (j : Job) (checks : List (Nat × Bool)) : Option Fail :=
  match checks.find? (fun c => c.2) with
  | some c => mkFail evIllegalProfile c.1
      (packFields [(1, j.profNo), (4, j.pc.toNat), (1, c.1)] [])
  | none => none

/-- A failed shape check: reason, level, offending value, limit. -/
abbrev ShapeFail := Nat × Nat × Nat × Nat

/-- SHAPE_EXCEEDS with the lowest reason (R208); `useProf` and `useTrv` say whether the instruction uses them. -/
def failShape (j : Job) (useProf useTrv : Bool) (checks : List (Option ShapeFail)) : Option Fail :=
  match checks.findSome? id with
  | some (reason, level, value, limit) => mkFail evShapeExceeds 0
      (placeFields [(0, 4, j.pc.toNat), (4, 1, reason), (5, 1, if useProf then j.profNo else 0xFF),
        (6, 1, if useTrv then j.trvNo else 0xFF), (7, 1, level), (8, 8, value), (16, 8, limit)] [])
  | none => none

/-- A shape check: fails with the value and the limit when `bad`. -/
def shapeChk (bad : Bool) (reason level value limit : Nat) : Option ShapeFail :=
  if bad then some (reason, level, value, limit) else none

/-- Payload of ALIGN (R219, R391): the failing value takes the 8 bytes of a scalar register, the widest field it copies. -/
def alignPayload (pc opnd value width : Nat) : List Byte := packFields [(4, pc), (1, opnd), (8, value), (4, width)] []

/-- ALIGN checks in operand order (R219): (operand, value, access width). The magnitude of a stride is tested, so the
value is tested modulo the width. -/
def failAlign (j : Job) (checks : List (Nat × Nat × Nat)) : Option Fail :=
  match checks.find? (fun c => c.2.1 % c.2.2 != 0) with
  | some (opnd, value, width) => mkFail evAlign 0 (alignPayload j.pc.toNat opnd value width)
  | none => none

/-- ALIGN of the first failing check, each (bad, operand, value, access width). -/
def failAlignIf (j : Job) (checks : List (Bool × Nat × Nat × Nat)) : Option Fail :=
  match checks.find? (fun c => c.1) with
  | some (_, opnd, value, width) => mkFail evAlign 0 (alignPayload j.pc.toNat opnd value width)
  | none => none

/-- An interval of a scratchpad (`mem` 0) or cluster buffer (1) operand, as offsets into the window, both ends
included; empty where `hi < lo`. `write` says that the instruction writes it. `of` names the reach whose window and
scratchpad it lies in where that is not the issuing one (a halo, R211). -/
structure Opnd where
  operand : Nat
  mem : Nat
  lo : Int
  hi : Int
  write : Bool
  of : Option Nat := none
deriving DecidableEq, Repr

/-- Base of SP_WIN in bytes (R257). -/
def Reach.spBase (r : Reach) : Nat := bvf r.spWin 4 15 * 16
/-- Size of SP_WIN in bytes. -/
def Reach.spBytes (r : Reach) : Nat := bvf r.spWin 36 15 * 16
/-- Base of CB_WIN in bytes. -/
def Reach.cbBase (r : Reach) : Nat := bvf r.cbWin 4 18 * 16
/-- Size of CB_WIN in bytes. -/
def Reach.cbBytes (r : Reach) : Nat := bvf r.cbWin 36 19 * 16

/-- Window size for an operand memory. -/
def winBytes (r : Reach) (mem : Nat) : Nat := if mem = 0 then r.spBytes else r.cbBytes
/-- Window base for an operand memory. -/
def winBase (r : Reach) (mem : Nat) : Nat := if mem = 0 then r.spBase else r.cbBase
/-- Size of an operand memory (R245). -/
def memSize (mem : Nat) : Nat := if mem = 0 then Config.spSize else Config.cbSize

/-- The reach whose window an operand uses. -/
def opndReach (s : State) (p l : Nat) (o : Opnd) : Reach := s.reach p (o.of.getD l)

/-- BOUND of the window check (R260, R474 origin 0), operands in order. -/
def failWindow (s : State) (p l : Nat) (j : Job) (os : List Opnd) : Option Fail :=
  match os.find? (fun o => decide (o.lo ≤ o.hi) &&
      (decide (o.lo < 0) || decide ((winBytes (opndReach s p l o) o.mem : Int) ≤ o.hi))) with
  | some o => mkFail evBound 0
      (boundPayload j.pc.toNat 0 o.operand o.mem 0xFF (unsignedBits 64 o.lo) (unsignedBits 64 o.hi)
        (winBytes (opndReach s p l o) o.mem) (srcReach p l))
  | none => none

/-- BOUND of another address checked at issue (R474 origin 1). -/
def failAddress (p l : Nat) (j : Job) (bad : Bool) (opnd mem lo hi limit : Nat) : Option Fail :=
  if bad then mkFail evBound 0
      (boundPayload j.pc.toNat 1 opnd mem 0xFF lo hi limit (srcReach p l))
  else none

/-- Shape check 0x03: an interval longer than its memory (R208). -/
def shapeIntervals (os : List Opnd) : Option ShapeFail :=
  match os.find? (fun o => decide ((memSize o.mem : Int) < o.hi - o.lo + 1)) with
  | some o => some (0x03, 0xFF, (o.hi - o.lo + 1).toNat, memSize o.mem)
  | none => none

/-! ### The scoreboard (R166, R167) -/

/-- Do two lists of intervals overlap? -/
def ivsOverlap (a b : List Interval) : Bool :=
  a.any (fun x => b.any (fun y => x.space == y.space && x.lo ≤ y.hi && y.lo ≤ x.hi))

/-- Do two sets overlap? -/
def AccessSet.overlaps (a b : AccessSet) : Bool :=
  ivsOverlap a.ivs b.ivs || (a.slots &&& b.slots) != 0 || (a.scalars &&& b.scalars) != 0 || (a.tables &&& b.tables) != 0

/-- The in-order units (R167). -/
def inOrderUnit : FuncUnit → Bool
  | .array | .delta | .reachDma => true
  | _ => false

/-- A younger instruction with these sets is held by an older one in flight. -/
def hazard (f : Flight) (u : FuncUnit) (rd wr : AccessSet) : Bool :=
  !(f.unit == u && inOrderUnit u) && (f.wr.overlaps rd || f.wr.overlaps wr || f.rd.overlaps wr)

/-- Queue depth of a unit per reach (R189). -/
def queueDepth : FuncUnit → Option Nat
  | .array | .ratingTable | .riffle | .delta => some 2
  | .reachDma | .parcelDma => some 8
  | .cascadePort => some 1
  | .tally | .sequencer => none

/-- Physical intervals of the issuing reach's own operands (a halo destination of another reach is not tracked). -/
def opndIvs (s : State) (p l : Nat) (os : List Opnd) (write : Bool) : List Interval :=
  (os.filter (fun o => o.write == write && decide (o.lo ≤ o.hi) && (o.of.getD l) == l)).map (fun o =>
    { space := o.mem, lo := ((winBase (s.reach p l) o.mem : Int) + o.lo).toNat, hi := ((winBase (s.reach p l) o.mem : Int) + o.hi).toNat })

/-- The bit of a scalar register; none for s0. -/
def scalarBit (n : Nat) : BitVec 32 := if n = 0 then 0 else BitVec.ofNat 32 (2 ^ n)

/-- A mask of consecutive tile slots. -/
def slotMask (first n : Nat) : BitVec 32 := BitVec.ofNat 32 ((2 ^ n - 1) * 2 ^ first)

/-! ### Whether the head may issue -/

/-- The head may come to issue: the task runs, nothing waits there, the clocks are not gated (R273), no lock switch-over
holds it (R412), and the word is not being written by a MOVE into IMEM (R167). -/
def canIssue (s : State) (p l : Nat) : Bool :=
  let r := s.reach p l
  let pc := r.task.pc.toNat
  r.task.issuing && decide (r.task.wait = .none) && !r.task.drain && s.datum.gated.isNone && decide (pc < Config.imemSize) &&
  !r.flights.any (fun f => f.wr.ivs.any (fun i => i.space == 2 && i.lo ≤ pc + 15 && pc ≤ i.hi))

/-- Every named scalar operand is written (R162). -/
def scalarsReady (r : Reach) (reads : List Nat) : Bool :=
  r.flights.all (fun f => reads.all (fun n => (f.wr.scalars &&& scalarBit n) == 0))

/-- What issue needs to know of an instruction. -/
structure Plan where
  reads : List Nat := []
  checks : List (Option Fail) := []
  unit : FuncUnit := .sequencer
  rd : AccessSet := {}
  wr : AccessSet := {}
  addr : Word := 0
  armable : Bool := false
deriving DecidableEq, Repr

/-- The write set with the status register added. -/
def Plan.wrAll (pl : Plan) (j : Job) : AccessSet :=
  { pl.wr with scalars := pl.wr.scalars ||| scalarBit (wSd j.word) }

/-- The head is held by the scoreboard, by a queue, by the limit of 16, or by strict issue (R162, R164, R167). -/
def held (s : State) (p l : Nat) (j : Job) (pl : Plan) : Bool :=
  let r := s.reach p l
  r.flights.any (fun f => hazard f pl.unit pl.rd (pl.wrAll j)) ||
  (match queueDepth pl.unit with
    | some d => decide (d ≤ (r.flights.filter (fun f => f.unit == pl.unit)).length)
    | none => false) ||
  decide (16 ≤ r.flights.length) ||
  (r.task.strict && !r.flights.isEmpty)

/-! ### Status and records at completion (R72, R171, R450) -/

/-- Payload of a SAT_GUARD or SAT_OUT record (R72). -/
def satPayload (pc profNo : Nat) (r : SatRec) : List Byte :=
  placeFields [(0, 4, pc), (4, 1, profNo), (5, 1, r.slot), (6, 1, r.row), (7, 1, r.col), (8, 4, r.idx), (12, 4, r.count),
    (16, 1, b2n r.low), (17, 1, r.meaning)] []

/-- Raise the two records of a completing instruction. -/
def raiseSat (s : State) (p l pc profNo : Nat) (guard out : Option SatRec) : State :=
  let s1 := match guard with
    | some r => raise s (srcReach p l) evSatGuard (satPayload pc profNo r)
    | none => s
  match out with
  | some r => raise s1 (srcReach p l) evSatOut (satPayload pc profNo r)
  | none => s1

/-- The sampling record of a tagged instruction, without its `written` field (R450). -/
def sampleBytes (l : Nat) (j : Job) (status now : Nat) (t : SampleTag) : List Byte :=
  padTo 64 (placeFields [(0, 8, t.count), (8, 2, t.off), (10, 1, l), (11, 1, status), (12, 4, j.pc.toNat),
    (16, 16, j.word.toNat), (32, 4, min t.headCc (2 ^ 32 - 1)), (36, 4, min (now - t.cyc) (2 ^ 32 - 1)),
    (40, 8, t.addr.toNat), (48, 1, t.clock), (51, 1, 0xA5)] [])

/-- A record joins the queue behind those of earlier cc and those of lower reaches due in the same cc. -/
def sampleInsert : List SampleDue → SampleDue → List SampleDue
  | [], d => [d]
  | x :: q, d => if x.cyc = d.cyc ∧ d.reach < x.reach then d :: x :: q else x :: sampleInsert q d

/-- A tagged instruction that ends puts its record into the queue of 32, or counts it as dropped. -/
def sampleEnd (s : State) (p l : Nat) (j : Job) (status : Nat) (tag : Option SampleTag) : State :=
  match tag with
  | none => s
  | some t => s.updMon p (fun m =>
      if bvb m.smpCfg 1 && m.smpFull then { m with smpDropped := BitVec.ofNat 16 (satAdd 16 m.smpDropped.toNat 1) }
      else
        let q := sampleInsert m.smpQueue
          { cyc := (s.parcel p).cyc, reach := l, bytes := sampleBytes l j status (s.parcel p).cyc t }
        if q.length ≤ 32 then { m with smpQueue := q }
        else { m with smpQueue := q.take 32, smpDropped := BitVec.ofNat 16 (satAdd 16 m.smpDropped.toNat 1) })

/-- Whether this issue is tagged, and the new countdown (R449). -/
def sampleCount (m : Monitors) (l op cd : Nat) : Bool × Nat :=
  if bvb m.smpCfg 0 && bvb m.smpCfg (2 + op) && decide (bvf m.smpCfg 18 7 ≤ l) && decide (l ≤ bvf m.smpCfg 25 7)
  then (if cd ≤ 1 then (true, bvf m.smpCfg 32 20 + 1) else (false, cd - 1))
  else (false, cd)

/-- The part of issue that every instruction shares: the counts, the sampling tag and the next PC. -/
def advance (s : State) (p l : Nat) (j : Job) (addr : Word) (next : Nat) : State × Option SampleTag :=
  let t := (s.reach p l).task
  let (tagged, cd) := sampleCount (s.parcel p).mon l (wOp j.word) t.sampleCd
  let tag : SampleTag := { count := s.datum.count, off := s.offset p, headCc := t.headCc, cyc := (s.parcel p).cyc,
                           addr := addr, clock := (s.parcel p).pwr.now }
  let s1 := s.updTask p l (fun t => { t with
    pc := BitVec.ofNat 32 next, issueNo := t.issueNo + 1, headCc := 0, sampleCd := cd, arm := none, wait := .none,
    left := none, atOnce := false })
  (bumpCnt s1 p l 1 1, if tagged then some tag else none)

/-- A fetch at a PC at or above IMEM_SIZE raises BOUND and stops the task (R157). -/
def fetchCheck (s : State) (p l : Nat) : State :=
  let t := (s.reach p l).task
  let pc := t.pc.toNat
  if t.issuing && decide (Config.imemSize ≤ pc) then
    stopTask (raise s (srcReach p l) evBound
      (boundPayload pc 1 0xFF 3 0xFF pc pc Config.imemSize (srcReach p l))) p l (t.issueNo + 1) evBound 0 pc
  else s

/-- Write a status into sd (R171). -/
def writeStatus (s : State) (p l : Nat) (j : Job) (status : Nat) : State :=
  setScalar s p l (wSd j.word) (BitVec.ofNat 64 status)

/-- The head of issue, an instruction of the sequencer, issues and completes with `status`; issue goes on at `next`. -/
def headDoneAt (s : State) (p l : Nat) (j : Job) (status next : Nat) : State :=
  let (s1, tag) := advance s p l j 0 next
  fetchCheck (sampleEnd (writeStatus s1 p l j status) p l j status tag) p l

/-- As `headDoneAt`, with the next instruction in sequence. -/
def headDone (s : State) (p l : Nat) (j : Job) (status : Nat) : State :=
  headDoneAt s p l j status (j.pc.toNat + 16)

/-- A failing instruction does not issue; the task stops with both PCs naming it (R163). -/
def failIssue (s : State) (p l : Nat) (j : Job) (f : Fail) : State :=
  let no := (s.reach p l).task.issueNo + 1
  stopTask (raise s (srcReach p l) f.code f.payload) p l no f.code f.reason j.pc.toNat

/-- Change the flight with number `no`. -/
def updFlight (s : State) (p l no : Nat) (f : Flight → Flight) : State :=
  s.updReach p l (fun r => { r with flights := r.flights.map (fun x => if x.no == no then f x else x) })

/-- An instruction that has issued and has not started. -/
def Await.unstarted : Await → Bool
  | .stake _ => true
  | .msgId => true
  | .turn => true
  | .none => false
  | .build => false
  | .cascadeIn => false
  | .readyToken => false
  | .adds _ => false

/-- The DMA units, whose queues run in issue order (R189). -/
def dmaUnit : FuncUnit → Bool
  | .reachDma | .parcelDma => true
  | _ => false

/-- An instruction of the DMA queue of unit `u`, numbered below `no`, has not started (R189). -/
def queueWaits (r : Reach) (u : FuncUnit) (no : Nat) : Bool :=
  dmaUnit u && r.flights.any (fun f => f.unit == u && decide (f.no < no) && f.wait.unstarted)

/-- The instruction enters its unit: the flight is recorded and issue goes on. The number of the flight is returned. -/
def enterUnit (s : State) (p l : Nat) (j : Job) (pl : Plan) (w : Await) : State × Nat :=
  let no := (s.reach p l).task.issueNo + 1
  let inStep := (s.reach p l).task.step.isSome
  let (s1, tag) := advance s p l j pl.addr (j.pc.toNat + 16)
  (s1.updReach p l (fun r => { r with flights := r.flights ++
    [{ no := no, job := j, unit := pl.unit, wait := w, rd := pl.rd, wr := pl.wrAll j, inStep := inStep, tag := tag }] }), no)

/-- A late stopping fault of the instruction numbered `no` (R164), raised by source `src`: status faulted, the event,
and the stop. -/
def lateFaultFrom (s : State) (src p l no : Nat) (j : Job) (f : Fail) : State :=
  let s1 := updFlight (raise s src f.code f.payload) p l no (fun x => { x with status := 3 })
  stopTask s1 p l no f.code f.reason j.pc.toNat

/-- A late stopping fault that the reach itself raises. -/
def lateFault (s : State) (p l no : Nat) (j : Job) (f : Fail) : State := lateFaultFrom s (srcReach p l) p l no j f

/-- A STAK ARM is followed by an instruction that it cannot arm (R183). -/
def armFail (s : State) (p l : Nat) (j : Job) (pl : Plan) : Option Fail :=
  failIllegal j ((s.reach p l).task.arm.isSome && !pl.armable) 0xFFFF

/-! ### Errors that stand in memory cells (R351, R352, R401 to R403; log 101) -/

/-- The units of a task stop without a stopping event: by a host request, at a stay stake or under quiesce (R160). -/
def stopRun (s : State) (p l : Nat) : State := (withdrawHead s p l).updTask p l (fun t => { t with run := false })

/-- A failing reach stops with TASK_FAULT.code 0x9005 unless an earlier stopping fault has set it (R404 step 1); fault is
set once nothing is in flight (R358). -/
def failingStop (s : State) (p l : Nat) : State :=
  finishStop ((stopRun s p l).updTask p l (fun t => { t with
    stopFault := true
    faultWord := if t.fault || t.stopFault then t.faultWord else faultWord evReachSpared 0 t.pc.toNat t.pc.toNat })) p l

/-- A logical reach is found failing (R403, R404): it stops at once, or at the STAK that would open its next step when
a step is open. -/
def markFailing (s : State) (p l : Nat) (hard : Bool) : State :=
  let t := (s.reach p l).task
  if t.failing || t.retired then s else
  let s1 := s.updTask p l (fun t => { t with failing := true, failHard := hard })
  if t.step.isSome && t.run then s1 else failingStop s1 p l

/-- A corrected error in a memory of a reach (R401, R403): MEM_CE, and a reach with 64 of them in an epoch fails. -/
def reachCe (s : State) (p l : Nat) (addr symbol requester : Nat) : State :=
  let s1 := raise s (srcReach p l) evMemCe (packFields [(1, p), (8, addr), (2, 0), (4, symbol), (2, requester)] [])
  let n := (s.reach p l).task.ceCount + 1
  let s2 := s1.updTask p l (fun t => { t with ceCount := n })
  if 64 ≤ n then markFailing s2 p l false else s2

/-- MEM_UE of poisoned data that an instruction read (R401, R402). -/
def poisonFail (s : State) (k : Space) (unit requester : Nat) : Fail :=
  { code := evMemUe, payload := packFields [(1, spaceParcel k), (8, errAddress s k (unit * unitSize k)),
      (2, match k with | .sm p => pseudoChannel ((s.parcel p).keys.keyFor (unit * 64)) (unit * 64) | _ => 0),
      (2, requester)] [] }

/-- A read corrects an error: MEM_CE. -/
def correctedAt (s : State) (u : Upset) (requester : Nat) : State :=
  match u.site with
  | .cells (.sm p) => smCorrected s p u.unit u.symbol requester
  | .cells (.cb p c) =>
    raise s (srcCluster p c) evMemCe (packFields [(1, p), (8, u.unit * 16), (2, 0), (4, u.symbol), (2, requester)] [])
  | .cells (.sp p l) => reachCe s p l (u.unit * 16) u.symbol requester
  | .cells (.imem p l) => reachCe s p l (u.unit * 8) u.symbol requester
  | .words p l _ => reachCe s p l (u.unit * 8) u.symbol requester

/-- What a hard fault leaves (R403): a failing reach, or a unit of a cluster buffer, whose parcel PARCEL_CONTAIN fences.
The MEM_UE of an instruction stops the task by itself, so the reach is only noted as failing. -/
def noteHard (s : State) (u : Upset) : State :=
  let failing (p l : Nat) : State := s.updTask p l (fun t => { t with failing := !t.retired || t.failing, failHard := true })
  if !u.hard then s
  else match u.site with
    | .cells (.sm _) => s
    | .cells (.cb p c) => s.updCluster p c (fun x => { x with hardUnits := setInsert x.hardUnits u.unit })
    | .cells (.sp p l) => failing p l
    | .cells (.imem p l) => failing p l
    | .words p l _ => failing p l

/-- A hard fault that an engine meets (R403): the reach fails at once, or a unit of a cluster buffer is noted. -/
def hardFound (s : State) (u : Upset) : State :=
  if !u.hard then s
  else match u.site with
    | .cells (.sm _) => s
    | .cells (.cb _ _) => noteHard s u
    | .cells (.sp p l) => markFailing s p l true
    | .cells (.imem p l) => markFailing s p l true
    | .words p l _ => markFailing s p l true

/-- The error no longer stands. -/
def State.dropUpset (s : State) (u : Upset) : State := { s with upsets := s.upsets.filter (fun x => x != u) }

/-- An instruction meets an error in a unit that it reads: a corrected one raises MEM_CE, the unit of any other is poisoned,
and the instruction raises its MEM_UE. -/
def meet (requester : Nat) (s : State) (u : Upset) : State :=
  if !u.fatal then correctedAt (s.dropUpset u) u requester
  else match u.site with
    | .cells k => setPoisoned (s.dropUpset u) k (setInsert (poisoned s k) u.unit)
    | .words p l m => (noteHard (s.dropUpset u) u).updReach p l (fun r => { r with ruined := (m, u.unit) :: r.ruined })

/-- An engine other than an instruction reads `n` bytes at `a`: what it meets there is corrected, or poisoned with its
MEM_UE. -/
def settle (s : State) (k : Space) (a n requester : Nat) : State :=
  let hit (u : Upset) : Bool := decide (u.site = .cells k) && decide (0 < n) && decide (a / unitSize k ≤ u.unit) &&
    decide (u.unit ≤ (a + n - 1) / unitSize k)
  (s.upsets.filter hit).foldl (fun t u =>
    if u.fatal then poisonUnit (hardFound (t.dropUpset u) u) k u.unit requester else correctedAt (t.dropUpset u) u requester) s

/-- An error in the IMEM word at the head. -/
def atHead (p l pc : Nat) (u : Upset) : Bool :=
  decide (u.site = .cells (.imem p l)) && decide (pc ≤ u.unit * 8 + 7) && decide (u.unit * 8 ≤ pc + 15)

/-- The head is fetched: the errors in its IMEM word are met. -/
def fetchMeet (s : State) (p l : Nat) : State :=
  (s.upsets.filter (atHead p l (s.reach p l).task.pc.toNat)).foldl (fun t u => noteHard (meet (srcReach p l) t u) u) s

/-- The IMEM word at the head is poisoned: MEM_UE (R402). -/
def failFetch (s : State) (p l : Nat) : Option Fail :=
  (poisonIn s (.imem p l) (s.reach p l).task.pc.toNat 16).map (fun u => poisonFail s (.imem p l) u (srcReach p l))

/-- An instruction uses a traverse descriptor. -/
def opTraverses (w : BitVec 128) : Bool := [0, 3, 4, 5, 6].contains (wOp w) || (wOp w == 1 && bvb w 24)

/-- An instruction with the plan `pl` reads word `n` of a memory of its reach: pool entries by slot, the words of its
profile, its traverse and its piecewise table, its scalars; the match unit in a sparse MATB, the plane files and chunk
registers in a MATB or a look. -/
def usesWord (j : Job) (pl : Plan) (m : WordMem) (n : Nat) : Bool :=
  match m with
  | .pool => pl.rd.slots.getLsbD (n / 256)
  | .prof => [0, 1, 2, 3, 7, 8].contains (wOp j.word) && n / 4 == j.profNo
  | .trv => opTraverses j.word && n / 16 == j.trvNo
  | .seg => wOp j.word == 3 && bvb j.prof 199 && n / 32 == bvf j.prof 200 3
  | .assoc => wOp j.word == 0 && bvf j.prof 223 3 != 0
  | .regs => n != 0 && pl.reads.contains n
  | .planes => wOp j.word == 0 || (wOp j.word == 1 && bvb j.word 24)

/-- The errors in the words that an instruction uses are met as it issues. -/
def meetWords (s : State) (p l : Nat) (j : Job) (pl : Plan) : State :=
  (s.upsets.filter (fun u => match u.site with
    | .words p' l' m => p' == p && l' == l && usesWord j pl m u.unit
    | .cells _ => false)).foldl (meet (srcReach p l)) s

/-- A poisoned word that an instruction uses: MEM_UE with its physical offset (R401, R402). -/
def failWord (s : State) (p l : Nat) (j : Job) (pl : Plan) : Option Fail :=
  ((s.reach p l).ruined.find? (fun x => usesWord j pl x.1 x.2)).map (fun x =>
    { code := evMemUe, payload := packFields [(1, p), (8, x.2 * 8), (2, 0), (2, srcReach p l)] [] })

/-- The plane files and chunk registers keep nothing after the instruction (R401); a tile slot that an instruction writes
whole holds no poisoned entry any more. -/
def clearWords (s : State) (p l : Nat) (pl : Plan) : State :=
  if (s.reach p l).ruined.isEmpty then s
  else s.updReach p l (fun r => { r with ruined := r.ruined.filter (fun x =>
    !(decide (x.1 = .planes) || (decide (x.1 = .pool) && pl.wr.slots.getLsbD (x.2 / 256) && !pl.rd.slots.getLsbD (x.2 / 256)))) })

/-- An error in a unit that a running instruction may read: in an interval of its read set (R166), or, for an instruction of
a DMA engine, in stacked memory, whose corrected errors its accesses meet byte by byte. -/
def mayRead (p l : Nat) (w : BitVec 128) (rd : AccessSet) (u : Upset) : Bool :=
  let inside (k : Nat) : Bool := rd.ivs.any (fun i => i.space == k && i.lo ≤ u.unit * 16 + 15 && u.unit * 16 ≤ i.hi)
  match u.site with
  | .cells (.sp p' l') => p' == p && l' == l && inside 0
  | .cells (.cb p' c) => p' == p && c == clusterOf l && inside 1
  | .cells (.sm _) => u.fatal && [4, 5, 6].contains (wOp w)
  | _ => false

/-- An error that the run has not met stands again. -/
def unmeet (s : State) (u : Upset) : State :=
  match u.site with
  | .cells k => if (poisoned s k).contains u.unit then
      { setPoisoned s k (setErase (poisoned s k) u.unit) with upsets := u :: s.upsets } else s
  | .words _ _ _ => s

/-- A unit runs instruction `no`, whose read set is `rd`, and meets the errors that stand in what it reads; those that it has
not met, because it has not faulted, stand again. -/
def startRun (run : State → Job → Nat → State) (s : State) (p l : Nat) (j : Job) (no : Nat) (rd : AccessSet) : State :=
  if s.upsets.isEmpty then run s j no
  else
    let us := s.upsets.filter (mayRead p l j.word rd)
    let bad := us.filter (fun u => u.fatal)
    let s1 := run (us.foldl (meet (srcReach p l)) s) j no
    if (s1.reach p l).flights.any (fun f => f.no == no && f.status == 3)
    then bad.foldl (fun t u => noteHard (match u.site with | .cells k => countUe t k | .words _ _ _ => t) u) s1
    else bad.foldl unmeet s1

/-- Issue of an instruction of a unit: nothing happens unless it is at the head and `sel` accepts its word (log 2); a
failing check stops the task; a held instruction stays; otherwise it enters its unit, and runs at once unless it is
armed or an older instruction of its queue has not started (R189). -/
def issueUnit (s0 : State) (p l : Nat) (sel : BitVec 128 → Bool) (plan : Job → Plan)
    (run : State → Job → Nat → State) : State :=
  let j := headJob s0 p l
  let pl := plan j
  if !(canIssue s0 p l && sel j.word) then s0
  else if !scalarsReady (s0.reach p l) pl.reads then s0
  else
    let s := meetWords (fetchMeet s0 p l) p l j pl
    match firstFail (failFetch s p l :: armFail s p l j pl :: pl.checks) with
    | some f => failIssue s p l j f
    | none =>
      if held s p l j pl then s
      else match (s.reach p l).task.arm with
        | some st =>
          let (s1, _) := enterUnit s p l j pl (.stake st)
          fetchCheck s1 p l
        | none =>
          if queueWaits (s.reach p l) pl.unit ((s.reach p l).task.issueNo + 1) then fetchCheck (enterUnit s p l j pl .turn).1 p l
          else
            let (s1, no) := enterUnit s p l j pl .none
            match failWord s p l j pl with
            | some f => fetchCheck (lateFault s1 p l no j f) p l
            | none => fetchCheck (drainFenced (clearWords (startRun run s1 p l j no pl.rd) p l pl) p l pl.wr) p l

/-- Issue of an instruction of the sequencer: as `issueUnit`, with `act` doing everything, completion included. -/
def issueSeq (s0 : State) (p l : Nat) (sel : BitVec 128 → Bool) (plan : Job → Plan) (act : State → Job → State) : State :=
  let j := headJob s0 p l
  let pl := plan j
  if !(canIssue s0 p l && sel j.word) then s0
  else if !scalarsReady (s0.reach p l) pl.reads then s0
  else
    let s := meetWords (fetchMeet s0 p l) p l j pl
    match firstFail (failFetch s p l :: failWord s p l j pl :: armFail s p l j pl :: pl.checks) with
    | some f => failIssue s p l j f
    | none => if held s p l j pl then s else act s j

/-! ### Completion -/

/-- The flight ends with `status`: sd, the saturation records, the sampling record, and its place in flight. -/
def retire (s : State) (p l : Nat) (f : Flight) : State :=
  let s1 := s.updReach p l (fun r => { r with flights := r.flights.filter (fun x => x.no != f.no) })
  let s2 := writeStatus s1 p l f.job f.status
  let s3 := raiseSat s2 p l f.job.pc.toNat f.job.profNo f.guard f.out
  sampleEnd s3 p l f.job f.status f.tag

/-- The last flight is a FENC: nothing older is in flight. -/
def onlyFence (r : Reach) : Option Flight :=
  match r.flights with
  | [f] => if wOp f.job.word == 11 then some f else none
  | _ => none

/-- Issue goes on after a lock switch-over once nothing is in flight (R412). -/
def endDrain (s : State) (p l : Nat) : State :=
  if (s.reach p l).flights.isEmpty && (s.reach p l).task.drain then s.updTask p l (fun t => { t with drain := false }) else s

/-- What a FENC does as it completes (R357): rel stands behind the posted writes of its reach, full makes them visible. -/
def fenceEffect (s : State) (p l : Nat) (j : Job) : State :=
  if j.f 24 2 = 1 then fencePosted s (srcReach p l) else if j.f 24 2 = 2 then drainOf s (srcReach p l) else s

/-- What goes on once nothing older is in flight: a task whose issue has stopped stops, a FENC completes (R184, R357), a
SYNC local completes (R185), the
STAK at which a scan stopped comes to issue (R280), and a lock switch-over lets issue go on. -/
def wakeHead (s0 : State) (p l : Nat) : State :=
  let s := endDrain s0 p l
  let r := s.reach p l
  match onlyFence r with
  | some f =>
    finishStop (endDrain ((retire (fenceEffect s p l f.job) p l f).updTask p l (fun t => { t with
      wait := if t.wait = .fence then .none else t.wait })) p l) p l
  | none =>
    if !r.flights.isEmpty || !r.task.issuing then finishStop s p l
    else match r.task.wait with
      | .syncLocal => headDone s p l (headJob s p l) 0
      | .scan => s.updTask p l (fun t => { t with wait := .none })
      | _ => s

end Sys2Proof.Machine
end

