-- ==== Sys2Proof/Machine/Nest.lean ====
section
/-!
DEFINITION. The compute reading of a traverse (07 R196 to R208): walked levels, bucket extents, coordinates, output
tiles, and the intervals that the operands span.
-/

namespace Sys2Proof.Machine

/-- Level `i` of a traverse (R196). -/
structure Level where
  count : Nat
  dim : Nat
  mlev : Nat
  en : Bool
  sa : Int
  sw : Int
  so : Int
deriving DecidableEq, Repr

/-- The level at index `i`. -/
def trvLevel (t : BitVec 1024) (i : Nat) : Level :=
  let b := 256 + 128 * i
  { count := bvf t b 24 + 1, dim := bvf t (b + 24) 3, mlev := bvf t (b + 27) 2, en := bvb t (b + 29),
    sa := signed 32 (bvf t (b + 32) 32), sw := signed 32 (bvf t (b + 64) 32), so := signed 32 (bvf t (b + 96) 32) }

/-- The six levels with their indices, outermost first. -/
def trvLevels (t : BitVec 1024) : List (Nat × Level) := (List.range 6).map (fun i => (i, trvLevel t i))

/-- The enabled levels. -/
def enabledLevels (t : BitVec 1024) : List (Nat × Level) := (trvLevels t).filter (fun x => x.2.en)

/-- The levels that a compute instruction walks (R198). -/
def walked (t : BitVec 1024) : List (Nat × Level) := (enabledLevels t).filter (fun x => 2 ≤ x.2.mlev)

/-- A stride of the header: the signed 32 bits at word position `k` (R196). -/
def trvStride (t : BitVec 1024) (k : Nat) : Int := signed 32 (bvf t (32 * k) 32)

/-- Base units of M, N and K (R199). -/
structure Units where
  m : Nat := 16
  n : Nat := 16
  k : Nat
deriving DecidableEq, Repr

/-- The base unit of dimension `d`. -/
def Units.of (u : Units) (d : Nat) : Nat := if d = 0 then u.m else if d = 1 then u.n else u.k

/-- Product of the counts of the levels of dimension `d`. -/
def dimCount (ls : List (Nat × Level)) (d : Nat) : Nat :=
  ((ls.filter (fun x => x.2.dim == d)).map (fun x => x.2.count)).foldl (· * ·) 1

/-- Bucket extent of dimension `d` (R199). -/
def bucket (u : Units) (ls : List (Nat × Level)) (d : Nat) : Nat := u.of d * dimCount ls d

/-- One point of the nest: the coordinates (m, n, k) and the operand offsets from the strides (R199, R200). -/
structure Visit where
  m : Nat := 0
  n : Nat := 0
  k : Nat := 0
  a : Int := 0
  w : Int := 0
  o : Int := 0
deriving DecidableEq, Repr

/-- The visits of a nest, the innermost level advancing fastest (R199, R200). -/
def visits (u : Units) : List (Nat × Level) → List Visit
  | [] => [{}]
  | (_, lv) :: rest =>
    let inner := visits u rest
    let span := u.of lv.dim * dimCount rest lv.dim
    (List.range lv.count).flatMap (fun (i : Nat) => inner.map (fun v =>
      { m := if lv.dim = 0 then v.m + i * span else v.m
        n := if lv.dim = 1 then v.n + i * span else v.n
        k := if lv.dim = 2 then v.k + i * span else v.k
        a := v.a + i * lv.sa
        w := v.w + i * lv.sw
        o := v.o + i * lv.so }))

/-- The output tiles in the order in which the nest first reaches them, the K levels disregarded (R205). -/
def tilesOf (u : Units) (ls : List (Nat × Level)) : List Visit := visits u (ls.filter (fun x => x.2.dim != 2))

/-- Output tile number `q` of a nest without K levels, and what is left of `q` (R205). -/
def tileAt (u : Units) : List (Nat × Level) → Nat → Visit × Nat
  | [], q => ({}, q)
  | (_, lv) :: rest, q =>
    let (v, q') := tileAt u rest q
    let i := q' % lv.count
    let span := u.of lv.dim * dimCount rest lv.dim
    ({ m := if lv.dim = 0 then v.m + i * span else v.m
       n := if lv.dim = 1 then v.n + i * span else v.n
       k := v.k, a := v.a + i * lv.sa, w := v.w + i * lv.sw, o := v.o + i * lv.so }, q' / lv.count)

/-- Number of output tiles. -/
def tileCount (ls : List (Nat × Level)) : Nat := dimCount ls 0 * dimCount ls 1

/-- Lowest reach of a sum of strides: Σ min(0, (count − 1)·stride). -/
def loSum : List (Nat × Int) → Int
  | [] => 0
  | (n, st) :: r => min 0 (((n : Int) - 1) * st) + loSum r

/-- Highest reach of a sum of strides. -/
def hiSum : List (Nat × Int) → Int
  | [] => 0
  | (n, st) :: r => max 0 (((n : Int) - 1) * st) + hiSum r

/-- The interval of an operand that starts at `base`, moves by (count, stride) pairs and takes `bytes` at each place. -/
def spanOpnd (operand mem base : Nat) (steps : List (Nat × Int)) (bytes : Nat) (write : Bool) : Opnd :=
  { operand := operand, mem := mem, lo := base + loSum steps, hi := base + hiSum steps + bytes - 1, write := write }

/-- Shape checks of R201 on the enabled levels. `dims` are the dimensions that a walked level may name; `kInner` asks
that every walked K level lies inside every walked M and N level. -/
def levelChecks (t : BitVec 1024) (dims : List Nat) (kInner : Bool) : List (Option ShapeFail) :=
  let en := enabledLevels t
  let wk := walked t
  let order := (en.zip (en.drop 1)).find? (fun x => x.2.2.mlev < x.1.2.mlev)
  let alien := wk.find? (fun x => !dims.contains x.2.dim)
  let outer := wk.find? (fun x => x.2.dim == 2 && wk.any (fun y => x.1 < y.1 && y.2.dim < 2))
  [match order with
    | some x => some (0x04, x.2.1, x.2.2.mlev, x.1.2.mlev)
    | none => none,
   match alien with
    | some x => some (0x05, x.1, x.2.dim, dims.foldl max 0)
    | none => none,
   match outer with
    | some x => if kInner then some (0x06, x.1, x.1, wk.foldl (fun a y => if y.2.dim < 2 then max a y.1 else a) 0) else none
    | none => none]

/-- Extent check 0x01 for one dimension (R206); the level is not applicable. -/
def extentCheck (extent bkt : Nat) : Option ShapeFail := shapeChk (decide (bkt < extent)) 0x01 0xFF extent bkt

/-- The lowest reason among failing shape checks (R208). -/
def lowestShape (cs : List (Option ShapeFail)) : List (Option ShapeFail) :=
  [cs.foldl (fun a c => match a, c with
    | none, c => c
    | a, none => a
    | some x, some y => if y.1 < x.1 then some y else some x) none]

end Sys2Proof.Machine
end

