-- ==== Sys2Proof/Machine/Profile.lean ====
section
/-!
DEFINITION. The fields of a PROFILE entry (06 R190) and the profile checks of MATB (02 R59, 03 R60, R68, 04 R125,
05 R155).
-/

namespace Sys2Proof.Machine

/-- The profile of a captured instruction, its fields read out (R190). -/
structure Prof where
  fn : Nat
  a : Nat
  w : Nat
  aSigned : Bool
  wSigned : Bool
  zpEn : Bool
  msb : Bool
  tileOrder : Bool
  thrEarly : Bool
  chunkLen : Nat
  split : Bool
  gs : Bool
  frac : Nat
  dziro : Bool
  fp32 : Bool
  thr : Int
  seed : Word
  azp : Nat
  ozp : Int
  expMul : Nat
  expShift : Nat
  wGrid : Nat
  wCb : Nat
  outKind : Nat
  stoch : Bool
  outSigned : Bool
  outW : Nat
  outCb : Nat
  actEn : Bool
  actSel : Nat
  gqMode : Nat
  gqLen : Nat
  calEn : Bool
  calMon : Nat
  rfN : Nat
  rfShift : Nat
  rfSign : Bool
  rfIn : Nat
  rfOut : Nat
  sp : Nat
  spThr : Nat
  dry : Bool
  trunc : Nat
  shal : Nat
  zb : Bool
deriving DecidableEq, Repr

/-- A chunk-length code (R58); the reserved 11b, which only a task-image restore can load, is taken as 32 (DESIGN
CHOICE, log 97). -/
def chunkOf (c : Nat) : Nat := if c = 0 then 128 else if c = 1 then 64 else 32

/-- Read the fields of a PROFILE entry. -/
def prof (b : BitVec 256) : Prof :=
  { fn := bvf b 0 3, a := bvf b 3 4 + 1, w := bvf b 7 4 + 1, aSigned := bvb b 11, wSigned := bvb b 12, zpEn := bvb b 13,
    msb := bvb b 14, tileOrder := bvb b 15, thrEarly := bvb b 16, chunkLen := chunkOf (bvf b 17 2), split := bvb b 19,
    gs := bvb b 20, frac := bvf b 21 5, dziro := bvb b 26, fp32 := bvb b 27, thr := signed 32 (bvf b 32 32),
    seed := BitVec.ofNat 64 (bvf b 64 64), azp := bvf b 128 16, ozp := signed 16 (bvf b 144 16), expMul := bvf b 160 16,
    expShift := bvf b 176 5, wGrid := bvf b 181 2, wCb := bvf b 183 3, outKind := bvf b 186 3, stoch := bvb b 189,
    outSigned := bvb b 190, outW := bvf b 192 4 + 1, outCb := bvf b 196 3, actEn := bvb b 199, actSel := bvf b 200 3,
    gqMode := bvf b 203 2, gqLen := chunkOf (bvf b 205 2), calEn := bvb b 207, calMon := bvf b 208 2,
    rfN := bvf b 210 4 + 5, rfShift := bvf b 214 4, rfSign := bvb b 218, rfIn := 8 * 2 ^ bvf b 219 2,
    rfOut := 8 * 2 ^ bvf b 221 2, sp := bvf b 223 3, spThr := bvf b 226 4, dry := bvb b 230, trunc := bvf b 231 5,
    shal := bvf b 236 5, zb := bvb b 241 }

/-- The array's activation width a' (R36). -/
def Prof.a' (q : Prof) : Nat := if q.zpEn then q.a + 1 else q.a

/-- Whether the activation planes are signed (R36). -/
def Prof.aNeg (q : Prof) : Bool := q.zpEn || q.aSigned

/-- Paired mode (R67). -/
def Prof.paired (q : Prof) : Bool := decide (16 < q.a' + q.w)

/-- BOOL or THR: whole-reduction functions (R42). -/
def Prof.whole (q : Prof) : Bool := q.fn == 3 || q.fn == 4

/-- 2:4 form of an operand (R142). -/
def Prof.is24 (q : Prof) : Bool := q.sp == 4 || q.sp == 5

/-- Dense reduction elements of one chunk (R49, R60, R142). -/
def Prof.chunk (q : Prof) : Nat :=
  if q.is24 && !q.gs then 256 else if q.whole then 128 else q.chunkLen

/-- The K unit of a MATB (R199). -/
def Prof.kUnit (q : Prof) : Nat := if q.is24 && !q.gs then 256 else 128

/-- Reserved encodings of a PROFILE entry: the lowest bit of the first field found reserved (R57, R58, R124, R154). -/
def profReserved (b : BitVec 256) : Option Nat :=
  ([(0, decide (4 < bvf b 0 3)), (17, bvf b 17 2 == 3), (186, decide (4 < bvf b 186 3)), (203, bvf b 203 2 == 3),
    (205, bvf b 205 2 == 3), (210, decide (7 < bvf b 210 4)), (214, decide (12 < bvf b 214 4)), (219, bvf b 219 2 == 3),
    (221, bvf b 221 2 == 3), (223, decide (5 < bvf b 223 3))].find? (fun x => x.2)).map (fun x => x.1)

/-- The illegal profiles of a MATB in ascending reason (R59, R60, R68, R125, R155). `slot`, `acc` and `tagsDiffer`
come from the instruction and the pool's mode tags. 0x16 is raised for BOOL and THR too (DESIGN CHOICE, log 97: R65
gives `sum_order` no effect there, R155 lists the reason without exception). -/
def matbProfile (q : Prof) (slot : Nat) (acc tagsDiffer : Bool) : List (Nat × Bool) :=
  let chunked := !q.whole
  let single := q.fn == 1 || q.fn == 2 || q.fn == 3
  let rule := decide (q.chunk * (2 ^ q.a' - 1) * (2 ^ q.w - 1) < 2 ^ 31)
  [(0x01, single && (q.a' != 1 || q.w != 1 || q.aSigned || q.wSigned)),
   (0x02, q.zpEn && q.a == 16),
   (0x03, q.zpEn && q.fn != 0 && q.fn != 4),
   (0x04, q.gs && q.fn != 0),
   (0x05, q.tileOrder && !q.whole),
   (0x06, q.thrEarly && !q.whole),
   (0x07, q.split && q.whole),
   (0x08, chunked && !rule && !q.split),
   (0x09, q.dziro && q.split),
   (0x0A, q.paired && 16 ≤ slot),
   (0x0B, acc && tagsDiffer),
   (0x0E, q.wGrid != 0),
   (0x13, (q.sp != 0 || q.dry) && (q.fn == 1 || q.fn == 2)),
   (0x14, (q.sp == 1 || q.sp == 2 || q.sp == 3) && 8 < q.w),
   (0x15, q.sp != 0 && q.split),
   (0x16, q.is24 && q.dziro),
   (0x17, q.is24 && q.gs && q.chunkLen == 32),
   (0x18, q.shal != 0 && (q.fn != 0 || q.chunkLen != 128 || q.sp != 0 || 8 < q.w)),
   (0x19, q.trunc != 0 && ((q.fn == 1 || q.fn == 2 || q.fn == 3) || q.a' + q.w < q.trunc + 2))]

end Sys2Proof.Machine
end

