-- ==== Sys2Proof/Machine/Pool.lean ====
section
/-!
DEFINITION. The pool (03 R66 to R70): reading and writing values of single and paired slots, the guarded range, and
the summation of promoted values in native and in Dziro-compatible order (R73, R74).
-/

namespace Sys2Proof.Machine

/-- Bits of a guarded value (R66, R67). -/
def guardBits (paired : Bool) : Nat := if paired then 72 else 36

/-- Lower limit of the guarded range. -/
def guardLo (paired : Bool) : Int := -(2 ^ (guardBits paired - 1) : Nat)

/-- Upper limit of the guarded range. -/
def guardHi (paired : Bool) : Int := (2 ^ (guardBits paired - 1) : Nat) - 1

/-- Entry number of output `i` (16·r + c) of a slot (R66, R67). -/
def entryNo (paired : Bool) (slot i : Nat) : Nat := if paired then 512 * slot + 2 * i else 256 * slot + i

/-- Value and overflow bit of an output. -/
def poolGet (pool : SMap PoolEntry) (paired : Bool) (slot i : Nat) : Int × Bool :=
  let e := SMap.get {} pool (entryNo paired slot i)
  if paired then
    let h := SMap.get {} pool (entryNo paired slot i + 1)
    (signed 72 (e.v.toNat + h.v.toNat * 2 ^ 36), e.ovf)
  else (signed 36 e.v.toNat, e.ovf)

/-- Set an output. -/
def poolSet (pool : SMap PoolEntry) (paired : Bool) (slot i : Nat) (v : Int) (ovf : Bool) : SMap PoolEntry :=
  let n := entryNo paired slot i
  if paired then
    let u := unsignedBits 72 v
    SMap.store {} (SMap.store {} pool n { v := BitVec.ofNat 36 u, ovf := ovf }) (n + 1)
      { v := BitVec.ofNat 36 (u / 2 ^ 36), ovf := false }
  else SMap.store {} pool n { v := BitVec.ofNat 36 (unsignedBits 36 v), ovf := ovf }

/-- Whether the mode tag of slot `slot` differs from the mode; a paired slot names the tags of the two single slots that it
covers, and differs where either is single (R68). -/
def tagDiffers (tags : BitVec 32) (paired : Bool) (slot : Nat) : Bool :=
  if paired then !(bvb tags (2 * slot) && bvb tags (2 * slot + 1)) else bvb tags slot

/-- Whether the mode tag of one of the existing slots among `n` from `slot` differs from the mode (R68); slots past the last
one are a matter of SHAPE_EXCEEDS reason 0x02 (R172, R175). -/
def tagsDiffer (tags : BitVec 32) (paired : Bool) (slot n : Nat) : Bool :=
  (List.range (min n 32)).any (fun i => decide (slot + i < (if paired then 16 else 32)) && tagDiffers tags paired (slot + i))

/-- Set the mode tag of a slot; a paired slot sets both (R68). -/
def setTag (tags : BitVec 32) (paired : Bool) (slot : Nat) : BitVec 32 :=
  if paired then tags ||| slotMask (2 * slot) 2 else tags &&& ~~~ (slotMask slot 1)

/-- Slots 0 to 31 that a run of `n` slots from `slot` occupies. -/
def modeMask (paired : Bool) (slot n : Nat) : BitVec 32 :=
  if paired then slotMask (2 * slot) (2 * min n 16) else slotMask slot (min n 32)

/-- The check of R70 for a value on its own: the value and whether it overflows. -/
def guardClamp (paired : Bool) (v : Int) : Int × Bool :=
  (clampInt (guardLo paired) (guardHi paired) v, decide (v < guardLo paired ∨ guardHi paired < v))

/-- Adding a promoted value to a value that may be frozen (R70): the new value, its overflow bit, and whether it
overflows now. -/
def guardAdd (paired : Bool) (old : Int × Bool) (pv : Int) : (Int × Bool) × Bool :=
  if old.2 then (old, false)
  else
    let a := guardClamp paired pv
    if a.2 then ((a.1, true), true)
    else
      let b := guardClamp paired (old.1 + pv)
      ((b.1, b.2), b.2)

/-- A SAT record after one more affected entry. -/
def satNote (r : Option SatRec) (slot i idx : Nat) (low : Bool) (meaning : Nat) : Option SatRec :=
  match r with
  | none => some { slot := slot, row := i / 16, col := i % 16, idx := idx, count := 1, low := low, meaning := meaning }
  | some x => some { x with count := x.count + 1 }

/-- Add one promoted value into output `i` of a slot, noting a new overflow at chunk `idx`. -/
def poolAdd (paired : Bool) (slot idx : Nat) (st : SMap PoolEntry × Option SatRec) (i : Nat) (pv : Int) :
    SMap PoolEntry × Option SatRec :=
  let (new, now) := guardAdd paired (poolGet st.1 paired slot i) pv
  (poolSet st.1 paired slot i new.1 new.2,
   if now then satNote st.2 slot i idx (decide (new.1 < 0)) 0 else st.2)

/-! ### Promotion (R62, R63) -/

/-- Significand and exponent of a scale byte (R62). -/
def scaleOf (b : Nat) : Int × Int := (16 + (b % 16 : Nat), (b / 16 % 16 : Nat) - 19)

/-- The promoted value of chunk value `v` (R63): `pl` is the signed weight-plane factor under split promotion, 1
otherwise; `sb` is the group's scale byte where group scales are enabled. -/
def promote (frac : Nat) (sb : Option Nat) (pl v : Int) : Int :=
  let (m, e) := match sb with
    | some b => scaleOf b
    | none => (1, 0)
  let x := pl * v * m
  let k : Int := e + frac
  if 0 ≤ k then x * 2 ^ k.toNat else rneShift x (-k).toNat

/-! ### The Dziro-compatible tree (R74) -/

/-- A tree node: its value, and, when overflowed, the chunk index and sign of its first overflow; and the highest leaf
that it covers. -/
structure Node where
  v : Int
  ovf : Option (Nat × Bool)
  top : Nat
deriving DecidableEq, Repr

/-- A leaf (R74): checked on its own. -/
def leafNode (paired : Bool) (i : Nat) (pv : Int) : Node :=
  let a := guardClamp paired pv
  { v := a.1, ovf := if a.2 then some (i, decide (a.1 < 0)) else none, top := i }

/-- The sum of two nodes. -/
def joinNodes (paired : Bool) (x y : Node) : Node :=
  match x.ovf, y.ovf with
  | some a, some b => { v := x.v, ovf := some (if b.1 < a.1 then b else a), top := y.top }
  | some a, none => { v := x.v, ovf := some a, top := y.top }
  | none, some b => { v := y.v, ovf := some b, top := y.top }
  | none, none =>
    let a := guardClamp paired (x.v + y.v)
    { v := a.1, ovf := if a.2 then some (y.top, decide (a.1 < 0)) else none, top := y.top }

/-- One level of the tree. -/
def treeLevel (paired : Bool) : List Node → List Node
  | x :: y :: r => joinNodes paired x y :: treeLevel paired r
  | r => r

/-- The root after at most `n` levels. -/
def treeRoot (paired : Bool) : Nat → List Node → Option Node
  | 0, ns => ns.head?
  | n + 1, ns => match ns with
    | [] => none
    | [x] => some x
    | ns => treeRoot paired n (treeLevel paired ns)

/-- The root of the leaves of one output, in reduction order. -/
def dziroRoot (paired : Bool) (leaves : List Int) : Option Node :=
  treeRoot paired 6 (leaves.mapIdx (fun i pv => leafNode paired i pv))

/-- The root reaches its entry (R74): the new value and overflow bit, and the chunk index and sign of a new overflow. -/
def dziroEntry (paired acc : Bool) (old : Int × Bool) (root : Node) : (Int × Bool) × Option (Nat × Bool) :=
  if !acc then ((root.v, root.ovf.isSome), root.ovf)
  else if old.2 then (old, none)
  else match root.ovf with
    | some o => ((root.v, true), some o)
    | none =>
      let a := guardClamp paired (old.1 + root.v)
      ((a.1, a.2), if a.2 then some (root.top, decide (a.1 < 0)) else none)

end Sys2Proof.Machine
end

