-- ==== Sys2Proof/Machine/Planes.lean ====
section
/-!
DEFINITION. Bit-plane arithmetic (02 R34 to R50, 05 R136, R148, R150): planes, pair contributions and chunk values; the
cycles that a slice takes (02 R52, R55, 05 R137, R141, R143); the early end of BOOL and THR (02 R47, R48).
-/

namespace Sys2Proof.Machine

/-- The planes of a list of codes, lane 0 first: plane `k` has bit `n` of lane `n`'s bit `k` (R34). -/
def planes (bits : Nat) (codes : List Nat) : List Nat :=
  (List.range bits).map (fun k => codes.foldr (fun c acc => 2 * acc + (c >>> k) % 2) 0)

/-- Ones among the low `n` bits. -/
def popcount : Nat → Nat → Nat
  | 0, _ => 0
  | n + 1, x => x % 2 + popcount n (x / 2)

/-- Plane sign (R34): -1 for the top plane of a signed operand. -/
def planeSign (isSigned : Bool) (bits k : Nat) : Int := if isSigned && k + 1 == bits then -1 else 1

/-- The pair sequence of R44. -/
def pairSeq (msb : Bool) (a w : Nat) : List (Nat × Nat) :=
  let seq := (List.range w).flatMap (fun j => (List.range a).map (fun i => (i, j)))
  if msb then seq.reverse else seq

/-- Gate outputs that are 1 over the valid lanes (R40). A reserved function that a task-image restore loaded counts as
MUL (DESIGN CHOICE, log 97: R194 states no check of the area). -/
def gateCount (fn lanes valid a w : Nat) : Nat :=
  let g := if fn = 1 then valid ^^^ (valid &&& (a ^^^ w)) else if fn = 2 then valid &&& (a ^^^ w) else valid &&& a &&& w
  popcount lanes g

/-- Contribution of one pair with count `pc` (R40, R50): `split` leaves out the weight-plane factor. BOOL contributes
its count; the register is set where the total is positive. -/
def contribution (q : Prof) (i j pc nv : Nat) : Int :=
  if q.fn = 1 then 2 * (pc : Int) - nv
  else if q.fn = 2 ∨ q.fn = 3 then pc
  else if q.split then planeSign q.aNeg q.a' i * 2 ^ i * pc
  else planeSign q.aNeg q.a' i * planeSign q.wSigned q.w j * 2 ^ (i + j) * pc

/-- Whether pair (i, j) runs: it is not truncated (R148). -/
def pairRuns (q : Prof) (i j : Nat) : Bool := decide (q.trunc ≤ i + j)

/-- Whether pair (i, j) is a shallow pair (R149). -/
def pairShallow (q : Prof) (i j : Nat) : Bool := q.shal != 0 && decide (i + j < q.shal)

/-- The count of a shallow pair: within 15 of the exact count and within [0, n_valid], otherwise free (R150). -/
def shallowCount (free pc nv : Nat) : Nat := min nv ((pc + free % 31) - 15)

/-- The contribution of pair (i, j) on plane lists `A`, `W` over the valid lanes; `free` gives the free value of the
pair under shallow cadence. -/
def pairValue (q : Prof) (free : Nat → Nat) (A W : List Nat) (lanes valid nv : Nat) (ij : Nat × Nat) : Int :=
  let pc := gateCount q.fn lanes valid (A.getD ij.1 0) (W.getD ij.2 0)
  let pc := if pairShallow q ij.1 ij.2 then shallowCount (free (ij.1 * 16 + ij.2)) pc nv else pc
  contribution q ij.1 ij.2 pc nv

/-- The pairs that a dry plane removes from a segment (R136): `dry i j` says that activation plane `i` or weight plane
`j` is dry in it. -/
abbrev Dry := Nat → Nat → Bool

/-- No plane is dry. -/
def noDry : Dry := fun _ _ => false

/-- The chunk register over a segment (R38 to R42): the sum of the contributions of the pairs of `seq` that run. A pair
with a dry plane is removed and contributes exactly 0 (R136). -/
def chunkSum (q : Prof) (free : Nat → Nat) (A W : List Nat) (lanes valid nv : Nat) (seq : List (Nat × Nat))
    (dry : Dry := noDry) : Int :=
  ((seq.filter (fun ij => pairRuns q ij.1 ij.2 && !dry ij.1 ij.2)).map (pairValue q free A W lanes valid nv)).foldl (· + ·) 0

/-- The chunk values of a segment with the weight-plane factor of each (R61, R63): one value, or one per weight plane
in the sequence of R44 under split promotion. -/
def chunkVals (q : Prof) (free : Nat → Nat) (A W : List Nat) (lanes valid nv : Nat) (dry : Dry := noDry) :
    List (Int × Int) :=
  let seq := pairSeq q.msb q.a' q.w
  if q.split then
    let js := if q.msb then (List.range q.w).reverse else List.range q.w
    js.map (fun j => (planeSign q.wSigned q.w j * 2 ^ j,
      chunkSum q free A W lanes valid nv (seq.filter (fun ij => ij.2 == j)) dry))
  else [(1, chunkSum q free A W lanes valid nv seq dry)]

/-- The result that a whole-reduction function writes for the sum `x` of its register (R42). -/
def wholeResult (q : Prof) (x : Int) : Int :=
  if q.fn = 3 then (if 0 < x then 1 else 0) else (if q.thr ≤ x then 1 else 0)

/-- Whether plane `i` has no 1 in the lanes that each row, or column, is fed (R136). -/
def planeDry (vs : List (List Nat)) (fed : List Nat) (i : Nat) : Bool :=
  (vs.zip fed).all (fun x => x.1.getD i 0 &&& x.2 == 0)

/-- The dry pairs of a segment with the planes `A` and `W` of its rows and columns and the lanes fed to them (R136). -/
def dryOf (q : Prof) (A W : List (List Nat)) (fedA fedW : List Nat) : Dry := fun i j =>
  q.dry && (planeDry A fedA i || planeDry W fedW j)

/-! ### Cycles -/

/-- The pairs of a segment that run, in the sequence of R44. -/
def livePairs (q : Prof) (dry : Dry) : List (Nat × Nat) :=
  (pairSeq q.msb q.a' q.w).filter (fun ij => pairRuns q ij.1 ij.2 && !dry ij.1 ij.2)

/-- Cycles in which the pairs `ps` of a segment enter the gates at `g` lane groups (R50, R137). -/
def pairCycles (q : Prof) (g : Nat) (ps : List (Nat × Nat)) : Nat :=
  if q.split then ((List.range q.w).map (fun j => ceilDiv (ps.filter (fun x => x.2 == j)).length g)).foldl (· + ·) 0
  else ceilDiv ps.length g

/-- The dense count of R55 for a reduction extent of `k`. -/
def denseCount (q : Prof) (k : Nat) : Nat :=
  if q.whole then ceilDiv k 128 * (q.a' * q.w)
  else ceilDiv k q.chunkLen *
    (if q.split then q.w * ceilDiv q.a' (128 / q.chunkLen) else ceilDiv (q.a' * q.w) (128 / q.chunkLen))

/-- Cycles of the fill of one dense slice (R52). -/
def fillCycles (q : Prof) : Nat := ceilDiv (q.a' + q.w) 2

/-- Lanes of each group in a sparse window with `m` hits in its fullest row (R141). -/
def groupLanes (m : Nat) : Nat := if m ≤ 32 then 32 else if m ≤ 64 then 64 else 128

/-- A sparse window with `m` hits and a union of `u` (R141): the cycles that carry pairs, and the fill waits before them. -/
def windowCycles (q : Prof) (m u : Nat) (ps : List (Nat × Nat)) : Nat × Nat :=
  if m = 0 then (0, 0)
  else
    let a := ceilDiv ps.length (128 / groupLanes m)
    let b := ceilDiv (2 * q.chunk * q.a' + 2 * (if q.sp = 1 then q.chunk else u) * q.w) 512
    (a, b - a)

/-- Bytes of the fill of one slice, or chunk, in 2:4 form (R143). -/
def fill24 (q : Prof) : Nat :=
  if q.gs then (if q.sp = 4 then 2 * q.chunk * q.a' + q.chunk * q.w else 2 * q.chunk * q.w + q.chunk * q.a') + 2 * q.chunk
  else (if q.sp = 4 then 512 * q.a' + 256 * q.w else 512 * q.w + 256 * q.a') + 512

/-- Lane groups of a slice or chunk in 2:4 form (R142). -/
def groups24 (q : Prof) : Nat := if q.gs then 256 / q.chunk else 1

/-- Whether a tile in 2:4 form runs in dense form, since its time would exceed the dense one (R143). -/
def dense24Form (q : Prof) : Bool :=
  decide (denseCount q q.chunk < max (ceilDiv (q.a' * q.w) (groups24 q)) (ceilDiv (fill24 q) 512))

/-- A slice or chunk of `nv` elements in 2:4 form (R143): the cycles that carry pairs, and the fill waits. -/
def cycles24 (q : Prof) (nv : Nat) (ps : List (Nat × Nat)) : Nat × Nat :=
  if dense24Form q then (ceilDiv nv 128 * pairCycles q (if q.gs then 128 / q.chunk else 1) ps, 0)
  else
    let a := pairCycles q (groups24 q) ps
    (a, ceilDiv (fill24 q) 512 - a)

/-- A dense slice of `c` cycles of pairs enters the array (R52): the line after it, and the cycles it stalls. -/
def ArrayLine.slice (x : ArrayLine) (q : Prof) (c : Nat) : ArrayLine × Nat :=
  let fe := max x.st x.fe + fillCycles q
  let st := max x.et fe
  ({ st := st, et := st + c, fe := fe }, st - x.et)

/-- A slice that counts its fill in its own time of `c` cycles enters the array (R141, R143). -/
def ArrayLine.own (x : ArrayLine) (c : Nat) : ArrayLine := { st := x.et, et := x.et + c, fe := x.et }

/-! ### BOOL and THR over one tile (R42, R46 to R48) -/

/-- One slice of a whole-reduction function: planes of the rows and columns, its valid lanes, the valid lanes of each row in
the bounds of R47, the dry pairs, the pairs of one cycle, the fill waits before the first, whether it opens a visit that
runs sparse, and the number of its visit and the place at which its fill checks are made. -/
structure Slice where
  A : List (List Nat)
  W : List (List Nat)
  valid : Nat
  nv : Nat
  nvRow : List Nat
  drop : List (Nat × Nat)
  live : List (Nat × Nat)
  g : Nat
  wait : Nat
  own : Bool
  sparse : Bool
deriving DecidableEq, Repr

/-- The weighted sum of the pairs of `ps` whose sign is positive, or negative: one lane's part of the bounds of R47. -/
def pairWeight (q : Prof) (pos : Bool) (ps : List (Nat × Nat)) : Int :=
  (ps.map (fun ij =>
    let sg := planeSign q.aNeg q.a' ij.1 * planeSign q.wSigned q.w ij.2
    if decide (0 < sg) == pos then sg * 2 ^ (ij.1 + ij.2) else 0)).foldl (· + ·) 0

/-- A tile of a whole-reduction function while it runs: the 256 registers, M+ and M− of each row (R47), the cycles that
carried pairs, and whether every cell is decided. -/
structure TileRun where
  sums : List Int
  mp : List Int
  mm : List Int
  cc : Nat := 0
  decided : Bool := false
deriving DecidableEq, Repr

/-- Take pairs of a slice out of the sets that the bounds are taken over. -/
def TileRun.leave (x : TileRun) (q : Prof) (sl : Slice) (ps : List (Nat × Nat)) : TileRun :=
  let cut (pos : Bool) (m : List Int) : List Int :=
    m.mapIdx (fun r b => b - (sl.nvRow.getD r 0 : Nat) * pairWeight q pos ps)
  { x with mp := cut true x.mp, mm := cut false x.mm }

/-- Whether a cell inside the output extents is decided (R47). -/
def TileRun.cellDecided (x : TileRun) (q : Prof) (i : Nat) : Bool :=
  let sum := x.sums.getD i 0
  if q.fn = 3 then decide (0 < sum)
  else decide (q.thr ≤ sum + x.mm.getD (i / 16) 0) || decide (sum + x.mp.getD (i / 16) 0 < q.thr)

/-- The tile with the bounds of all of its slices: every pair that truncation leaves (R47, R137). -/
def TileRun.start (q : Prof) (sls : List Slice) : TileRun :=
  let all := livePairs q noDry
  let bound (pos : Bool) : List Int := (List.range 16).map (fun r =>
    (((sls.map (fun sl => sl.nvRow.getD r 0)).foldl (· + ·) 0 : Nat) : Int) * pairWeight q pos all)
  { sums := List.replicate 256 0, mp := bound true, mm := bound false }

/-- One cycle of a slice: the pairs `ps` enter the gates and leave the remaining set; a cell beyond the extents of `rows`
and `cols` is decided from the start (R48). -/
def TileRun.cycle (x : TileRun) (q : Prof) (rows cols : Nat) (sl : Slice) (ps : List (Nat × Nat)) : TileRun :=
  if ps.isEmpty then x
  else
    let val (i : Nat) : Int := (ps.map (pairValue q (fun _ => 0) (sl.A.getD (i / 16) []) (sl.W.getD (i % 16) []) q.kUnit
      sl.valid sl.nv)).foldl (· + ·) 0
    let y := ({ x with sums := x.sums.mapIdx (fun i sum => sum + val i), cc := x.cc + 1 } : TileRun).leave q sl ps
    { y with decided := q.thrEarly && (List.range 256).all (fun i =>
        decide (rows ≤ i / 16) || decide (cols ≤ i % 16) || y.cellDecided q i) }

/-- The result that a cell writes (R42, R47): a decided cell writes what it has decided, which at the end of the reduction is
the comparison of its register. -/
def TileRun.result (x : TileRun) (q : Prof) (rows cols i : Nat) : Int :=
  let inside := decide (i / 16 < rows) && decide (i % 16 < cols)
  wholeResult q (x.sums.getD i 0 + (if inside && q.fn = 4 then x.mm.getD (i / 16) 0 else 0))

/-- A list cut into pieces of `n`; `fuel` bounds the number of pieces. -/
def piecesOf {α : Type} (n : Nat) : Nat → List α → List (List α)
  | 0, _ => []
  | fuel + 1, xs => if xs.isEmpty then [] else xs.take n :: piecesOf n fuel (xs.drop n)

end Sys2Proof.Machine
end

