-- ==== Sys2Proof/Machine/Array.lean ====
section
/-!
DEFINITION. MATB (06 R172): its plan and checks, the operands of a visit, occupancy and 2:4 forms (05 R130 to R147),
the run over the visits, and the late faults.
-/

namespace Sys2Proof.Machine

/-- What a running MATB works with. -/
structure MatCtx where
  p : Nat
  l : Nat
  pc : Nat
  profNo : Nat
  q : Prof
  t : BitVec 1024
  slot : Nat
  acc : Bool
  sAct : Nat
  sWgt : Nat
  sScl : Nat
  sAbm : Nat
  sWbm : Nat
  K : Nat
  M : Nat
  N : Nat
  bucketK : Nat
  base : Nat
  tiles : List Visit
  sp : Mem
  poison : List Nat
  freeBase : Nat
deriving DecidableEq, Repr

/-- The running state of a MATB: pool, mode tags, the SAT_GUARD record, the slices of the current tile of a
whole-reduction function with the fault that each would meet, or its Dziro leaves, the late fault met, the visits so far
and those that ran sparse, whether the current slot is still to be initialised, the line of the array's slices, and the
cycles that carried pairs, waited for planes and were saved (R441), and what each promotion replaced, newest first. -/
structure MatRun where
  pool : SMap PoolEntry
  paired : BitVec 32
  guard : Option SatRec := none
  slices : List (Slice × Option Fail) := []
  dense : Nat := 0
  leaves : List (List Int) := []
  fault : Option Fail := none
  vno : Nat := 0
  sparse : Nat := 0
  fresh : Bool := false
  line : ArrayLine := {}
  gates : Nat := 0
  waits : Nat := 0
  saved : Nat := 0
  undo : List Undo := []
deriving DecidableEq, Repr

/-- A promotion is about to change the pool. -/
def MatRun.before (x : MatRun) : MatRun :=
  { x with undo := { pool := some (x.pool, x.paired), guard := x.guard } :: x.undo }

/-- A slice takes `c` cycles of pairs; `own` says that it has counted its fill of `w` waiting cycles in its own time. -/
def MatRun.clock (x : MatRun) (q : Prof) (own : Bool) (c w : Nat) : MatRun × Nat :=
  if own then ({ x with line := x.line.own (c + w), gates := x.gates + c, waits := x.waits + w }, c + w)
  else
    let (line, stall) := x.line.slice q c
    ({ x with line := line, gates := x.gates + c, waits := x.waits + stall },
     c + (if decide (x.line.fe = 0) then 0 else stall))

/-- Scratchpad bytes at a window offset. -/
def MatCtx.bytes (c : MatCtx) (off : Int) (n : Nat) : List Byte := memRead c.sp (c.base + off).toNat n

/-- The first poisoned unit among `n` bytes at a window offset. -/
def MatCtx.bad (c : MatCtx) (off : Int) (n : Nat) : Option Nat :=
  if n = 0 then none
  else c.poison.find? (fun u => (c.base + off).toNat / 16 ≤ u && u ≤ ((c.base + off).toNat + n - 1) / 16)

/-- Offset of activation row `r` of a visit (R200). -/
def MatCtx.actOff (c : MatCtx) (v : Visit) (r : Nat) : Int := c.sAct + v.a + r * trvStride c.t 0

/-- Offset of weight column `n` of a visit. -/
def MatCtx.wgtOff (c : MatCtx) (v : Visit) (n : Nat) : Int := c.sWgt + v.w + n * trvStride c.t 1

/-- Offset of the scale byte of column coordinate `n` and reduction coordinate `k`. -/
def MatCtx.sclOff (c : MatCtx) (n k : Nat) : Int := c.sScl + n * trvStride c.t 5 + (k / c.q.chunk : Nat)

/-- Offset of an activation bitmap byte. -/
def MatCtx.abmOff (c : MatCtx) (m k : Nat) : Int := c.sAbm + m * trvStride c.t 3 + (k / 8 : Nat)

/-- Offset of a weight bitmap byte. -/
def MatCtx.wbmOff (c : MatCtx) (n k : Nat) : Int := c.sWbm + n * trvStride c.t 4 + (k / 8 : Nat)

/-- Valid elements of a visit's K unit, its valid rows and its valid columns (R37, R206). -/
def MatCtx.kValid (c : MatCtx) (v : Visit) : Nat := min c.q.kUnit (c.K - v.k)
def MatCtx.rows (c : MatCtx) (v : Visit) : Nat := min 16 (c.M - v.m)
def MatCtx.cols (c : MatCtx) (v : Visit) : Nat := min 16 (c.N - v.n)

/-! ### Dense and 2:4 vectors -/

/-- `n` packed codes of width `b` at a window offset (R93). -/
def MatCtx.codes (c : MatCtx) (off : Int) (b n : Nat) : List Nat :=
  let x := leVal (c.bytes off ((n * b + 7) / 8))
  (List.range n).map (fun i => field x (i * b) b)

/-- Bytes of one 2:4 block (R134). -/
def block24 (b : Nat) : Nat := 8 * b + 16

/-- The 128 dense codes of a 2:4 block given as bytes (R134). A dropped element has code 0 (DESIGN CHOICE for an
activation with a zero point, log 97: R142 has the lane carry a kept element only, R126 speaks of the dense run). -/
def dense24 (b : Nat) (bs : List Byte) : List Nat :=
  let x := leVal (bs.take (8 * b))
  let ix := leVal (bs.drop (8 * b))
  (List.range 32).flatMap (fun g =>
    let i0 := field ix (4 * g) 2
    let i1 := field ix (4 * g + 2) 2
    (List.range 4).map (fun e =>
      if e = i1 then field x ((2 * g + 1) * b) b else if e = i0 then field x (2 * g * b) b else 0))

/-- One failing check of a vector: code, element index within its block, reduction coordinate, found value, the last
field, address. -/
structure MetaBad where
  code : Nat
  elem : Nat
  coord : Nat
  found : Nat
  extra : Nat
  addr : Nat
deriving DecidableEq, Repr

/-- The checks of one 2:4 group at fill (R145): order, then index against the vector's extent. `first` is the
reduction coordinate of the block, `ext` the extent, `addr` the address of the block. -/
def group24Bad (b : Nat) (bs : List Byte) (first ext addr g : Nat) : Option MetaBad :=
  let x := leVal (bs.take (8 * b))
  let ix := leVal (bs.drop (8 * b))
  let i0 := field ix (4 * g) 2
  let i1 := field ix (4 * g + 2) 2
  let far (i c : Nat) : Bool := decide (ext ≤ first + 4 * g + i) && c != 0
  let mk (code found extra : Nat) : Option MetaBad := some
    { code := code, elem := 4 * g, coord := first + 4 * g, found := found, extra := extra, addr := addr + 8 * b }
  if i1 ≤ i0 then mk evMetaOrder i1 i0
  else if far i0 (field x (2 * g * b) b) then mk evMetaIndex i0 ext
  else if far i1 (field x ((2 * g + 1) * b) b) then mk evMetaIndex i1 ext
  else none

/-- The codes of a vector of a visit's unit: dense, or expanded from 2:4 blocks. -/
def MatCtx.vector (c : MatCtx) (comp : Bool) (off : Int) (b kv : Nat) : List Nat :=
  if comp then
    ((List.range (ceilDiv kv 128)).flatMap (fun (i : Nat) => dense24 b (c.bytes (off + i * block24 b) (block24 b)))).take kv
  else c.codes off b kv

/-- The first failing 2:4 check of a vector within elements [lo, hi) of the unit. -/
def MatCtx.bad24 (c : MatCtx) (off : Int) (b k0 lo hi : Nat) : Option MetaBad :=
  (List.range (hi / 4 - lo / 4)).findSome? (fun i =>
    let g := lo / 4 + i
    let blk := g / 32
    let o := off + blk * block24 b
    if k0 + 128 * blk < c.K then group24Bad b (c.bytes o (block24 b)) (k0 + 128 * blk) c.K o.toNat (g % 32) else none)

/-- The zero point of R94. -/
def Prof.zpVal (q : Prof) : Int := if q.aSigned then signed q.a q.azp else ((q.azp % 2 ^ q.a : Nat) : Int)

/-- The a'-bit operand of an activation code (R36): the zero point is subtracted from every code of the dense run, a
dropped 2:4 activation's code 0 too (DESIGN CHOICE, log 97). -/
def Prof.actOperand (q : Prof) (code : Nat) : Nat :=
  if q.zpEn then unsignedBits q.a' ((if q.aSigned then signed q.a code else (code : Int)) - q.zpVal) else code

/-- Activation operands of row `r` of a visit; rows beyond the extent are zero (R206). With `a_zp_en` a dropped 2:4
activation is 0 minus the zero point (DESIGN CHOICE, log 97). -/
def MatCtx.actRow (c : MatCtx) (v : Visit) (r : Nat) : List Nat :=
  if r < c.rows v then (c.vector (c.q.sp == 5) (c.actOff v r) c.q.a (c.kValid v)).map c.q.actOperand else []

/-- Weight codes of column `n` of a visit; columns beyond the extent are zero. -/
def MatCtx.wgtCol (c : MatCtx) (v : Visit) (n : Nat) : List Nat :=
  if n < c.cols v then c.vector (c.q.sp == 4) (c.wgtOff v n) c.q.w (c.kValid v) else []

/-! ### Occupancy, density and the metadata checks -/

/-- Whether the activations, or the weights, carry occupancy bitmaps (R138). -/
def Prof.actMap (q : Prof) : Bool := q.sp == 1 || q.sp == 3
def Prof.wgtMap (q : Prof) : Bool := q.sp == 2 || q.sp == 3

/-- Occupancy of element `e` of the unit in row `r` (R138, R139). -/
def MatCtx.aOcc (c : MatCtx) (v : Visit) (r e : Nat) : Bool :=
  decide (r < c.rows v) && decide (e < c.kValid v) &&
  (!c.q.actMap || ((c.bytes (c.abmOff (v.m + r) (v.k + e)) 1).getD 0 0).toNat.testBit ((v.k + e) % 8))

/-- Occupancy of element `e` of the unit in column `n`. -/
def MatCtx.wOcc (c : MatCtx) (v : Visit) (n e : Nat) : Bool :=
  decide (n < c.cols v) && decide (e < c.kValid v) &&
  (!c.q.wgtMap || ((c.bytes (c.wbmOff (v.n + n) (v.k + e)) 1).getD 0 0).toNat.testBit ((v.k + e) % 8))

/-- The weight union at element `e` (R138): every valid index where weights are dense. -/
def MatCtx.union (c : MatCtx) (v : Visit) (e : Nat) : Bool :=
  if c.q.wgtMap then (List.range 16).any (fun n => c.wOcc v n e) else decide (e < c.kValid v)

/-- Largest hit count of window `w` over the rows (R139). -/
def MatCtx.hits (c : MatCtx) (v : Visit) (w : Nat) : Nat :=
  ((List.range 16).map (fun r =>
    ((List.range c.q.chunk).filter (fun i => c.union v (w * c.q.chunk + i) && c.aOcc v r (w * c.q.chunk + i))).length)).foldl max 0

/-- Whether a visit runs sparse (R139, R204); `ready` says that its scan is complete when its first pair is due, which
the timing decides and the model leaves free (log 7). -/
def MatCtx.sparse (c : MatCtx) (v : Visit) (ready : Bool) : Bool :=
  (c.q.actMap || c.q.wgtMap) && ready &&
  decide (16 * ((List.range (ceilDiv (c.kValid v) c.q.chunk)).map (fun w => c.hits v w)).foldl (· + ·) 0
    ≤ c.q.spThr * c.kValid v)

/-- The fill check of a window of a sparse visit (R145, reason 1) over one vector: an element marked 0 that is not
zero. -/
def zeroMarked (vals : List Nat) (occ : Nat → Bool) (lo hi : Nat) : Option Nat :=
  (List.range (hi - lo)).findSome? (fun i => if !occ (lo + i) && vals.getD (lo + i) 0 != 0 then some (lo + i) else none)

/-- The metadata fault of a chunk of a visit: (operand, row or column, check). `rowsV`, `colsV` hold the operand codes
of the visit. -/
def MatCtx.metaBad (c : MatCtx) (v : Visit) (sparse : Bool) (rowsV colsV : List (List Nat)) (lo hi : Nat) :
    Option (Nat × Nat × MetaBad) :=
  let look (opnd n : Nat) (f : Nat → Option MetaBad) : Option (Nat × Nat × MetaBad) :=
    (List.range n).findSome? (fun r => (f r).map (fun b => (opnd, r, b)))
  let sum (code e : Nat) (addr : Int) : MetaBad :=
    { code := evMetaChecksum, elem := e % 128, coord := v.k, found := 1, extra := code, addr := addr.toNat }
  if c.q.sp == 5 then look 0 (c.rows v) (fun r => c.bad24 (c.actOff v r) c.q.a v.k lo hi)
  else if c.q.sp == 4 then look 1 (c.cols v) (fun n => c.bad24 (c.wgtOff v n) c.q.w v.k lo hi)
  else if !sparse then none
  else
    let a := if c.q.actMap then look 0 (c.rows v) (fun r =>
      (zeroMarked (rowsV.getD r []) (c.aOcc v r) lo hi).map (fun e =>
        sum ((c.vector false (c.actOff v r) c.q.a (c.kValid v)).getD e 0) e (c.abmOff (v.m + r) (v.k + e)))) else none
    match a with
    | some x => some x
    | none => if c.q.wgtMap then look 1 (c.cols v) (fun n =>
        (zeroMarked (colsV.getD n []) (c.wOcc v n) lo hi).map (fun e =>
          sum ((colsV.getD n []).getD e 0) e (c.wbmOff (v.n + n) (v.k + e)))) else none

/-- The record of a metadata fault (R147). -/
def metaFail (code pc profNo opnd slot detected number coord rowcol elem found addr extra : Nat) : Fail :=
  { code := code, payload := placeFields [(0, 8, pc), (8, 1, profNo), (9, 1, opnd), (10, 1, slot), (11, 1, detected),
      (12, 4, number), (16, 4, coord), (20, 1, rowcol), (21, 1, elem), (22, 2, found), (24, 8, addr), (32, 8, extra)] [] }

/-- The first poisoned unit that elements [lo, hi) of a visit read: activations, weights, scale bytes, and the bitmaps
of a sparse visit. -/
def MatCtx.poisonOf (c : MatCtx) (v : Visit) (sparse : Bool) (lo hi : Nat) : Option Nat :=
  if c.poison.isEmpty then none else
  let part (comp : Bool) (off : Int) (b : Nat) : Option Nat :=
    if comp then c.bad (off + (lo / 128) * block24 b) (ceilDiv (hi - lo) 128 * block24 b)
    else c.bad (off + (lo * b / 8 : Nat)) ((hi * b + 7) / 8 - lo * b / 8)
  let a := (List.range (c.rows v)).findSome? (fun r => part (c.q.sp == 5) (c.actOff v r) c.q.a)
  let w := (List.range (c.cols v)).findSome? (fun n => part (c.q.sp == 4) (c.wgtOff v n) c.q.w)
  let sc := if c.q.gs then (List.range (c.cols v)).findSome? (fun n => c.bad (c.sclOff (v.n + n) (v.k + lo)) 1) else none
  let am := if sparse && c.q.actMap then
    (List.range (c.rows v)).findSome? (fun r => c.bad (c.abmOff (v.m + r) (v.k + lo)) (ceilDiv (hi - lo) 8)) else none
  let wm := if sparse && c.q.wgtMap then
    (List.range (c.cols v)).findSome? (fun n => c.bad (c.wbmOff (v.n + n) (v.k + lo)) (ceilDiv (hi - lo) 8)) else none
  [a, w, sc, am, wm].findSome? id

/-! ### Running the visits -/

/-- The number of the tile with these coordinates in the order of R205. -/
def MatCtx.tileNo (c : MatCtx) (v : Visit) : Nat := c.tiles.findIdx (fun t => t.m == v.m && t.n == v.n)

/-- The value that an initialised entry holds before any chunk: a MATB with K = 0 (R172). -/
def MatCtx.emptyValue (c : MatCtx) : Int := if c.q.fn = 4 && decide (c.q.thr ≤ 0) then 1 else 0

/-- Set every output of a slot to `x`, overflow clear. -/
def fillSlot (pool : SMap PoolEntry) (paired : Bool) (slot : Nat) (x : Int) : SMap PoolEntry :=
  (List.range 256).foldl (fun p i => poolSet p paired slot i x false) pool

/-- The slot's tag and entries as an initialising MATB sets them (R68, R172). -/
def MatCtx.init (c : MatCtx) (slot : Nat) (x : MatRun) : MatRun :=
  if x.fresh then { x with pool := fillSlot x.pool c.q.paired slot c.emptyValue, paired := setTag x.paired c.q.paired slot,
                           fresh := false }
  else x

/-- A tile begins. An initialising MATB sets its slot with the first promoted value (R68), so that a fault before it leaves
the slot as it was (R146); a tile that takes no array cycle is set at once (R172, R206). -/
def MatCtx.begin (c : MatCtx) (slot : Nat) (ran : Bool) (x : MatRun) : MatRun :=
  let y := { x with slices := [], dense := 0, leaves := [], fresh := !c.acc }
  if ran then y else c.init slot y

/-- A Dziro root reaches its entry (R74). -/
def MatCtx.roots (c : MatCtx) (slot : Nat) (x : MatRun) : MatRun :=
  let step (st : SMap PoolEntry × List (Nat × Nat × Bool)) (i : Nat) : SMap PoolEntry × List (Nat × Nat × Bool) :=
    match dziroRoot c.q.paired (x.leaves.map (fun ps => ps.getD i 0)) with
    | none => st
    | some root =>
      let (v, o) := dziroEntry c.q.paired c.acc (poolGet st.1 c.q.paired slot i) root
      (poolSet st.1 c.q.paired slot i v.1 v.2, match o with | some (k, lw) => st.2 ++ [(k, i, lw)] | none => st.2)
  let (pool, news) := (List.range 256).foldl step (x.pool, [])
  let first := news.foldl (fun a n => match a with
    | none => some n
    | some b => if n.1 < b.1 then some n else some b) (none : Option (Nat × Nat × Bool))
  let guard := match x.guard, first with
    | g, none => g
    | some r, some _ => some { r with count := r.count + news.length }
    | none, some (k, i, lw) => some
      { slot := slot, row := i / 16, col := i % 16, idx := k, count := news.length, low := lw, meaning := 0 }
  { x with pool := pool, guard := guard }

/-- A slice of a whole-reduction tile comes to the gates for the first time: its fill checks (R145, R401), the pairs that
its dry planes remove leave the remaining set (R137), and a visit that it opens counts as sparse. -/
def MatCtx.enter (c : MatCtx) (st : MatRun × TileRun) (e : Slice × Option Fail) (dry : Bool) : MatRun × TileRun :=
  if st.1.fault.isSome || st.2.decided then st
  else match e.2 with
    | some f => ({ st.1 with fault := some f }, st.2)
    | none => ({ st.1 with sparse := st.1.sparse + b2n e.1.sparse }, if dry then st.2.leave c.q e.1 e.1.drop else st.2)

/-- Slice-major order (R46): each slice in reduction order runs all of its pairs; the tile ends at the first cycle after which
all cells are decided (R47). -/
def MatCtx.sliceMajor (c : MatCtx) (rows cols : Nat) (x : MatRun) : MatRun × TileRun :=
  x.slices.foldl (fun st e =>
    let a := c.enter st e true
    if a.1.fault.isSome || a.2.decided then a
    else
      let run := (piecesOf e.1.g 256 e.1.live).foldl (fun (y : TileRun) ps =>
        if y.decided then y else y.cycle c.q rows cols e.1 ps) a.2
      ((a.1.clock c.q e.1.own (run.cc - a.2.cc) (if e.1.live.isEmpty then 0 else e.1.wait)).1, run)) (x, TileRun.start c.q (x.slices.map (fun e => e.1)))

/-- Significance-major order (R46, R202): each pair sweeps every slice of the tile in reduction order; the dry pairs of every
slice leave the remaining set before the pass begins (R137). -/
def MatCtx.significanceMajor (c : MatCtx) (rows cols : Nat) (x : MatRun) : MatRun × TileRun :=
  let t0 := x.slices.foldl (fun (y : TileRun) e => y.leave c.q e.1 e.1.drop) (TileRun.start c.q (x.slices.map (fun e => e.1)))
  let run := ((livePairs c.q noDry).zipIdx).foldl (fun st pr => x.slices.foldl (fun st e =>
    let a := if pr.2 = 0 then c.enter st e false else st
    if a.1.fault.isSome || a.2.decided || !e.1.live.contains pr.1 then a
    else (a.1, a.2.cycle c.q rows cols e.1 [pr.1])) st) (x, t0)
  ((run.1.clock c.q false run.2.cc 0).1, run.2)

/-- The tile of a whole-reduction function runs, and each cell writes its result (R42, R47, R48). -/
def MatCtx.wholeTile (c : MatCtx) (slot : Nat) (v : Visit) (x : MatRun) : MatRun :=
  let rows := c.rows v
  let cols := c.cols v
  let (y, run) := if c.q.tileOrder then c.significanceMajor rows cols x else c.sliceMajor rows cols x
  let z := { y with saved := y.saved + (x.dense - run.cc), slices := [] }
  if z.fault.isSome then z
  else
    let w := c.init slot z
    { w with pool := (List.range 256).foldl (fun p i => poolSet p c.q.paired slot i (run.result c.q rows cols i) false) w.pool }

/-- The tile ends: whole-reduction results (R42) and Dziro roots (R74) reach the pool. A MATB that has met a fault does not come
here: its Dziro tile forms no root and its slot stays as it was (log 94). -/
def MatCtx.finish (c : MatCtx) (slot : Nat) (ran : Bool) (v : Visit) (x : MatRun) : MatRun :=
  if !ran then c.init slot x.before
  else if c.q.whole then c.wholeTile slot v x.before
  else if c.q.dziro then c.roots slot (c.init slot x.before)
  else c.init slot x

/-- The free value of a pair of cell `i` in chunk `ch` of visit `vno` (R150, log 7). -/
def MatCtx.freeAt (c : MatCtx) (vno ch i k : Nat) : Nat := Config.free (c.freeBase + (((vno * 8 + ch) * 256 + i) * 256 + k))

/-- The lanes of elements [lo, hi) of a unit. -/
def laneMask (lo hi : Nat) : Nat := (2 ^ (hi - lo) - 1) * 2 ^ lo

/-- The hits of row `r` among elements [lo, hi) of a sparse visit (R138). -/
def MatCtx.hitMask (c : MatCtx) (v : Visit) (lo hi r : Nat) : Nat :=
  ((List.range (hi - lo)).filter (fun i => c.union v (lo + i) && c.aOcc v r (lo + i))).foldl (fun m i => m + 2 ^ (lo + i)) 0

/-- The lanes of elements [lo, hi) that each row is fed: its hits in a sparse visit, else every valid lane. -/
def MatCtx.fed (c : MatCtx) (v : Visit) (sparse : Bool) (lo hi : Nat) : List Nat :=
  (List.range 16).map (fun r => if sparse then c.hitMask v lo hi r else laneMask lo hi)

/-- The dry pairs of the segment of elements [lo, hi) (R136). -/
def MatCtx.dry (c : MatCtx) (v : Visit) (sparse : Bool) (lo hi : Nat) (A W : List (List Nat)) : Dry :=
  if !c.q.dry then noDry
  else
    let fa := c.fed v sparse lo hi
    let d := dryOf c.q A W fa (List.replicate 16 (fa.foldl (fun m x => m ||| x) 0))
    fun i j => d i j

/-- One chunk of a visit is summed and delivered (R63, R73). -/
def MatCtx.chunk (c : MatCtx) (v : Visit) (slot ch lo hi : Nat) (A W : List (List Nat)) (dry : Dry) (x0 : MatRun) : MatRun :=
  let x := if c.q.dziro then x0 else c.init slot x0.before
  let nv := hi - lo
  let vals (i : Nat) : List (Int × Int) :=
    chunkVals c.q (c.freeAt x.vno ch i) (A.getD (i / 16) []) (W.getD (i % 16) []) c.q.kUnit (laneMask lo hi) nv dry
  let idx := (v.k + lo) / c.q.chunk
  let sb (i : Nat) : Option Nat :=
    if c.q.gs then some ((c.bytes (c.sclOff (v.n + i % 16) (v.k + lo)) 1).getD 0 0).toNat else none
  let pvs := (List.range 256).map (fun i => (vals i).map (fun y => promote c.q.frac (sb i) y.1 y.2))
  if c.q.dziro then { x with leaves := x.leaves ++ [pvs.map (fun y => y.foldl (· + ·) 0)] }
  else
    let steps := if c.q.split then c.q.w else 1
    let (pool, guard) := (List.range steps).foldl (fun st k =>
      (List.range 256).foldl (fun st i => poolAdd c.q.paired slot idx st i ((pvs.getD i []).getD k 0)) st)
      (x.pool, x.guard)
    { x with pool := pool, guard := guard }

/-- What a visit has in the array: its valid elements, the codes of its rows and columns, their planes, and whether it
runs sparse. -/
structure VisitData where
  kv : Nat
  rowsV : List (List Nat)
  colsV : List (List Nat)
  A : List (List Nat)
  W : List (List Nat)
  sparse : Bool
deriving DecidableEq, Repr

/-- The operands of a visit numbered `vno`. -/
def MatCtx.load (c : MatCtx) (v : Visit) (vno : Nat) : VisitData :=
  let rowsV := (List.range 16).map (fun r => c.actRow v r)
  let colsV := (List.range 16).map (fun n => c.wgtCol v n)
  { kv := c.kValid v, rowsV := rowsV, colsV := colsV, A := rowsV.map (planes c.q.a'), W := colsV.map (planes c.q.w),
    sparse := c.sparse v (c.freeAt vno 7 255 255 % 2 == 0) }

/-- The chunks, or slices, of a visit: (number, first element, end). -/
def MatCtx.segs (c : MatCtx) (d : VisitData) : List (Nat × Nat × Nat) :=
  (List.range (ceilDiv d.kv c.q.chunk)).map (fun ch => (ch, ch * c.q.chunk, min ((ch + 1) * c.q.chunk) d.kv))

/-- The fault that the fill of elements [lo, hi) of a visit meets (R145, R401). -/
def MatCtx.segFault (c : MatCtx) (s : State) (v : Visit) (slot : Nat) (d : VisitData) (lo hi : Nat) : Option Fail :=
  match c.poisonOf v d.sparse lo hi with
  | some u => some (poisonFail s (.sp c.p c.l) u (srcReach c.p c.l))
  | none => (c.metaBad v d.sparse d.rowsV d.colsV lo (if c.q.is24 then min (lo + c.q.chunk) c.q.kUnit else hi)).map
      (fun x => metaFail x.2.2.code c.pc c.profNo x.1 slot 0 (c.tileNo v) x.2.2.coord x.2.1 x.2.2.elem x.2.2.found
        x.2.2.addr x.2.2.extra)

/-- The cycles of elements [lo, hi) of a visit with the live pairs `ps`: those that carry pairs, and the fill waits that the
window or the 2:4 form counts in its own time (R137, R141, R143). -/
def MatCtx.segCycles (c : MatCtx) (v : Visit) (d : VisitData) (lo hi : Nat) (ps : List (Nat × Nat)) : Nat × Nat :=
  if c.q.is24 then cycles24 c.q (hi - lo) ps
  else if d.sparse then windowCycles c.q (c.hits v (lo / c.q.chunk))
    ((List.range (hi - lo)).filter (fun i => c.union v (lo + i))).length ps
  else (pairCycles c.q (if c.q.whole then 1 else 128 / c.q.chunk) ps, 0)

/-- The slices of a visit of a whole-reduction function (R42, R46, R202). -/
def MatCtx.slicesOf (c : MatCtx) (s : State) (v : Visit) (slot : Nat) (d : VisitData) : List (Slice × Option Fail) :=
  (c.segs d).map (fun (ch, lo, hi) =>
    let dry := c.dry v d.sparse lo hi d.A d.W
    let live := livePairs c.q dry
    let m := c.hits v (lo / c.q.chunk)
    let nvRow (r : Nat) : Nat := if d.sparse then popcount c.q.kUnit (c.hitMask v lo hi r)
      else if c.q.is24 then 2 * ((hi - lo) / 4) + min 2 ((hi - lo) % 4) else hi - lo
    ({ A := d.A, W := d.W, valid := laneMask lo hi, nv := hi - lo, nvRow := (List.range 16).map nvRow
       drop := (livePairs c.q noDry).filter (fun ij => dry ij.1 ij.2)
       live := if d.sparse && decide (m = 0) then [] else live
       g := if d.sparse then 128 / groupLanes m else 1
       wait := (c.segCycles v d lo hi live).2, own := d.sparse || c.q.is24, sparse := d.sparse && decide (ch = 0) },
     c.segFault s v slot d lo hi))

/-- The chunks of a visit of a chunked function: promoted one after another until a fault (R146), with the cycles that they
take (R55, R137, R141, R143). -/
def MatCtx.chunks (c : MatCtx) (s : State) (v : Visit) (slot : Nat) (d : VisitData) (x : MatRun) : MatRun :=
  let run := (c.segs d).foldl (fun (st : MatRun × Nat × Nat) (ch, lo, hi) =>
    if st.1.fault.isSome then st
    else match c.segFault s v slot d lo hi with
      | some f => ({ st.1 with fault := some f }, st.2)
      | none =>
        let dry := c.dry v d.sparse lo hi d.A d.W
        let t := c.segCycles v d lo hi (livePairs c.q dry)
        (c.chunk v slot ch lo hi d.A d.W dry st.1, st.2.1 + t.1, st.2.2 + t.2)) (x, 0, 0)
  let (y, took) := run.1.clock c.q (d.sparse || c.q.is24) run.2.1 run.2.2
  if y.fault.isSome then y
  else { y with sparse := y.sparse + b2n d.sparse, saved := y.saved + (denseCount c.q d.kv - took) }

/-- One visit (R199 to R206). -/
def MatCtx.visit (c : MatCtx) (s : State) (x0 : MatRun) (v : Visit) : MatRun :=
  if x0.fault.isSome then x0
  else
    let slot := c.slot + c.tileNo v
    let ran := decide (v.m < c.M) && decide (v.n < c.N) && decide (0 < c.K)
    let x := if v.k = 0 then c.begin slot ran x0 else x0
    let y :=
      if !(ran && decide (v.k < c.K)) then x
      else
        let d := c.load v x.vno
        if c.q.whole then { x with slices := x.slices ++ c.slicesOf s v slot d, dense := x.dense + denseCount c.q d.kv }
        else c.chunks s v slot d x
    let z := if y.fault.isNone && decide (c.bucketK ≤ v.k + c.q.kUnit) then c.finish slot ran v y else y
    { z with vno := z.vno + 1 }

/-! ### Plan and issue -/

/-- The nest of a MATB: base units and walked levels. -/
def matUnits (j : Job) : Units := { k := (prof j.prof).kUnit }

/-- Bytes of a K unit of an operand of width `b`, dense or in 2:4 form. -/
def unitBytes (q : Prof) (comp : Bool) (b : Nat) : Nat :=
  if comp then q.kUnit / 128 * block24 b else q.kUnit * b / 8

/-- The scratchpad intervals of a MATB at bucket extents (R166, R200, R207). -/
def matOpnds (j : Job) : List Opnd :=
  let q := prof j.prof
  let u := matUnits j
  let ls := walked j.trv
  let mb := bucket u ls 0
  let nb := bucket u ls 1
  let kb := bucket u ls 2
  [spanOpnd 0 0 (j.sv 30) (ls.map (fun x => (x.2.count, x.2.sa)) ++ [(16, trvStride j.trv 0)])
     (unitBytes q (q.sp == 5) q.a) false,
   spanOpnd 1 0 (j.sv 35) (ls.map (fun x => (x.2.count, x.2.sw)) ++ [(16, trvStride j.trv 1)])
     (unitBytes q (q.sp == 4) q.w) false] ++
  (if q.gs then [spanOpnd 2 0 (j.sv 40) [(nb, trvStride j.trv 5)] ((kb - 1) / q.chunk + 1) false] else []) ++
  (if q.actMap then [spanOpnd 3 0 (j.sv 45) [(mb, trvStride j.trv 3)] (kb / 8) false] else []) ++
  (if q.wgtMap then [spanOpnd 4 0 (j.sv 50) [(nb, trvStride j.trv 4)] (kb / 8) false] else [])

/-- The alignment checks of a MATB (R219). -/
def matAligns (j : Job) : List (Nat × Nat × Nat) :=
  let q := prof j.prof
  let ls := walked j.trv
  let st (k : Nat) : Nat := bvf j.trv (32 * k) 32
  [(0, j.sv 30, 16), (0, st 0, 16)] ++ ls.map (fun x => (0, unsignedBits 32 x.2.sa, 16)) ++
  [(1, j.sv 35, 16), (1, st 1, 16)] ++ ls.map (fun x => (1, unsignedBits 32 x.2.sw, 16)) ++
  (if q.actMap then [(3, j.sv 45, 16), (3, st 3, 16)] else []) ++
  (if q.wgtMap then [(4, j.sv 50, 16), (4, st 4, 16)] else [])

/-- The shape checks of a MATB (R208). The records of reasons 0x07 and 0x08 name the extent (R43, R75). -/
def matShape (j : Job) : List (Option ShapeFail) :=
  let q := prof j.prof
  let u := matUnits j
  let ls := walked j.trv
  let kb := bucket u ls 2
  let last := j.f 24 5 + tileCount ls - 1
  let lim := if q.paired then 15 else 31
  let nb := ceilDiv kb q.chunk
  lowestShape ([extentCheck (j.sv 60) (bucket u ls 0), extentCheck (j.sv 65) (bucket u ls 1), extentCheck (j.sv 55) kb,
    shapeChk (decide (lim < last)) 0x02 0xFF last lim, shapeIntervals (matOpnds j)] ++
    levelChecks j.trv [0, 1, 2] (q.whole || q.dziro || q.thrEarly) ++
    [shapeChk (q.dziro && !q.whole && decide (32 < nb)) 0x07 0xFF kb (32 * q.chunk),
     shapeChk (q.fn == 4 && decide (2 ^ 31 ≤ kb * (2 ^ q.a' - 1) * (2 ^ q.w - 1))) 0x08 0xFF
       kb ((2 ^ 31 - 1) / ((2 ^ q.a' - 1) * (2 ^ q.w - 1))),
     shapeChk (decide (2 ^ 24 < max (bucket u ls 1) kb)) 0x09 0xFF (max (bucket u ls 1) kb) (2 ^ 24)])

/-- The plan of a MATB at the head of reach `l` (R163, R166, R172). -/
def matPlan (s : State) (p l : Nat) (j : Job) : Plan :=
  let q := prof j.prof
  let r := s.reach p l
  let slot := j.f 24 5
  let acc := bvb j.word 29
  let t := min (tileCount (walked j.trv)) 32
  let differ := tagsDiffer r.paired q.paired slot t
  let os := matOpnds j
  let slots := modeMask q.paired slot t
  { reads := [j.f 30 5, j.f 35 5, j.f 55 5, j.f 60 5, j.f 65 5] ++ (if q.gs then [j.f 40 5] else []) ++
      (if q.actMap then [j.f 45 5] else []) ++ (if q.wgtMap then [j.f 50 5] else [])
    checks := [failProfile j (matbProfile q slot acc differ), failShape j true true (matShape j),
      failAlign j (matAligns j), failWindow s p l j os]
    unit := .array
    rd := { ivs := opndIvs s p l os false, slots := if acc then slots else 0 }
    wr := { slots := slots }
    addr := j.scalar (j.f 30 5) }

/-- What a MATB works with, taken at issue. -/
def matCtx (s : State) (p l : Nat) (j : Job) : MatCtx :=
  let r := s.reach p l
  let u := matUnits j
  let ls := walked j.trv
  { p := p, l := l, pc := j.pc.toNat, profNo := j.profNo, q := prof j.prof, t := j.trv, slot := j.f 24 5,
    acc := bvb j.word 29, sAct := j.sv 30, sWgt := j.sv 35, sScl := j.sv 40, sAbm := j.sv 45, sWbm := j.sv 50,
    K := j.sv 55, M := j.sv 60, N := j.sv 65, bucketK := bucket u ls 2, base := r.spBase, tiles := tilesOf u ls,
    sp := r.spad, poison := r.spPoison, freeBase := s.free }

/-- The whole run of a MATB numbered `no` from the pool as it stands; its slices follow those of another one in the array. -/
def matRun (s : State) (p l : Nat) (j : Job) (no : Nat) : MatRun :=
  let c := matCtx s p l j
  let r := s.reach p l
  let follows := r.flights.any (fun f => f.unit == .array && f.no != no)
  (visits (matUnits j) (walked j.trv)).foldl (c.visit s)
    { pool := r.pool, paired := r.paired, line := if follows then r.line else {} }

/-- The effect of a MATB numbered `no`: pool, tags, the saturation record, the free values used, the counts of its cycles and
of the visits that ran sparse (CNT[2], [3], [4] and [13], R441; log 96), a late fault. -/
def runMatb (p l : Nat) (s : State) (j : Job) (no : Nat) : State :=
  let x := matRun s p l j no
  let s1 := s.updReach p l (fun r => { r with pool := x.pool, paired := x.paired, line := x.line })
  let s0 := bumpCnt (bumpCnt (bumpCnt (bumpCnt s1 p l 2 x.gates) p l 3 x.waits) p l 4 x.saved) p l 13 x.sparse
  let s2 := updFlight { s0 with free := s0.free + x.vno * 8 * 65536 } p l no (fun f =>
    { f with guard := x.guard, undo := x.undo.reverse })
  match x.fault with
  | some f => lateFault s2 p l no j f
  | none => s2

/-- MATB (R172): the error in the scratchpad that its operand names stands there when it comes to issue, and is met if the
instruction reads the unit (R247, R401 to R403). -/
def execMatb (p : ParcelId) (l : ReachId) (err : CellError) (s : State) : Out :=
  let j := headJob s p l
  let s0 := if canIssue s p l && wOp j.word == 0 then plantIn s (.sp p l) 0 Config.spSize err else s
  .next (issueUnit s0 p l (fun w => wOp w == 0) (matPlan s0 p l) (runMatb p l))

end Sys2Proof.Machine
end

