-- ==== Sys2Proof/Machine/Fabric.lean ====
section
/-!
DEFINITION. The fabric as the instructions use it: coordinates and routes of the torus (11 R310 to R313), the ring of
UCIe ports (11 R329), packets and their flits (11 R290, R295, R315, R316), and the message channels (11 R317 to R319).
-/

namespace Sys2Proof.Machine

/-! ### Coordinates and routes -/

/-- Size of dimension `d` (0 X, 1 Y, 2 Z) in TORUS_CFG (R309). -/
def torusSize (w : Word) (d : Nat) : Nat :=
  if d = 0 then bvf w 16 5 + 1 else if d = 1 then bvf w 21 5 + 1 else bvf w 26 4 + 1

/-- This package's device ID. -/
def State.dev (s : State) : Nat := bvf s.hub.torus 0 14

/-- Lowest bit of a coordinate in a device ID (R310). -/
def coordLo (d : Nat) : Nat := 5 * d

/-- Width of a coordinate in a device ID. -/
def coordBits (d : Nat) : Nat := if d = 2 then 4 else 5

/-- Coordinate `d` of a device ID. -/
def coord (dev d : Nat) : Nat := field dev (coordLo d) (coordBits d)

/-- A device ID with coordinate `d` replaced. -/
def setCoord (dev d v : Nat) : Nat := dev - coord dev d * 2 ^ coordLo d + v * 2 ^ coordLo d

/-- The neighbour across the + link, or the − link when `minus` (R310). -/
def neighbour (w : Word) (dev d : Nat) (minus : Bool) : Nat :=
  let n := torusSize w d
  setCoord dev d ((coord dev d + (if minus then n - 1 else 1)) % n)

/-- The mark of the down map that a hop crosses: the device whose + link it is, and the dimension (R312). -/
def hopMark (w : Word) (dev d : Nat) (minus : Bool) : Nat × Nat :=
  if minus then (neighbour w dev d true, d) else (dev, d)

/-- Whether `n` hops from `dev` cross no marked link. -/
def pathClear (down : List (Nat × Nat)) (w : Word) (d : Nat) (minus : Bool) : Nat → Nat → Bool
  | 0, _ => true
  | n + 1, dev => !down.contains (hopMark w dev d minus) && pathClear down w d minus n (neighbour w dev d minus)

/-- Hops from coordinate `c` to `t` in a dimension of size `n`. -/
def hopsTo (n c t : Nat) (minus : Bool) : Nat := if minus then (c + n - t) % n else (t + n - c) % n

/-- The direction taken in one dimension (R311, R313): minimal unless its path crosses a marked link, then the other. -/
def dimDir (down : List (Nat × Nat)) (w : Word) (dev target d : Nat) : Option Bool :=
  let n := torusSize w d
  let c := coord dev d
  let t := coord target d
  let minimal := !decide (2 * hopsTo n c t false ≤ n)
  if c = t then some false
  else if pathClear down w d minimal (hopsTo n c t minimal) dev then some minimal
  else if pathClear down w d (!minimal) (hopsTo n c t (!minimal)) dev then some (!minimal)
  else none

/-- The direct route from `dev` to `target` as the bits of dir0 (R313 step 1). -/
def directRoute (down : List (Nat × Nat)) (w : Word) (dev target : Nat) : Option Nat :=
  ((List.range 3).foldl (fun (st : Option (Nat × Nat)) d => match st with
    | none => none
    | some (cur, bits) => match dimDir down w cur target d with
      | none => none
      | some m => some (setCoord cur d (coord target d), bits + b2n m * 2 ^ d)) (some (dev, 0))).map (fun x => x.2)

/-- Hop distance of two devices. -/
def hopDistance (w : Word) (a b : Nat) : Nat :=
  ((List.range 3).map (fun d =>
    let n := torusSize w d
    min (hopsTo n (coord a d) (coord b d) false) (hopsTo n (coord a d) (coord b d) true))).foldl (· + ·) 0

/-- Every device ID of the torus, in ascending order. -/
def allDevices (w : Word) : List Nat :=
  (List.range (torusSize w 2)).flatMap (fun z => (List.range (torusSize w 1)).flatMap (fun y =>
    (List.range (torusSize w 0)).map (fun x => x + 32 * y + 1024 * z)))

/-- The 64 devices nearest to `dev`, by distance and then by ID (R313 step 2). -/
def nearest (w : Word) (dev : Nat) : List Nat :=
  ((List.range 41).flatMap (fun h => (allDevices w).filter (fun v => v != dev && hopDistance w dev v == h))).take 64

/-- The route of a packet: whether it has a via, the via, dir0 and dir1 (R313). -/
def routeOf (down : List (Nat × Nat)) (w : Word) (dev target : Nat) : Option (Bool × Nat × Nat × Nat) :=
  match directRoute down w dev target with
  | some b => some (false, 0, b, 0)
  | none => (nearest w dev).findSome? (fun v =>
      match directRoute down w dev v, directRoute down w v target with
      | some a, some b => some (true, v, a, b)
      | _, _ => none)

/-- River port of a direction. -/
def riverPort (d : Nat) (minus : Bool) : Port :=
  if d = 0 then (if minus then .xn else .xp)
  else if d = 1 then (if minus then .yn else .yp)
  else (if minus then .zn else .zp)

/-- The next hop of a packet at device `cur` on leg `leg`: the port, the next device, the leg, and the dateline bit on
that hop (R311, R315). None at the destination. -/
def nextHop (w : Word) (cur : Nat) (k : Packet) (leg : Nat) : Option (Port × Nat × Nat × Bool) :=
  let leg := if leg = 0 && k.viaEn && decide (cur = k.via.toNat) then 1 else leg
  let target := if leg = 0 && k.viaEn then k.via.toNat else k.dst.toNat
  let start := if leg = 0 then k.src.toNat else k.via.toNat
  let bits := if leg = 0 then k.dir0.toNat else k.dir1.toNat
  match (List.range 3).find? (fun d => coord cur d != coord target d) with
  | none => none
  | some d =>
    let minus := bits.testBit d
    let n := torusSize w d
    let c := coord cur d
    let s0 := coord start d
    let crossed := if minus then decide (s0 < c) else decide (c < s0)
    let wrap := if minus then c == 0 else c == n - 1
    some (riverPort d minus, neighbour w cur d minus, leg, crossed || wrap)

/-! ### The UCIe ring -/

/-- The parcel across a ring port. -/
def ringNext (p : Nat) (minus : Bool) : Nat := (p + (if minus then 7 else 1)) % 8

/-- A parcel in reset, or not yet trained, relays nothing (R329). -/
def relays (s : State) (p : Nat) : Bool :=
  match (s.parcel p).state with
  | .off => false
  | .identify => false
  | .train => false
  | _ => true

/-- Both ends of the hop from `p` are up. -/
def ringHop (s : State) (p : Nat) (minus : Bool) : Bool :=
  decide ((s.link p (if minus then .ringMinus else .ringPlus)).state = .up) &&
  decide ((s.link (ringNext p minus) (if minus then .ringPlus else .ringMinus)).state = .up)

/-- Whether `n` hops from `p` are open; every parcel passed through relays. -/
def ringOpen (s : State) (minus : Bool) : Nat → Nat → Bool
  | 0, _ => true
  | n + 1, p => ringHop s p minus && (n == 0 || relays s (ringNext p minus)) && ringOpen s minus n (ringNext p minus)

/-- The way from `p` to `q`: the shorter one, the + way when both are 4 hops, else the other (R329); none when both are
blocked. -/
def ringWay (s : State) (p q : Nat) : Option Bool :=
  let up := (q + 8 - p) % 8
  let dn := (p + 8 - q) % 8
  let first := decide (dn < up)
  let open' (minus : Bool) : Bool := ringOpen s minus (if minus then dn else up) p
  if open' first then some first else if open' (!first) then some (!first) else none

/-- Whether parcel `p` can reach parcel `q` of the package with a transfer (R329, R408). -/
def reachable (s : State) (p q : Nat) : Bool :=
  p == q || (decide ((s.parcel q).state ≠ .contain) && relays s q && (ringWay s p q).isSome)

/-- Payload bytes of one UCIe hop: PCNT[11] and the bandwidth ports 14 to 19 (R443, R448). -/
def countHop (s : State) (p : Nat) (minus : Bool) (n : Nat) : State :=
  bumpBw (bumpBw (bumpPcnt s p 11 n) p (if minus then 15 else 14) n) (ringNext p minus) (if minus then 17 else 18) n

/-- Payload bytes along `h` hops. -/
def countHops (minus : Bool) (n : Nat) : Nat → State → Nat → State
  | 0, s, _ => s
  | h + 1, s, p => countHops minus n h (countHop s p minus n) (ringNext p minus)

/-- Payload bytes sent from `p` to `q` over the ring. -/
def countRing (s : State) (p q n : Nat) : State :=
  match ringWay s p q with
  | none => s
  | some minus => countHops minus n (if minus then (p + 8 - q) % 8 else (q + 8 - p) % 8) s p

/-! ### Packets -/

/-- The 24-byte header of a packet (R315). -/
def headerBytes (k : Packet) : List Byte :=
  leBytes 24 (place 0 4 k.ptype.toNat + place 4 14 k.dst.toNat + place 18 14 k.src.toNat + place 32 14 k.via.toNat +
    place 46 1 (b2n k.viaEn) + place 47 3 k.dir0.toNat + place 50 3 k.dir1.toNat + place 56 16 k.id.toNat +
    place 72 4 k.gen.toNat + place 76 6 k.win.toNat + place 82 24 k.off.toNat + place 106 21 k.body.length +
    place 128 32 k.stamp.toNat + place 160 16 k.tag.toNat + place 188 4 k.pver.toNat +
    place 53 3 (field k.rsv.toNat 0 3) + place 127 1 (field k.rsv.toNat 3 1) + place 176 12 (field k.rsv.toNat 4 12))

/-- The packet that a byte string begins with (R315). -/
def packetOf (bs : List Byte) : Packet :=
  let h := leVal (bs.take 24)
  { ptype := BitVec.ofNat 4 h, dst := BitVec.ofNat 14 (field h 4 14), src := BitVec.ofNat 14 (field h 18 14),
    via := BitVec.ofNat 14 (field h 32 14), viaEn := bit h 46, dir0 := BitVec.ofNat 3 (field h 47 3),
    dir1 := BitVec.ofNat 3 (field h 50 3), id := BitVec.ofNat 16 (field h 56 16), gen := BitVec.ofNat 4 (field h 72 4),
    win := BitVec.ofNat 6 (field h 76 6), off := BitVec.ofNat 24 (field h 82 24), stamp := BitVec.ofNat 32 (field h 128 32),
    tag := BitVec.ofNat 16 (field h 160 16), pver := BitVec.ofNat 4 (field h 188 4),
    body := (bs.drop 24).take (field h 106 21)
    rsv := BitVec.ofNat 16 (place 0 3 (field h 53 3) + place 3 1 (field h 127 1) + place 4 12 (field h 176 12)) }

/-- A byte string cut into payloads of 244 bytes, the last one filled with 0 (R290, R315). -/
def payloads : Nat → List Byte → List (List Byte)
  | 0, _ => []
  | n + 1, bs => if bs.length ≤ 244 then [padTo 244 bs] else bs.take 244 :: payloads n (bs.drop 244)

/-- The data flits of a packet on a virtual channel; seq, ack, crd and CRC are filled in when a flit is sent. -/
def packetFlits (k : Packet) (vc : Nat) : List Flit :=
  let ps := payloads 4300 (headerBytes k ++ k.body)
  ps.mapIdx (fun i b => { ftype := 1, vc := BitVec.ofNat 3 vc, last := i + 1 == ps.length, seq := 0, ack := 0, crd := 0,
                          payload := b, crc := 0 })

/-- Virtual channel of a hop (R295): class, leg, dateline. -/
def vcOf (k : Packet) (leg : Nat) (dateline : Bool) : Nat :=
  4 * b2n (k.ptype == 1 || k.ptype == 3) + 2 * leg + b2n dateline

/-- A packet waits at a port for its flit slots; at a link that is not UP it is dropped and counted (R314). -/
def queuePacket (s : State) (p : Nat) (q : Port) (vc : Nat) (k : Packet) : State :=
  if (s.link p q).state = .up then
    s.updLink p q (fun x => { x with data := SMap.put x.data vc (SMap.get [] x.data vc ++ packetFlits k vc) })
  else bumpPcnt s p 10 1

/-- Send a packet on from device `cur` (this package) on leg `leg`. -/
def forwardPacket (s : State) (p leg : Nat) (k : Packet) : State :=
  match nextHop s.hub.torus s.dev k leg with
  | none => s
  | some (q, _, leg', dl) => queuePacket s p q (vcOf k leg' dl) k

/-- The route to a device, from the cache of 256 destinations or fixed now and cached (R313). -/
def findRoute (s : State) (p dst : Nat) : State × Option (Bool × Nat × Nat × Nat) :=
  let f := (s.parcel p).fab
  match SMap.find f.routes dst with
  | some (v, a, b, c) => (s, some (v, a.toNat, b.toNat, c.toNat))
  | none => match routeOf f.down s.hub.torus s.dev dst with
    | none => (s, none)
    | some (v, a, b, c) =>
      (if f.routes.length < 256
        then s.updFab p (fun f =>
          { f with routes := SMap.put f.routes dst (v, BitVec.ofNat 14 a, BitVec.ofNat 3 b, BitVec.ofNat 3 c) })
        else s, some (v, a, b, c))

/-- The river link by which a packet's route enters this device (R311): the last dimension that its last leg crosses, from the
other side; none for a packet of the own device. -/
def entryPort (k : Packet) : Option Port :=
  let start := if k.viaEn then k.via.toNat else k.src.toNat
  let bits := if k.viaEn then k.dir1.toNat else k.dir0.toNat
  ((List.range 3).reverse.find? (fun d => coord start d != coord k.dst.toNat d)).map (fun d => riverPort d (!bits.testBit d))

/-- Whether a parcel originates packets: not in CONTAIN (R408). -/
def originates (s : State) (p : Nat) : Bool := decide ((s.parcel p).state ≠ .contain)

/-- The parcel originates a packet (R313, R315, R320): to the own device it loops back; otherwise its route is fixed
now and it waits at its first link. The Boolean says whether it was sent. -/
def sendPacket (s : State) (p : Nat) (k : Packet) : State × Bool :=
  let x := s.parcel p
  let k1 : Packet := { k with src := BitVec.ofNat 14 s.dev, gen := x.gen, stamp := BitVec.ofNat 32 s.datum.count,
                              pver := x.fab.pkt }
  if k.dst.toNat = s.dev then (s.updFab p (fun f => { f with inbox := f.inbox ++ [(BitVec.ofNat 3 (vcOf k1 0 false), k1)] }), true)
  else match findRoute s p k.dst.toNat with
    | (s1, none) => (s1, false)
    | (s1, some (v, a, b, c)) =>
      (forwardPacket s1 p 0 { k1 with viaEn := v, via := BitVec.ofNat 14 a, dir0 := BitVec.ofNat 3 b,
                                      dir1 := BitVec.ofNat 3 c }, true)

/-! ### Identifiers and channels -/

/-- W of TORUS_CFG.expiry, and Q = 2 W, in ticks (R309, R319). -/
def State.expiry (s : State) : Nat := bvf s.hub.torus 32 8
/-- Q in ticks. -/
def State.qTicks (s : State) : Nat := 2 * s.expiry

/-- Whether the next message identifier of a parcel may be taken (R319). -/
def idFree (s : State) (p : Nat) : Bool :=
  let f := (s.parcel p).fab
  match SMap.find f.idLast f.nextId.toNat with
  | none => true
  | some t => decide (t + s.qTicks ≤ s.datum.count)

/-- Take the next identifier. -/
def takeId (s : State) (p : Nat) : State × BitVec 16 :=
  let id := (s.parcel p).fab.nextId
  (s.updFab p (fun f => { f with nextId := f.nextId + 1, idLast := SMap.put f.idLast id.toNat s.datum.count }), id)

/-- Count in a channel register at bit `lo`, a field of `n` bits, saturating (R318). -/
def countChan (s : State) (p c lo n : Nat) : State :=
  s.updFab p (fun f =>
    let w := SMap.get 0 f.chan c
    { f with chan := SMap.put f.chan c (putField w lo n (satAdd n (bvf w lo n) 1)) })

/-- A message counts as delivered, refused or lost (R318, R322, R323). -/
def countDelivered (s : State) (p c : Nat) : State := countChan s p c 64 32
/-- Refused. -/
def countRefused (s : State) (p c : Nat) : State := countChan s p c 96 16
/-- Lost. -/
def countLost (s : State) (p c : Nat) : State := countChan s p c 112 16

/-- One message leaves on channel `c` with destination offset `off` (R317 to R319, R323). -/
def sendMessage (s : State) (p l no c off : Nat) (bytes : List Byte) : State :=
  let w := SMap.get 0 (s.parcel p).fab.chan c
  if !bvb w 0 then countRefused s p c
  else
    let (s1, id) := takeId s p
    let k : Packet := { ptype := 0, dst := BitVec.ofNat 14 (bvf w 1 14), src := 0, via := 0, viaEn := false, dir0 := 0,
                        dir1 := 0, id := id, gen := 0, win := BitVec.ofNat 6 (bvf w 16 6), off := BitVec.ofNat 24 off,
                        stamp := 0, tag := 0, pver := 0, body := bytes }
    match sendPacket s1 p k with
    | (s2, false) => countLost s2 p c
    | (s2, true) => bumpPcnt (s2.updFab p (fun f => { f with msgs := f.msgs ++
        [{ id := id, chan := c, count := s.datum.count, reach := l, flight := no, adds := 0 }] })) p 5 1

end Sys2Proof.Machine
end

