-- ==== Sys2Proof/Machine/Move.lean ====
section
/-!
DEFINITION. The movement reading of a traverse (08 R219 to R230), shared by MOVE, GATH and SCAT; and the MOVE forms that
carry dense data: plain, local copy, halo, IMEM load, message send (06 R177, R178; 07 R211, R212; 09 R256; 11 R317,
R319).
-/

namespace Sys2Proof.Machine

/-! ### The movement traverse -/

/-- Element width code (R221, R222). -/
def mvEwCode (t : BitVec 1024) : Nat := bvf t 0 4
/-- Element width in bits (R222). -/
def mvEw (t : BitVec 1024) : Nat := 2 ^ mvEwCode t
/-- Wrap bit of dimension `d`. -/
def mvWrap (t : BitVec 1024) (d : Nat) : Bool := bvb t (4 + d)
/-- Vector dimension. -/
def mvCdim (t : BitVec 1024) : Nat := bvf t 9 3
/-- Zero code, cut to an element (R221). -/
def mvZc (t : BitVec 1024) : Nat := bvf t 16 16 % 2 ^ mvEw t
/-- Bit-vector stride. -/
def mvBms (t : BitVec 1024) : Int := signed 32 (bvf t 32 32)
/-- Origin of dimension `d`. -/
def mvOrg (t : BitVec 1024) (d : Nat) : Int := signed 16 (bvf t (64 + 16 * d) 16)

/-- An enabled level under a movement instruction (R223): its number, dimension, bucket count, extent, strides. -/
structure MLev where
  no : Nat
  dim : Nat
  n : Nat
  ext : Nat
  sa : Int
  sw : Int
  so : Int
deriving DecidableEq, Repr

/-- The enabled levels with their extents; `sext` is the first extent scalar, 0 for the bucket counts (R224). -/
def mvLevels (j : Job) (sext : Nat) : List MLev :=
  (enabledLevels j.trv).map (fun x =>
    { no := x.1, dim := x.2.dim, n := x.2.count, ext := if sext = 0 then x.2.count else (j.scalar (sext + x.1)).toNat,
      sa := x.2.sa, sw := x.2.sw, so := x.2.so })

/-- One level as the walk sees it: its iterations, and for each the walking coordinate, none where the element pads or
is dropped (R225); the strides of the walking side and of the other side, in elements. -/
structure Axis where
  walk : List (Option Int)
  ws : Int
  os : Int
deriving DecidableEq, Repr

/-- The walking coordinate of `c` in an extent `e` (R225). -/
def edgeOf (wrap : Bool) (e : Nat) (c : Int) : Option Int :=
  if 0 ≤ c ∧ c < e then some c else if wrap && e != 0 then some (c % (e : Int)) else none

/-- The axis of a level whose coordinates start at its origin (R224). -/
def axisOf (t : BitVec 1024) (walkDst : Bool) (lv : MLev) : Axis :=
  { walk := (List.range lv.n).map (fun (i : Nat) => edgeOf (mvWrap t lv.dim) lv.ext (mvOrg t lv.dim + i)),
    ws := if walkDst then lv.sw else lv.sa, os := if walkDst then lv.sa else lv.sw }

/-- The points of the nest in nest order: element offsets on the walking side (none: pad or drop) and on the other
side (R224). -/
def walkAxes : List Axis → List (Option Int × Int)
  | [] => [(some 0, 0)]
  | a :: rest =>
    let inner := walkAxes rest
    (a.walk.mapIdx (fun i c => (i, c))).flatMap (fun ic => inner.map (fun e =>
      ((match ic.2, e.1 with | some c, some x => some (c * a.ws + x) | _, _ => none), (ic.1 : Int) * a.os + e.2)))

/-! ### Intervals at bucket extents (R166, R207) -/

/-- Lowest and highest walking coordinate at the bucket count; none where the level never touches its side. -/
def walkSpan (t : BitVec 1024) (lv : MLev) : Option (Int × Int) :=
  if mvWrap t lv.dim then some (0, (lv.n : Int) - 1)
  else
    let lo := max 0 (mvOrg t lv.dim)
    let hi := min ((lv.n : Int) - 1) (mvOrg t lv.dim + lv.n - 1)
    if hi < lo then none else some (lo, hi)

/-- Sum of the reaches of coordinate spans with their strides. -/
def spanSum : List (Option (Int × Int) × Int) → Option (Int × Int)
  | [] => some (0, 0)
  | (none, _) :: _ => none
  | (some (a, b), st) :: r => match spanSum r with
    | none => none
    | some (lo, hi) => some (min (a * st) (b * st) + lo, max (a * st) (b * st) + hi)

/-- Byte interval of elements of `ew` bits from `base`; (0, -1) when empty. -/
def byteSpan (base ew : Nat) : Option (Int × Int) → Int × Int
  | none => (0, -1)
  | some (lo, hi) => ((8 * (base : Int) + ew * lo) / 8, (8 * (base : Int) + ew * hi + ew - 1) / 8)

/-- Interval of the walking side. -/
def walkIv (t : BitVec 1024) (walkDst : Bool) (base : Nat) (ls : List MLev) : Int × Int :=
  byteSpan base (mvEw t) (spanSum (ls.map (fun lv => (walkSpan t lv, if walkDst then lv.sw else lv.sa))))

/-- Interval of the other side. -/
def otherIv (t : BitVec 1024) (walkDst : Bool) (base : Nat) (ls : List MLev) : Int × Int :=
  byteSpan base (mvEw t)
    (spanSum (ls.map (fun lv => (some (0, (lv.n : Int) - 1), if walkDst then lv.sa else lv.sw))))

/-! ### Swizzles (R229, R230) -/

/-- A swizzle key register that is enabled. -/
structure SwzKey where
  tgt : Nat
  n : Nat
  src : Nat
deriving DecidableEq, Repr

/-- Key `k` of a reach, none when it is the identity. -/
def swzKey (r : Reach) (k : Nat) : Option SwzKey :=
  let w := SMap.get 0 r.swz k
  if bvb w 15 then some { tgt := bvf w 0 6, n := bvf w 6 3 + 1, src := bvf w 9 6 } else none

/-- The swizzled byte address (R230). -/
def swizzle (k : Option SwzKey) (o : Nat) : Nat :=
  match k with
  | none => o
  | some k => o ^^^ (field o k.src k.n * 2 ^ k.tgt)

/-- An interval widened for a swizzle (R230). -/
def widen (k : Option SwzKey) (iv : Int × Int) : Int × Int :=
  match k with
  | none => iv
  | some k =>
    let g : Int := 2 ^ (k.tgt + k.n)
    if iv.2 < iv.1 then iv else (iv.1 / g * g, (iv.2 / g + 1) * g - 1)

/-! ### Sides -/

/-- A memory as one side of a movement names it. -/
inductive MvMem where
  | sp | cb | sm | imem | pool
deriving DecidableEq, Repr

/-- One side of a movement: its memory, its address there (a window offset, or bits [34:0] of a system address), the
reach whose scratchpad it is, the parcel whose stacked memory it is, and the whole address as the scalar gave it. -/
structure MvSide where
  mem : MvMem
  addr : Nat
  reach : Nat
  parcel : Nat
  full : Nat
  key : Option SwzKey := none
deriving DecidableEq, Repr

/-- The memory of a side. -/
def MvSide.space (d : MvSide) (p l : Nat) : Space :=
  match d.mem with
  | .sp => .sp p d.reach
  | .cb => .cb p (clusterOf l)
  | .sm => .sm d.parcel
  | .imem => .imem p l
  | .pool => .sm d.parcel

/-- The window base of a side (R259). -/
def MvSide.base (d : MvSide) (s : State) (p l : Nat) : Nat :=
  match d.mem with
  | .sp => (s.reach p d.reach).spBase
  | .cb => (s.reach p l).cbBase
  | _ => 0

/-- The physical address of a byte of a side: swizzled first, then relocated (R259). -/
def MvSide.phys (d : MvSide) (s : State) (p l : Nat) : Int → Nat :=
  let b := d.base s p l
  fun o => b + swizzle d.key o.toNat

/-- A side in stacked memory, named by a system address. -/
def smSide (v : Nat) : MvSide :=
  { mem := .sm, addr := v % 2 ^ 35, reach := 0, parcel := field v 35 3, full := v }

/-- The operand of a side for the window checks; none for a memory without a window. -/
def sideOpnd (d : MvSide) (operand : Nat) (iv : Int × Int) (write : Bool) : List Opnd :=
  match d.mem with
  | .sp => [{ operand := operand, mem := 0, lo := iv.1, hi := iv.2, write := write, of := some d.reach }]
  | .cb => [{ operand := operand, mem := 1, lo := iv.1, hi := iv.2, write := write }]
  | _ => []

/-- Last byte of stacked memory in the parcel space (R336). -/
def smTop : Nat := 0x5FFFFFFFF

/-- The BOUND check of one operand (R177, R260): a window, the package's stacked memory, or IMEM. `anyParcel` is the
parcel DMA. -/
def sideBound (s : State) (p l : Nat) (j : Job) (anyParcel : Bool) (d : MvSide) (operand : Nat) (iv : Int × Int)
    (write : Bool) : Option Fail :=
  if iv.2 < iv.1 then none else
  match d.mem with
  | .sm =>
    let own := decide (d.full < 2 ^ 52) && field d.full 38 14 == s.dev && (anyParcel || d.parcel == p)
    let hi : Int := (d.full : Int) - d.addr
    failAddress p l j (!own || decide (iv.1 < 0) || decide ((smTop : Int) < iv.2)) operand 2
      (unsignedBits 64 (hi + iv.1)) (unsignedBits 64 (hi + iv.2)) 0
  | .imem => failAddress p l j (decide (iv.1 < 0) || decide ((Config.imemSize : Int) ≤ iv.2)) operand 3
      (unsignedBits 64 iv.1) (unsignedBits 64 iv.2) 0
  | _ => failWindow s p l j (sideOpnd d operand iv write)

/-! ### Element access -/

/-- The addresses of one element. -/
def elemAddrs (ph : Int → Nat) (ew : Nat) (b : Int) : List Nat :=
  if ew < 8 then [ph (b / 8)] else (List.range (ew / 8)).map (fun (i : Nat) => ph (b / 8 + i))

/-- One element at a bit offset. -/
def readElem (m : Mem) (ph : Int → Nat) (ew : Nat) (b : Int) : Nat :=
  if ew < 8 then field (memByte m (ph (b / 8))).toNat (b % 8).toNat ew
  else leVal ((elemAddrs ph ew b).map (memByte m))

/-- Bytes written so far, over a memory. -/
abbrev Overlay := SMap Byte

/-- Write one byte. -/
def putByte (ov : Overlay) (a : Nat) (b : Byte) : Overlay := SMap.put ov a b

/-- Write consecutive bytes of a side. -/
def putBytes (ph : Int → Nat) (ov : Overlay) (o : Int) : List Byte → Overlay
  | [] => ov
  | b :: bs => putBytes ph (putByte ov (ph o) b) (o + 1) bs

/-- Write one element at a bit offset. -/
def putElem (m : Mem) (ph : Int → Nat) (ew : Nat) (ov : Overlay) (b : Int) (v : Nat) : Overlay :=
  if ew < 8 then
    let a := ph (b / 8)
    let old := (SMap.find ov a).getD (memByte m a)
    putByte ov a (putField old (b % 8).toNat ew v)
  else putBytes ph ov (b / 8) (leBytes (ew / 8) v)

/-- The first unit of `ps` among the units of addresses. -/
def unitAt (ps : List Nat) (k : Space) (as : List Nat) : Option Nat :=
  if ps.isEmpty then none else (as.map (fun a => a / unitSize k)).find? (fun u => ps.contains u)

/-- The first poisoned unit among addresses. -/
def poisonAt (s : State) (k : Space) (as : List Nat) : Option Nat := unitAt (poisoned s k) k as

/-- A running movement: what it has written, the bytes in the order of their writes (newest first), the addresses it has
read, and the poisoned unit that stopped it. -/
structure MvRun where
  ov : Overlay := []
  ws : List (Space × Nat) := []
  reads : List Nat := []
  bad : Option (Space × Nat) := none
deriving DecidableEq, Repr

/-- What a dense movement needs: memories, poisoned units of the source, address maps, width, pad element. -/
structure MvDense where
  srcSpace : Space
  dstSpace : Space
  srcMem : Mem
  dstMem : Mem
  ruined : List Nat
  sph : Int → Nat
  dph : Int → Nat
  srcBit : Int
  dstBit : Int
  ew : Nat
  zc : Nat

/-- One element moves (R224, R225): source none is a pad, destination none a dropped write. A poisoned source stops the
movement there (R402). -/
def denseStep (c : MvDense) (x : MvRun) (e : Option Int × Option Int) : MvRun :=
  if x.bad.isSome then x else
  match e.2 with
  | none => x
  | some d =>
    let db := c.dstBit + c.ew * d
    let ws := ((elemAddrs c.dph c.ew db).map (fun a => (c.dstSpace, a))).reverse ++ x.ws
    match e.1 with
    | none => { x with ov := putElem c.dstMem c.dph c.ew x.ov db c.zc, ws := ws }
    | some o =>
      let sb := c.srcBit + c.ew * o
      let as := elemAddrs c.sph c.ew sb
      match unitAt c.ruined c.srcSpace as with
      | some u => { x with bad := some (c.srcSpace, u) }
      | none =>
        let v := readElem c.srcMem c.sph c.ew sb
        { x with ov := putElem c.dstMem c.dph c.ew x.ov db v, ws := ws,
                 reads := (match c.srcSpace with | .sm _ => as.reverse ++ x.reads | _ => x.reads) }

/-! ### Plan of a MOVE -/

/-- The form of a MOVE: the row of the command table that it belongs to (R77, R78, R178, R212, R238, R256, R317). -/
inductive MvForm where
  | plain | poolSave | poolRestore | imem | halo | localCopy | message | expand | unstructured | store24 | masked24
deriving DecidableEq, Repr

/-- Route of a MOVE. -/
def mvRoute (j : Job) : Nat := j.f 24 4
/-- Compression setting. -/
def mvComp (j : Job) : Nat := j.f 29 3
/-- Whether the parcel DMA runs it. -/
def mvParcel (j : Job) : Bool := bvb j.word 28
/-- Value of s_src. -/
def mvSrcV (j : Job) : Nat := j.sv 32
/-- Value of s_dst. -/
def mvDstV (j : Job) : Nat := j.sv 37
/-- Value of s_msk. -/
def mvMskV (j : Job) : Nat := j.sv 42
/-- First extent scalar. -/
def mvSext (j : Job) : Nat := j.f 57 5

/-- Whether a system address lies in the send aperture of parcel `p` (R317, R336). -/
def inAperture (s : State) (p v : Nat) : Bool :=
  decide (v < 2 ^ 52) && field v 38 14 == s.dev && field v 35 3 == p &&
  decide (0x600000000 ≤ v % 2 ^ 35) && decide (v % 2 ^ 35 < 0x640000000)

/-- Whether a MOVE's destination lies in the own send aperture (R317). -/
def mvAperture (s : State) (p : Nat) (j : Job) : Bool :=
  (mvRoute j == 1 || mvRoute j == 5 || mvRoute j == 7) && inAperture s p (mvDstV j)

/-- The form of a MOVE. -/
def mvForm (s : State) (p : Nat) (j : Job) : MvForm :=
  let route := mvRoute j
  let hop := field (mvDstV j) 19 2
  if route = 10 then .poolSave
  else if route = 11 then .poolRestore
  else if route = 8 ∨ route = 9 then .imem
  else if mvComp j = 1 then .expand
  else if mvComp j = 2 then .unstructured
  else if mvComp j = 3 then .store24
  else if mvComp j = 4 then .masked24
  else if route = 6 then (if hop = 1 ∨ hop = 2 then .halo else .localCopy)
  else if mvAperture s p j then .message
  else .plain

/-- Source memory of a route (R178). -/
def routeSrc (route : Nat) : MvMem :=
  match route with
  | 0 | 4 | 7 | 8 | 11 => .sm
  | 2 | 5 => .cb
  | 10 => .pool
  | _ => .sp

/-- Destination memory of a route (R178). -/
def routeDst (route : Nat) : MvMem :=
  match route with
  | 0 | 2 | 6 => .sp
  | 3 | 4 => .cb
  | 8 | 9 => .imem
  | 11 => .pool
  | _ => .sm

/-- The reach that a destination of route 0110b names (R211). -/
def haloReach (l hop : Nat) : Nat := 8 * (l / 8) + (l % 8 + (if hop = 1 then 1 else if hop = 2 then 7 else 0)) % 8

/-- A side from its memory and its scalar value. -/
def mkSide (l : Nat) (m : MvMem) (v : Nat) (key : Option SwzKey) : MvSide :=
  match m with
  | .sm => { smSide v with key := key }
  | _ => { mem := m, addr := v, reach := l, parcel := 0, full := v, key := key }

/-- The source side of a MOVE. -/
def mvSrc (s : State) (p l : Nat) (j : Job) : MvSide :=
  let v := if mvRoute j = 6 then mvSrcV j % 2 ^ 19 else mvSrcV j
  mkSide l (routeSrc (mvRoute j)) v (if bvb j.word 47 then swzKey (s.reach p l) (j.f 48 4) else none)

/-- The destination side of a MOVE. -/
def mvDst (s : State) (p l : Nat) (j : Job) : MvSide :=
  let v := if mvRoute j = 6 then mvDstV j % 2 ^ 19 else mvDstV j
  let d := mkSide l (routeDst (mvRoute j)) v (if bvb j.word 52 then swzKey (s.reach p l) (j.f 53 4) else none)
  if mvRoute j = 6 then { d with reach := haloReach l (field (mvDstV j) 19 2) } else d

/-- The mask or bitmap side: written into the issuing reach's scratchpad (comp 001b), read beside the dense source
(comp 100b, log 21). -/
def mvMsk (s : State) (p l : Nat) (j : Job) : MvSide :=
  if mvComp j = 1 then mkSide l .sp (mvMskV j) none
  else { mkSide l (mvSrc s p l j).mem (mvMskV j) none with key := none }

/-- Whether a MOVE reads its traverse: the pool routes ignore it (R223). -/
def mvUsesTrv (j : Job) : Bool := !(mvRoute j == 10 || mvRoute j == 11)

/-- The levels of a MOVE. -/
def mvLs (j : Job) : List MLev := mvLevels j (mvSext j)

/-- The levels other than the vector level, and the vector level's bucket count and extent. -/
def mvOthers (j : Job) : List MLev := (mvLs j).filter (fun lv => lv.dim != mvCdim j.trv)
/-- Bucket count of the vector level. -/
def vecN (j : Job) : Nat := ((mvLs j).find? (fun lv => lv.dim == mvCdim j.trv)).elim 1 (fun lv => lv.n)
/-- Extent of the vector level. -/
def vecE (j : Job) : Nat := ((mvLs j).find? (fun lv => lv.dim == mvCdim j.trv)).elim 1 (fun lv => lv.ext)

/-- Worst-case bytes of one block (R237). -/
def worstBlock (comp b : Nat) : Nat := if comp = 3 ∨ comp = 4 then 8 * b + 16 else 136 + 16 * b
/-- Worst-case stream length W (R237). -/
def streamW (j : Job) : Nat := ceilDiv (vecN j) 128 * worstBlock (mvComp j) (mvEw j.trv)

/-- Interval of a compressed side (R237). -/
def compIv (j : Job) (base : Nat) : Int × Int :=
  let ts := (mvOthers j).map (fun lv => (lv.n, lv.so))
  ((base : Int) + loSum ts, (base : Int) + hiSum ts + streamW j - 1)

/-- Interval of the bit vectors at s_msk (R238): an offset into a window, or an address in the parcel space. -/
def mskIv (j : Job) : Int × Int :=
  let nv := ((mvOthers j).map (fun lv => lv.n)).foldl (· * ·) 1
  let ts := [(nv, mvBms j.trv)]
  let inSm := mvComp j ≠ 1 ∧ routeSrc (mvRoute j) = .sm
  let base : Int := (if inSm then mvMskV j % 2 ^ 35 else mvMskV j : Nat)
  (base + loSum ts, base + hiSum ts + 16 * ceilDiv (vecN j) 128 - 1)

/-- Bytes of a pool image (R77). -/
def poolImageBytes : Nat := 65856

/-- Interval of the source at bucket extents, widened for a swizzle. -/
def mvSrcIv (s : State) (p l : Nat) (j : Job) : Int × Int :=
  let d := mvSrc s p l j
  if mvRoute j = 10 then (0, -1)
  else if mvRoute j = 11 then widen d.key ((d.addr : Int), (d.addr : Int) + poolImageBytes - 1)
  else if mvComp j = 1 then widen d.key (compIv j d.addr)
  else widen d.key (walkIv j.trv false d.addr (mvLs j))

/-- Interval of the destination at bucket extents, widened for a swizzle. -/
def mvDstIv (s : State) (p l : Nat) (j : Job) : Int × Int :=
  let d := mvDst s p l j
  if mvRoute j = 11 then (0, -1)
  else if mvRoute j = 10 then widen d.key ((d.addr : Int), (d.addr : Int) + poolImageBytes - 1)
  else if mvComp j = 2 ∨ mvComp j = 3 ∨ mvComp j = 4 then widen d.key (compIv j d.addr)
  else widen d.key (otherIv j.trv false d.addr (mvLs j))

/-- The scratchpad and cluster-buffer operands of a MOVE. -/
def mvOpnds (s : State) (p l : Nat) (j : Job) : List Opnd :=
  sideOpnd (mvSrc s p l j) 0 (mvSrcIv s p l j) false ++ sideOpnd (mvDst s p l j) 1 (mvDstIv s p l j) true ++
  (if mvComp j = 1 then sideOpnd (mvMsk s p l j) 2 (mskIv j) true
   else if mvComp j = 4 then sideOpnd (mvMsk s p l j) 2 (mskIv j) false else [])

/-- Reserved traverse fields of a movement (R222, R473): the descriptor word is named by its parcel-space address. -/
def mvTrvIllegal (l : Nat) (j : Job) (comp : Nat) : Option Fail :=
  let addr := 0x654000000 + l * 0x10000 + 0x1000 + 128 * j.trvNo
  let mk (b : Nat) : Option Fail := mkFail evIllegalEncoding 0 (illegalPayload 0 0xFF b j.pc.toNat addr 0)
  if 9 < mvEwCode j.trv then mk 0
  else if comp ≠ 0 ∧ 4 < mvCdim j.trv then mk 9
  else none

/-- Combinations and encodings of a MOVE that are not allowed (R170, R177, R178, R211, R222, R236, R317). -/
def mvIllegal (s : State) (p l : Nat) (j : Job) : Option Fail :=
  let route := mvRoute j
  let comp := mvComp j
  let eng := mvParcel j
  let es := if mvUsesTrv j then enabledLevels j.trv else []
  firstFail [
    failIllegal j (decide (11 < route)) 24,
    failIllegal j (decide (4 < comp)) 29,
    failIllegal j (if eng then !(route == 4 || route == 5 || route == 7) else route == 7) 0xFFFF,
    failIllegal j (mvSext j != 0 && es.any (fun x => 31 < mvSext j + x.1)) 0xFFFF,
    failIllegal j (comp == 1 && decide (routeDst route ≠ .sp)) 0xFFFF,
    failIllegal j (decide (2 ≤ comp) && !(decide (routeDst route = .sm) || decide (routeDst route = .cb))) 0xFFFF,
    failIllegal j (comp != 0 && decide (8 ≤ route)) 0xFFFF,
    failIllegal j (route == 6 && (field (mvDstV j) 19 2 == 3 || field (mvSrcV j) 19 2 != 0)) 0xFFFF,
    failIllegal j (mvAperture s p j && (comp != 0 || bvb j.word 52)) 0xFFFF,
    if mvUsesTrv j then mvTrvIllegal l j comp else none,
    failIllegal j (comp != 0 && decide (4 < mvEwCode j.trv)) 0xFFFF,
    failIllegal j ((comp == 3 || comp == 4) && bvf j.trv 16 16 != 0) 0xFFFF]

/-- SHAPE_EXCEEDS of a MOVE (R208, R224, R317). -/
def mvShape (s : State) (p l : Nat) (j : Job) : List (Option ShapeFail) :=
  if !mvUsesTrv j then []
  else
    let past := (mvLs j).find? (fun lv => lv.n < lv.ext)
    let iv := mvDstIv s p l j
    let len := iv.2 - iv.1 + 1
    let apart := decide (iv.1 / 2 ^ 24 ≠ iv.2 / 2 ^ 24) || decide (iv.1 < 0x600000000) || decide (0x63FFFFFFF < iv.2)
    [match past with
      | some lv => some (0x01, lv.no, lv.ext, lv.n)
      | none => none,
     shapeIntervals (mvOpnds s p l j),
     if mvAperture s p j && decide (mvForm s p j = .message) then
       (if (2 : Int) ^ 20 < len then some (0x0E, 0xFF, len.toNat, 2 ^ 20)
        else shapeChk apart 0x0E 0xFF (unsignedBits 64 iv.2) (unsignedBits 64 (iv.1 / 2 ^ 24 * 2 ^ 24 + 2 ^ 24 - 1)))
     else none]

/-- PERM_INVALID with a reason and a level (R226). -/
def permFail (j : Job) (reason level : Nat) : Option Fail :=
  mkFail evPermInvalid 0 (packFields [(4, j.pc.toNat), (1, j.trvNo), (1, reason), (1, level)] [])

/-- The first enabled level that names a dimension named before it (R226, reason 0x01). -/
def dupLevel : List MLev → Option Nat
  | [] => none
  | lv :: r => match r.find? (fun x => x.dim == lv.dim) with
    | some x => some x.no
    | none => dupLevel r

/-- Insert into a list that rises in the stride's magnitude, after equal ones. -/
def insertStride (x : Nat × MLev) : List (Nat × MLev) → List (Nat × MLev)
  | [] => [x]
  | y :: r => if x.1 < y.1 then x :: y :: r else y :: insertStride x r

/-- The destination overlap test (R227) from `start`: the level that fails. -/
def overlapFail (start : Nat) (items : List (Nat × MLev)) : Option Nat :=
  let sorted := items.foldl (fun acc x => insertStride x acc) []
  (sorted.foldl (fun (st : Nat × Option Nat) x => match st.2 with
    | some l => (st.1, some l)
    | none => if x.1 < st.1 then (st.1, some x.2.no) else (st.1 + x.1 * (x.2.n - 1), none)) (start, none)).2

/-- The permutation checks that MOVE, GATH and SCAT share (R226 reasons 0x01 and 0x02): `skip` is the indexed dimension
of a SCAT. -/
def permCommon (j : Job) (ls : List MLev) (skip : Option Nat) : Option Fail :=
  match dupLevel ls with
  | some n => permFail j 0x01 n
  | none =>
    match overlapFail 1 ((ls.filter (fun lv => decide (1 < lv.n) && decide (skip ≠ some lv.dim))).map
        (fun lv => (lv.sw.natAbs, lv))) with
    | some n => permFail j 0x02 n
    | none => none

/-- PERM_INVALID of a MOVE (R226, R227, R317). -/
def mvPerm (s : State) (p l : Nat) (j : Job) : Option Fail :=
  let ls := mvLs j
  let comp := mvComp j
  if !mvUsesTrv j then none
  else
    let common :=
      if 2 ≤ comp then
        match dupLevel ls with
        | some n => permFail j 0x01 n
        | none => match overlapFail (streamW j) (((mvOthers j).filter (fun lv => 1 < lv.n)).map
              (fun lv => (lv.so.natAbs, lv))) with
          | some n => permFail j 0x02 n
          | none => none
      else permCommon j ls none
    let vec := match ls.getLast? with
      | none => some 0xFF
      | some lv => if lv.dim != mvCdim j.trv || decide ((if comp = 1 then lv.sw else lv.sa) ≠ 1) then some lv.no else none
    let iv := mvDstIv s p l j
    let filled := decide ((((ls.map (fun lv => lv.n)).foldl (· * ·) 1 : Nat) : Int) * mvEw j.trv = 8 * (iv.2 - iv.1 + 1))
    firstFail [common, if comp ≠ 0 then (match vec with | some n => permFail j 0x04 n | none => none) else none,
      if decide (mvForm s p j = .message) && !filled then permFail j 0x05 0xFF else none]

/-- The swizzle check of R230 on elements of `ew` bits. -/
def swzAlign (operand ew : Nat) (k : Option SwzKey) : Bool × Nat × Nat × Nat :=
  match k with
  | none => (false, operand, 0, 1)
  | some k => (decide (8 < ew) && decide (2 ^ k.tgt < ew / 8), operand, k.tgt, ew / 8)

/-- An alignment check of a value. -/
def alignOf (operand value width : Nat) : Bool × Nat × Nat × Nat := (value % width != 0, operand, value, width)

/-- The alignment checks of a MOVE in operand order (R178, R219, R230). -/
def mvAligns (s : State) (p l : Nat) (j : Job) : List (Bool × Nat × Nat × Nat) :=
  let ew := mvEw j.trv
  let comp := mvComp j
  let eb := max 1 (ew / 8)
  let sos (operand : Nat) := (mvOthers j).map (fun lv => alignOf operand (unsignedBits 32 lv.so) 8)
  if mvRoute j = 10 then [alignOf 1 (mvDstV j) 256]
  else if mvRoute j = 11 then [alignOf 0 (mvSrcV j) 256]
  else
    (if comp = 1 then alignOf 0 (mvSrcV j) 8 :: sos 0 else [alignOf 0 (mvSrcV j) eb]) ++
    [swzAlign 0 ew (mvSrc s p l j).key] ++
    (if 2 ≤ comp then alignOf 1 (mvDstV j) 8 :: sos 1 else [alignOf 1 (mvDstV j) eb]) ++
    [swzAlign 1 ew (mvDst s p l j).key] ++
    (if decide (routeDst (mvRoute j) = .imem) then [alignOf 1 (mvDstV j) 16] else []) ++
    (if comp = 1 ∨ comp = 4 then [alignOf 2 (mvMskV j) 16, alignOf 2 (unsignedBits 32 (mvBms j.trv)) 16] else [])

/-- BOUND of a MOVE in operand order (R177, R260); a send aperture is no stacked memory and has its own check. -/
def mvBound (s : State) (p l : Nat) (j : Job) : Option Fail :=
  firstFail [sideBound s p l j (mvParcel j) (mvSrc s p l j) 0 (mvSrcIv s p l j) false,
    if decide (mvForm s p j = .message) then none
    else sideBound s p l j (mvParcel j) (mvDst s p l j) 1 (mvDstIv s p l j) true,
    if mvComp j = 1 ∨ mvComp j = 4 then
      sideBound s p l j (mvParcel j) (mvMsk s p l j) 2 (mskIv j) (mvComp j == 1) else none]

/-- The scoreboard interval of an IMEM destination (R166). -/
def imemIvs (d : MvSide) (iv : Int × Int) : List Interval :=
  if decide (d.mem = .imem) && decide (iv.1 ≤ iv.2) then [{ space := 2, lo := iv.1.toNat, hi := iv.2.toNat }] else []

/-- The scalars that a MOVE reads (R162). -/
def mvReads (j : Job) : List Nat :=
  (if mvRoute j = 10 then [] else [j.f 32 5]) ++ (if mvRoute j = 11 then [] else [j.f 37 5]) ++
  (if mvComp j = 1 ∨ mvComp j = 4 then [j.f 42 5] else []) ++
  (if mvSext j ≠ 0 ∧ mvUsesTrv j then ((enabledLevels j.trv).map (fun x => mvSext j + x.1)).filter (fun n => n < 32) else [])

/-- The plan of a MOVE (R163, R166, R177). -/
def mvPlan (s : State) (p l : Nat) (j : Job) : Plan :=
  let os := mvOpnds s p l j
  { reads := mvReads j
    checks := [mvIllegal s p l j, failShape j false (mvUsesTrv j) (lowestShape (mvShape s p l j)), mvPerm s p l j,
      failAlignIf j (mvAligns s p l j), mvBound s p l j]
    unit := if mvParcel j then .parcelDma else .reachDma
    rd := { ivs := opndIvs s p l os false, slots := if mvRoute j = 10 then slotMask 0 32 else 0 }
    wr := { ivs := opndIvs s p l os true ++ imemIvs (mvDst s p l j) (mvDstIv s p l j),
            slots := if mvRoute j = 11 then slotMask 0 32 else 0 }
    addr := j.scalar (j.f 37 5)
    armable := true }

/-! ### Effects -/

/-- An extent of 0 on an enabled level: no effect (R224). -/
def mvEmpty (j : Job) : Bool := (mvLs j).any (fun lv => lv.ext == 0)

/-- The other parcel of a MOVE that the part cannot reach, with its operand and interval (R408). -/
def mvBlocked (s : State) (p l : Nat) (j : Job) : Option (Nat × Nat × (Int × Int)) :=
  let chk (d : MvSide) (opnd : Nat) (iv : Int × Int) : Option (Nat × Nat × (Int × Int)) :=
    if decide (d.mem = .sm) && !reachable s p d.parcel
    then some (d.parcel, opnd, ((d.full : Int) - d.addr + iv.1, (d.full : Int) - d.addr + iv.2)) else none
  [chk (mvSrc s p l j) 0 (mvSrcIv s p l j), chk (mvDst s p l j) 1 (mvDstIv s p l j)].findSome? id

/-- A transfer stops at a parcel it cannot reach: status refused and BOUND of origin 4; the task goes on (R165, R408). -/
def refuseMove (s : State) (p l no : Nat) (j : Job) (q opnd lo hi : Nat) : State :=
  updFlight (raise s (srcReach p l) evBound (boundPayload j.pc.toNat 4 opnd 2 q lo hi 0 (srcReach p l)))
    p l no (fun f => { f with status := 2 })

/-- Counts of a transfer of `n` bytes written: CNT[15] for the reach DMA; CCNT[0] and bandwidth port 20 for the parcel
DMA; the side ring; the UCIe ring (R441, R442, R448). -/
def countMove (s : State) (p l : Nat) (parcelDma viaCb halo : Bool) (src dst : Option Nat) (n : Nat) : State :=
  let s1 := if parcelDma then bumpBw (if viaCb then bumpCcnt s p (clusterOf l) 0 n else s) p 20 n else bumpCnt s p l 15 n
  let s2 := if halo then bumpCcnt s1 p (clusterOf l) 8 n else s1
  let s3 := match src with
    | some q => if q = p then s2 else countRing s2 q p n
    | none => s2
  match dst with
  | some q => if q = p then s3 else countRing s3 p q n
  | none => s3

/-- The parcel of a side in stacked memory. -/
def sideParcel (d : MvSide) : Option Nat := if d.mem = .sm then some d.parcel else none

/-- The DMA engine that runs a movement. -/
def dmaUnitOf (parcelDma : Bool) : FuncUnit := if parcelDma then .parcelDma else .reachDma

/-- What the pieces of a transfer replace (R280): `ws` are the bytes that it writes, in order. -/
def noteUndo (s : State) (p l no : Nat) (u : FuncUnit) (ws : List (Space × Nat)) : State :=
  updFlight s p l no (fun f => { f with undo := f.undo ++ (piecesOf 512 ws.length ws).map (fun g =>
    { bytes := bytesBefore s (srcReach p l) u g }) })

/-- A movement ends: its reads are performed, its writes posted (R356), both counted, and a poisoned source faults late
(R402). -/
def finishMove (s : State) (p l no : Nat) (j : Job) (src dst : MvSide) (parcelDma : Bool) (x : MvRun) : State :=
  let u := dmaUnitOf parcelDma
  let s1 := devReadAt (noteUndo s p l no u x.ws.reverse) (src.space p l) (srcReach p l) x.reads.reverse
  let s2 := postWrite s1 (dst.space p l) (srcReach p l) u x.ov
  let viaCb := decide (src.mem = .cb) || decide (dst.mem = .cb)
  let s3 := countMove s2 p l parcelDma viaCb (decide (dst.mem = .sp) && dst.reach != l) (sideParcel src) (sideParcel dst)
    x.ov.length
  match x.bad with
  | some b => lateFault s3 p l no j (poisonFail s b.1 b.2 (srcReach p l))
  | none => s3

/-- The dense context of a MOVE. -/
def mvDense (s : State) (p l : Nat) (j : Job) : MvDense :=
  let src := mvSrc s p l j
  let dst := mvDst s p l j
  let u := dmaUnitOf (mvParcel j)
  { srcSpace := src.space p l, dstSpace := dst.space p l, srcMem := viewOf s (src.space p l) (srcReach p l) u,
    dstMem := viewOf s (dst.space p l) (srcReach p l) u, ruined := viewPoison s (src.space p l) (srcReach p l) u,
    sph := src.phys s p l, dph := dst.phys s p l, srcBit := 8 * src.addr, dstBit := 8 * dst.addr, ew := mvEw j.trv, zc := mvZc j.trv }

/-- The points of a MOVE: source and destination element offsets (R224). -/
def mvPoints (j : Job) : List (Option Int × Option Int) :=
  (walkAxes ((mvLs j).map (axisOf j.trv false))).map (fun e => (e.1, some e.2))

/-- One element of a local copy: a piece of `n` elements reads its source after the pieces before it are written
(R256). The pair holds the run and the source as the current piece sees it. -/
def localStep (c : MvDense) (n : Nat) (x : MvRun × Mem) (e : Nat × (Option Int × Option Int)) : MvRun × Mem :=
  let m := if e.1 % n = 0 then x.1.ov.foldl (fun m b => SMap.put m b.1 b.2) c.srcMem else x.2
  (denseStep { c with srcMem := m } x.1 e.2, m)

/-- The run of a dense MOVE: a local copy moves in pieces of 512 B, each read and then written (R256); any other MOVE
reads its source as it stood (log 86). -/
def moveRun (s : State) (p l : Nat) (j : Job) : MvRun :=
  let c := mvDense s p l j
  if mvForm s p j = .localCopy
  then (((mvPoints j).mapIdx (fun i e => (i, e))).foldl (localStep c (4096 / c.ew)) ({}, c.srcMem)).1
  else (mvPoints j).foldl (denseStep c) {}

/-- The effect of a dense MOVE. -/
def runDense (p l : Nat) (s : State) (j : Job) (no : Nat) : State :=
  if mvEmpty j then s else
  match mvBlocked s p l j with
  | some (q, opnd, iv) => refuseMove s p l no j q opnd (unsignedBits 64 iv.1) (unsignedBits 64 iv.2)
  | none =>
    finishMove s p l no j (mvSrc s p l j) (mvDst s p l j) (mvParcel j) (moveRun s p l j)

/-- Issue of a MOVE of the form `f`. -/
def issueMove (s : State) (p l : Nat) (f : MvForm) (run : State → Job → Nat → State) : State :=
  issueUnit s p l (fun w => wOp w == 4 && decide (mvForm s p (headJob s p l) = f)) (mvPlan s p l) run

/-- MOVE (R177). -/
def execMove (p : ParcelId) (l : ReachId) (s : State) : Out := .next (issueMove s p l .plain (runDense p l))

/-- MOVE into IMEM (R178). -/
def execMoveImemLoad (p : ParcelId) (l : ReachId) (s : State) : Out := .next (issueMove s p l .imem (runDense p l))

/-- Halo MOVE (R211, R212). -/
def execMoveHalo (p : ParcelId) (l : ReachId) (s : State) : Out := .next (issueMove s p l .halo (runDense p l))

/-- Local copy (R256). -/
def execMoveLocalCopy (p : ParcelId) (l : ReachId) (s : State) : Out := .next (issueMove s p l .localCopy (runDense p l))

/-! ### Messages -/

/-- The bytes of a message: those that the MOVE writes, in ascending destination order (R317). -/
def messageRun (s : State) (p l : Nat) (j : Job) : MvRun :=
  let c : MvDense := { mvDense s p l j with dstMem := [], dph := fun o => o.toNat }
  (mvPoints j).foldl (denseStep c) {}

/-- The message leaves, once an identifier is free (R317, R319). -/
def runMessage (p l : Nat) (s : State) (j : Job) (no : Nat) : State :=
  if mvEmpty j then s else
  match mvBlocked s p l j with
  | some (q, opnd, iv) => refuseMove s p l no j q opnd (unsignedBits 64 iv.1) (unsignedBits 64 iv.2)
  | none =>
    let x := messageRun s p l j
    let src := mvSrc s p l j
    let s1 := devReadAt s (src.space p l) (srcReach p l) x.reads.reverse
    match x.bad with
    | some b => lateFault s1 p l no j (poisonFail s b.1 b.2 (srcReach p l))
    | none =>
      let off := (x.ov.head?).elim 0 (fun c => c.1)
      sendMessage s1 p l no (field off 24 6) (off % 2 ^ 24) (x.ov.map (fun c => c.2))

/-- The channel that a message MOVE names. -/
def messageChan (s : State) (p l : Nat) (j : Job) : Nat := field (mvDstIv s p l j).1.toNat 24 6

/-- A message MOVE waits while its channel sends and no identifier is free (R319). -/
def messageHeld (s : State) (p l : Nat) (j : Job) : Bool :=
  bvb (SMap.get 0 (s.parcel p).fab.chan (messageChan s p l j)) 0 && !idFree s p && !mvEmpty j

/-- A message MOVE in its unit: it sends, or waits for an identifier. -/
def startMessage (p l : Nat) (s : State) (j : Job) (no : Nat) : State :=
  if messageHeld s p l j then updFlight s p l no (fun f => { f with wait := .msgId }) else runMessage p l s j no

/-- MOVE that sends a message (R317). -/
def execMoveMessageSend (p : ParcelId) (l : ReachId) (s : State) : Out :=
  .next (issueMove s p l .message (startMessage p l))

/-- The first MOVE of the reach that waits for an identifier goes on once one is free (R319). -/
def resumeMessage (s : State) (p l : Nat) : State :=
  match (s.reach p l).flights.find? (fun f => decide (f.wait = .msgId)) with
  | none => s
  | some f =>
    if messageHeld s p l f.job then s
    else runMessage p l (updFlight s p l f.no (fun x => { x with wait := .none })) f.job f.no

end Sys2Proof.Machine
end

