-- ==== Sys2Proof/Machine/Compress.lean ====
section
/-!
DEFINITION. The MOVE forms that carry compressed data (05 R132 to R134, R145 to R147; 08 R235 to R238) and the pool
image (03 R77, R78).
-/

namespace Sys2Proof.Machine

/-! ### Unstructured blocks (R132, R133) -/

/-- Bytes of an unstructured block that keeps `n` elements of `b` bits. -/
def blockLen (b n : Nat) : Nat := ceilDiv (8 + n + (n * b + 7) / 8) 8 * 8

/-- Sum of the little-endian halfwords. -/
def halfSum : List Byte → Nat
  | [] => 0
  | [a] => a.toNat
  | a :: b :: r => a.toNat + 256 * b.toNat + halfSum r

/-- The checksum that a block needs, its stored one given as part of the bytes (R133). -/
def blockSum (bs : List Byte) : Nat :=
  (65536 - (halfSum bs - leVal ((bs.drop 2).take 2)) % 65536) % 65536

/-- A block with number `no` that keeps the (index, code) pairs given. -/
def encodeBlock (b no : Nat) (kept : List (Nat × Nat)) : List Byte :=
  let n := kept.length
  let body (sum : Nat) : List Byte := padTo (blockLen b n)
    (leBytes 1 n ++ leBytes 1 0 ++ leBytes 2 sum ++ leBytes 4 no ++ kept.map (fun k => BitVec.ofNat 8 k.1) ++
      packBytes b (kept.map (fun k => k.2)))
  body (blockSum (body 0))

/-- Kept (index, code) pairs of a block's codes: those that differ from the zero code. -/
def keptOf (zc : Nat) (codes : List Nat) : List (Nat × Nat) :=
  (codes.mapIdx (fun i c => (i, c))).filter (fun x => x.2 != zc)

/-- The index list of a block. -/
def blockIndices (bs : List Byte) : List Nat := ((bs.drop 8).take (bs.getD 0 0).toNat).map (fun b => b.toNat)

/-- The (index, code) pairs of a block. -/
def blockPairs (b : Nat) (bs : List Byte) : List (Nat × Nat) :=
  let n := (bs.getD 0 0).toNat
  let codes := bs.drop (8 + n)
  (blockIndices bs).mapIdx (fun i x => (x, unpackAt codes b i))

/-- The first failing check of an unstructured block as stored (R145): checksum, count, order, index. `first` is the
reduction coordinate of its first element, `ext` the vector's extent, `addr` its address. -/
def blockBad (bs : List Byte) (first ext addr : Nat) : Option MetaBad :=
  let n := (bs.getD 0 0).toNat
  let ix := blockIndices bs
  let mk (code elem found extra : Nat) : Option MetaBad :=
    some { code := code, elem := elem, coord := first, found := found, extra := extra, addr := addr }
  if halfSum bs % 65536 ≠ 0 then mk evMetaChecksum 0 0 (leVal ((bs.drop 2).take 2) + 65536 * blockSum bs)
  else if 128 < n then mk evMetaCount 0 n n
  else
    match (ix.zip (ix.drop 1)).findIdx? (fun x => x.2 ≤ x.1) with
    | some i => mk evMetaOrder (i + 1) (ix.getD (i + 1) 0) (ix.getD i 0)
    | none => match ix.findIdx? (fun x => 127 < x || ext ≤ first + x) with
      | some i => mk evMetaIndex i (ix.getD i 0) (if 127 < ix.getD i 0 then 128 else ext)
      | none => none

/-! ### 2:4 blocks (R134) -/

/-- The two kept places of a group of four codes: its kept elements, and the lowest unused indices with code 0. -/
def groupKept (codes : List Nat) (kept : List Nat) : List (Nat × Nat) :=
  let spare := ((List.range 4).filter (fun i => !kept.contains i)).take (2 - kept.length)
  ((List.range 4).filter (fun i => kept.contains i || spare.contains i)).map (fun i =>
    (i, if kept.contains i then codes.getD i 0 else 0))

/-- A 2:4 block of 32 groups, each given as its two places. -/
def encode24 (b : Nat) (groups : List (List (Nat × Nat))) : List Byte :=
  padTo (8 * b) (packBytes b (groups.flatMap (fun g => g.map (fun x => x.2)))) ++
  leBytes 16 (packNat 4 (groups.map (fun g => (g.getD 0 (0, 0)).1 + 4 * (g.getD 1 (0, 0)).1)))

/-! ### Shared steps -/

/-- A running compressed transfer: bytes written on the destination and in the bitmap, the bytes in the order of their
writes (newest first), bytes read, blocks done, the address within the stream, and the late fault that stopped it. -/
structure CompRun where
  ov : Overlay := []
  map : Overlay := []
  ws : List (Space × Nat) := []
  reads : List Nat := []
  blk : Nat := 0
  pos : Int := 0
  fail : Option Fail := none
deriving DecidableEq, Repr

/-- One vector of a compressed transfer: its number, whether it lies within the run-time extents, the sums of the other
levels' so, sa and sw. -/
structure Vec where
  no : Nat
  inside : Bool
  so : Int
  sw : Int
deriving DecidableEq, Repr

/-- The vectors in nest order over the bucket counts (R235). -/
def vecsOf : List MLev → List (Bool × Int × Int)
  | [] => [(true, 0, 0)]
  | lv :: r =>
    let inner := vecsOf r
    (List.range lv.n).flatMap (fun (i : Nat) => inner.map (fun v =>
      (decide (i < lv.ext) && v.1, (i : Int) * lv.so + v.2.1, (i : Int) * lv.sw + v.2.2)))

/-- The numbered vectors of a MOVE. -/
def mvVecs (j : Job) : List Vec :=
  (vecsOf (mvOthers j)).mapIdx (fun i v => { no := i, inside := v.1, so := v.2.1, sw := v.2.2 })

/-- A metadata fault of a transfer (R147): no profile and no slot; `rc` is the row or column: for a 2:4 block the
vector's number in its tile of 16, for an unstructured block 0xFF (log 22). -/
def dmaMeta (j : Job) (detected blk rc : Nat) (b : MetaBad) : Fail :=
  metaFail b.code j.pc.toNat 0xFF 0 0xFF detected blk b.coord rc b.elem b.found b.addr b.extra

/-- The address that a metadata record gives for an offset of a side. -/
def sideAddr (d : MvSide) (o : Int) : Nat := unsignedBits 64 ((d.full : Int) - d.addr + o)

/-- Bytes of a side at consecutive offsets. -/
def sideBytes (m : Mem) (ph : Int → Nat) (o : Int) (n : Nat) : List Byte :=
  (List.range n).map (fun (i : Nat) => memByte m (ph (o + i)))

/-- Addresses of consecutive bytes of a side. -/
def sideAddrs (ph : Int → Nat) (o : Int) (n : Nat) : List Nat := (List.range n).map (fun (i : Nat) => ph (o + i))

/-- The source of a late fault of a transfer: the parcel DMA raises its own metadata and list faults (R389, R420). -/
def dmaSource (p l : Nat) (parcelDma : Bool) (f : Fail) : Nat :=
  if parcelDma && f.code != evMemUe then srcParcel p 1 else srcReach p l

/-- A compressed transfer ends: reads and writes are performed and counted, and its fault, if any, is taken (R146). -/
def finishComp (s : State) (p l no : Nat) (j : Job) (x : CompRun) : State :=
  let src := mvSrc s p l j
  let dst := mvDst s p l j
  let u := dmaUnitOf (mvParcel j)
  let s1 := devReadAt (noteUndo s p l no u x.ws.reverse) (src.space p l) (srcReach p l) x.reads.reverse
  let s2 := postWrite s1 (dst.space p l) (srcReach p l) u x.ov
  let s3 := devWrite s2 (.sp p l) (srcReach p l) x.map
  let viaCb := decide (src.mem = .cb) || decide (dst.mem = .cb)
  let s4 := countMove s3 p l (mvParcel j) viaCb (decide (dst.mem = .sp) && dst.reach != l) (sideParcel src)
    (sideParcel dst) (x.ov.length + x.map.length)
  match x.fail with
  | some f => lateFaultFrom s4 (dmaSource p l (mvParcel j) f) p l no j f
  | none => s4

/-- A compressed MOVE: nothing on an empty extent, a refusal where a parcel is out of reach, else `go`. -/
def runComp (p l : Nat) (s : State) (j : Job) (no : Nat) (go : CompRun) : State :=
  if mvEmpty j then s else
  match mvBlocked s p l j with
  | some (q, opnd, iv) => refuseMove s p l no j q opnd (unsignedBits 64 iv.1) (unsignedBits 64 iv.2)
  | none => finishComp s p l no j go

/-! ### Expansion (R238, comp 001b) -/

/-- The dense codes of one block's places and its bitmap bits. -/
def denseOf (zc n : Nat) (kept : List (Nat × Nat)) : List Nat × Nat :=
  let codes := (List.range n).map (fun e => ((kept.find? (fun k => k.1 == e)).elim zc (fun k => k.2)))
  (codes, packNat 1 (codes.map (fun c => b2n (c != zc))))

/-- One block of a vector is expanded: `k` is the block's number within the vector. -/
def expandBlock (s : State) (p l : Nat) (j : Job) (v : Vec) (x : CompRun) (k : Nat) : CompRun :=
  if x.fail.isSome then x else
  let src := mvSrc s p l j
  let dst := mvDst s p l j
  let msk := mvMsk s p l j
  let ew := mvEw j.trv
  let zc := mvZc j.trv
  let sph := src.phys s p l
  let u := dmaUnitOf (mvParcel j)
  let sm := viewOf s (src.space p l) (srcReach p l) u
  let dm := viewOf s (dst.space p l) (srcReach p l) u
  let lives := v.inside && decide (128 * k < vecE j)
  let n := (sideBytes sm sph x.pos 1).getD 0 0
  let len := if lives then blockLen ew n.toNat else 0
  let as := sideAddrs sph x.pos len
  match unitAt (viewPoison s (src.space p l) (srcReach p l) u) (src.space p l) as with
  | some n => { x with fail := some (poisonFail s (src.space p l) n (srcReach p l)) }
  | none =>
    let bs := as.map (memByte sm)
    match (if lives then blockBad bs (128 * k) (vecE j) (sideAddr src x.pos) else none) with
    | some b => { x with fail := some (dmaMeta j 1 x.blk 0xFF b) }
    | none =>
      let (codes, bits) := denseOf zc (min 128 (vecN j - 128 * k)) (if lives then blockPairs ew bs else [])
      let at' (e : Nat) : Int := 8 * dst.addr + ew * (v.sw + 128 * k + e)
      let mo : Int := (msk.addr : Int) + v.no * mvBms j.trv + 16 * k
      let ws := (List.range codes.length).flatMap (fun e =>
          (elemAddrs (dst.phys s p l) ew (at' e)).map (fun a => (dst.space p l, a))) ++
        (sideAddrs (msk.phys s p l) mo 16).map (fun a => (Space.sp p l, a))
      { x with
        ov := (codes.mapIdx (fun e c => (e, c))).foldl (fun ov ec =>
          putElem dm (dst.phys s p l) ew ov (at' ec.1) ec.2) x.ov
        map := putBytes (msk.phys s p l) x.map mo (leBytes 16 bits)
        ws := ws.reverse ++ x.ws
        reads := (match src.mem with | .sm => as.reverse ++ x.reads | _ => x.reads)
        blk := x.blk + b2n lives
        pos := x.pos + len }

/-- One vector is expanded. -/
def expandVec (s : State) (p l : Nat) (j : Job) (x : CompRun) (v : Vec) : CompRun :=
  (List.range (ceilDiv (vecN j) 128)).foldl (expandBlock s p l j v) { x with pos := (mvSrc s p l j).addr + v.so }

/-- The effect of an expansion. -/
def runExpand (p l : Nat) (s : State) (j : Job) (no : Nat) : State :=
  runComp p l s j no ((mvVecs j).foldl (expandVec s p l j) {})

/-- MOVE with comp 001b (R238). -/
def execMoveExpand (p : ParcelId) (l : ReachId) (s : State) : Out := .next (issueMove s p l .expand (runExpand p l))

/-! ### Stores (R238, comp 010b to 100b) -/

/-- What a store makes of one block: its bytes, or the check that fails. Arguments: block number, codes, mask bits
(bit e is element e), address of the block. -/
abbrev BlockMaker := Nat → List Nat → Nat → Nat → List Byte ⊕ MetaBad

/-- An unstructured block (comp 010b). -/
def makeUnstructured (j : Job) : BlockMaker := fun k codes _ _ =>
  .inl (encodeBlock (mvEw j.trv) k (keptOf (mvZc j.trv) codes))

/-- The four codes of group `g`; elements past the extent are 0 (R235). -/
def groupCodes (codes : List Nat) (g : Nat) : List Nat := (List.range 4).map (fun e => codes.getD (4 * g + e) 0)

/-- Indices of the non-zero codes of a group. -/
def nonZero (cs : List Nat) : List Nat := (List.range 4).filter (fun i => cs.getD i 0 != 0)

/-- A 2:4 block from the non-zero elements (comp 011b); a group with more than two raises META_COUNT (R145). -/
def make24 (j : Job) : BlockMaker := fun k codes _ addr =>
  let gs := (List.range 32).map (groupCodes codes)
  match gs.findIdx? (fun cs => decide (2 < (nonZero cs).length)) with
  | some g => .inr { code := evMetaCount, elem := 4 * g, coord := 128 * k + 4 * g,
                     found := (nonZero (gs.getD g [])).length,
                     extra := packNat 1 ((gs.getD g []).map (fun c => b2n (c != 0))),
                     addr := addr + 8 * mvEw j.trv }
  | none => .inl (encode24 (mvEw j.trv) (gs.map (fun cs => groupKept cs (nonZero cs))))

/-- A 2:4 block under a mask (comp 100b): only the two lowest marked elements of a group count as inside. -/
def makeMasked (j : Job) : BlockMaker := fun _ codes mask _ =>
  .inl (encode24 (mvEw j.trv) ((List.range 32).map (fun g =>
    let cs := groupCodes codes g
    let inside := ((List.range 4).filter (fun e => mask.testBit (4 * g + e))).take 2
    groupKept cs ((nonZero cs).filter (fun i => inside.contains i)))))

/-- One block of a vector is stored. `els` are the source element offsets of the vector's elements within its extent. -/
def storeBlock (s : State) (p l : Nat) (j : Job) (mk : BlockMaker) (v : Nat) (els : List (Option Int)) (x : CompRun)
    (k : Nat) : CompRun :=
  if x.fail.isSome then x else
  let src := mvSrc s p l j
  let dst := mvDst s p l j
  let msk := mvMsk s p l j
  let ew := mvEw j.trv
  let sph := src.phys s p l
  let u := dmaUnitOf (mvParcel j)
  let sm := viewOf s (src.space p l) (srcReach p l) u
  let part := (els.drop (128 * k)).take 128
  let bitOf (o : Int) : Int := 8 * src.addr + ew * o
  let as := part.flatMap (fun e => e.elim [] (fun o => elemAddrs sph ew (bitOf o)))
  let mo : Int := (msk.addr : Int) + v * mvBms j.trv + 16 * k
  let mas := if mvComp j = 4 then sideAddrs (msk.phys s p l) mo 16 else []
  match unitAt (viewPoison s (src.space p l) (srcReach p l) u) (src.space p l) (as ++ mas) with
  | some n => { x with fail := some (poisonFail s (src.space p l) n (srcReach p l)) }
  | none =>
    let codes := part.map (fun e => e.elim (mvZc j.trv) (fun o => readElem sm sph ew (bitOf o)))
    match mk k codes (leVal (mas.map (memByte sm))) (sideAddr dst x.pos) with
    | .inr b => { x with fail := some (dmaMeta j 2 x.blk (v % 16) b) }
    | .inl bs =>
      { x with
        ov := putBytes (dst.phys s p l) x.ov x.pos bs
        ws := ((sideAddrs (dst.phys s p l) x.pos bs.length).map (fun a => (dst.space p l, a))).reverse ++ x.ws
        reads := (match src.mem with | .sm => (as ++ mas).reverse ++ x.reads | _ => x.reads)
        blk := x.blk + 1
        pos := x.pos + bs.length }

/-- The elements of vector `v`, cut to its extent (R235). -/
def vecElems (j : Job) (pts : List (Option Int × Int)) (v : Nat) : List (Option Int) :=
  ((pts.drop (v * vecN j)).take (min (vecE j) (vecN j))).map (fun e => e.1)

/-- The run of a store. -/
def storeRun (s : State) (p l : Nat) (j : Job) (mk : BlockMaker) : CompRun :=
  let pts := walkAxes ((mvLs j).map (axisOf j.trv false))
  (mvVecs j).foldl (fun x v =>
    (List.range (ceilDiv (vecE j) 128)).foldl (storeBlock s p l j mk v.no (vecElems j pts v.no))
      { x with pos := (mvDst s p l j).addr + v.so }) {}

/-- The effect of a store. -/
def runStore (mk : Job → BlockMaker) (p l : Nat) (s : State) (j : Job) (no : Nat) : State :=
  runComp p l s j no (storeRun s p l j (mk j))

/-- MOVE with comp 010b (R238). -/
def execMoveStoreUnstructured (p : ParcelId) (l : ReachId) (s : State) : Out :=
  .next (issueMove s p l .unstructured (runStore makeUnstructured p l))

/-- MOVE with comp 011b (R238). -/
def execMoveStore24 (p : ParcelId) (l : ReachId) (s : State) : Out :=
  .next (issueMove s p l .store24 (runStore make24 p l))

/-- MOVE with comp 100b (R238). -/
def execMoveStore24Masked (p : ParcelId) (l : ReachId) (s : State) : Out :=
  .next (issueMove s p l .masked24 (runStore makeMasked p l))

/-! ### Pool images (R77, R78) -/

/-- The 8-byte word of a pool entry. -/
def entryWord (e : PoolEntry) : List Byte := leBytes 8 (e.v.toNat + b2n e.ovf * 2 ^ 36)

/-- Words of entries `n` to `n + k - 1`. -/
def entryWords (pool : SMap PoolEntry) : Nat → Nat → List Byte
  | 0, _ => []
  | k + 1, n => entryWord (SMap.get {} pool n) ++ entryWords pool k (n + 1)

/-- The 16 bytes of one row's statistics. -/
def statBytes (t : RowStat) : List Byte := leBytes 8 (unsignedBits 64 t.mx) ++ leBytes 8 t.sum.toNat

/-- The image of a pool (R77). -/
def poolImage (r : Reach) : List Byte :=
  entryWords r.pool 8192 0 ++ leBytes 4 r.paired.toNat ++ List.replicate 60 0 ++
  (List.range 16).flatMap (fun i => statBytes (SMap.get {} r.stats i))

/-- The entries of an image; bit 36 of the upper entry of a paired value is ignored (R78). -/
def poolOf (tags : BitVec 32) : Nat → Nat → List Byte → SMap PoolEntry
  | 0, _, _ => []
  | k + 1, n, bs =>
    let w := leVal (bs.take 8)
    let upper := bvb tags (n / 256) && n % 2 == 1
    let e : PoolEntry := { v := BitVec.ofNat 36 w, ovf := bit w 36 && !upper }
    let rest := poolOf tags k (n + 1) (bs.drop 8)
    if e = {} then rest else (n, e) :: rest

/-- The row statistics of an image. -/
def statsOf : Nat → Nat → List Byte → SMap RowStat
  | 0, _, _ => []
  | k + 1, n, bs =>
    let t : RowStat := { mx := signed 64 (leVal (bs.take 8)), sum := BitVec.ofNat 64 (leVal ((bs.drop 8).take 8)) }
    let rest := statsOf k (n + 1) (bs.drop 16)
    if t = {} then rest else (n, t) :: rest

/-- Whether the tags of an image pair their slots (R78). -/
def tagsOk (tags : BitVec 32) : Bool := (List.range 16).all (fun i => bvb tags (2 * i) == bvb tags (2 * i + 1))

/-- A reach with the pool and statistics of an image; none where its mode tags do not pair (R78). -/
def restorePool (r : Reach) (bs : List Byte) : Option Reach :=
  let tags := BitVec.ofNat 32 (leVal ((bs.drop 65536).take 4))
  if tagsOk tags then
    some { r with pool := poolOf tags 8192 0 bs, paired := tags, stats := statsOf 16 0 (bs.drop 65600) }
  else none

/-- The ILLEGAL_ENCODING of a restore (R473, origin 4). -/
def restoreFail (addr : Nat) : Fail :=
  { code := evIllegalEncoding, payload := illegalPayload 4 0xFF 0xFFFF 0xFFFFFFFF addr 0 }

/-- The effect of a pool save (R77, R178). -/
def runPoolSave (p l : Nat) (s : State) (j : Job) (no : Nat) : State :=
  match mvBlocked s p l j with
  | some (q, opnd, iv) => refuseMove s p l no j q opnd (unsignedBits 64 iv.1) (unsignedBits 64 iv.2)
  | none =>
    let dst := mvDst s p l j
    let ov := putBytes (dst.phys s p l) [] dst.addr (poolImage (s.reach p l))
    finishMove s p l no j (mvSrc s p l j) dst false { ov := ov, ws := (ov.map (fun c => (dst.space p l, c.1))).reverse }

/-- The effect of a pool restore (R78, R178). -/
def runPoolRestore (p l : Nat) (s : State) (j : Job) (no : Nat) : State :=
  match mvBlocked s p l j with
  | some (q, opnd, iv) => refuseMove s p l no j q opnd (unsignedBits 64 iv.1) (unsignedBits 64 iv.2)
  | none =>
    let src := mvSrc s p l j
    let as := sideAddrs (src.phys s p l) src.addr poolImageBytes
    match unitAt (viewPoison s (src.space p l) (srcReach p l) .reachDma) (src.space p l) as with
    | some u => lateFault s p l no j (poisonFail s (src.space p l) u (srcReach p l))
    | none =>
      let s1 := devReadAt s (src.space p l) (srcReach p l) as
      match restorePool (s.reach p l)
          (sideBytes (viewOf s (src.space p l) (srcReach p l) .reachDma) (src.phys s p l) src.addr poolImageBytes) with
      | none => lateFault s1 p l no j (restoreFail src.full)
      | some r =>
        let old := s.reach p l
        updFlight (s1.updReach p l (fun x => { x with pool := r.pool, paired := r.paired, stats := r.stats })) p l no
          (fun f => { f with undo := [{ pool := old.poolNow, rows := some (old.stats, old.calAcc) }] })

/-- MOVE that saves the pool (R77). -/
def execMovePoolSave (p : ParcelId) (l : ReachId) (s : State) : Out := .next (issueMove s p l .poolSave (runPoolSave p l))

/-- MOVE that restores the pool (R78). -/
def execMovePoolRestore (p : ParcelId) (l : ReachId) (s : State) : Out :=
  .next (issueMove s p l .poolRestore (runPoolRestore p l))

end Sys2Proof.Machine
end

