-- ==== Sys2Proof/Machine/Gather.lean ====
section
/-!
DEFINITION. GATH and SCAT (06 R179, 08 R232 to R234): through an index tensor on the reach DMA, or through a
block-coordinate list on the parcel DMA.
-/

namespace Sys2Proof.Machine

/-- Whether the instruction is a SCAT. -/
def gsScat (j : Job) : Bool := wOp j.word == 6
/-- Whether the parcel DMA runs it. -/
def gsParcel (j : Job) : Bool := bvb j.word 28
/-- Value of s_data. -/
def gsData (j : Job) : Nat := j.sv 29
/-- Value of s_idx. -/
def gsIdx (j : Job) : Nat := j.sv 34
/-- Value of s_loc. -/
def gsLoc (j : Job) : Nat := j.sv 39
/-- Value of s_cnt. -/
def gsCnt (j : Job) : Nat := j.sv 44
/-- Indexed dimension. -/
def gsDim (j : Job) : Nat := j.f 51 3
/-- Bytes of one index, or of one list entry. -/
def gsIdxBytes (j : Job) : Nat := if gsParcel j then 8 else if j.f 49 2 = 0 then 2 else 4

/-- The levels; the extents are the bucket counts (R224). -/
def gsLs (j : Job) : List MLev := mvLevels j 0

/-- The bucket count of the indexed level. -/
def gsN (j : Job) : Nat := ((gsLs j).find? (fun lv => lv.dim == gsDim j)).elim 1 (fun lv => lv.n)

/-- The side that a memory-selecting scalar names (R232). -/
def selSide (l v : Nat) : MvSide :=
  match field v 62 2 with
  | 0 => smSide (v % 2 ^ 52)
  | 1 => { mem := .cb, addr := v % 2 ^ 22, reach := l, parcel := 0, full := v % 2 ^ 22 }
  | _ => { mem := .sp, addr := v % 2 ^ 19, reach := l, parcel := 0, full := v % 2 ^ 19 }

/-- The indexed side with eng 0. -/
def gsDataSide (l : Nat) (j : Job) : MvSide := selSide l (gsData j)
/-- The other side. -/
def gsLocSide (l : Nat) (j : Job) : MvSide := selSide l (gsLoc j)
/-- The index tensor (scratchpad) or the list (stacked memory). -/
def gsIdxSide (l : Nat) (j : Job) : MvSide := if gsParcel j then smSide (gsIdx j) else mkSide l .sp (gsIdx j) none

/-- The axis of a level: the indexed level takes `idx`, every other one its coordinates (R224, R233). -/
def gsAxis (j : Job) (idx : List (Option Int)) (lv : MLev) : Axis :=
  if lv.dim = gsDim j then
    { walk := idx, ws := if gsScat j then lv.sw else lv.sa, os := if gsScat j then lv.sa else lv.sw }
  else axisOf j.trv (gsScat j) lv

/-- Coordinate span of a level at bucket extents: the indexed level covers its whole bucket. -/
def gsSpan (j : Job) (lv : MLev) : Option (Int × Int) :=
  if lv.dim = gsDim j then some (0, (lv.n : Int) - 1) else walkSpan j.trv lv

/-- Interval of the indexed side with eng 0. -/
def gsDataIv (l : Nat) (j : Job) : Int × Int :=
  byteSpan (gsDataSide l j).addr (mvEw j.trv)
    (spanSum ((gsLs j).map (fun lv => (gsSpan j lv, if gsScat j then lv.sw else lv.sa))))

/-- Interval of the other side. -/
def gsLocIv (l : Nat) (j : Job) : Int × Int := otherIv j.trv (gsScat j) (gsLocSide l j).addr (gsLs j)

/-- Interval of the index tensor or list at the bucket count. -/
def gsIdxIv (l : Nat) (j : Job) : Int × Int :=
  let d := gsIdxSide l j
  ((d.addr : Int), (d.addr : Int) + gsN j * gsIdxBytes j - 1)

/-- The scratchpad and cluster-buffer operands. -/
def gsOpnds (l : Nat) (j : Job) : List Opnd :=
  (if gsParcel j then [] else sideOpnd (gsDataSide l j) 0 (gsDataIv l j) (gsScat j)) ++
  (if gsParcel j then [] else sideOpnd (gsIdxSide l j) 1 (gsIdxIv l j) false) ++
  sideOpnd (gsLocSide l j) 2 (gsLocIv l j) (!gsScat j)

/-- Combinations and encodings that are not allowed (R170, R179, R222, R232). -/
def gsIllegal (l : Nat) (j : Job) : Option Fail :=
  let eng := gsParcel j
  let loc := field (gsLoc j) 62 2
  firstFail [
    failIllegal j (!eng && decide (1 < j.f 49 2)) 49,
    failIllegal j (decide (4 < gsDim j)) 51,
    failIllegal j (!eng && field (gsData j) 62 2 == 3) 0xFFFF,
    failIllegal j (if eng then !(loc == 1 || loc == 2) else loc != 2) 0xFFFF,
    mvTrvIllegal l j 0]

/-- SHAPE_EXCEEDS of a GATH or SCAT (R208, R233). -/
def gsShape (l : Nat) (j : Job) : List (Option ShapeFail) :=
  let lv := (gsLs j).find? (fun lv => lv.dim == gsDim j)
  [match lv with
    | some x => shapeChk (decide (x.n < gsCnt j)) 0x01 x.no (gsCnt j) x.n
    | none => none,
   shapeIntervals (gsOpnds l j)]

/-- PERM_INVALID of a GATH or SCAT (R226). -/
def gsPerm (j : Job) : Option Fail :=
  let ls := gsLs j
  firstFail [permCommon j ls (if gsScat j then some (gsDim j) else none),
    if ls.any (fun lv => lv.dim == gsDim j) then none else permFail j 0x03 0xFF]

/-- The alignment checks (R219). -/
def gsAligns (j : Job) : List (Bool × Nat × Nat × Nat) :=
  let eb := max 1 (mvEw j.trv / 8)
  [alignOf 0 (gsData j) eb, alignOf 1 (gsIdx j) (gsIdxBytes j), alignOf 2 (gsLoc j) eb]

/-- BOUND, operands in order (R177, R232, R260). -/
def gsBound (s : State) (p l : Nat) (j : Job) : Option Fail :=
  firstFail [if gsParcel j then none else sideBound s p l j false (gsDataSide l j) 0 (gsDataIv l j) (gsScat j),
    sideBound s p l j false (gsIdxSide l j) 1 (gsIdxIv l j) false,
    sideBound s p l j false (gsLocSide l j) 2 (gsLocIv l j) (!gsScat j)]

/-- The plan of a GATH or SCAT. -/
def gsPlan (s : State) (p l : Nat) (j : Job) : Plan :=
  let os := gsOpnds l j
  { reads := [j.f 29 5, j.f 34 5, j.f 39 5, j.f 44 5]
    checks := [gsIllegal l j, failShape j false true (lowestShape (gsShape l j)), gsPerm j, failAlignIf j (gsAligns j),
      gsBound s p l j]
    unit := if gsParcel j then .parcelDma else .reachDma
    rd := { ivs := opndIvs s p l os false }
    wr := { ivs := opndIvs s p l os true }
    addr := j.scalar (j.f 29 5)
    armable := true }

/-! ### Through an index tensor (R233) -/

/-- The indices, each as the coordinate it gives (R225, R233). -/
def gsIndices (s : State) (p l : Nat) (j : Job) : List (Option Int) :=
  let d := gsIdxSide l j
  let b := gsIdxBytes j
  let lv := (gsLs j).find? (fun lv => lv.dim == gsDim j)
  (List.range (gsCnt j)).map (fun (i : Nat) =>
    let x := leVal (sideBytes (cells s (d.space p l)) (d.phys s p l) ((d.addr : Int) + i * b) b)
    edgeOf (mvWrap j.trv (gsDim j)) (lv.elim 1 (fun lv => lv.n)) x)

/-- The side that a GATH or SCAT reads. -/
def gsSrc (l : Nat) (j : Job) : MvSide := if gsScat j then gsLocSide l j else gsDataSide l j

/-- The side that it writes. -/
def gsDst (l : Nat) (j : Job) : MvSide := if gsScat j then gsDataSide l j else gsLocSide l j

/-- The addresses of the index tensor. -/
def gsIdxAddrs (s : State) (p l : Nat) (j : Job) : List Nat :=
  sideAddrs ((gsIdxSide l j).phys s p l) (gsIdxSide l j).addr (gsCnt j * gsIdxBytes j)

/-- The dense context of a GATH or SCAT through an index tensor. -/
def gsDense (s : State) (p l : Nat) (j : Job) : MvDense :=
  let src := gsSrc l j
  let dst := gsDst l j
  { srcSpace := src.space p l, dstSpace := dst.space p l, srcMem := viewOf s (src.space p l) (srcReach p l) .reachDma,
    dstMem := viewOf s (dst.space p l) (srcReach p l) .reachDma,
    ruined := viewPoison s (src.space p l) (srcReach p l) .reachDma, sph := src.phys s p l,
    dph := dst.phys s p l, srcBit := 8 * src.addr, dstBit := 8 * dst.addr, ew := mvEw j.trv, zc := mvZc j.trv }

/-- The points of a GATH or SCAT: source and destination element offsets, the walking side being the indexed one. -/
def gsPoints (s : State) (p l : Nat) (j : Job) : List (Option Int × Option Int) :=
  (walkAxes ((gsLs j).map (gsAxis j (gsIndices s p l j)))).map (fun e => if gsScat j then (some e.2, e.1) else (e.1, some e.2))

/-- The number of the index that each point of a GATH or SCAT uses, in nest order. -/
def gsCounts (j : Job) : List Nat :=
  let axis (lv : MLev) : Axis :=
    if lv.dim = gsDim j then { walk := List.replicate (gsCnt j) none, ws := 0, os := 1 }
    else { walk := List.replicate lv.n none, ws := 0, os := 0 }
  (walkAxes ((gsLs j).map axis)).map (fun e => e.2.toNat)

/-- The poisoned unit of index `i`. -/
def gsIdxBad (s : State) (p l : Nat) (j : Job) (i : Nat) : Option Nat :=
  let d := gsIdxSide l j
  poisonAt s (d.space p l) (sideAddrs (d.phys s p l) ((d.addr : Int) + i * gsIdxBytes j) (gsIdxBytes j))

/-- One point of a GATH or SCAT, with the number of its index: a poisoned index stops the transfer there (R402). -/
def indexedStep (s : State) (p l : Nat) (j : Job) (c : MvDense) (x : MvRun) (e : Nat × (Option Int × Option Int)) : MvRun :=
  if x.bad.isSome then x else
  match gsIdxBad s p l j e.1 with
  | some u => { x with bad := some ((gsIdxSide l j).space p l, u) }
  | none => denseStep c x e.2

/-- The effect of a GATH or SCAT through an index tensor. -/
def runIndexed (p l : Nat) (s : State) (j : Job) (no : Nat) : State :=
  finishMove s p l no j (gsSrc l j) (gsDst l j) false
    (((gsCounts j).zip (gsPoints s p l j)).foldl (indexedStep s p l j (gsDense s p l j)) {})

/-! ### Through a list (R118, R234) -/

/-- A list entry: its address in stacked memory and its value. -/
def listEntry (s : State) (p l : Nat) (j : Job) (i : Nat) : Nat × Nat :=
  let d := smSide (gsIdx j)
  (d.addr + 8 * i, leVal (memRead (viewOf s (.sm d.parcel) (srcReach p l) .parcelDma) (d.addr + 8 * i) 8))

/-- The offsets that a block's elements span from its address (R234). -/
def blockSpan (j : Job) : Int × Int :=
  byteSpan (gsData j) (mvEw j.trv) (spanSum (((gsLs j).filter (fun lv => lv.dim != gsDim j)).map (fun lv =>
    (walkSpan j.trv lv, if gsScat j then lv.sw else lv.sa))))

/-- Why an entry fails (R234): unreadable, not valid, misplaced, or outside the package's stacked memory with its
block (log 23). -/
def entryBad (s : State) (p l : Nat) (j : Job) (i : Nat) : Option Nat :=
  let d := smSide (gsIdx j)
  let e := listEntry s p l j i
  let v := e.2
  let a : Int := (v % 2 ^ 35 : Nat)
  let sp := blockSpan j
  if (unitAt (viewPoison s (.sm d.parcel) (srcReach p l) .parcelDma) (.sm d.parcel) ((List.range 8).map (fun i => e.1 + i))).isSome then some 3
  else if !bit v 63 then some 0
  else if v % 256 ≠ 0 then some 1
  else if field v 38 14 ≠ s.dev ∨ (smTop : Int) < a ∨ (sp.1 ≤ sp.2 ∧ (a + sp.1 < 0 ∨ (smTop : Int) < a + sp.2)) then some 2
  else none

/-- The GATHER_LIST record (R234). -/
def listFail (s : State) (p l : Nat) (j : Job) (i reason : Nat) : Fail :=
  let d := smSide (gsIdx j)
  let e := listEntry s p l j i
  { code := evGatherList, payload := packFields [(4, j.pc.toNat), (4, i), (8, d.full - d.addr + e.1), (8, e.2),
      (1, reason)] [] }

/-- A running list transfer: bytes written on the other side, bytes written per parcel, bytes read per parcel, the
bytes in the order of their writes (newest first), the poisoned unit that stopped it. -/
structure ListRun where
  ov : Overlay := []
  ws : List (Space × Nat) := []
  blocks : SMap Overlay := []
  reads : SMap (List Nat) := []
  bad : Option (Space × Nat) := none
deriving DecidableEq, Repr

/-- One element of a list transfer: entry number, offset on the indexed side, offset on the other side. -/
def listStep (s : State) (p l : Nat) (j : Job) (x : ListRun) (e : Nat × Option Int × Int) : ListRun :=
  if x.bad.isSome then x else
  let ew := mvEw j.trv
  let loc := gsLocSide l j
  let v := (listEntry s p l j e.1).2
  let q := field v 35 3
  let ident (o : Int) : Nat := o.toNat
  let locBit : Int := 8 * loc.addr + ew * e.2.2
  let blkBit (o : Int) : Int := 8 * (((v % 2 ^ 35 : Nat) : Int) + gsData j) + ew * o
  let lsp := loc.space p l
  let smem (q : Nat) : Mem := viewOf s (.sm q) (srcReach p l) .parcelDma
  let locWs := ((elemAddrs (loc.phys s p l) ew locBit).map (fun a => (lsp, a))).reverse
  if gsScat j then
    match e.2.1 with
    | none => x
    | some o =>
      match poisonAt s lsp (elemAddrs (loc.phys s p l) ew locBit) with
      | some u => { x with bad := some (lsp, u) }
      | none =>
        let w := readElem (cells s lsp) (loc.phys s p l) ew locBit
        let ov := putElem (smem q) ident ew (SMap.get [] x.blocks q) (blkBit o) w
        { x with
          blocks := SMap.put x.blocks q ov
          ws := ((elemAddrs ident ew (blkBit o)).map (fun a => (Space.sm q, a))).reverse ++ x.ws }
  else
    match e.2.1 with
    | none => { x with ov := putElem (cells s lsp) (loc.phys s p l) ew x.ov locBit (mvZc j.trv), ws := locWs ++ x.ws }
    | some o =>
      let as := elemAddrs ident ew (blkBit o)
      match unitAt (viewPoison s (.sm q) (srcReach p l) .parcelDma) (.sm q) as with
      | some u => { x with bad := some (.sm q, u) }
      | none =>
        { x with
          ov := putElem (cells s lsp) (loc.phys s p l) ew x.ov locBit (readElem (smem q) ident ew (blkBit o))
          ws := locWs ++ x.ws
          reads := SMap.put x.reads q (SMap.get [] x.reads q ++ as) }

/-- The points of a list transfer in nest order, with the entry number of each; the indexed level adds nothing on the
indexed side (R234). -/
def listPoints (j : Job) : List (Nat × Option Int × Int) :=
  let n := gsCnt j
  let own (lv : MLev) : Axis :=
    if lv.dim = gsDim j then { gsAxis j (List.replicate n (some 0)) lv with ws := 0 } else axisOf j.trv (gsScat j) lv
  ((gsCounts j).zip (walkAxes ((gsLs j).map own))).map (fun e => (e.1, e.2.1, e.2.2))

/-- The first entry that fails, or that no way leads to. -/
def listStop (s : State) (p l : Nat) (j : Job) : Option Nat :=
  (List.range (gsCnt j)).find? (fun i => (entryBad s p l j i).isSome || !reachable s p (field (listEntry s p l j i).2 35 3))

/-- The transfer of the blocks before entry `stop`. -/
def listRun (s : State) (p l : Nat) (j : Job) (stop : Option Nat) : ListRun :=
  ((listPoints j).filter (fun e => stop.elim true (fun i => decide (e.1 < i)))).foldl (listStep s p l j) {}

/-- The effect of a GATH or SCAT through a list (R234, R408): the entries are checked in order; the blocks before the
first one that fails, or that no way leads to, are moved. -/
def runList (p l : Nat) (s : State) (j : Job) (no : Nat) : State :=
  let n := gsCnt j
  let d := smSide (gsIdx j)
  let stop := listStop s p l j
  let x := listRun s p l j stop
  let loc := gsLocSide l j
  let s1 := devReadAt (noteUndo s p l no .parcelDma x.ws.reverse) (.sm d.parcel) (srcReach p l)
    ((List.range (8 * (stop.elim n (fun i => i + 1)))).map (fun i => d.addr + i))
  let s2 := x.reads.foldl (fun t e => devReadAt t (.sm e.1) (srcReach p l) e.2) s1
  let s3 := x.blocks.foldl (fun t e => postWrite t (.sm e.1) (srcReach p l) .parcelDma e.2)
    (devWrite s2 (loc.space p l) (srcReach p l) x.ov)
  let moved := x.ov.length + (x.blocks.map (fun e => e.2.length)).foldl (· + ·) 0
  let s4 := countMove s3 p l true (decide (loc.mem = .cb)) false none none moved
  let s5 := x.reads.foldl (fun t e => if e.1 = p then t else countRing t e.1 p e.2.length) s4
  let s6 := x.blocks.foldl (fun t e => if e.1 = p then t else countRing t p e.1 e.2.length) s5
  match x.bad, stop with
  | some (k, u), _ => lateFault s6 p l no j (poisonFail s k u (srcReach p l))
  | none, some i =>
    match entryBad s p l j i with
    | some r => lateFaultFrom s6 (srcParcel p 1) p l no j (listFail s p l j i r)
    | none =>
      let v := (listEntry s p l j i).2
      let q := field v 35 3
      let lo : Int := ((v % 2 ^ 52 : Nat) : Int) + (blockSpan j).1
      let hi : Int := ((v % 2 ^ 52 : Nat) : Int) + (blockSpan j).2
      refuseMove s6 p l no j q 0 (unsignedBits 64 lo) (unsignedBits 64 hi)
  | none, none => s6

/-- The effect of a GATH or SCAT. -/
def runGath (p l : Nat) (s : State) (j : Job) (no : Nat) : State :=
  if gsCnt j = 0 then s else if gsParcel j then runList p l s j no else runIndexed p l s j no

/-- GATH (R179, R233, R234). -/
def execGath (p : ParcelId) (l : ReachId) (s : State) : Out :=
  .next (issueUnit s p l (fun w => wOp w == 5) (gsPlan s p l) (runGath p l))

/-- SCAT (R179, R233, R234). -/
def execScat (p : ParcelId) (l : ReachId) (s : State) : Out :=
  .next (issueUnit s p l (fun w => wOp w == 6) (gsPlan s p l) (runGath p l))

end Sys2Proof.Machine
end

