-- ==== Sys2Proof/Machine/Cascade.lean ====
section
/-!
DEFINITION. Cascade chains (03 R79 to R82, 06 R180, 11 R325, R326): CASC, the hops, broken chains, READY tokens and
cascade tiles between devices. A sum on its way stands in the parcel's `sums`: for reach `l` with `dest` = l, arrived
through port code c with `dest` = 128 + c, and waiting for a READY token at reach `l` with `dest` = 256 + l; a sum
without values marks a broken chain.
-/

namespace Sys2Proof.Machine

/-- First reach of the segment. -/
def caFirst (j : Job) : Nat := j.f 29 7
/-- Last reach of the segment. -/
def caLast (j : Job) : Nat := j.f 36 7
/-- Tile slot. -/
def caSlot (j : Job) : Nat := j.f 24 5
/-- Port of the running sum. -/
def caIn (j : Job) : Nat := j.f 43 4
/-- Port that the sum leaves by. -/
def caOut (j : Job) : Nat := j.f 47 4
/-- Chain tag. -/
def caTag (j : Job) : Nat := j.sv 51 % 65536
/-- Mode of the chain, from the profile. -/
def caPaired (j : Job) : Bool := (prof j.prof).paired

/-- The port of a port code (R180). -/
def portOfCode (c : Nat) : Option Port :=
  match c with
  | 1 => some .ringPlus | 2 => some .ringMinus
  | 4 => some .xp | 5 => some .xn | 6 => some .yp | 7 => some .yn | 8 => some .zp | 9 => some .zn
  | _ => none

/-- The code of a port. -/
def codeOfPort : Port → Nat
  | .ringPlus => 1 | .ringMinus => 2 | .hubPort => 0
  | .xp => 4 | .xn => 5 | .yp => 6 | .yn => 7 | .zp => 8 | .zn => 9

/-- A port code that names a river link. -/
def riverCode (c : Nat) : Bool := 4 ≤ c && c ≤ 9

/-- The parcel that a UCIe port code of parcel `p` names. -/
def parcelOfCode (p c : Nat) : Nat := ringNext p (c == 2)

/-- A reserved port code. -/
def portReserved (c : Nat) : Bool := c == 3 || 10 ≤ c

/-- Whether this reach receives through its port, and whether it forwards through its port (R180). -/
def caUsesIn (l : Nat) (j : Job) : Bool := l == caFirst j && caIn j != 0
/-- Whether it forwards through a port. -/
def caUsesOut (l : Nat) (j : Job) : Bool := l == caLast j && caOut j != 0

/-- The plan of a CASC (R163, R180, R195). -/
def cascPlan (l : Nat) (j : Job) : Plan :=
  let q := prof j.prof
  let slots := modeMask q.paired (caSlot j) 1
  { reads := if caUsesIn l j || caUsesOut l j then [j.f 51 5] else []
    checks := [
      firstFail [failIllegal j (portReserved (caIn j)) 43,
        failIllegal j (portReserved (caOut j)) 47,
        failIllegal j (decide (caLast j < caFirst j) || decide (l < caFirst j) || decide (caLast j < l)) 0xFFFF],
      failProfile j [(0x1C, q.paired && decide (16 ≤ caSlot j))]]
    unit := .cascadePort
    rd := { slots := slots }
    wr := { slots := if l == caLast j && caOut j == 0 then slots else 0 }
    armable := true }

/-- Append a sum to those of a parcel. -/
def addSum (s : State) (p : Nat) (x : CascadeSum) : State := s.updParcel p (fun y => { y with sums := y.sums ++ [x] })

/-- The cascade tile packet of a sum (R316). -/
def tileBody (paired : Bool) (vals : List (Int × Bool)) : List Byte :=
  vals.flatMap (fun v =>
    if paired then leBytes 10 (unsignedBits 72 v.1 + b2n v.2 * 2 ^ 72) else leBytes 5 (unsignedBits 36 v.1 + b2n v.2 * 2 ^ 36))

/-- The values of a tile body, and whether it is paired. -/
def tileVals (bs : List Byte) : Bool × List (Int × Bool) :=
  let paired := decide (2560 ≤ bs.length)
  let n := if paired then 10 else 5
  let b := if paired then 72 else 36
  (paired, (List.range 256).map (fun i =>
    let v := leVal ((bs.drop (i * n)).take n)
    (signed b v, bit v b)))

/-- Dimension and direction of a river port. -/
def dirOf (q : Port) : Nat × Bool := (portNo q / 2, portNo q % 2 == 1)

/-- A cascade tile leaves over a river link (R325): on leg 0 of the request class. -/
def sendTile (s : State) (p : Nat) (q : Port) (tag : Nat) (paired : Bool) (vals : List (Int × Bool)) : State :=
  let x := s.parcel p
  let (d, minus) := dirOf q
  let next := neighbour s.hub.torus s.dev d minus
  let k : Packet := { ptype := 4, dst := BitVec.ofNat 14 next, src := BitVec.ofNat 14 s.dev, via := 0, viaEn := false,
                      dir0 := BitVec.ofNat 3 (b2n minus * 2 ^ d), dir1 := 0, id := 0, gen := x.gen, win := 0, off := 0,
                      stamp := BitVec.ofNat 32 s.datum.count, tag := BitVec.ofNat 16 tag, pver := x.fab.pkt,
                      body := tileBody paired vals }
  let c := coord s.dev d
  let wrap := if minus then c == 0 else c == torusSize s.hub.torus d - 1
  queuePacket s p q (b2n wrap) k

/-- Write the delivered sum into its slot and set the slot's mode tag (R80). -/
def deliverSum (s : State) (p l : Nat) (paired : Bool) (slot : Nat) (vals : List (Int × Bool)) : State :=
  s.updReach p l (fun r =>
    { r with pool := (vals.mapIdx (fun i v => (i, v))).foldl (fun m iv => poolSet m paired slot iv.1 iv.2.1 iv.2.2) r.pool,
             paired := setTag r.paired paired slot })

/-- The sum of reach `l` goes on to its successor (R79, R80): the next reach, a UCIe port, a river link, or the slot. -/
def passSum (s : State) (p l no : Nat) (j : Job) (vals : List (Int × Bool)) (hop : Nat) : State :=
  let x : CascadeSum := { dest := l + 1, first := caFirst j, last := caLast j, tag := BitVec.ofNat 16 (caTag j),
                          paired := caPaired j, hop := hop, vals := vals }
  if l ≠ caLast j then
    let s1 := addSum s p x
    if clusterOf (l + 1) = clusterOf l then bumpCcnt s1 p (clusterOf l) 9 1 else s1
  else if caOut j = 0 then deliverSum s p l (caPaired j) (caSlot j) vals
  else if !riverCode (caOut j) then
    let q := parcelOfCode p (caOut j)
    if reachable s p q then
      addSum (countRing s p q (if caPaired j then 2560 else 1280)) q { x with dest := 128 + (3 - caOut j) }
    else s
  else match portOfCode (caOut j) with
    | none => s
    | some q =>
      if (s.link p q).tokens.contains x.tag then
        sendTile (s.updLink p q (fun k => { k with tokens := k.tokens.erase x.tag })) p q (caTag j) (caPaired j) vals
      else addSum (updFlight s p l no (fun f => { f with wait := .readyToken })) p { x with dest := 256 + l }

/-- The own entries of the slot. -/
def slotVals (r : Reach) (paired : Bool) (slot : Nat) : List (Int × Bool) :=
  (List.range 256).map (fun i => poolGet r.pool paired slot i)

/-- The effect of a CASC at issue: the first reach of a chain sends; any other waits, and pulls over a river link with
READY (R80, R325). -/
def runCasc (p l : Nat) (s : State) (j : Job) (no : Nat) : State :=
  if l = caFirst j ∧ caIn j = 0 then passSum s p l no j (slotVals (s.reach p l) (caPaired j) (caSlot j)) 0
  else
    let s1 := updFlight s p l no (fun f => { f with wait := .cascadeIn })
    if l = caFirst j ∧ riverCode (caIn j) then
      match portOfCode (caIn j) with
      | some q => s1.updLink p q (fun k => { k with ctl := k.ctl ++ [.ready (BitVec.ofNat 16 (caTag j))] })
      | none => s1
    else s1

/-- CASC (R180). -/
def execCasc (p : ParcelId) (l : ReachId) (s : State) : Out :=
  .next (issueUnit s p l (fun w => wOp w == 7) (cascPlan l) (runCasc p l))

/-- The CASC of a reach that waits for its predecessor. -/
def cascWaiting (s : State) (p l : Nat) : Option Flight :=
  (s.reach p l).flights.find? (fun f => f.unit == .cascadePort && decide (f.wait = .cascadeIn))

/-- The reaches of parcel `p` below `l` that wait with the same port and tag (R325). -/
def lowerWaits (s : State) (p l port tag : Nat) : Bool :=
  (List.range l).any (fun i => match cascWaiting s p i with
    | some f => i == caFirst f.job && caIn f.job == port && caTag f.job == tag
    | none => false)

/-- Whether a sum is for the waiting CASC of reach `l` (R79, R325). -/
def sumFor (s : State) (p l : Nat) (j : Job) (x : CascadeSum) : Bool :=
  (x.dest == l && x.first == caFirst j && x.last == caLast j) ||
  (caUsesIn l j && x.dest == 128 + caIn j && x.tag.toNat == caTag j && !lowerWaits s p l (caIn j) (caTag j))

/-- The sums without the first one that satisfies `f`. -/
def dropSum (f : CascadeSum → Bool) : List CascadeSum → List CascadeSum
  | [] => []
  | x :: r => if f x then r else x :: dropSum f r

/-- One entry of a hop (R80): arriving and own value give the forwarded value, and whether it overflows now. -/
def hopEntry (paired : Bool) (arr own : Int × Bool) : (Int × Bool) × Bool :=
  if arr.2 then (arr, false)
  else if own.2 then (own, false)
  else
    let a := guardClamp paired (arr.1 + own.1)
    (a, a.2)

/-- The sum of an arriving tile and the own slot, with the SAT_GUARD record of the hop (R70, R72). -/
def hopSum (paired : Bool) (slot hop : Nat) (arr own : List (Int × Bool)) : List (Int × Bool) × Option SatRec :=
  let es := (arr.zip own).map (fun e => hopEntry paired e.1 e.2)
  (es.map (fun e => e.1), (es.mapIdx (fun i e => (i, e))).foldl (fun r ie =>
    if ie.2.2 then satNote r slot ie.1 hop (decide (ie.2.1.1 < 0)) 1 else r) none)

/-- One hop of a cascade (R80): a waiting CASC takes its arriving sum. Arriving data of another mode than the profile's raise
0x0B as those of another mode than the slot's do (DEDUCED, log 44). -/
def cascadeHop (s : State) (p l : Nat) : State :=
  match cascWaiting s p l with
  | none => s
  | some f =>
    match (s.parcel p).sums.find? (fun x => sumFor s p l f.job x && !x.vals.isEmpty) with
    | none => s
    | some x =>
      let j := f.job
      let s1 := s.updParcel p (fun y => { y with sums := dropSum (fun x => sumFor s p l j x && !x.vals.isEmpty) y.sums })
      let s2 := updFlight s1 p l f.no (fun f => { f with wait := .none })
      let r := s.reach p l
      if x.paired != caPaired j || tagDiffers r.paired x.paired (caSlot j) then
        lateFault s2 p l f.no j { code := evIllegalProfile, reason := 0x0B,
                                  payload := packFields [(1, j.profNo), (4, j.pc.toNat), (1, 0x0B)] [] }
      else
        let (vals, g) := hopSum x.paired (caSlot j) (x.hop + 1) x.vals (slotVals r x.paired (caSlot j))
        passSum (updFlight s2 p l f.no (fun f => { f with guard := g })) p l f.no j vals (x.hop + 1)

/-- CASCADE_HOP (R80). -/
def execCascadeHop (p : ParcelId) (l : ReachId) (s : State) : Out :=
  .next (if s.datum.gated.isSome then s else cascadeHop s p l)

/-! ### Broken chains (R82, R326) -/

/-- Encoding of a link state in LINK_STAT (R298). -/
def linkCode : LinkState → Nat
  | .off => 0 | .detect => 1 | .train => 2 | .align => 3 | .negotiate => 4 | .up => 5 | .hold => 6

/-- Payload of LINK_DOWN (R304). -/
def linkDownPayload (s : State) (p : Nat) (q : Port) (reason state : Nat) : List Byte :=
  let k := s.link p q
  packFields [(1, p), (1, portNo q), (2, k.peer.toNat), (1, k.pport.toNat), (1, reason), (1, state), (8, s.datum.count)] []

/-- The CASC of a reach ends broken, and the mark goes on along the chain (R82); over a river link it reaches the other device
as a CASCADE_BROKEN there (log 102). -/
def breakCasc (s : State) (p l : Nat) (f : Flight) : State :=
  let j := f.job
  let s1 := updFlight s p l f.no (fun f => { f with wait := .none, status := 1 })
  let x : CascadeSum := { dest := l + 1, first := caFirst j, last := caLast j, tag := BitVec.ofNat 16 (caTag j),
                          paired := caPaired j, hop := 0, vals := [] }
  if l ≠ caLast j then addSum s1 p x
  else if caOut j = 1 ∨ caOut j = 2 then
    let q := parcelOfCode p (caOut j)
    if reachable s1 p q then addSum s1 q { x with dest := 128 + (3 - caOut j) } else s1
  else s1

/-- Whether the predecessor parcel of a waiting CASC is lost (R82). -/
def predecessorLost (s : State) (p l : Nat) (j : Job) : Bool :=
  l == caFirst j && (caIn j == 1 || caIn j == 2) &&
  (let q := parcelOfCode p (caIn j)
   decide ((s.parcel q).state = .contain) || (ringWay s q p).isNone)

/-- CASCADE_BROKEN (R82): the predecessor parcel is lost, or the chain was broken before this reach, in this package or, where
the reach waits at a river link, on the device there (log 102). -/
def cascadeBroken (s : State) (p l : Nat) : State :=
  match cascWaiting s p l with
  | none => s
  | some f =>
    if predecessorLost s p l f.job then
      let q : Port := if caIn f.job = 1 then .ringPlus else .ringMinus
      breakCasc (raise s (srcReach p l) evLinkDown (linkDownPayload s p q 6 (linkCode (s.link p q).state))) p l f
    else if (s.parcel p).sums.any (fun x => sumFor s p l f.job x && x.vals.isEmpty) then
      breakCasc (s.updParcel p (fun y =>
        { y with sums := dropSum (fun x => sumFor s p l f.job x && x.vals.isEmpty) y.sums })) p l f
    else if l == caFirst f.job && riverCode (caIn f.job) then breakCasc s p l f
    else s

/-- CASCADE_BROKEN (R82). -/
def execCascadeBroken (p : ParcelId) (l : ReachId) (s : State) : Out := .next (cascadeBroken s p l)

/-- Whether a CASC in flight waits on river link `q` (R326): the receiving reach for its tile, the sending one for its
predecessor or for its READY token. -/
def waitsOnLink (l : Nat) (q : Port) (f : Flight) : Bool :=
  f.unit == .cascadePort &&
  ((decide (f.wait = .cascadeIn) && l == caFirst f.job && caIn f.job == codeOfPort q) ||
   ((decide (f.wait = .cascadeIn) || decide (f.wait = .readyToken)) && l == caLast f.job && caOut f.job == codeOfPort q))

/-- A river link leaves UP (R326): every CASC that waits on it ends broken with a LINK_DOWN of its reach, held sums are
lost, and READY tokens are discarded. -/
def breakCascades (s : State) (p : Nat) (q : Port) (reason : Nat) : State :=
  let s1 := s.updLink p q (fun k => { k with tokens := [] })
  forReaches s1 (fun t l => match (t.reach p l).flights.find? (waitsOnLink l q) with
    | none => t
    | some f =>
      let t1 := raise t (srcReach p l) evLinkDown (linkDownPayload s p q reason (linkCode .up))
      if f.wait = .cascadeIn then
        breakCasc (t1.updParcel p (fun y => { y with sums := dropSum (fun x => sumFor t p l f.job x) y.sums })) p l f
      else (updFlight t1 p l f.no (fun f => { f with wait := .none, status := 1 })).updParcel p (fun y =>
        { y with sums := dropSum (fun x => x.dest == 256 + l) y.sums }))

/-! ### Between devices (R325) -/

/-- The reach that a READY token serves: the lowest one waiting with this port and tag. -/
def tokenReach (s : State) (p : Nat) (q : Port) (tag : BitVec 16) : Option (Nat × Flight) :=
  (List.range 128).findSome? (fun l => match (s.reach p l).flights.find? (fun f =>
      decide (f.wait = .readyToken) && caOut f.job == codeOfPort q && caTag f.job == tag.toNat) with
    | some f => some (l, f)
    | none => none)

/-- A READY token arrives (R325): up to 16 per link are kept; one that a CASC waits for is consumed at once. -/
def readyToken (s : State) (p : Nat) (q : Port) (tag : BitVec 16) : State :=
  match tokenReach s p q tag with
  | none => s.updLink p q (fun k => if k.tokens.length < 16 then { k with tokens := k.tokens ++ [tag] } else k)
  | some (l, f) =>
    match (s.parcel p).sums.find? (fun x => x.dest == 256 + l) with
    | none => s
    | some x =>
      let s1 := s.updParcel p (fun y => { y with sums := dropSum (fun x => x.dest == 256 + l) y.sums })
      sendTile (updFlight s1 p l f.no (fun f => { f with wait := .none })) p q tag.toNat x.paired x.vals

/-- READY_TOKEN_RX (R325). -/
def execReadyTokenRx (p : ParcelId) (port : Port) (tag : BitVec 16) (s : State) : Out :=
  .next (if decide ((s.link p port).state = .up) && isRiver port then readyToken s p port tag else s)

/-- The reach that a cascade tile is for (R325). -/
def tileReach (s : State) (p : Nat) (q : Port) (tag : Nat) : Option (Nat × Flight) :=
  (List.range 128).findSome? (fun l => match cascWaiting s p l with
    | some f => if l == caFirst f.job && caIn f.job == codeOfPort q && caTag f.job == tag then some (l, f) else none
    | none => none)

end Sys2Proof.Machine
end

