-- ==== Sys2Proof/Machine/Rating.lean ====
section
/-!
DEFINITION. The rating-table engine and the riffle (04 R95, R96, R113 to R122; 06 R173, R174): MATL build and look,
RIFL.
-/

namespace Sys2Proof.Machine

/-! ### Grids (R95, R96, R119) -/

/-- Levels of NB4. -/
def nb4 : List Int := [-120, -86, -63, -45, -31, -19, -9, 0, 8, 17, 27, 38, 51, 67, 89, 127]

/-- Levels of NB3. -/
def nb3 : List Int := [-127, -74, -37, 0, 29, 58, 91, 127]

/-- Code width of code book `k` of a cluster (R96). -/
def cbWidth (c : Cluster) (k : Nat) : Nat := bvf (SMap.get 0 c.cbCfg k) 0 2 + 1

/-- Levels of code book `k`. -/
def cbLevels (c : Cluster) (k : Nat) : List Int :=
  (List.range (2 ^ cbWidth c k)).map (fun i => signed 16 (bvf (SMap.get 0 c.cbLvl (16 * k + i)) 0 16))

/-- Code width and levels of the weight grid of a profile (R119). -/
def wGrid (c : Cluster) (q : Prof) : Nat × List Int :=
  if q.wGrid = 1 then (4, nb4) else if q.wGrid = 2 then (3, nb3)
  else if q.wGrid = 3 then (cbWidth c q.wCb, cbLevels c q.wCb)
  else (q.w, (List.range (2 ^ q.w)).map (fun i => if q.wSigned then signed q.w i else (i : Int)))

/-- The profile check 0x0F of MATL (R125). -/
def matlBad (c : Cluster) (q : Prof) : Bool :=
  decide (8 < q.a) || q.fn != 0 || q.dziro || q.split ||
  (if q.wGrid = 0 then decide (4 < q.w) else q.w != (wGrid c q).1)

/-- The bank of generation `g` (R121). -/
def Cluster.bank (c : Cluster) (g : Nat) : RtBank := if g % 2 = 0 then c.bank0 else c.bank1

/-- Replace the bank of generation `g`. -/
def Cluster.setBank (c : Cluster) (g : Nat) (b : RtBank) : Cluster :=
  if g % 2 = 0 then { c with bank0 := b } else { c with bank1 := b }

/-! ### Builds -/

/-- Bytes of the activation vector of a build. -/
def buildBytes (j : Job) : Nat := ((j.sv 41) * (prof j.prof).a + 7) / 8

/-- The interval of a build. -/
def buildOpnds (j : Job) : List Opnd := [spanOpnd 0 1 (j.sv 31) [] (buildBytes j) false]

/-- The plan of a MATL build (R119, R173). -/
def buildPlan (s : State) (p l : Nat) (j : Job) : Plan :=
  { reads := [j.f 31 5, j.f 41 5]
    checks := [failProfile j [(0x0F, matlBad (s.cluster p (clusterOf l)) (prof j.prof))],
      failShape j true false (lowestShape [shapeIntervals (buildOpnds j),
        shapeChk (decide (Config.rtBankElems < j.sv 41)) 0x0A 0xFF (j.sv 41) Config.rtBankElems]),
      failAlign j [(0, j.sv 31, 16)], failWindow s p l j (buildOpnds j)]
    unit := .ratingTable
    rd := { ivs := opndIvs s p l (buildOpnds j) false }
    addr := j.scalar (j.f 31 5) }

/-- Whether a flight is a MATL build or a MATL look. -/
def isBuild (f : Flight) : Bool := f.unit == .ratingTable && !bvb f.job.word 24
def isLook (f : Flight) : Bool := f.unit == .ratingTable && bvb f.job.word 24

/-- The reaches of a cluster. -/
def clusterReaches (c : Nat) : List Nat := (List.range 8).map (fun i => 8 * c + i)

/-- A build of generation `g` may start: no issued look of generation `g - 2` is in flight, and no older build of the
cluster still waits (R121). -/
def buildReady (s : State) (p c g : Nat) : Bool :=
  (clusterReaches c).all (fun l => (s.reach p l).flights.all (fun f =>
    !(isLook f && f.rtGen == some ((g + 65534) % 65536)) &&
    !(isBuild f && decide (f.wait = .build) && f.rtGen == some ((g + 65535) % 65536))))

/-- Elements `x - z` of the activation vector (R94, R119). -/
def buildElems (q : Prof) (bs : List Byte) (e : Nat) : List Int :=
  let x := leVal bs
  (List.range e).map (fun i =>
    let code := field x (i * q.a) q.a
    let v : Int := if q.aSigned then signed q.a code else code
    if q.zpEn then v - q.zpVal else v)

/-- A build starts: it reads its activations and writes its tables into the bank of its generation (R119). Poisoned
activations fault late (R402) and leave the generation failed. -/
def runBuild (p l g : Nat) (s : State) (j : Job) (no : Nat) : State :=
  let c := clusterOf l
  let q := prof j.prof
  let a := (s.reach p l).cbBase + j.sv 31
  let (wc, levels) := wGrid (s.cluster p c) q
  let s1 := bumpCcnt s p c 2 1
  match poisonIn s (.cb p c) a (buildBytes j) with
  | some u =>
    lateFault (s1.updCluster p c (fun x => x.setBank g { gen := BitVec.ofNat 16 g, live := true, failed := true }))
      p l no j (poisonFail s (.cb p c) u (srcReach p l))
  | none =>
    let es := buildElems q (rdBytes s (.cb p c) a (buildBytes j)) (j.sv 41)
    s1.updCluster p c (fun x => x.setBank g
      { gen := BitVec.ofNat 16 g, live := true, complete := false, failed := false, e := j.sv 41, wc := wc,
        grid := levels, table := es.map (fun e => levels.map (fun lv => e * lv)) })

/-- Issue of a MATL build: the generation is numbered, s_gen receives it, and the build starts or waits (R121). -/
def issueBuild (p l : Nat) (s : State) (j : Job) (no : Nat) : State :=
  let c := clusterOf l
  let g := ((s.cluster p c).rtGen.toNat + 1) % 65536
  let s1 := s.updCluster p c (fun x => { x with rtGen := BitVec.ofNat 16 g })
  let s2 := setScalar s1 p l (j.f 51 5) (BitVec.ofNat 64 g)
  let s3 := updFlight s2 p l no (fun f => { f with rtGen := some g })
  if buildReady s p c g then runBuild p l g s3 j no
  else updFlight s3 p l no (fun f => { f with wait := .build })

/-- MATL build (R119). -/
def execMatlBuild (p : ParcelId) (l : ReachId) (s : State) : Out :=
  .next (issueUnit s p l (fun w => wOp w == 1 && !bvb w 24) (buildPlan s p l) (issueBuild p l))

/-- The first waiting build of a cluster that may start: (reach, flight, generation). -/
def waitingBuild (s : State) (p c : Nat) : Option (Nat × Flight × Nat) :=
  (clusterReaches c).findSome? (fun l => (s.reach p l).flights.findSome? (fun f =>
    match f.rtGen with
    | some g => if isBuild f && decide (f.wait = .build) && buildReady s p c g then some (l, f, g) else none
    | none => none))

/-- RT_BUILD_START (R121): the build meets the errors that stand in its elements. -/
def execRtBuildStart (p : ParcelId) (c : ClusterId) (s : State) : Out :=
  .next (match waitingBuild s p c with
    | some (l, f, g) => startRun (runBuild p l g) (updFlight s p l f.no (fun x => { x with wait := .none })) p l f.job f.no f.rd
    | none => s)

/-! ### Looks -/

/-- The nest of a look: it walks K in units of 16 (R199, R201). -/
def lookUnits : Units := { k := 16 }

/-- The generation that a look names. -/
def lookGen (j : Job) : Nat := j.sv 51 % 65536

/-- The intervals of a look: weight codes and scale bytes at bucket extents. -/
def lookOpnds (c : Cluster) (j : Job) : List Opnd :=
  let q := prof j.prof
  let ls := walked j.trv
  let kb := bucket lookUnits ls 2
  [spanOpnd 0 1 (j.sv 31) (ls.map (fun x => (x.2.count, x.2.sw)) ++ [(256, trvStride j.trv 1)]) (2 * (wGrid c q).1) false]
    ++ (if q.gs then [spanOpnd 1 1 (j.sv 36) [(256, trvStride j.trv 5)] ((kb - 1) / q.chunkLen + 1) false] else [])

/-- The look's generation is the newest or the previous one (R121). -/
def genLive (c : Cluster) (g : Nat) : Bool :=
  let n := c.rtGen.toNat
  g == n || g == (n + 65535) % 65536

/-- The named generation is issued but its bank is not yet built, so that the look stalls (R121). -/
def lookStalls (s : State) (p l : Nat) (j : Job) : Bool :=
  let c := clusterOf l
  let g := lookGen j
  let b := (s.cluster p c).bank g
  let pend := (clusterReaches c).any (fun r => (s.reach p r).flights.any (fun f => isBuild f && f.rtGen == some g))
  pend && !(b.live && b.gen.toNat == g && b.complete)

/-- Reason 0x10 of R125: not live, failed, or built for another grid. -/
def lookBad (s : State) (p l : Nat) (j : Job) : Bool :=
  let c := s.cluster p (clusterOf l)
  let g := lookGen j
  let b := c.bank g
  !genLive c g || (!lookStalls s p l j && (!b.live || b.gen.toNat != g || b.failed || !b.complete ||
    (b.wc, b.grid) != wGrid c (prof j.prof)))

/-- The plan of a MATL look (R120, R173). Its reduction may run over positions (R116; log 97). -/
def lookPlan (s : State) (p l : Nat) (j : Job) : Plan :=
  let q := prof j.prof
  let c := s.cluster p (clusterOf l)
  let os := lookOpnds c j
  let acc := bvb j.word 30
  let slot := j.f 25 5
  let b := c.bank (lookGen j)
  let kb := bucket lookUnits (walked j.trv) 2
  { reads := [j.f 31 5, j.f 41 5, j.f 46 5, j.f 51 5, j.f 56 5] ++ (if q.gs then [j.f 36 5] else [])
    checks := [failProfile j [(0x0B, acc && tagDiffers (s.reach p l).paired false slot), (0x0F, matlBad c q),
        (0x10, lookBad s p l j)],
      failShape j true true (lowestShape ([extentCheck (j.sv 41) kb,
        shapeChk (j.sv 56 == 0 || decide (256 < j.sv 56)) 0x01 0xFF (j.sv 56) 256, shapeIntervals os] ++
        levelChecks j.trv [2] false ++
        [shapeChk (decide (2 ^ 24 < kb)) 0x09 0xFF kb (2 ^ 24),
         shapeChk (!lookStalls s p l j && decide (b.e < j.sv 46 + j.sv 41)) 0x0A 0xFF (j.sv 46 + j.sv 41) b.e])),
      failAlign j [(0, j.sv 31, 16)], failWindow s p l j os]
    unit := .ratingTable
    rd := { ivs := opndIvs s p l os false, slots := if acc then slotMask slot 1 else 0 }
    wr := { slots := slotMask slot 1 }
    addr := j.scalar (j.f 31 5) }

/-- The run of a look: pool, mode tags as they stood, SAT_GUARD record, fault, and what its chunks replaced, newest first. -/
structure LookRun where
  pool : SMap PoolEntry
  paired : BitVec 32 := 0
  undo : List Undo := []
  guard : Option SatRec := none
  fault : Option Fail := none
deriving DecidableEq, Repr

/-- The physical address of the weight codes of element `k`, column `n` (R200). -/
def lookAddr (r : Reach) (j : Job) (vs : List Visit) (n k : Nat) : Nat :=
  (((r.cbBase + j.sv 31 : Nat) : Int) + (vs.getD (k / 16) {}).w + n * trvStride j.trv 1).toNat

/-- The physical address of a scale byte of a look. -/
def lookScale (r : Reach) (j : Job) (n g : Nat) : Nat :=
  (((r.cbBase + j.sv 36 : Nat) : Int) + n * trvStride j.trv 5 + g).toNat

/-- One chunk of a look over its columns (R120). -/
def lookChunk (s : State) (p l : Nat) (j : Job) (b : RtBank) (vs : List Visit) (x : LookRun) (g : Nat) : LookRun :=
  match x.fault with
  | some _ => x
  | none =>
    let q := prof j.prof
    let r := s.reach p l
    let k := .cb p (clusterOf l)
    let lo := g * q.chunkLen
    let hi := min (lo + q.chunkLen) (j.sv 41)
    let cols := List.range (j.sv 56)
    let bad := if (poisoned s k).isEmpty then none else cols.findSome? (fun n =>
      match (List.range (ceilDiv hi 16 - lo / 16)).findSome? (fun u =>
        poisonIn s k (lookAddr r j vs n (lo + 16 * u)) (2 * b.wc)) with
      | some u => some u
      | none => if q.gs then poisonIn s k (lookScale r j n g) 1 else none)
    match bad with
    | some u => { x with fault := some (poisonFail s k u (srcReach p l)) }
    | none =>
      let (pool, guard) := cols.foldl (fun st n =>
        let sum := (List.range (hi - lo)).foldl (fun acc i =>
          let e := lo + i
          let code := field (leVal (rdBytes s k (lookAddr r j vs n e) (2 * b.wc))) (e % 16 * b.wc) b.wc
          acc + (b.table.getD (j.sv 46 + e) []).getD code 0) (0 : Int)
        let sb := if q.gs then some (rdByte s k (lookScale r j n g)).toNat else none
        poolAdd false (j.f 25 5) g st n (promote q.frac sb 1 sum)) (x.pool, x.guard)
      { x with pool := pool, guard := guard,
               undo := { pool := some (x.pool, x.paired), guard := x.guard } :: x.undo }

/-- The effect of a look numbered `no` (R120). -/
def runLook (p l : Nat) (s : State) (j : Job) (no : Nat) : State :=
  let r := s.reach p l
  let c := clusterOf l
  let q := prof j.prof
  let acc := bvb j.word 30
  let slot := j.f 25 5
  let b := (s.cluster p c).bank (lookGen j)
  let vs := visits lookUnits ((walked j.trv).filter (fun x => x.2.dim == 2))
  let pool0 := if acc then r.pool else fillSlot r.pool false slot 0
  let x := (List.range (ceilDiv (j.sv 41) q.chunkLen)).foldl (lookChunk s p l j b vs)
    { pool := pool0, paired := r.paired, undo := if acc then [] else [{ pool := r.poolNow }] }
  let s1 := s.updReach p l (fun y => { y with pool := x.pool,
                                              paired := if acc then y.paired else setTag y.paired false slot })
  let s2 := bumpCcnt (bumpCcnt s1 p c 1 (ceilDiv (j.sv 41) 16 * 2 * b.wc * j.sv 56)) p c 3 (ceilDiv (j.sv 41) 16)
  let s3 := updFlight s2 p l no (fun f => { f with guard := x.guard, rtGen := some (lookGen j), undo := x.undo.reverse })
  match x.fault with
  | some f => lateFault s3 p l no j f
  | none => s3

/-- A look at the head: it stalls there while its generation is being built, and issues otherwise. -/
def issueLook (s : State) (p l : Nat) : State :=
  let j := headJob s p l
  let pl := lookPlan s p l j
  if canIssue s p l && wOp j.word == 1 && bvb j.word 24 && scalarsReady (s.reach p l) pl.reads &&
     (firstFail (armFail s p l j pl :: pl.checks)).isNone && lookStalls s p l j
  then s.updTask p l (fun t => { t with wait := .look })
  else issueUnit s p l (fun w => wOp w == 1 && bvb w 24) (lookPlan s p l) (runLook p l)

/-- MATL look (R120). -/
def execMatlLook (p : ParcelId) (l : ReachId) (s : State) : Out := .next (issueLook s p l)

/-- RT_LOOK_START (R121): the stalled look proceeds once its bank is built; it takes its checks again. -/
def execRtLookStart (p : ParcelId) (l : ReachId) (s : State) : Out :=
  let j := headJob s p l
  .next (if decide ((s.reach p l).task.wait = .look) && !lookStalls s p l j
    then issueLook (s.updTask p l (fun t => { t with wait := .none })) p l else s)

/-- A completed build makes its generation complete (R121). -/
def buildDone (s : State) (p l : Nat) (f : Flight) : State :=
  match f.rtGen with
  | some g =>
    let c := clusterOf l
    let b := (s.cluster p c).bank g
    if isBuild f && b.live && b.gen.toNat == g then
      s.updCluster p c (fun x => x.setBank g { b with complete := !b.failed && f.status == 0,
                                                      failed := b.failed || f.status != 0 })
    else s
  | none => s

/-! ### The riffle (R113, R114) -/

/-- Replace the low half and the high half of every pair at distance `h`. -/
def butterfly (h : Nat) (v : List Int) : List Int :=
  v.mapIdx (fun j x => if (j / h) % 2 = 0 then x + v.getD (j + h) 0 else v.getD (j - h) 0 - x)

/-- The `n` stages of the transform, from distance `h` upwards. -/
def hadamard : Nat → Nat → List Int → List Int
  | 0, _, v => v
  | n + 1, h, v => hadamard n (2 * h) (butterfly h v)

/-- The signs of R114: `n` of them after state `x`. -/
def riffleSigns : Nat → Word → List Bool
  | 0, _ => []
  | n + 1, x => let y := xsAdvance x; bvb y 63 :: riffleSigns n y

/-- One transformed vector before the clamp (R113 steps 1 to 3). -/
def riffleVector (q : Prof) (v : List Int) : List Int :=
  let n := 2 ^ q.rfN
  let sg := riffleSigns n (xsSeed q.seed)
  let x := if q.rfSign then v.mapIdx (fun i e => if sg.getD i false then -e else e) else v
  (hadamard q.rfN 1 x).map (fun e => rneShift e q.rfShift)

/-- Signed limits of a width (R92). -/
def signedLo (b : Nat) : Int := -((2 ^ (b - 1) : Nat) : Int)
def signedHi (b : Nat) : Int := ((2 ^ (b - 1) : Nat) : Int) - 1

/-- Bytes of an input and of an output vector (R174). -/
def riflIn (q : Prof) : Nat := 2 ^ q.rfN * q.rfIn / 8
def riflOut (q : Prof) : Nat := 2 ^ q.rfN * q.rfOut / 8

/-- The intervals of a RIFL. -/
def riflOpnds (j : Job) : List Opnd :=
  let q := prof j.prof
  [spanOpnd 0 1 (j.sv 24) [] (j.sv 34 * riflIn q) false, spanOpnd 1 1 (j.sv 29) [] (j.sv 34 * riflOut q) true]

/-- The plan of a RIFL (R174). -/
def riflPlan (s : State) (p l : Nat) (j : Job) : Plan :=
  let os := riflOpnds j
  { reads := [j.f 24 5, j.f 29 5, j.f 34 5]
    checks := [failShape j true false [shapeIntervals os], failAlign j [(0, j.sv 24, 32), (1, j.sv 29, 32)],
      failWindow s p l j os]
    unit := .riffle
    rd := { ivs := opndIvs s p l os false }
    wr := { ivs := opndIvs s p l os true }
    addr := j.scalar (j.f 24 5) }

/-- The run of a RIFL: the state, what its vectors replaced, newest first, the clamps, whether it faulted. -/
structure RiflRun where
  s : State
  undo : List Undo := []
  out : Option SatRec := none
  fault : Option Fail := none
deriving DecidableEq, Repr

/-- One vector of a RIFL (R113, R174). The slot, row and column of a SAT_OUT of a RIFL are not stated; they are free
values (log 7). -/
def riflStep (p l : Nat) (j : Job) (x : RiflRun) (i : Nat) : RiflRun :=
  match x.fault with
  | some _ => x
  | none =>
    let q := prof j.prof
    let r := x.s.reach p l
    let k := .cb p (clusterOf l)
    let src := r.cbBase + j.sv 24 + i * riflIn q
    let dst := r.cbBase + j.sv 29 + i * riflOut q
    match poisonIn x.s k src (riflIn q) with
    | some u => { x with fault := some (poisonFail x.s k u (srcReach p l)) }
    | none =>
      let bs := leVal (rdBytes x.s k src (riflIn q))
      let v := (List.range (2 ^ q.rfN)).map (fun e => signed q.rfIn (field bs (e * q.rfIn) q.rfIn))
      let y := riffleVector q v
      let c := y.map (clampInt (signedLo q.rfOut) (signedHi q.rfOut))
      let bad := (y.zip c).filter (fun e => e.1 != e.2)
      let f := x.s.free
      let out := match bad.head? with
        | none => x.out
        | some e => match x.out with
          | some o => some { o with count := o.count + bad.length }
          | none => some { slot := Config.free f % 256, row := Config.free (f + 1) % 256, col := Config.free (f + 2) % 256,
                           idx := 0, count := bad.length, low := decide (e.1 < e.2), meaning := 0 }
      let ws := cellsOf dst (packBytes q.rfOut (c.map (unsignedBits q.rfOut)))
      let s1 := devWrite (bumpCcnt x.s p (clusterOf l) 4 (2 ^ q.rfN)) k (srcReach p l) ws
      let u : Undo := { bytes := bytesBefore x.s (srcReach p l) .riffle (ws.map (fun w => (k, w.1))), out := x.out }
      { x with s := s1, out := out, undo := u :: x.undo }

/-- The effect of a RIFL numbered `no`. -/
def runRifl (p l : Nat) (s : State) (j : Job) (no : Nat) : State :=
  let x := (List.range (j.sv 34)).foldl (riflStep p l j) { s := s }
  let s1 := updFlight { x.s with free := x.s.free + 3 } p l no (fun f => { f with out := x.out, undo := x.undo.reverse })
  match x.fault with
  | some f => lateFault s1 p l no j f
  | none => s1

/-- RIFL (R113). -/
def execRifl (p : ParcelId) (l : ReachId) (s : State) : Out :=
  .next (issueUnit s p l (fun w => wOp w == 2) (riflPlan s p l) (runRifl p l))

end Sys2Proof.Machine
end

