-- ==== Sys2Proof/Machine/Delta.lean ====
section
/-!
DEFINITION. DLTA (06 R175, R176): requantisation, rounding, output formats (04 R100 to R107), piecewise tables and the
exponential (R108 to R110), row statistics (03 R87 to R91), calibration (04 R111), the zero bitmap (05 R131) and fused
attention (07 R214 to R216).
-/

namespace Sys2Proof.Machine

/-! ### The exponential table (R109, R110) -/

/-- T[i] for i = 0 to 255, with T[0] = 2^16: the nearest integer to 2^(16 - i/256), found as the largest `t` with
(2t - 1)^256 ≤ 2^(4352 - i). -/
def expSearch (i : Nat) : Nat → Nat → Nat → Nat
  | 0, lo, _ => lo
  | n + 1, lo, hi =>
    let mid := (lo + hi + 1) / 2
    if (2 * mid - 1) ^ 256 ≤ 2 ^ (4352 - i) then expSearch i n mid hi else expSearch i n lo (mid - 1)

/-- The table of powers of two. -/
def expT (i : Nat) : Nat := if i = 0 then 65536 else expSearch i 17 32768 65536

/-- Table units of a pool-unit difference (R109). -/
def expUnits (q : Prof) (d : Nat) : Nat := min (rneShift ((d * q.expMul : Nat) : Int) q.expShift).toNat (2 ^ 24 - 1)

/-- The exponential of a score `d` below the maximum, in units of 2^-16 (R110). -/
def expP (q : Prof) (d : Nat) : Nat :=
  let u := expUnits q d
  (rneShift (expT (u % 256) : Int) (u / 256)).toNat

/-- Mantissa and shift of the rescale for a rise `d` of the maximum; none leaves the sum unchanged (R110). -/
def expRescale (q : Prof) (d : Nat) : Option (Nat × Nat) :=
  let u := expUnits q d
  if u = 0 then none
  else if u % 256 ≠ 0 then some (expT (u % 256), u / 256)
  else some (2 ^ 15, u / 256 - 1)

/-! ### Factors, rationals and output ranges -/

/-- An exact rational. -/
structure Rat' where
  n : Int
  d : Nat
deriving DecidableEq, Repr

/-- `V · F` for a usable binary32 factor (R101, R102). -/
def factorTimes (v : Int) (f : Nat) : Rat' :=
  let (neg, m, e) := fp32Parts f
  let x := (if neg then -v else v) * m
  if 0 ≤ e then { n := x * 2 ^ e.toNat, d := 1 } else { n := x, d := 2 ^ (-e).toNat }

/-- Limits of a uniform code (R92). -/
def codeLo (isSigned : Bool) (b : Nat) : Int := if isSigned then signedLo b else 0
def codeHi (isSigned : Bool) (b : Nat) : Int := if isSigned then signedHi b else ((2 ^ b : Nat) : Int) - 1

/-- The code whose level is nearest to t (R106). -/
def nearestCode (levels : List Int) (t : Rat') : Nat :=
  let dist (x : Int) : Nat := (x * (t.d : Int) - t.n).natAbs
  let better (a b : Nat) : Bool :=
    let x := levels.getD a 0
    let y := levels.getD b 0
    dist x < dist y || (dist x == dist y && x.natAbs < y.natAbs)
  (List.range levels.length).foldl (fun best c => if better c best then c else best) 0

/-- The smallest code of the largest level, or of the smallest level (R100 step 1). -/
def extremeCode (levels : List Int) (top : Bool) : Nat :=
  (List.range levels.length).foldl (fun best c =>
    if (if top then decide (levels.getD best 0 < levels.getD c 0) else decide (levels.getD c 0 < levels.getD best 0))
    then c else best) 0

/-- The piecewise table `t` of a reach (R108). -/
def piecewise (seg : SMap Word) (t : Nat) (y : Int) : Int :=
  let w0 (k : Nat) : Word := SMap.get 0 seg (2 * (16 * t + k))
  let w1 (k : Nat) : Word := SMap.get 0 seg (2 * (16 * t + k) + 1)
  let k := (List.range 16).foldl (fun best k =>
    if k = 0 then best else if signed 32 (bvf (w0 k) 0 32) ≤ y then k else best) 0
  rneShift (y * signed 16 (bvf (w1 k) 0 16)) (bvf (w1 k) 16 5) + signed 32 (bvf (w0 k) 32 32)

/-! ### FUSE_CFG (R214 to R216) -/

/-- The fields of FUSE_CFG. -/
def fuResc (w : Word) : Bool := bvb w 0
def fuSlot (w : Word) : Nat := bvf w 1 5
def fuCnt (w : Word) : Nat := bvf w 6 5 + 1
def fuNorm (w : Word) : Bool := bvb w 11
def fuWidth (w : Word) : Nat := bvf w 12 4 + 1

/-- Slots of the output range that exist. -/
def fuSlots (w : Word) : List Nat := ((List.range (fuCnt w)).map (fun i => fuSlot w + i)).filter (fun x => x < 32)

/-! ### Plan -/

/-- Base units of a DLTA (K levels are ignored). -/
def dltUnits : Units := { k := 128 }

/-- The nest of a DLTA without its K levels. -/
def dltNest (j : Job) : List (Nat × Level) := (walked j.trv).filter (fun x => x.2.dim != 2)

/-- Tile `i` of a DLTA (R205). -/
def dltTile (j : Job) (i : Nat) : Visit := (tileAt dltUnits (dltNest j) i).1

/-- Number of tiles drained. -/
def dltTiles (j : Job) : Nat := j.f 29 5 + 1

/-- Statistics mode. -/
def dltStat (j : Job) : Nat := j.f 74 2

/-- Tiles in a group's span (R107). -/
def gqSpan (q : Prof) : Nat := q.gqLen / 16

/-- Width of a stored code (R200). -/
def outBits (c : Cluster) (q : Prof) : Nat :=
  if q.outKind = 1 then 4 else if q.outKind = 2 then 3 else if q.outKind = 3 then cbWidth c q.outCb
  else if q.outKind = 4 then (if q.paired then 64 else 32) else q.outW

/-- Whether the DLTA reads factors (R101). -/
def readsFactor (q : Prof) (j : Job) : Bool := q.outKind != 4 && dltStat j != 3

/-- The interval spanned by places given as byte offsets, `bytes` at each. -/
def placesOpnd (operand : Nat) (base : Nat) (places : List Int) (bytes : Nat) (write : Bool) : Opnd :=
  match places with
  | [] => { operand := operand, mem := 0, lo := 0, hi := -1, write := write }
  | x :: r => { operand := operand, mem := 0, lo := base + r.foldl min x, hi := base + r.foldl max x + bytes - 1,
                write := write }

/-- The scratchpad intervals of a DLTA over the tiles that it drains, at bucket extents (R166). -/
def dltOpnds (c : Cluster) (j : Job) : List Opnd :=
  let q := prof j.prof
  let ts := (List.range (dltTiles j)).map (dltTile j)
  let ends (f : Nat → Int) : List Int := [f 0, f 15]
  let firsts := (List.range (dltTiles j)).filter (fun i => i % max 1 (gqSpan q) == 0)
  [placesOpnd 0 (j.sv 34) (ts.flatMap (fun v => ends (fun r => v.o + r * trvStride j.trv 2))) (2 * outBits c q) true] ++
  (if readsFactor q j then [placesOpnd 1 (j.sv 39) (ts.map (fun v => (4 * (v.n / 16) : Nat))) 4 false] else []) ++
  (if q.zb then [placesOpnd 2 (j.sv 44) (ts.flatMap (fun v =>
    ends (fun r => (v.m + r : Nat) * trvStride j.trv 6 + (v.n / 8 : Nat)))) 2 true] else []) ++
  (if q.gqMode = 0 then [] else [placesOpnd 3 (j.sv 49) (firsts.flatMap (fun i =>
    let v := dltTile j i
    ends (fun e => if q.gqMode = 1 then (v.m + e : Nat) * trvStride j.trv 7 + (v.n / q.gqLen : Nat)
      else (v.m / q.gqLen : Nat) * trvStride j.trv 7 + (v.n + e : Nat)))) 1 true])

/-- The conflicts of a DLTA with FUSE_CFG (R216). -/
def fuseBad (r : Reach) (j : Job) : Bool :=
  let q := prof j.prof
  let slots := modeMask q.paired (j.f 24 5) (dltTiles j)
  let range := (fuSlots r.fuse).foldl (fun m x => m ||| slotMask x 1) 0
  let inside := (slots &&& range) != 0
  let outside := (slots &&& ~~~ range) != 0
  (fuResc r.fuse || fuNorm r.fuse) &&
  ((dltStat j != 0 && inside) || (fuNorm r.fuse && inside && outside) ||
   (fuResc r.fuse && decide (2 ≤ dltStat j) && (range &&& r.paired) != 0) ||
   (fuNorm r.fuse && dltStat j == 0 && q.outKind != 4 && inside && (slots &&& range &&& r.paired) != 0))

/-- Profile checks of a DLTA in ascending reason (R91, R125, R195). -/
def dltProfile (r : Reach) (j : Job) : List (Nat × Bool) :=
  let q := prof j.prof
  let st := dltStat j
  [(0x0B, tagsDiffer r.paired q.paired (j.f 24 5) (dltTiles j)),
   (0x0C, q.fp32 && !q.dziro),
   (0x0D, q.stoch && q.outKind != 0),
   (0x11, q.gqMode != 0 && (q.outKind != 0 || !q.outSigned || q.ozp != 0 || q.actEn)),
   (0x12, q.actEn && q.outKind != 0),
   (0x1A, st == 3 && (q.outKind != 0 || q.outSigned || q.actEn || q.gqMode != 0)),
   (0x1B, st != 0 && q.paired)]

/-- Shape checks of a DLTA (R208). The columns of a softmax DLTA are positions (R116; log 97). -/
def dltShape (c : Cluster) (r : Reach) (j : Job) : List (Option ShapeFail) :=
  let q := prof j.prof
  let ls := walked j.trv
  let last := j.f 24 5 + dltTiles j - 1
  let lim := if q.paired then 15 else 31
  let tc := tileCount ls
  lowestShape ([extentCheck (j.sv 64) (bucket dltUnits ls 0), extentCheck (j.sv 69) (bucket dltUnits ls 1),
    shapeChk (decide (lim < last)) 0x02 0xFF last lim, shapeIntervals (dltOpnds c j)] ++
    levelChecks j.trv [0, 1, 2] (q.whole || q.dziro || q.thrEarly) ++
    [shapeChk (decide (tc < dltTiles j)) 0x0B 0xFF (dltTiles j) tc,
     shapeChk (decide (2 ≤ dltStat j) && decide (2 ^ 24 < bucket dltUnits ls 1)) 0x09 0xFF (bucket dltUnits ls 1) (2 ^ 24),
     shapeChk (q.gqMode != 0 && dltTiles j % gqSpan q != 0) 0x0B 0xFF (dltTiles j) (gqSpan q),
     shapeChk (fuseBad r j) 0x0D 0xFF (j.f 24 5) (fuSlot r.fuse)])

/-- Alignment checks of a DLTA (R219). -/
def dltAligns (j : Job) : List (Nat × Nat × Nat) :=
  let q := prof j.prof
  let st (k : Nat) : Nat := bvf j.trv (32 * k) 32
  [(0, j.sv 34, 2), (0, st 2, 2)] ++ (dltNest j).map (fun x => (0, unsignedBits 32 x.2.so, 2)) ++
  (if readsFactor q j then [(1, j.sv 39, 4)] else []) ++
  (if q.zb then [(2, j.sv 44, 2), (2, st 6, 2)] else [])

/-- The plan of a DLTA (R166, R175). -/
def dltPlan (s : State) (p l : Nat) (j : Job) : Plan :=
  let q := prof j.prof
  let r := s.reach p l
  let c := s.cluster p (clusterOf l)
  let os := dltOpnds c j
  let slots := modeMask q.paired (j.f 24 5) (dltTiles j)
  let out := if fuResc r.fuse && decide (2 ≤ dltStat j) then (fuSlots r.fuse).foldl (fun m x => m ||| slotMask x 1) 0 else 0
  { reads := [j.f 34 5, j.f 64 5, j.f 69 5] ++ (if readsFactor q j then [j.f 39 5] else []) ++
      (if q.zb then [j.f 44 5] else []) ++ (if q.gqMode = 0 then [] else [j.f 49 5]) ++
      (if q.stoch then [j.f 54 5] else []) ++ (if q.calEn then [j.f 59 5] else [])
    checks := [failProfile j (dltProfile r j), failShape j true true (dltShape c r j), failAlign j (dltAligns j),
      failWindow s p l j os]
    unit := .delta
    rd := { ivs := opndIvs s p l os false, slots := slots, tables := if q.actEn then BitVec.ofNat 8 (2 ^ q.actSel) else 0 }
    wr := { ivs := opndIvs s p l os true, slots := out }
    addr := j.scalar (j.f 34 5) }

/-! ### The run -/

/-- The running state of a DLTA. -/
structure DltRun where
  s : State
  gen : Word
  guard : Option SatRec := none
  out : Option SatRec := none
  fault : Option Fail := none
  undo : List Undo := []
deriving DecidableEq, Repr

/-- One converted output: its stored bits, whether its zero-bitmap bit is 1, whether it clamped and to which side, and
its calibration error. -/
structure OutVal where
  code : Nat
  nz : Bool
  clamp : Option Bool := none
  err : Int := 0
deriving DecidableEq, Repr

/-- The row sum of R216 as a rational: fixed-point with 40 fraction bits, or FP32 under R91. An infinite sum, or one that is
not a number, has no exact value: the free value stands for it (log 98). -/
def rowSum (q : Prof) (free : Nat) (w : Word) : Rat' :=
  if q.fp32 && fp32Special (w.toNat % 2 ^ 32) then { n := free + 1, d := 1 }
  else if q.fp32 then
    let (_, m, e) := fp32Parts (w.toNat % 2 ^ 32)
    if 0 ≤ e then { n := m * 2 ^ e.toNat, d := 1 } else { n := m, d := 2 ^ (-e).toNat }
  else { n := w.toNat, d := 2 ^ 40 }

/-- `t` divided by the row sum and by `2^bp - 1` (R216). -/
def normalise (t s : Rat') (bp : Nat) : Rat' := { n := t.n * s.d, d := t.d * (s.n.toNat * (2 ^ bp - 1)) }

/-- Rounding of R102 with draw `u`. -/
def roundRat (stoch : Bool) (t : Rat') (u : Nat) : Int := if stoch then stochRat t.n t.d u else rneRat t.n t.d

/-- The calibration error of output `y` against `t`, held at 16 bits (R111). -/
def calErr (y : Int) (t : Rat') : Int := clampInt (-32767) 32767 (256 * y - rneRat (256 * t.n) t.d)

/-- The levels of a non-uniform output. -/
def outLevels (c : Cluster) (q : Prof) : List Int :=
  if q.outKind = 1 then nb4 else if q.outKind = 2 then nb3 else cbLevels c q.outCb

/-- Sign of a clamp as a side: some true is the lower limit. -/
def clampSide (before after : Int) : Option Bool := if after = before then none else some (decide (before < after))

/-- Convert a pool value to a uniform, non-uniform or raw output (R100 to R106, R216). The conversion error of a raw output is
that of its visible value against V (DESIGN CHOICE, log 99). `sum` is the row sum where the
DLTA normalises; `free` stands for the error, and for the side in SAT_OUT, of an output whose row sum is 0. -/
def convert (c : Cluster) (q : Prof) (seg : SMap Word) (f : Nat) (sum : Option (Rat' × Nat)) (u : Nat) (free : Int)
    (v : Int × Bool) : OutVal :=
  let b := outBits c q
  if q.outKind = 4 then
    let lo := signedLo b
    let hi := signedHi b
    let y := if v.2 then (if 0 < v.1 then hi else lo) else clampInt lo hi v.1
    { code := unsignedBits b y, nz := y != 0,
      clamp := if v.2 then some (decide (v.1 ≤ 0)) else clampSide v.1 y, err := calErr y { n := v.1, d := 1 } }
  else
    let t0 := factorTimes v.1 f
    let zeroRow := match sum with
      | some (sr, _) => sr.n == 0
      | none => false
    let t := match sum with
      | some (sr, bp) => normalise t0 sr bp
      | none => t0
    let pos := decide (0 < t0.n)
    if q.outKind = 0 then
      let lo := codeLo q.outSigned b
      let hi := codeHi q.outSigned b
      if zeroRow then
        let y := clampInt lo hi q.ozp
        { code := unsignedBits b y, nz := y != q.ozp, clamp := some (decide (free % 2 = 1)),
          err := clampInt (-32767) 32767 free }
      else if v.2 then
        let y := if pos then hi else lo
        { code := unsignedBits b y, nz := y != q.ozp, clamp := some (!pos), err := calErr (y - q.ozp) t }
      else
        let y0 := roundRat q.stoch t u
        let y1 := if q.actEn then clampInt (-2147483648) 2147483647 y0 else y0
        let y2 := (if q.actEn then piecewise seg q.actSel y1 else y1) + q.ozp
        let y := clampInt lo hi y2
        { code := unsignedBits b y, nz := y != q.ozp,
          clamp := (match clampSide y0 y1 with | some x => some x | none => clampSide y2 y), err := calErr (y - q.ozp) t }
    else
      let ls := outLevels c q
      let k := if zeroRow then nearestCode ls { n := 0, d := 1 } else if v.2 then extremeCode ls pos else nearestCode ls t
      { code := k, nz := ls.getD k 0 != 0,
        clamp := if zeroRow then some (decide (free % 2 = 1)) else if v.2 then some (!pos) else none,
        err := if zeroRow then clampInt (-32767) 32767 free else calErr (ls.getD k 0) t }

/-- Values of the 16 columns of a row of a slot. -/
def rowVals (r : Reach) (paired : Bool) (slot row : Nat) : List (Int × Bool) :=
  (List.range 16).map (fun c => poolGet r.pool paired slot (16 * row + c))

/-- Bytes that hold `nbits` new bits, the rest of the last byte kept. -/
def mergeBits (old : List Byte) (nbits v : Nat) : List Byte :=
  leBytes ((nbits + 7) / 8) (leVal old / 2 ^ nbits * 2 ^ nbits + v)

/-- Write bits into the scratchpad of a reach at a physical address. -/
def writeBits (s : State) (p l a nbits v : Nat) : State :=
  if nbits = 0 then s
  else
    let n := (nbits + 7) / 8
    devWrite s (.sp p l) (srcReach p l) (cellsOf a (mergeBits (rdBytes s (.sp p l) a n) nbits v))

/-- Physical scratchpad address of a window offset. -/
def spAddr (r : Reach) (off : Int) : Nat := ((r.spBase : Int) + off).toNat

/-- Feed a calibration monitor with one output (R111). -/
def calFeed (a : CalAcc) (chBase ch : Nat) (o : OutVal) : CalAcc :=
  let sq := (o.err * o.err).toNat
  let b := { a with count := satAdd 32 a.count 1, clamps := if o.clamp.isSome then satAdd 32 a.clamps 1 else a.clamps,
                    sumSq := satAdd 64 a.sumSq sq }
  if chBase ≤ ch && decide (ch ≤ chBase + 255) then
    let i := ch - chBase
    { b with chCount := SMap.put b.chCount i (satAdd 32 (SMap.get 0 b.chCount i) 1),
             chSum := SMap.put b.chSum i (satAdd 64 (SMap.get 0 b.chSum i) sq) }
  else b

/-- The outputs of one row reach the SAT_OUT record and the calibration monitor. -/
def noteRow (p l : Nat) (j : Job) (slot row : Nat) (x : DltRun) (os : List OutVal) : DltRun :=
  let q := prof j.prof
  let out := (os.mapIdx (fun c o => (c, o))).foldl (fun a co => match co.2.clamp with
    | some lw => satNote a slot (16 * row + co.1) 0 lw 0
    | none => a) x.out
  let r := x.s.reach p l
  let m := q.calMon
  let s1 := if q.calEn && bvb (SMap.get 0 r.calCfg m) 0 then
      let chBase := bvf (SMap.get (0, 0) r.calUse m).1 16 16
      let acc := (os.mapIdx (fun c o => (c, o))).foldl (fun a co => calFeed a chBase (j.sv 59 + co.1) co.2)
        (SMap.get {} r.calAcc m)
      x.s.updReach p l (fun r => { r with calAcc := SMap.put r.calAcc m acc })
    else x.s
  { x with s := s1, out := out }

/-- The outputs of a row are stored, with their zero-bitmap bits (R131, R200); `os` holds the columns inside the
extent. -/
def storeRow (p l : Nat) (j : Job) (v : Visit) (slot row : Nat) (x : DltRun) (os : List OutVal) : DltRun :=
  let q := prof j.prof
  let r := x.s.reach p l
  let b := outBits (x.s.cluster p (clusterOf l)) q
  let a := spAddr r (j.sv 34 + v.o + row * trvStride j.trv 2)
  let s1 := writeBits x.s p l a (os.length * b) (packNat b (os.map (fun o => o.code)))
  let s2 := if q.zb then
      writeBits s1 p l (spAddr r (j.sv 44 + (v.m + row : Nat) * trvStride j.trv 6 + (v.n / 8 : Nat))) os.length
        (packNat 1 (os.map (fun o => b2n o.nz)))
    else s1
  noteRow p l j slot row { x with s := bumpCnt s2 p l 14 1 } os

/-- The bytes that a row writes: its outputs and its zero-bitmap bits. -/
def rowBytes (p l : Nat) (j : Job) (v : Visit) (row n : Nat) (s : State) : List (Space × Nat) :=
  let q := prof j.prof
  let r := s.reach p l
  let b := outBits (s.cluster p (clusterOf l)) q
  ((List.range ((n * b + 7) / 8)).map (fun i => spAddr r (j.sv 34 + v.o + row * trvStride j.trv 2) + i) ++
    (if q.zb then (List.range ((n + 7) / 8)).map (fun i =>
      spAddr r (j.sv 44 + (v.m + row : Nat) * trvStride j.trv 6 + (v.n / 8 : Nat)) + i) else [])).map (fun a => (.sp p l, a))

/-- A row, or the scale bytes of a span, are about to be written at the bytes `as` (R280). -/
def DltRun.before (x : DltRun) (p l : Nat) (as : List (Space × Nat)) : DltRun :=
  let r := x.s.reach p l
  { x with undo := { bytes := bytesBefore x.s (srcReach p l) .delta as, pool := r.poolNow, rows := some (r.stats, r.calAcc),
                     guard := x.guard, out := x.out } :: x.undo }

/-- Rescale row `row` of the output slots (R215): frozen entries stay. -/
def rescaleRow (pool : SMap PoolEntry) (slots : List Nat) (row mu sh : Nat) : SMap PoolEntry :=
  slots.foldl (fun pl t => (List.range 16).foldl (fun pl c =>
    let v := poolGet pl false t (16 * row + c)
    if v.2 then pl else poolSet pl false t (16 * row + c) (rneShift (v.1 * mu) sh) false) pl) pool

/-- The statistics of one row (R87 to R91): new maximum and sum, the rescale of the output slots, and whether the sum
was held at its limit (some true: at its lower limit). `vals` are the values inside the extent. A plain sum is held at its
limit once, after the values of the tile row (DESIGN CHOICE, log 98). The rescale factor is positive, so an infinite sum
stays as it is. -/
def rowStats (q : Prof) (mode : Nat) (st : RowStat) (vals : List Int) : RowStat × Option (Nat × Nat) × Option Bool :=
  let m' := vals.foldl max st.mx
  if mode = 1 then
    let t := signed 64 st.sum.toNat + vals.foldl (· + ·) 0
    let c := clampInt (signedLo 64) (signedHi 64) t
    ({ mx := m', sum := BitVec.ofNat 64 (unsignedBits 64 c) }, none, clampSide t c)
  else
    let rs := if st.mx < m' then expRescale q (m' - st.mx).toNat else none
    let ps := vals.map (fun x => expP q (m' - x).toNat)
    if q.fp32 then
      let s0 := st.sum.toNat % 2 ^ 32
      let s1 := match rs with
        | some (mu, d) =>
          if fp32Special s0 then fp32Mul s0 (fp32OfScaled 1 0)
          else
            let (neg, m, e) := fp32Parts s0
            fp32Round neg (m * mu) (e - 16 - d)
        | none => s0
      let s2 := ps.foldl (fun a pc => fp32Add a (fp32OfScaled pc 16)) s1
      ({ mx := m', sum := BitVec.ofNat 64 s2 }, rs.map (fun x => (x.1, 16 + x.2)), none)
    else
      let s1 : Nat := match rs with
        | some (mu, d) => (rneShift ((st.sum.toNat * mu : Nat) : Int) (16 + d)).toNat
        | none => st.sum.toNat
      let s2 := s1 + ps.foldl (· + ·) 0 * 2 ^ 24
      ({ mx := m', sum := BitVec.ofNat 64 (min s2 (2 ^ 64 - 1)) }, rs.map (fun x => (x.1, 16 + x.2)),
        if 2 ^ 64 ≤ s2 then some false else none)

/-- Row statistics of a tile row, and the rescale of the output slots under FUSE_CFG (R215). A sum held at its limit is one
affected entry of SAT_GUARD, and its column is a free value (DESIGN CHOICE, log 98). -/
def statRow (p l : Nat) (j : Job) (slot row nc : Nat) (x : DltRun) : DltRun :=
  let q := prof j.prof
  let mode := dltStat j
  if mode = 0 || nc = 0 then x
  else
    let r := x.s.reach p l
    let vals := ((rowVals r q.paired slot row).take nc).map (fun v => v.1)
    let (st, rs, lim) := rowStats q mode (SMap.get {} r.stats row) vals
    let pool := match rs with
      | some (mu, sh) => if fuResc r.fuse then rescaleRow r.pool (fuSlots r.fuse) row mu sh else r.pool
      | none => r.pool
    let s1 := x.s.updReach p l (fun r => { r with stats := SMap.put r.stats row st, pool := pool })
    match lim with
    | some lw =>
      let g := satNote x.guard slot (16 * row + Config.free s1.free % 16) 0 lw 2
      { x with s := { s1 with free := s1.free + 1 }, guard := g }
    | none => { x with s := s1 }

/-- The exponential codes of a row (R176). -/
def expRow (q : Prof) (mx : Int) (vals : List (Int × Bool)) : List OutVal :=
  vals.map (fun v =>
    let t := expP q (mx - v.1).toNat * (2 ^ q.outW - 1)
    let y := rneShift (t : Int) 16
    { code := unsignedBits q.outW y, nz := y != q.ozp, clamp := if v.2 then some (decide (v.1 ≤ 0)) else none,
      err := calErr y { n := t, d := 65536 } })

/-- Rows and columns of a tile inside the extents of the instruction (R206). -/
def dltRows (j : Job) (v : Visit) : Nat := min 16 (j.sv 64 - v.m)
def dltCols (j : Job) (v : Visit) : Nat := min 16 (j.sv 69 - v.n)

/-- The tile has an output inside the extents. -/
def dltInside (j : Job) (v : Visit) : Bool := decide (0 < dltRows j v) && decide (0 < dltCols j v)

/-- Whether the first slot of the DLTA lies in the output range; a paired slot covers two single slots (R67, R216). -/
def firstInRange (r : Reach) (j : Job) : Bool :=
  let n := j.f 24 5
  if (prof j.prof).paired then (fuSlots r.fuse).contains (2 * n) || (fuSlots r.fuse).contains (2 * n + 1)
  else (fuSlots r.fuse).contains n

/-- Whether the DLTA normalises: the width of the exponentials (R216). A raw output is not normalised. -/
def normWidth (r : Reach) (j : Job) : Option Nat :=
  if fuNorm r.fuse && dltStat j == 0 && (prof j.prof).outKind != 4 && firstInRange r j then some (fuWidth r.fuse) else none

/-- The factor of a tile and its window offset (R101, R200). -/
def factorOff (j : Job) (v : Visit) : Nat := j.sv 39 + 4 * (v.n / 16)

/-- The factor's bits. -/
def factorOf (s : State) (p l : Nat) (j : Job) (v : Visit) : Nat :=
  leVal (rdBytes s (.sp p l) (spAddr (s.reach p l) (factorOff j v)) 4)

/-- Whether a tile writes an output through step 3 or 4 of R100, or through R107, and so reads its factor (R101): an output
inside the extents whose row takes part under normalisation (R216), and that is not one of an overflowed entry, which
takes a limit (R100 step 1), unless a group takes it. -/
def tileUsesFactor (r : Reach) (j : Job) (v : Visit) (slot : Nat) : Bool :=
  let q := prof j.prof
  readsFactor q j && (List.range (dltRows j v)).any (fun row =>
    ((normWidth r j).isNone || (rowSum q 0 (SMap.get {} r.stats row).sum).n != 0) &&
    (List.range (dltCols j v)).any (fun c => q.gqMode != 0 || !(poolGet r.pool q.paired slot (16 * row + c)).2))

/-- The fault of a tile's factor: poisoned, or refused by R101. -/
def factorFault (s : State) (p l : Nat) (j : Job) (v : Visit) (slot : Nat) : Option Fail :=
  if !tileUsesFactor (s.reach p l) j v slot then none
  else match poisonIn s (.sp p l) (spAddr (s.reach p l) (factorOff j v)) 4 with
    | some u => some (poisonFail s (.sp p l) u (srcReach p l))
    | none =>
      let f := factorOf s p l j v
      if fp32BadFactor f then
        mkFail evIllegalEncoding 0 (illegalPayload 3 slot 0xFFFF j.pc.toNat (factorOff j v) f)
      else none

/-- The draws of the outputs of one tile, and the generator after it (R103): one advance per pool entry; a paired
output takes the draw of its lower entry. -/
def tileDraws (paired : Bool) : Nat → Word → List Nat × Word
  | 0, x => ([], x)
  | n + 1, x =>
    let y := xsAdvance x
    let z := if paired then xsAdvance y else y
    let (ds, w) := tileDraws paired n z
    (xsDraw y :: ds, w)


/-- One tile without group quantisation. -/
def dltTileRun (p l : Nat) (j : Job) (x : DltRun) (i : Nat) : DltRun :=
  match x.fault with
  | some _ => x
  | none =>
    let q := prof j.prof
    let v := dltTile j i
    let slot := j.f 24 5 + i
    let (draws, gen) := if q.stoch then tileDraws q.paired 256 x.gen else ([], x.gen)
    let y := { x with gen := gen }
    match factorFault x.s p l j v slot with
    | some f => { y with fault := some f }
    | none =>
      if !dltInside j v then y
      else
        let f := factorOf x.s p l j v
        (List.range (dltRows j v)).foldl (fun z0 row =>
          let z := z0.before p l (rowBytes p l j v row (dltCols j v) z0.s)
          let z1 := statRow p l j slot row (dltCols j v) z
          let r := z1.s.reach p l
          let vals := (rowVals r q.paired slot row).take (dltCols j v)
          let os := if dltStat j = 3 then expRow q (SMap.get {} r.stats row).mx vals
            else vals.mapIdx (fun c v =>
              convert (z1.s.cluster p (clusterOf l)) q r.actSeg f
                ((normWidth r j).map (fun bp => (rowSum q (Config.free (z1.s.free + 16)) (SMap.get {} r.stats row).sum, bp)))
                (draws.getD (16 * row + c) 0) (Config.free (z1.s.free + c)) v)
          let z2 := { z1 with s := { z1.s with free := z1.s.free + 17 } }
          storeRow p l j v slot row z2 os) y

/-! ### Group quantisation (R107) -/

/-- The smallest scale byte whose range holds `a` (R107 step 3); none if no byte does. -/
def scaleByteFor (qmax : Nat) (a : Rat') : Option Nat :=
  (List.range 256).find? (fun b =>
    let (m, e) := scaleOf b
    if 0 ≤ e then decide (a.n ≤ qmax * m * 2 ^ e.toNat * a.d)
    else decide (a.n * 2 ^ (-e).toNat ≤ qmax * m * a.d))

/-- `t` in steps of a scale byte. -/
def inSteps (t : Rat') (b : Nat) : Rat' :=
  let (m, e) := scaleOf b
  if 0 ≤ e then { n := t.n, d := t.d * (m.toNat * 2 ^ e.toNat) } else { n := t.n * 2 ^ (-e).toNat, d := t.d * m.toNat }

/-- The larger magnitude. -/
def maxAbs (a t : Rat') : Rat' := if a.n * t.d < (t.n.natAbs : Int) * a.d then { n := t.n.natAbs, d := t.d } else a

/-- An entry of a group: value and overflow, t, whether its row takes part, its draw, a free error. -/
structure GqEntry where
  v : Int × Bool
  t : Rat'
  part : Bool
  pos : Bool
  u : Nat
  free : Int
deriving DecidableEq, Repr

/-- The scale byte and the outputs of one group (R107). The `t` of the conversion error is the quotient t_k/(M·2^E) that the
code rounds (DESIGN CHOICE, log 99). -/
def gqGroup (q : Prof) (es : List GqEntry) : Nat × List OutVal :=
  let b := q.outW
  let qmax := 2 ^ (b - 1) - 1
  let a := (es.filter (fun e => e.part)).foldl (fun m e => maxAbs m e.t) { n := 0, d := 1 }
  let sb := scaleByteFor qmax a
  let beta := sb.getD 0xFF
  (beta, es.map (fun e =>
    if !e.part then
      { code := 0, nz := false, clamp := some (decide (Int.emod e.free 2 = 1)), err := clampInt (-32767) 32767 e.free }
    else
      let st := inSteps e.t beta
      if e.v.2 then
        let y : Int := if e.pos then qmax else -(qmax : Int)
        { code := unsignedBits b y, nz := y != 0, clamp := some (!e.pos), err := calErr y st }
      else
        let y := clampInt (-(qmax : Int)) qmax (roundRat q.stoch st e.u)
        let far := sb.isNone && decide ((qmax : Int) * st.d < st.n.natAbs)
        { code := unsignedBits b y, nz := y != 0, clamp := if far then some (decide (st.n < 0)) else none,
          err := calErr y st }))

/-- Entry (row, col) of tile `i` of a group-quantising DLTA. -/
def gqEntry (s : State) (p l : Nat) (j : Job) (i row col u : Nat) : GqEntry :=
  let q := prof j.prof
  let r := s.reach p l
  let v := poolGet r.pool q.paired (j.f 24 5 + i) (16 * row + col)
  let t0 := factorTimes v.1 (factorOf s p l j (dltTile j i))
  let sr := rowSum q (Config.free (s.free + 256 + row)) (SMap.get {} r.stats row).sum
  match normWidth r j with
  | some bp => { v := v, t := if sr.n = 0 then t0 else normalise t0 sr bp, part := sr.n != 0, pos := decide (0 < t0.n),
                 u := u, free := Config.free (s.free + 16 * row + col) }
  | none => { v := v, t := t0, part := true, pos := decide (0 < t0.n), u := u, free := 0 }

/-- Store a group's scale byte (R107, R200). -/
def gqStore (p l : Nat) (j : Job) (s : State) (m n beta : Nat) : State :=
  let q := prof j.prof
  let off : Int := j.sv 49 + (if q.gqMode = 1 then (m : Int) * trvStride j.trv 7 + (n / q.gqLen : Nat)
    else (m / q.gqLen : Nat) * trvStride j.trv 7 + n)
  writeBits s p l (spAddr (s.reach p l) off) 8 beta

/-- The bytes of the scale bytes of a span that starts at (m, n). -/
def gqBytes (p l : Nat) (j : Job) (s : State) (m n : Nat) : List (Space × Nat) :=
  let q := prof j.prof
  (List.range 16).map (fun k =>
    let off : Int := j.sv 49 + (if q.gqMode = 1 then ((m + k : Nat) : Int) * trvStride j.trv 7 + (n / q.gqLen : Nat)
      else (m / q.gqLen : Nat) * trvStride j.trv 7 + (n + k : Nat))
    (.sp p l, spAddr (s.reach p l) off))

/-- The entries of group `k` (a row, or a column under mode 10b) of the span that starts at tile `i0`: (tile, row,
col) inside the extents. -/
def gqPlaces (j : Job) (i0 k : Nat) : List (Nat × Nat × Nat) :=
  let q := prof j.prof
  (List.range (gqSpan q)).flatMap (fun d =>
    let i := i0 + d
    let v := dltTile j i
    ((List.range 16).map (fun e => if q.gqMode = 1 then (i, k, e) else (i, e, k))).filter (fun x =>
      decide (x.2.1 < dltRows j v) && decide (x.2.2 < dltCols j v)))

/-- One span of a group-quantising DLTA: every factor is checked first, then the groups, their scale bytes and their
rows are written. -/
def gqSpanRun (p l : Nat) (j : Job) (x : DltRun) (k0 : Nat) : DltRun :=
  match x.fault with
  | some _ => x
  | none =>
    let q := prof j.prof
    let i0 := k0 * gqSpan q
    let is := (List.range (gqSpan q)).map (fun d => i0 + d)
    let (draws, gen) := is.foldl (fun (acc : List (List Nat) × Word) _ =>
      if q.stoch then let (d, g) := tileDraws q.paired 256 acc.2; (acc.1 ++ [d], g) else (acc.1 ++ [[]], acc.2)) ([], x.gen)
    let y := { x with gen := gen }
    match is.findSome? (fun i => factorFault x.s p l j (dltTile j i) (j.f 24 5 + i)) with
    | some f => { y with fault := some f }
    | none =>
      let w := y.before p l (gqBytes p l j y.s (dltTile j i0).m (dltTile j i0).n)
      let z0 := is.foldl (fun z i => (List.range (dltRows j (dltTile j i))).foldl (fun z row =>
        statRow p l j (j.f 24 5 + i) row (dltCols j (dltTile j i)) z) z) w
      let groups := (List.range 16).map (fun k =>
        let ps := gqPlaces j i0 k
        (ps, gqGroup q (ps.map (fun e =>
          gqEntry z0.s p l j e.1 e.2.1 e.2.2 ((draws.getD (e.1 - i0) []).getD (16 * e.2.1 + e.2.2) 0)))))
      let v0 := dltTile j i0
      let s1 := (groups.mapIdx (fun k g => (k, g))).foldl (fun s kg =>
        if kg.2.1.isEmpty then s
        else if q.gqMode = 1 then gqStore p l j s (v0.m + kg.1) v0.n kg.2.2.1
        else gqStore p l j s v0.m (v0.n + kg.1) kg.2.2.1) z0.s
      let cell (i row col : Nat) : Option OutVal := groups.findSome? (fun g =>
        (g.1.zip g.2.2).findSome? (fun e => if e.1 == (i, row, col) then some e.2 else none))
      is.foldl (fun z i =>
        let v := dltTile j i
        if !dltInside j v then z
        else (List.range (dltRows j v)).foldl (fun z row =>
          storeRow p l j v (j.f 24 5 + i) row (z.before p l (rowBytes p l j v row (dltCols j v) z.s)) ((List.range (dltCols j v)).filterMap (fun c => cell i row c))) z)
        { z0 with s := { s1 with free := s1.free + 272 } }

/-- The effect of a DLTA numbered `no` (R100, R175). -/
def runDlta (p l : Nat) (s : State) (j : Job) (no : Nat) : State :=
  let q := prof j.prof
  let s0 := if bvb j.word 76 then s.updReach p l (fun r => { r with stats := [] }) else s
  let x0 : DltRun := { s := s0, gen := xsSeed (q.seed ^^^ BitVec.ofNat 64 (j.sv 54)) }
  let x := if q.gqMode = 0 then (List.range (dltTiles j)).foldl (dltTileRun p l j) x0
    else (List.range (dltTiles j / gqSpan q)).foldl (gqSpanRun p l j) x0
  let s1 := updFlight x.s p l no (fun f => { f with guard := x.guard, out := x.out, undo := x.undo.reverse })
  match x.fault with
  | some f => lateFault s1 p l no j f
  | none => s1

/-- DLTA (R100). -/
def execDlta (p : ParcelId) (l : ReachId) (s : State) : Out :=
  .next (issueUnit s p l (fun w => wOp w == 3) (dltPlan s p l) (runDlta p l))

end Sys2Proof.Machine
end

