-- ==== Sys2Proof/Machine/Confluence.lean ====
section
/-!
DEFINITION. Confluence (03 R83 to R86, 06 R181, 11 R324): CONF, the adds at their memory controllers, the rows between
devices, and the acceptance of received packets (11 R307, R314, R320).
-/

namespace Sys2Proof.Machine

/-- Tile slot of a CONF. -/
def cfSlot (j : Job) : Nat := j.f 24 5
/-- Value of s_dst. -/
def cfDst (j : Job) : Nat := j.sv 29
/-- Row stride. -/
def cfRs (j : Job) : Nat := j.sv 34
/-- Row extent. -/
def cfM (j : Job) : Nat := j.sv 39
/-- Column extent. -/
def cfN (j : Job) : Nat := j.sv 44
/-- 64-bit words. -/
def cfWide (j : Job) : Bool := bvb j.word 49
/-- Bytes of a word. -/
def wordBytes (wide : Bool) : Nat := if wide then 8 else 4
/-- Address of output (r, c) (R181), modulo 2^64. -/
def cfAddr (j : Job) (r c : Nat) : Nat := (cfDst j + r * cfRs j + c * wordBytes (cfWide j)) % 2 ^ 64
/-- Device, parcel and byte of a system address. -/
def sysDev (a : Nat) : Nat := field a 38 14
/-- Parcel. -/
def sysParcel (a : Nat) : Nat := field a 35 3
/-- Byte within the parcel space. -/
def sysByte (a : Nat) : Nat := a % 2 ^ 35
/-- Whether the rows go to another device (R324). -/
def cfRemote (s : State) (j : Job) : Bool := sysDev (cfDst j) != s.dev

/-- The plan of a CONF (R163, R181, R195, R310). -/
def confPlan (s : State) (p l : Nat) (j : Job) : Plan :=
  let q := prof j.prof
  let w := wordBytes (cfWide j)
  { reads := [j.f 29 5, j.f 34 5, j.f 39 5, j.f 44 5]
    checks := [
      failProfile j [(0x0B, !(q.paired && 16 ≤ cfSlot j) && tagDiffers (s.reach p l).paired q.paired (cfSlot j)),
        (0x1C, q.paired && 16 ≤ cfSlot j)],
      failShape j true false [shapeChk (16 < cfM j) 0x0C 0xFF (cfM j) 16, shapeChk (16 < cfN j) 0x0C 0xFF (cfN j) 16],
      failAlignIf j [alignOf 0 (cfDst j) w, alignOf 1 (cfRs j) w],
      failAddress p l j (cfRemote s j && sysParcel (cfDst j) != p) 0 2 (cfDst j)
        (cfAddr j (cfM j - 1) (cfN j - 1) + w - 1) 0]
    unit := .reachDma
    rd := { slots := modeMask q.paired (cfSlot j) 1 }
    addr := j.scalar (j.f 29 5)
    armable := true }

/-- The value that an entry sends (R71, R84), and its clamp: `some true` to the lower limit. -/
def confValue (paired wide : Bool) (e : Int × Bool) : Int × Option Bool :=
  if !paired && wide then (e.1, if e.2 then some (decide (e.1 < 0)) else none)
  else
    let b := if wide then 64 else 32
    if e.2 then (if e.1 < 0 then signedLo b else signedHi b, some (decide (e.1 < 0)))
    else
      let v := clampInt (signedLo b) (signedHi b) e.1
      (v, if v = e.1 then none else some (decide (e.1 < v)))

/-- The outputs that a CONF sends: row, column, value and clamp, in entry order. -/
def confOuts (r : Reach) (j : Job) : List (Nat × Nat × Int × Option Bool) :=
  let paired := (prof j.prof).paired
  (List.range (cfM j)).flatMap (fun row => (List.range (cfN j)).map (fun c =>
    let v := confValue paired (cfWide j) (poolGet r.pool paired (cfSlot j) (16 * row + c))
    (row, c, v.1, v.2)))

/-- The SAT_OUT record of the outputs sent (R72). -/
def confOut (j : Job) (os : List (Nat × Nat × Int × Option Bool)) : Option SatRec :=
  os.foldl (fun r o => match o.2.2.2 with
    | some low => satNote r (cfSlot j) (16 * o.1 + o.2.1) 0 low 0
    | none => r) none

/-- Ascending order of source (R84): device, parcel, logical reach. -/
def ConfAdd.sourceKey (a : ConfAdd) : Nat := a.dev.toNat * 2 ^ 10 + a.parcel * 2 ^ 7 + a.reach

/-- An add joins those that wait: behind every earlier arrival, and among the arrivals of the same cycle behind those of its
own and of lower sources (R84). -/
def insertAdd (a : ConfAdd) : List ConfAdd → List ConfAdd
  | [] => [a]
  | x :: r => if x.arrived = a.arrived ∧ a.sourceKey < x.sourceKey then a :: x :: r else x :: insertAdd a r

/-- An add arrives at the controllers of parcel `q`. -/
def queueAdd (s : State) (q : Nat) (a : ConfAdd) : State :=
  s.updParcel q (fun x => { x with adds := insertAdd { a with arrived := s.wall } x.adds })

/-- A CONF within the package (R84, R408): its adds go out in entry order and stop at the first one that cannot reach
its parcel. -/
def confLocal (s : State) (p l no : Nat) (j : Job) : State :=
  let os := confOuts (s.reach p l) j
  let addrOf (o : Nat × Nat × Int × Option Bool) : Nat := cfAddr j o.1 o.2.1
  let n := os.findIdx (fun o => !reachable s p (sysParcel (addrOf o)))
  let sent := os.take n
  let s1 := sent.foldl (fun t o =>
    let a : ConfAdd := { addr := sysByte (addrOf o), wide := cfWide j, value := o.2.2.1, dev := BitVec.ofNat 14 s.dev,
                         parcel := p, reach := l, flight := no, col := 16 * o.1 + o.2.1 }
    let q := sysParcel (addrOf o)
    countRing (queueAdd t q a) p q (if q = p then 0 else wordBytes (cfWide j))) s
  let s2 := updFlight s1 p l no (fun f => { f with wait := .adds n, out := confOut j sent })
  match os[n]? with
  | none => s2
  | some o => refuseMove s2 p l no j (sysParcel (addrOf o)) 0 (addrOf o) (addrOf o + wordBytes (cfWide j) - 1)

/-- The packet body of a confluence row (R316). -/
def rowBody (base mask : Nat) (wide : Bool) (vals : List Int) : List Byte :=
  leBytes 8 base ++ leBytes 2 mask ++ leBytes 1 (b2n wide) ++ List.replicate 5 0 ++
  (List.range 16).flatMap (fun c => leBytes (wordBytes wide) (unsignedBits (8 * wordBytes wide) (vals.getD c 0)))

/-- One row of a CONF to another device (R324): its packet, or its adds refused where no route exists. -/
def confRow (p l no : Nat) (j : Job) (dev : Nat) (s : State) (row : Nat) (vals : List Int) : State :=
  let (s1, id) := takeId s p
  let k : Packet := { ptype := 2, dst := BitVec.ofNat 14 dev, src := 0, via := 0, viaEn := false, dir0 := 0, dir1 := 0,
                      id := id, gen := 0, win := 0, off := 0, stamp := 0, tag := BitVec.ofNat 16 row, pver := 0,
                      body := rowBody (cfAddr j row 0) (2 ^ cfN j - 1) (cfWide j) vals }
  match sendPacket s1 p k with
  | (s2, false) => updFlight s2 p l no (fun f => { f with status := 2 })
  | (s2, true) =>
    let s3 := s2.updFab p (fun f => { f with rows := f.rows ++
      [{ id := id, chan := 0, count := s.datum.count, reach := l, flight := no, adds := cfN j }] })
    updFlight s3 p l no (fun f => { f with wait := .adds (match f.wait with | .adds n => n + cfN j | _ => cfN j) })

/-- A CONF to another device (R324). -/
def confRemote (s : State) (p l no : Nat) (j : Job) : State :=
  let os := confOuts (s.reach p l) j
  let s1 := updFlight s p l no (fun f => { f with out := confOut j os })
  if cfN j = 0 then s1
  else (List.range (cfM j)).foldl (fun t row =>
    confRow p l no j (sysDev (cfDst j)) t row ((os.filter (fun o => o.1 == row)).map (fun o => o.2.2.1))) s1

/-- The effect of a CONF. -/
def runConf (p l : Nat) (s : State) (j : Job) (no : Nat) : State :=
  if cfRemote s j then confRemote s p l no j else confLocal s p l no j

/-- CONF (R181). -/
def execConf (p : ParcelId) (l : ReachId) (s : State) : Out :=
  .next (issueUnit s p l (fun w => wOp w == 8) (confPlan s p l) (runConf p l))

/-! ### Adds at their controllers (R83 to R86) -/

/-- First byte of a region. -/
def regionBase (w : Word) : Nat := bvf w 12 23 * 4096
/-- Bytes of a region. -/
def regionSize (w : Word) : Nat := bvf w 40 24 * 4096

/-- The lowest enabled region that contains an address (R83). -/
def regionOf (x : Parcel) (a : Nat) : Option Nat :=
  (List.range 64).find? (fun k =>
    let w := SMap.get 0 x.region k
    bvb w 0 && decide (regionBase w ≤ a) && decide (a < regionBase w + regionSize w))

/-- `n` adds of a CONF are answered, some of them refused where `bad`. -/
def answerAdds (s : State) (p l no n : Nat) (bad : Bool) : State :=
  updFlight s p l no (fun f => { f with
    wait := (match f.wait with | .adds m => .adds (m - n) | w => w)
    status := if bad then 2 else f.status })

/-- Send the answer of a row once every add of it is done (R324). -/
def answerRow (s : State) (q : Nat) (a : RowAnswer) : State :=
  let k : Packet := { ptype := 3, dst := a.src, src := 0, via := 0, viaEn := false, dir0 := 0, dir1 := 0, id := a.id,
                      gen := 0, win := 0, off := 0, stamp := 0, tag := 0, pver := 0, body := leBytes 2 a.mask.toNat }
  (sendPacket s q k).1

/-- The answer of one add reaches its source: a flight of the package, or the row of another device. -/
def answerAdd (s : State) (q : Nat) (a : ConfAdd) (refused : Bool) : State :=
  match a.rowId with
  | none => updFlight (answerAdds s a.parcel a.reach a.flight 1 refused) a.parcel a.reach a.flight (fun f =>
      { f with sent := max f.sent (a.col + 1) })
  | some id =>
    match (s.parcel q).fab.rowAnswers.find? (fun x => x.src == a.dev && x.id == id) with
    | none => s
    | some x =>
      let y : RowAnswer := { x with left := x.left - 1, mask := if refused then putBit x.mask a.col true else x.mask }
      let s1 := s.updFab q (fun f => { f with
        rowAnswers := if y.left = 0 then f.rowAnswers.filter (fun z => !(z.src == a.dev && z.id == id))
          else f.rowAnswers.map (fun z => if z.src == a.dev && z.id == id then y else z) })
      if y.left = 0 then answerRow s1 q y else s1

/-- The source that a record names for an add: the reach, or the link that brought a row of another device (log 24). -/
def addSource (a : ConfAdd) : Nat := if a.rowId.isSome then a.via else srcReach a.parcel a.reach

/-- An add is refused at its target (R86): it counts, and its record, if any, has been raised. -/
def refuseAdd (s : State) (q : Nat) (a : ConfAdd) : State := answerAdd (bumpPcnt s q 4 1) q a true

/-- Whether an add finds its word in a region of its width (R86, R181). -/
def addRegion (s : State) (q : Nat) (a : ConfAdd) : Option Nat :=
  match regionOf (s.parcel q) a.addr with
  | some k => if bvb (SMap.get 0 (s.parcel q).region k) 1 == a.wide then some k else none
  | none => none

/-- The saturating add to a word (R85): the new value, and whether it saturates. -/
def wordAdd (wide : Bool) (old : Nat) (v : Int) : Nat × Bool :=
  let b := 8 * wordBytes wide
  let x := signed b old + v
  let y := clampInt (signedLo b) (signedHi b) x
  (unsignedBits b y, decide (y ≠ x))

/-- One confluence add takes effect at parcel `q` (R84 to R86, R352, R408). -/
def applyAdd (s0 : State) (q : Nat) (a : ConfAdd) : State :=
  let w := wordBytes a.wide
  let s := if (addRegion s0 q a).isSome && decide ((s0.parcel q).state ≠ .contain)
    then settle s0 (.sm q) a.addr w (addSource a) else s0
  let bound (origin : Nat) : List Byte :=
    boundPayload 0xFFFFFFFF origin 0xFF 2 q a.addr (a.addr + w - 1) 0 (addSource a)
  if (s.parcel q).state = .contain then refuseAdd (raise s (srcParcel q 0) evBound (bound 4)) q a
  else match addRegion s q a with
    | none => refuseAdd (raise s (srcParcel q 0) evBound (bound 2)) q a
    | some k =>
      match poisonIn s (.sm q) a.addr w with
      | some u => refuseAdd (raiseUe s (.sm q) u (addSource a)) q a
      | none =>
        let s1 := devRead s (.sm q) (addSource a) a.addr w
        let (v, sat) := wordAdd a.wide (leVal (rdBytes s (.sm q) a.addr w)) a.value
        let s2 := devWrite s1 (.sm q) (addSource a) (cellsOf a.addr (leBytes w v))
        let s3 := bumpBw (bumpPcnt s2 q 3 1) q 21 w
        let s4 := if sat then
            raise ((if bvb (SMap.get 0 (s3.parcel q).region k) 2 then s3 else setInt s3 q 3).updParcel q (fun x =>
                { x with region := SMap.put x.region k (putBit (SMap.get 0 x.region k) 2 true) }) |>.mark (.sat q k))
              (srcParcel q 0) evConfSat (packFields [(1, k), (8, errAddress s (.sm q) a.addr), (2, addSource a)] [])
          else s3
        answerAdd s4 q a false

/-- CONFLUENCE_ADD (R84): the first add waiting at the controllers of parcel `p`. -/
def execConfluenceAdd (p : ParcelId) (s : State) : Out :=
  .next (match (s.parcel p).adds with
    | [] => s
    | a :: r => applyAdd (s.updParcel p (fun x => { x with adds := r })) p a)

/-! ### Received packets -/

/-- Payload of PEER_VERSION (R304). -/
def peerVersionPayload (p link ownMax ownMin peerMax peerMin neg : Nat) : List Byte :=
  packFields [(1, p), (1, link), (1, ownMax), (1, ownMin), (1, peerMax), (1, peerMin), (1, neg)] []

/-- A packet older than W (R314). -/
def tooOld (s : State) (k : Packet) : Bool :=
  decide (s.expiry < (s.datum.count + 2 ^ 32 - k.stamp.toNat) % 2 ^ 32)

/-- Remove a packet from the inbox of a parcel. -/
def dropInbox (k : Packet) : List (BitVec 3 × Packet) → List (BitVec 3 × Packet)
  | [] => []
  | x :: r => if x.2 = k then r else x :: dropInbox k r

/-- A packet for this parcel is taken from the inbox and checked: its age (R314), its version (R307), its generation
(R320). The Boolean says whether it is accepted. -/
def acceptPacket (s : State) (p : Nat) (k : Packet) : State × Bool :=
  let s1 := s.updFab p (fun f => { f with inbox := dropInbox k f.inbox })
  let f := (s.parcel p).fab
  if tooOld s k then (bumpPcnt s1 p 10 1, false)
  else if f.linkMax.toNat < k.pver.toNat then
    (raise s1 (srcParcel p 11) evPeerVersion
      (peerVersionPayload p 0xF f.linkMax.toNat f.linkMin.toNat k.pver.toNat 0 0), false)
  else
    let record := s1.updFab p (fun f => { f with genRec := SMap.put f.genRec k.src.toNat k.gen })
    match SMap.find f.genRec k.src.toNat with
    | none => (record, true)
    | some r =>
      let d := (k.gen.toNat + 16 - r.toNat) % 16
      if d = 0 then (s1, true)
      else if d < 8 then (record, true)
      else (raise s1 (srcParcel p 11) evMsgStaleGen (packFields [(1, p), (2, k.src.toNat), (2, k.id.toNat),
        (1, k.gen.toNat), (1, r.toNat), (1, k.win.toNat)] []), false)

/-- A confluence row of another device arrives (R324): its adds join those of the controllers. -/
def confluenceRow (s : State) (p : Nat) (k : Packet) : State :=
  let base := leVal (k.body.take 8)
  let mask := leVal ((k.body.drop 8).take 2)
  let wide := bit (leVal ((k.body.drop 10).take 1)) 0
  let w := wordBytes wide
  let cols := (List.range 16).filter (fun c => mask.testBit c)
  let a : RowAnswer := { src := k.src, id := k.id, left := cols.length, mask := 0 }
  if cols.isEmpty then answerRow s p a
  else
    let add (c : Nat) : ConfAdd :=
      { addr := sysByte (base + c * w), wide := wide, value := signed (8 * w) (leVal ((k.body.drop (16 + c * w)).take w)),
        dev := k.src, parcel := p, reach := 0, flight := 0, rowId := some k.id, col := c
        via := srcParcel p ((entryPort k).elim 11 (fun q => 2 + portNo q)) }
    cols.foldl (fun t c => queueAdd t p (add c)) (s.updFab p (fun f => { f with rowAnswers := f.rowAnswers ++ [a] }))

/-- CONFLUENCE_ROW_RX (R324). -/
def execConfluenceRowRx (p : ParcelId) (k : Packet) (s : State) : Out :=
  .next (if k.ptype = 2 then
      (match acceptPacket s p k with | (s1, true) => confluenceRow s1 p k | (s1, false) => s1) else s)

/-- The adds of an outstanding row are answered or given up (R324). -/
def endRow (s : State) (p : Nat) (id : BitVec 16) (bad : Bool) : State :=
  match (s.parcel p).fab.rows.find? (fun x => x.id == id) with
  | none => s
  | some x => answerAdds (s.updFab p (fun f => { f with rows := f.rows.filter (fun y => y.id != id) }))
      p x.reach x.flight x.adds bad

/-- The packet of type `ptype` with an identifier that waits in the inbox. -/
def inInbox (s : State) (p : Nat) (ptype : BitVec 4) (id : BitVec 16) : Option Packet :=
  ((s.parcel p).fab.inbox.find? (fun x => x.2.ptype == ptype && x.2.id == id)).map (fun x => x.2)

/-- The answer of a row: it counts as refused once Q has passed since its injection (R324). -/
def rowAnswered (s : State) (p : Nat) (id mask : BitVec 16) : State :=
  match (s.parcel p).fab.rows.find? (fun x => x.id == id) with
  | none => s
  | some x => endRow s p id (mask != 0 || decide (x.count + s.qTicks ≤ s.datum.count))

/-- CONFLUENCE_ANSWER_RX (R324): a packet that the parcel has received is checked like any other (R307, R314, R320). -/
def execConfluenceAnswerRx (p : ParcelId) (id : BitVec 16) (mask : BitVec 16) (s : State) : Out :=
  .next (match inInbox s p 3 id with
    | none => rowAnswered s p id mask
    | some k => match acceptPacket s p k with
      | (s1, true) => rowAnswered s1 p id mask
      | (s1, false) => s1)

/-- CONFLUENCE_ANSWER_TIMEOUT (R324): Q after its injection a row counts as refused. -/
def execConfluenceAnswerTimeout (p : ParcelId) (id : BitVec 16) (s : State) : Out :=
  .next (match (s.parcel p).fab.rows.find? (fun x => x.id == id) with
    | none => s
    | some x => if x.count + s.qTicks ≤ s.datum.count then endRow s p id true else s)

/-- CASCADE_TILE_RX (R325): the tile goes to the reach that waits with this port and tag; no buffer holds it otherwise. A
tile carries no hop number, so the count of R72 starts again behind a river link (DEDUCED, log 43). -/
def execCascadeTileRx (p : ParcelId) (port : Port) (k : Packet) (s : State) : Out :=
  .next (if k.ptype ≠ 4 then s else
    match acceptPacket s p k with
    | (s1, false) => s1
    | (s1, true) =>
      match tileReach s1 p port k.tag.toNat with
      | none => s1
      | some (l, f) =>
        let (paired, vals) := tileVals k.body
        addSum s1 p { dest := l, first := caFirst f.job, last := caLast f.job, tag := k.tag, paired := paired, hop := 0,
                      vals := vals })

end Sys2Proof.Machine
end

