-- ==== Sys2Proof/Machine/Order.lean ====
section
/-!
DEFINITION. What is bound to a stake, and the order in which it acts (01 R31 to R33): the entries of the stake schedule
(10 R283, R284), the changes that wait for a tick boundary without an open step (10 R285, 14 R404, R412, 15 R430, R431), and
what a step that opens has to wait for.
-/

namespace Sys2Proof.Machine

/-! ### Tick boundaries -/

/-- The package stands at a tick boundary, and its clocks run: the governor's only moments of action (R31, R423). -/
def onBoundary (s : State) : Bool := s.phase == 0 && s.datum.gated.isNone

/-- The package stands at a tick boundary of a running count. -/
def atBoundary (s : State) : Bool := s.phase == 0 && decide (s.datum.state ≠ .unset) && s.datum.gated.isNone

/-- A step of some reach of the parcel is open across the tick boundary of `count`, or stretched past it (R285): it opened
before the boundary and has not ended. -/
def stepSpans (s : State) (p count : Nat) : Bool :=
  (s.parcel p).reaches.any (fun e => match e.2.task.step with
    | some o => o.opening.lt { count := count }
    | none => false)

/-- The steps of a parcel whose closing stakes lie at or before `st` have ended, or are stretched (R32 step 1). -/
def closingsUpTo (s : State) (p : Nat) (st : Stake) : Bool :=
  (s.parcel p).reaches.all (fun e => match e.2.task.step with
    | some o => o.stretched || o.late || !o.closing.le st
    | none => true)

/-- The steps of a parcel whose closing stake has been reached have ended (R32 step 1). -/
def closingsDone (s : State) (p : Nat) : Bool := closingsUpTo s p (s.now p)

/-! ### Changes that wait for a boundary -/

/-- No side-ring or cascade transfer of a cluster is in flight. -/
def clusterQuiet (s : State) (p c : Nat) : Bool :=
  (List.range 8).all (fun i => (s.reach p (8 * c + i)).flights.all (fun f =>
    f.unit != .cascadePort && !(wOp f.job.word == 4 && mvRoute f.job == 6 && field (mvDstV f.job) 19 2 != 0))) &&
  (s.parcel p).sums.all (fun x => clusterOf x.dest != c)

/-- The conditions under which the map changes (R404 step 4): a tick boundary after the host has cleared the fault. -/
def mapMayChange (s : State) (p l : Nat) : Bool :=
  let r := s.reach p l
  s.phase == 0 && r.task.failing && !r.task.fault && !r.task.run && r.idle && !r.task.imgBusy &&
    clusterQuiet s p (clusterOf l)

/-- The clock that the schedule and the caps give (R430). -/
def Power.target (w : Power) : Nat := min w.sched (min w.pwrCap w.thermCap)

/-- A remap or a retirement is due in a parcel (R32 step 2). -/
def remapDue (s : State) (p : Nat) : Bool := (s.parcel p).reaches.any (fun e => mapMayChange s p e.1)

/-- A lock switch-over is due in a parcel (R32 step 3). -/
def lockDue (s : State) (p : Nat) : Bool := onBoundary s && (s.parcel p).bankNew.isSome && !stepSpans s p s.datum.count

/-- A change of clock is due in a parcel, or a lowered cap that leaves it as it is (R32 step 4, R285, R428). -/
def clockDue (s : State) (p : Nat) : Bool :=
  onBoundary s && ((s.parcel p).pwr.target != (s.parcel p).pwr.now || (s.parcel p).pwr.capWait) && !stepSpans s p s.datum.count

/-- A new P_lim is due: no step of any parcel spans the boundary, and nothing of steps 2 and 3 is left to do (R32 step 4,
R431). -/
def limitDue (s : State) : Bool :=
  onBoundary s && s.hub.pwr.limitNew.isSome &&
    (List.range 8).all (fun p => !stepSpans s p s.datum.count && !remapDue s p && !lockDue s p)

/-- What waits for the tick boundary at which the package stands. -/
def boundaryWaits (s : State) (p : Nat) : Bool :=
  onBoundary s && (remapDue s p || lockDue s p || clockDue s p || limitDue s)

/-- A change of clock, of a cap, of rate or of firmware waits for a boundary without an open step (R285, R412, R428, R431). -/
def changeWaits (s : State) (p : Nat) : Bool :=
  let x := s.parcel p
  x.pwr.target != x.pwr.now || x.pwr.capWait || s.hub.pwr.limitNew.isSome || x.bankNew.isSome

/-- A parcel that waits for such a change opens no step (R285); a parcel in QUIESCE opens none either (R375). -/
def opensSteps (s : State) (p : Nat) : Bool := !changeWaits s p && decide ((s.parcel p).state ≠ .quiesce)

/-! ### Schedule entries (R283) -/

/-- STAKE_SCHED[k]. -/
def schedEntry (s : State) (k : Nat) : BitVec 128 := SMap.get 0 s.hub.sched k

/-- Action of an entry. -/
def schAction (e : BitVec 128) : Nat := bvf e 1 3
/-- Parcels of an entry, as a mask. -/
def schParcels (e : BitVec 128) : Nat := bvf e 4 8
/-- Argument of an entry. -/
def schArg (e : BitVec 128) : Nat := bvf e 16 16
/-- Tick of an entry. -/
def schTick (e : BitVec 128) : Nat := bvf e 64 64

/-- An entry is valid and its stake has been reached. -/
def schDue (s : State) (e : BitVec 128) : Bool :=
  bvb e 0 && decide (s.datum.state ≠ .unset) && s.datum.gated.isNone && decide (schTick e ≤ s.datum.count)

/-- The step of R32 in which an entry acts; an entry without an action comes last. -/
def schRank (e : BitVec 128) : Nat :=
  match schAction e with
  | 2 => 3
  | 1 => 4
  | 4 => 4
  | 3 => 6
  | _ => 7

/-- Entry `a` acts before entry `b`, each with its number: by stake, by the step of R32, then by number (R283). -/
def schBefore (a b : Nat × BitVec 128) : Bool :=
  decide (schTick a.2 < schTick b.2) || (schTick a.2 == schTick b.2 &&
    (decide (schRank a.2 < schRank b.2) || (schRank a.2 == schRank b.2 && decide (a.1 < b.1))))

/-- It is the turn of entry `k`: it is due, at a tick boundary, and no entry before it is due. -/
def schTurn (s : State) (k : Nat) : Bool :=
  onBoundary s && schDue s (schedEntry s k) &&
    s.hub.sched.all (fun a => !(schDue s a.2 && schBefore a (k, schedEntry s k)))

/-- An action of step 5 or 6 of R32 bound to `st` waits for a due schedule entry that names the parcel, or for a snapshot that
has been asked for. -/
def schedHolds (s : State) (p : Nat) (st : Stake) : Bool :=
  s.hub.sched.any (fun e => schDue s e.2 && Stake.le { count := schTick e.2 } st && (schAction e.2 == 4 ||
    ((schParcels e.2).testBit p && (schAction e.2 == 1 || schAction e.2 == 2 || schAction e.2 == 3)))) ||
  ((s.parcel p).mon.snapDue && onBoundary s && Stake.le { count := s.datum.count } st)

/-- Steps 1 to 4 of R32 at the stakes up to `st` are done in a parcel. -/
def stakeClear (s : State) (p : Nat) (st : Stake) : Bool :=
  closingsUpTo s p st && !(boundaryWaits s p && Stake.le { count := s.datum.count } st) && !schedHolds s p st

/-- A step bound to `st` may open now (R32, R285). -/
def stepMayOpen (s : State) (p : Nat) (st : Stake) : Bool := opensSteps s p && stakeClear s p st

end Sys2Proof.Machine
end

