-- ==== Sys2Proof/Machine/Sequencer.lean ====
section
/-!
DEFINITION. The instructions of the tally and of the sequencer (06 R182 to R187): TALY, STAK, FENC, SYNC, SCL, BRC and
HALT, with the barriers of a cluster and of a parcel.
-/

namespace Sys2Proof.Machine

/-! ### TALY (R182) -/

/-- Opcode, and the variant in a field, of an instruction. -/
def isOp (op lo n : Nat) (ok : Nat → Bool) (w : BitVec 128) : Bool := wOp w == op && ok (bvf w lo n)

/-- A flight's status. -/
def flightStatus (s : State) (p l no st : Nat) : State := updFlight s p l no (fun f => { f with status := st })

/-- Plan of a TALY: the scalars it reads; its result is written like a status (R166). -/
def talyPlan (reads : List Nat) (j : Job) : Plan :=
  { reads := reads, unit := .tally, wr := { scalars := scalarBit (j.f 28 5) },
    checks := [failIllegal j (j.f 26 2 == 3) 26] }

/-- TALLY[k] of the cluster of a reach. -/
def tallyOf (s : State) (p l k : Nat) : Word := SMap.get 0 (s.cluster p (clusterOf l)).tally k

/-- Set TALLY[k]. -/
def setTally (s : State) (p l k : Nat) (w : Word) : State :=
  s.updCluster p (clusterOf l) (fun c => { c with tally := SMap.put c.tally k w })

/-- The cycle test of a claim (R128): outside a step it passes, in a stretch it fails, else the count of cycles ends no
later than the closing stake. -/
def claimFits (s : State) (p l cc : Nat) : Bool :=
  match (s.reach p l).task.step with
  | none => true
  | some o => !o.stretched && ((s.now p).plus cc (s.nc p)).le o.closing

/-- A tally claim. -/
def runClaim (p l : Nat) (s : State) (j : Job) (no : Nat) : State :=
  let k := j.f 24 2
  let w := tallyOf s p l k
  if bvf w 0 32 < bvf w 32 32 && claimFits s p l (j.sv 33) then
    bumpCcnt (setScalar (setTally s p l k (putField w 0 32 (bvf w 0 32 + 1))) p l (j.f 28 5)
      (BitVec.ofNat 64 (bvf w 0 32))) p (clusterOf l) 6 1
  else
    bumpCcnt (flightStatus (setScalar s p l (j.f 28 5) 0xFFFFFFFFFFFFFFFF#64) p l no 4) p (clusterOf l) 7 1

/-- A tally set: the new value and limit; what its result register takes is not stated, a free value (log 25). -/
def runTalySet (p l : Nat) (s : State) (j : Job) (_no : Nat) : State :=
  let s1 := setTally s p l (j.f 24 2) (BitVec.ofNat 64 (j.sv 33 % 2 ^ 32 + j.sv 38 % 2 ^ 32 * 2 ^ 32))
  (setScalar s1 p l (j.f 28 5) (BitVec.ofNat 64 s.freeValue)).useFree

/-- A tally read. -/
def runTalyRead (p l : Nat) (s : State) (j : Job) (_no : Nat) : State :=
  setScalar s p l (j.f 28 5) (tallyOf s p l (j.f 24 2))

/-- TALY claim (R182). -/
def execTalyClaim (p : ParcelId) (l : ReachId) (s : State) : Out :=
  .next (issueUnit s p l (isOp 9 26 2 (fun v => v == 0 || v == 3)) (fun j => talyPlan [j.f 33 5] j) (runClaim p l))

/-- TALY set (R182). -/
def execTalySet (p : ParcelId) (l : ReachId) (s : State) : Out :=
  .next (issueUnit s p l (isOp 9 26 2 (fun v => v == 1)) (fun j => talyPlan [j.f 33 5, j.f 38 5] j) (runTalySet p l))

/-- TALY read (R182). -/
def execTalyRead (p : ParcelId) (l : ReachId) (s : State) : Out :=
  .next (issueUnit s p l (isOp 9 26 2 (fun v => v == 2)) (talyPlan []) (runTalyRead p l))

/-! ### STAK (R183, R270, R275) -/

/-- The stake that a STAK names. -/
def stakStake (j : Job) : Stake := { count := j.sv 27, off := field (j.sv 32) 0 13 }

/-- Whether a forward jump skipped the tick of a stake (R273). -/
def wasSkipped (s : State) (st : Stake) : Bool := s.datum.skipped.any (fun r => r.1 ≤ st.count && st.count < r.2)

/-- The step that has just been left: its closing stake, when the STAK comes to issue as its handling ends (R275). -/
def leftAt (t : Task) (st : Stake) : Bool :=
  match t.left with
  | some c => t.atOnce && c.le st
  | none => false

/-- A STEP's stake lies before the closing stake of the open step, or of the step that a scan has just left. -/
def beforeClosing (t : Task) (st : Stake) : Bool :=
  (match t.step with | some o => st.lt o.closing | none => false) ||
  (match t.left with | some c => st.lt c | none => false)

/-- The reason of STAKE_PAST, if any (R275). -/
def pastReason (s : State) (p l : Nat) (st : Stake) (isStep : Bool) : Option Nat :=
  let t := (s.reach p l).task
  if leftAt t st || wasSkipped s st then none
  else if st.le (s.now p) then some 0
  else if isStep && beforeClosing t st then some 1
  else none

/-- Payload of STAKE_PAST (R286, R391); `who` is the reach, or 0xFF for the hub. -/
def pastPayload (who : Nat) (st now : Stake) (reason : Nat) : List Byte :=
  packFields [(1, who), (8, st.count), (2, st.off), (8, now.count), (2, now.off), (1, reason)] []

/-- The step is stretched and the stake lies at or after its closing stake: the STAK holds until the work finishes
(R279). -/
def stretchHolds (t : Task) (st : Stake) : Bool :=
  match t.step with
  | some o => o.stretched && o.closing.le st
  | none => false

/-- The STAKE_PAST check. -/
def failPast (s : State) (p l : Nat) (j : Job) (isStep : Bool) : Option Fail :=
  let st := stakStake j
  if stretchHolds (s.reach p l).task st then none
  else match pastReason s p l st isStep with
    | some r => mkFail evStakePast 0 (pastPayload l st (s.now p) r)
    | none => none

/-- The checks of a STAK: a reserved kind, an offset beyond the tick, the stake. -/
def stakChecks (s : State) (p l : Nat) (isStep : Bool) (j : Job) : List (Option Fail) :=
  [failIllegal j (decide (2 < j.f 24 3)) 24, failIllegal j (decide (s.nc p ≤ (stakStake j).off)) 0xFFFF,
   failPast s p l j isStep]

/-- The head holds issue for a stake (R183). -/
def holdStake (s : State) (p l : Nat) (st : Stake) (isStep : Bool) : State :=
  s.updTask p l (fun t => { t with wait := .stake st isStep })

/-- A STAK at the head with its scalars ready (R275): its checks are made now, and `act` follows. -/
def issueStak (s0 : State) (p l : Nat) (sel : BitVec 128 → Bool) (isStep : Bool) (reads : Job → List Nat)
    (act : State → Job → State) : State :=
  let j := headJob s0 p l
  if !(canIssue s0 p l && sel j.word) then s0
  else if !scalarsReady (s0.reach p l) (reads j) then s0
  else
    let pl : Plan := { reads := reads j }
    let s := meetWords (fetchMeet s0 p l) p l j pl
    match firstFail (failFetch s p l :: failWord s p l j pl :: armFail s p l j {} :: stakChecks s p l isStep j) with
    | some f => failIssue s p l j f
    | none => act s j

/-- Budget of parcel `p` in mW (R424). -/
def budget (s : State) (p : Nat) : Nat :=
  let ws := (List.range 8).map (fun q => (s.parcel q).pwr.weight.toNat)
  let total := ws.foldl (· + ·) 0
  if total = 0 then 0 else 1000 * (s.hub.pwr.limit.toNat - 120) * (s.parcel p).pwr.weight.toNat / total

/-- Rate of a step in mW (R425). -/
def stepRate (alw len nc tickNs : Nat) : Nat :=
  if alw = 0 || len = 0 then 0 else min (ceilDiv (1000000 * alw * nc) (len * tickNs)) (2 ^ 32 - 1)

/-- The ledger of parcel `p` in mW (R425). -/
def ledger (s : State) (p : Nat) : Nat :=
  1000 * (s.parcel p).pwr.floor.toNat +
  ((s.parcel p).reaches.map (fun x => match x.2.task.step with | some o => o.rate | none => 0)).foldl (· + ·) 0

/-- Whether a parcel is held (R432, R434). -/
def Power.held (w : Power) : Bool := w.heldPower || w.heldHeat

/-- The reason of a denial (R426). -/
def denial (s : State) (p rate len : Nat) : Option Nat :=
  if budget s p < ledger s p + rate then some 0
  else if s.nc p * (8000000 / s.tickNs) < len then some 1
  else if (s.parcel p).pwr.held then some 2
  else none

/-- HALT stops issue, lets every issued instruction complete and sets halt (R187). -/
def haltTask (s : State) (p l : Nat) : State :=
  finishStop ((withdrawHead s p l).updTask p l (fun t => { t with stopHalt := true })) p l

/-- The HALT at the head issues. -/
def doHalt (s : State) (p l : Nat) (j : Job) : State :=
  let (s1, tag) := advance s p l j 0 (j.pc.toNat + 16)
  haltTask (sampleEnd (writeStatus s1 p l j 0) p l j 0 tag) p l

/-- Where a scan stops (R280). -/
inductive ScanEnd where
  | stak (pc : Nat)
  | halt (pc : Nat)
  | bound (pc : Nat)
deriving DecidableEq, Repr

/-- The word at `pc` is a BRC with cond HALT. -/
def isHalt (w : BitVec 128) : Bool := wOp w == 14 && bvf w 24 3 == 7

/-- The word is a STAK STEP, or a STAK WAIT whose stake is at or after the closing stake (R277, R280). -/
def isNextStak (r : Reach) (closing : Stake) (w : BitVec 128) : Bool :=
  wOp w == 10 && (bvf w 24 3 == 1 || (bvf w 24 3 == 0 &&
    closing.le { count := (r.scalar (bvf w 27 5)).toNat, off := field (r.scalar (bvf w 32 5)).toNat 0 13 }))

/-- The scan from `pc` (R280): nothing is executed, a BRC is not taken. -/
def scanFrom (r : Reach) (closing : Stake) : Nat → Nat → ScanEnd
  | 0, pc => .bound pc
  | n + 1, pc =>
    let w := fetchWord r pc
    if Config.imemSize ≤ pc then .bound pc
    else if isNextStak r closing w then .stak pc
    else if isHalt w then .halt pc
    else scanFrom r closing n (pc + 16)

/-- The sequencer scans forward to the next STAK, a HALT or the end of IMEM (R280, R281); a STAK comes to issue once the
reach is idle. -/
def scanTask (s : State) (p l : Nat) (closing : Stake) : State :=
  let r := s.reach p l
  if !r.task.issuing then s
  else
    let goto (pc : Nat) : State := s.updTask p l (fun t => { t with
      pc := BitVec.ofNat 32 pc, left := some closing, atOnce := true, arm := none,
      wait := if r.flights.isEmpty then .none else .scan })
    match scanFrom r closing 1025 r.task.pc.toNat with
    | .stak pc => goto pc
    | .halt pc =>
      let s1 := (goto pc).updTask p l (fun t => { t with wait := .none })
      doHalt s1 p l (headJob s1 p l)
    | .bound pc => fetchCheck ((goto pc).updTask p l (fun t => { t with wait := .none })) p l

/-- The STEP at the head reaches its stake (R276, R281, R426): its allowance is admitted and the step opens, or it is
denied and the sequencer scans forward. -/
def openStep (s : State) (p l : Nat) (st : Stake) : State :=
  let j := headJob s p l
  let alw := j.sv 37
  let len := j.sv 42
  let rate := stepRate alw len (s.nc p) s.tickNs
  let closing := st.plus len (s.nc p)
  match denial s p rate len with
  | some reason =>
    let s1 := raise s (srcReach p l) evAllowanceDenied (packFields [(8, st.count), (2, st.off), (8, alw), (4, rate),
      (4, ledger s p), (4, budget s p), (1, reason)] [])
    scanTask (headDone (bumpPcnt s1 p 16 1) p l j 5) p l closing
  | none =>
    let s1 := (bumpPcnt s p 15 1).updTask p l (fun t => { t with
      step := some { opening := st, closing := closing, abort := j.f 47 1 == 1, alw := alw, rate := rate } })
    headDone s1 p l j 0

/-- A failing reach, or a reach under quiesce, stops at the STAK that would open its next step (R375, R404). -/
def stopAtStep (s : State) (p l : Nat) : Option State :=
  if (s.reach p l).task.failing then some (failingStop s p l)
  else if (s.parcel p).state = .quiesce then some (stopRun s p l)
  else none

/-- The STAK at the head is held by the scoreboard, by the limit of 16 or by strict issue (R162, R164, R167). -/
def stakHeld (s : State) (p l : Nat) : Bool := held s p l (headJob s p l) {}

/-- STAK WAIT (R183). A stake that R275 lets pass issues at once, unless the STAK is held. -/
def execStakWait (p : ParcelId) (l : ReachId) (s : State) : Out :=
  .next (issueStak s p l (isOp 10 24 3 (fun v => v == 0 || decide (2 < v))) false (fun j => [j.f 27 5, j.f 32 5])
    (fun s j => if s.datum.state ≠ .unset && (stakStake j).le (s.now p) && !stretchHolds (s.reach p l).task (stakStake j) &&
        !stakHeld s p l
      then headDone s p l j 0 else holdStake s p l (stakStake j) false))

/-- STAK STEP (R183). -/
def execStakStep (p : ParcelId) (l : ReachId) (s : State) : Out :=
  .next (issueStak s p l (isOp 10 24 3 (fun v => v == 1)) true (fun j => [j.f 27 5, j.f 32 5, j.f 37 5, j.f 42 5])
    (fun s j =>
      if stretchHolds (s.reach p l).task (stakStake j) then holdStake s p l (stakStake j) true
      else match stopAtStep s p l with
        | some s1 => s1
        | none =>
          if s.datum.state ≠ .unset && (stakStake j).le (s.now p) && stepMayOpen s p (stakStake j) &&
              decide ((s.reach p l).task.step = none) && !stakHeld s p l
          then openStep s p l (stakStake j) else holdStake s p l (stakStake j) true))

/-- STAK ARM (R183): the next instruction may enter its queue at once and starts at the stake. -/
def execStakArm (p : ParcelId) (l : ReachId) (s : State) : Out :=
  .next (issueStak s p l (isOp 10 24 3 (fun v => v == 2)) false (fun j => [j.f 27 5, j.f 32 5])
    (fun s j =>
      if s.datum.state = .unset then s.updTask p l (fun t => { t with wait := .unset })
      else if held s p l j {} then s
      else
        let s1 := headDone s p l j 0
        s1.updTask p l (fun t => { t with arm := if t.issuing then some (stakStake j) else t.arm })))

/-! ### FENC (R184, R357) -/

/-- Plan of an instruction of the sequencer that uses no operand. -/
def seqPlan (checks : Job → List (Option Fail)) (j : Job) : Plan := { checks := checks j }

/-- A FENC issues and holds every later instruction until everything older has completed. The writes of a completed MOVE are
posted (R356), so acq and rel wait alike. -/
def runFence (p l : Nat) (s : State) (j : Job) : State :=
  if (s.reach p l).flights.isEmpty then headDone (fenceEffect s p l j) p l j 0
  else (enterUnit s p l j {} .none).1.updTask p l (fun t => { t with wait := .fence })

/-- Issue of a FENC. -/
def issueFence (s : State) (p l : Nat) (ok : Nat → Bool) : State :=
  issueSeq s p l (isOp 11 24 2 ok) (seqPlan (fun j => [failIllegal j (j.f 24 2 == 3) 24])) (runFence p l)

/-- FENC.acq (R184, R357); the reserved kind is refused here. -/
def execFencAcq (p : ParcelId) (l : ReachId) (s : State) : Out :=
  .next (issueFence s p l (fun v => v == 0 || v == 3))

/-- FENC.rel (R184, R357). -/
def execFencRel (p : ParcelId) (l : ReachId) (s : State) : Out := .next (issueFence s p l (fun v => v == 1))

/-- FENC.full (R184, R357). -/
def execFencFull (p : ParcelId) (l : ReachId) (s : State) : Out := .next (issueFence s p l (fun v => v == 2))

/-! ### SYNC and the barriers (R185) -/

/-- A barrier's round completes. -/
def Barrier.complete (b : Barrier) : Barrier := { b with arrived := 0, round := !b.round, waiting := [] }

/-- Waiting reaches resume, in ascending order. -/
def resume (s : State) (p : Nat) (ls : List Nat) : State := ls.foldl (fun s l => headDone s p l (headJob s p l) 0) s

/-- Cluster barrier `k`. -/
def clusterBar (s : State) (p c k : Nat) : Barrier := SMap.get {} (s.cluster p c).bar k

/-- Replace cluster barrier `k`. -/
def setClusterBar (s : State) (p c k : Nat) (b : Barrier) : State :=
  s.updCluster p c (fun x => { x with bar := SMap.put x.bar k b })

/-- Parcel barrier `k`. -/
def parcelBar (s : State) (p k : Nat) : Barrier := SMap.get {} (s.parcel p).bar k

/-- Replace parcel barrier `k`. -/
def setParcelBar (s : State) (p k : Nat) (b : Barrier) : State :=
  s.updParcel p (fun x => { x with bar := SMap.put x.bar k b })

/-- A round of cluster barrier `k` completes: CCNT[11] counts it and every waiting reach resumes. -/
def clusterRound (s : State) (p c k : Nat) : State :=
  let b := clusterBar s p c k
  resume (bumpCcnt (setClusterBar s p c k b.complete) p c 11 1) p b.waiting

/-- A round of parcel barrier `k` completes: INT_STAT.bar rises where INT_BAR selects it (R345). -/
def parcelRound (s : State) (p k : Nat) : State :=
  let b := parcelBar s p k
  let s1 := setParcelBar s p k b.complete
  resume (if bvb (s.parcel p).mon.intBar k then setInt s1 p 1 else s1) p b.waiting

/-- One arrival at a barrier. -/
def Barrier.arrive (b : Barrier) : Barrier := { b with arrived := b.arrived + 1 }

/-- Whether the round is complete with the arrivals there are. -/
def Barrier.full (b : Barrier) : Bool := b.members.toNat ≤ b.arrived.toNat

/-- One arrival at cluster barrier `k`. -/
def clusterArrive (s : State) (p c k : Nat) : State :=
  let b := (clusterBar s p c k).arrive
  let s1 := setClusterBar s p c k b
  if b.full then clusterRound s1 p c k else s1

/-- One arrival at parcel barrier `k`; with members 0 nothing waits and nothing is counted. -/
def parcelArrive (s : State) (p k : Nat) : State :=
  if (parcelBar s p k).members = 0 then s
  else
    let b := (parcelBar s p k).arrive
    let s1 := setParcelBar s p k b
    if b.full then parcelRound s1 p k else s1

/-- A SYNC waits at a cluster barrier, or completes at once when members is 0. -/
def runClusterSync (p l : Nat) (s : State) (j : Job) : State :=
  let k := j.f 26 4
  let c := clusterOf l
  let b := clusterBar s p c k
  if b.members = 0 then headDone s p l j 0
  else
    let s1 := (setClusterBar s p c k { b with waiting := setInsert b.waiting l }).updTask p l
      (fun t => { t with wait := .clusterBar k })
    clusterArrive s1 p c k

/-- A SYNC waits at a parcel barrier, or completes at once when members is 0. -/
def runParcelSync (p l : Nat) (s : State) (j : Job) : State :=
  let k := j.f 26 4
  let b := parcelBar s p k
  if b.members = 0 then headDone s p l j 0
  else
    let s1 := (setParcelBar s p k { b with waiting := setInsert b.waiting l }).updTask p l
      (fun t => { t with wait := .parcelBar k })
    parcelArrive s1 p k

/-- A SYNC local completes once nothing older is in flight. -/
def runLocalSync (p l : Nat) (s : State) (j : Job) : State :=
  if (s.reach p l).flights.isEmpty then headDone s p l j 0
  else s.updTask p l (fun t => { t with wait := .syncLocal })

/-- Issue of a SYNC. The writes before a FENC.rel are visible before its arrival (R358). -/
def issueSync (s : State) (p l : Nat) (ok : Nat → Bool) (act : State → Job → State) : State :=
  issueSeq s p l (isOp 12 24 2 ok) (seqPlan (fun j => [failIllegal j (j.f 24 2 == 3) 24]))
    (fun s j => act (drainFenced s p l {}) j)

/-- SYNC local (R185); the reserved scope is refused here. -/
def execSyncLocal (p : ParcelId) (l : ReachId) (s : State) : Out :=
  .next (issueSync s p l (fun v => v == 0 || v == 3) (runLocalSync p l))

/-- SYNC at a cluster barrier (R185). -/
def execSyncClusterBarrier (p : ParcelId) (l : ReachId) (s : State) : Out :=
  .next (issueSync s p l (fun v => v == 1) (runClusterSync p l))

/-- SYNC at a parcel barrier (R185). -/
def execSyncParcelBarrier (p : ParcelId) (l : ReachId) (s : State) : Out :=
  .next (issueSync s p l (fun v => v == 2) (runParcelSync p l))

/-- A write of members: at or below the arrivals it completes the round. -/
def Barrier.setMembers (b : Barrier) (m : Nat) : Barrier := { b with members := BitVec.ofNat 8 m }

/-! ### SCL (R186) -/

/-- The functions of A and B; none for those that read the datum and for reserved values. -/
def sclFn (fn : Nat) (a b : Word) : Option Word :=
  match fn with
  | 0 => some (a + b)
  | 1 => some (a - b)
  | 2 => some (a &&& b)
  | 3 => some (a ||| b)
  | 4 => some (a ^^^ b)
  | 5 => some (a <<< (bvf b 0 6))
  | 6 => some (a >>> (bvf b 0 6))
  | 7 => some (a.sshiftRight (bvf b 0 6))
  | 8 => some (a * b)
  | 9 => some (if a.slt b then a else b)
  | 10 => some (if a.slt b then b else a)
  | 11 => some (if a.slt b then 1 else 0)
  | 12 => some (if a.ult b then 1 else 0)
  | 13 => some b
  | _ => none

/-- The result of an SCL. -/
def sclResult (s : State) (p : Nat) (j : Job) : Word :=
  let b := if j.f 44 1 = 1 then BitVec.ofNat 64 (j.f 64 64) else j.scalar (j.f 39 5)
  match sclFn (j.f 24 5) (j.scalar (j.f 34 5)) b with
  | some v => v
  | none => if j.f 24 5 = 14 then BitVec.ofNat 64 s.datum.count else BitVec.ofNat 64 (s.offset p)

/-- Scalars that an SCL reads. -/
def sclReads (j : Job) : List Nat :=
  if 14 ≤ j.f 24 5 then []
  else (if j.f 24 5 = 13 then [] else [j.f 34 5]) ++ (if j.f 44 1 = 1 then [] else [j.f 39 5])

/-- Plan of an SCL. -/
def sclPlan (j : Job) : Plan :=
  { reads := sclReads j, wr := { scalars := scalarBit (j.f 29 5) }, checks := [failIllegal j (decide (15 < j.f 24 5)) 24] }

/-- SCL (R186): the result into dst, then the status into sd. -/
def execScl (p : ParcelId) (l : ReachId) (s : State) : Out :=
  .next (issueSeq s p l (fun w => wOp w == 13) sclPlan
    (fun s j => headDone (setScalar s p l (j.f 29 5) (sclResult s p j)) p l j 0))

/-! ### What a CSR reads and writes (R188) -/

/-- Direction of a CSR: a write. -/
def csrDir (j : Job) : Bool := bvb j.word 24

/-- Register number of a CSR. -/
def csrNo (j : Job) : Nat := j.f 32 16

/-- The scalar that a CSR reads, or writes. -/
def csrSets (j : Job) : Plan :=
  { reads := if csrDir j then [j.f 25 5] else [], wr := { scalars := if csrDir j then 0 else scalarBit (j.f 25 5) } }

/-! ### BRC (R187) -/

/-- Whether the condition of a BRC holds. -/
def brcTaken (j : Job) : Bool :=
  let a := j.scalar (j.f 27 5)
  let b := j.scalar (j.f 32 5)
  match j.f 24 3 with
  | 0 => true
  | 1 => a == b
  | 2 => a != b
  | 3 => a.slt b
  | 4 => !a.slt b
  | 5 => a.ult b
  | 6 => !a.ult b
  | _ => false

/-- The target of a taken branch. -/
def brcTarget (j : Job) : Int := (j.pc.toNat : Int) + 16 * signed 32 (j.f 64 32)

/-- A taken branch leaves IMEM. -/
def brcOutside (j : Job) : Bool :=
  brcTaken j && (decide (brcTarget j < 0) || decide ((Config.imemSize : Int) ≤ brcTarget j))

/-- Plan of a BRC. -/
def brcPlan (p l : Nat) (j : Job) : Plan :=
  { reads := if j.f 24 3 = 0 then [] else [j.f 27 5, j.f 32 5],
    checks := [failAddress p l j (brcOutside j) 0xFF 3 (unsignedBits 64 (brcTarget j)) (unsignedBits 64 (brcTarget j))
      Config.imemSize] }

/-- BRC (R187). -/
def execBrc (p : ParcelId) (l : ReachId) (s : State) : Out :=
  .next (issueSeq s p l (isOp 14 24 3 (fun v => v != 7)) (brcPlan p l)
    (fun s j => headDoneAt s p l j 0 (if brcTaken j then (brcTarget j).toNat else j.pc.toNat + 16)))

/-- BRC with cond HALT (R187). -/
def execBrcHalt (p : ParcelId) (l : ReachId) (s : State) : Out :=
  .next (issueSeq s p l (isOp 14 24 3 (fun v => v == 7)) (fun _ => {}) (fun s j => doHalt s p l j))

end Sys2Proof.Machine
end

