-- ==== Sys2Proof/Machine/Cycle.lean ====
section
/-!
DEFINITION. What passes with time: one cycle of the nominal clock (log 3), and the cycle counters that follow it
(16 R440 to R443).
-/

namespace Sys2Proof.Machine

/-! ### What holds the head (R441) -/

/-- What issue needs to know of the instruction at the head, whatever it is. -/
def headPlan (s : State) (p l : Nat) (j : Job) : Plan :=
  match wOp j.word with
  | 0 => matPlan s p l j
  | 1 => if bvb j.word 24 then lookPlan s p l j else buildPlan s p l j
  | 2 => riflPlan s p l j
  | 3 => dltPlan s p l j
  | 4 => mvPlan s p l j
  | 5 => gsPlan s p l j
  | 6 => gsPlan s p l j
  | 7 => cascPlan l j
  | 8 => confPlan s p l j
  | 9 => talyPlan (if j.f 26 2 == 2 then [] else if j.f 26 2 == 1 then [j.f 33 5, j.f 38 5] else [j.f 33 5]) j
  | 10 => { reads := if j.f 24 3 == 1 then [j.f 27 5, j.f 32 5, j.f 37 5, j.f 42 5] else [j.f 27 5, j.f 32 5] }
  | 13 => sclPlan j
  | 14 => brcPlan p l j
  | 15 => csrSets j
  | _ => {}

/-- The counter of a reach that a held cc counts in while the head waits (R441): 8 at a STAK, 9 at a SYNC, 10 at a look. -/
def waitCounter : Wait → Option Nat
  | .stake _ _ => some 8
  | .unset => some 8
  | .syncLocal => some 9
  | .clusterBar _ => some 9
  | .parcelBar _ => some 9
  | .look => some 10
  | .none => none
  | .fence => none
  | .scan => none

/-- The counter that a cc of a waiting or held head counts in: hazard, then queue, then stake or barrier. A cc in which the
head waits only for its scalars, or for a strict order, counts in none. -/
def heldCounter (s : State) (p l : Nat) : Option Nat :=
  let r := s.reach p l
  let j := headJob s p l
  let pl := headPlan s p l j
  let waits := waitCounter r.task.wait
  if !(canIssue s p l || waits == some 8) || !scalarsReady r pl.reads then waits
  else if r.flights.any (fun f => hazard f pl.unit pl.rd (pl.wrAll j)) then some 6
  else if (match queueDepth pl.unit with
      | some d => decide (d ≤ (r.flights.filter (fun f => f.unit == pl.unit)).length)
      | none => false) || decide (16 ≤ r.flights.length) then some 7
  else waits

/-! ### Counters -/

/-- A reach begins a cc: nothing has counted in it yet (R440). -/
def Reach.newCc (r : Reach) : Reach := { r with cntOld := r.cnt, cntInc := [] }

/-- The counters of a reach after `n` cc in which the head counted in `held`. -/
def Reach.counted (r : Reach) (held : Option Nat) (n : Nat) : SMap Word :=
  let waits (w : Await) : Nat := if r.flights.any (fun f => decide (f.wait = w)) then n else 0
  let c0 := cntBump r.cnt 0 (if r.task.run then n else 0)
  let c1 := cntBump c0 5 (if r.flights.any (fun f => f.unit == .array) then 0 else n)
  let c2 := match held with
    | some k => cntBump c1 k n
    | none => c1
  cntBump (cntBump c2 11 (waits .build)) 12 (waits .msgId)

/-- `n` cc of the parcel's clock pass in a reach. -/
def Reach.pass (r : Reach) (frozen : Bool) (held : Option Nat) (n : Nat) : Reach :=
  Reach.newCc { r with
    cnt := if frozen then r.cnt else r.counted held n
    task := if r.task.run then { r.task with headCc := r.task.headCc + n } else r.task }

/-- The riffle of a cluster holds a vector while an instruction of one of its reaches runs there (R442; log 13). -/
def riffleBusy (x : Parcel) (c : Nat) : Bool :=
  x.reaches.any (fun e => clusterOf e.1 == c && e.2.flights.any (fun f => f.unit == .riffle))

/-- `n` cc pass in a cluster. -/
def Cluster.pass (c : Cluster) (count : Bool) (n : Nat) : Cluster :=
  let m := if count then cntBump c.cnt 5 n else c.cnt
  { c with cnt := m, cntOld := m, cntInc := [] }

/-- `n` cc pass in the monitors of a parcel. -/
def Monitors.pass (m : Monitors) (n : Nat) : Monitors :=
  let c := if m.frozen then m.cnt else cntBump m.cnt 0 n
  { m with cnt := c, cntOld := c, cntInc := [], bwInc := [] }

/-- Every part of number 0 to `k - 1` goes by `f`, listed or not; `d` is one that is not listed. -/
def passMap {α : Type} (d : α) (k : Nat) (m : SMap α) (f : Nat → α → α) : SMap α :=
  (List.range k).map (fun i => (i, f i (SMap.get d m i))) ++ m.filter (fun e => decide (k ≤ e.1))

/-- `n` cc pass in a parcel that is powered; `held` tells the counter of each head. -/
def Parcel.pass (x : Parcel) (held : Nat → Option Nat) (n : Nat) : Parcel :=
  if n = 0 || decide (x.state = .off) then x
  else
    { x with
      cyc := x.cyc + n
      reaches := passMap {} 128 x.reaches (fun l r => r.pass x.mon.frozen (held l) n)
      clusters := passMap {} 16 x.clusters (fun c y => y.pass (riffleBusy x c && !x.mon.frozen) n)
      mon := x.mon.pass n }

/-! ### Time -/

/-- Cycles of a clock of `nc` cycles per tick that have passed at a phase of the nominal clock of `nm`. -/
def cyclesAt (phase nc nm : Nat) : Nat := if nm = 0 then 0 else phase * nc / nm

/-- The nominal clock goes from the phase of `s` to `phase` within the tick: every parcel's cycles pass, posted writes become
visible (R356), the cycle in which the hardware set its bits is over (R14), and errors come to stand in memory cells
(log 101). -/
def passTo (s0 : State) (phase : Nat) : State :=
  let s := (Config.upsets (s0.wall + (phase - s0.phase))).foldl plant (drainIf s0 (fun _ => true))
  let run (x : Parcel) : Nat := cyclesAt phase (ncOf x.pwr.now s.datum.tick.toNat) s.nMax -
    cyclesAt s.phase (ncOf x.pwr.now s.datum.tick.toNat) s.nMax
  { s with
    phase := phase, wall := s.wall + (phase - s.phase), hwSet := []
    parcels := if s.datum.gated.isSome then s.parcels
      else s.parcels.map (fun e => (e.1, e.2.pass (heldCounter s e.1) (run e.2))) }

/-- One cycle of the nominal clock passes; the last cycle of a tick lasts until the tick boundary (log 3). -/
def cycle (s : State) : State :=
  if s.phase + 1 < s.nMax then passTo s (s.phase + 1)
  else { drainIf s (fun _ => true) with wall := s.wall + 1 }

end Sys2Proof.Machine
end

