-- ==== Sys2Proof/Machine/Book.lean ====
section
/-!
DEFINITION. The field book (14 R390 to R400): the record, the arbiter's choice, the two copies, floods, last-gasp mode and
notices.
-/

namespace Sys2Proof.Machine

/-! ### Records (R390) -/

/-- A record as its 64 bytes: header, mark, sequence number, CRC, payload. -/
def recordBytes (e : Event) (seq : Nat) (mark : Byte) : List Byte :=
  let head := leBytes 8 e.count ++ leBytes 2 e.off ++ leBytes 2 e.code ++ leBytes 2 e.source ++ [0]
  let body := (padTo 40 e.payload).take 40
  let crc := crc16 (head ++ leBytes 4 seq ++ body)
  head ++ [mark] ++ leBytes 4 seq ++ leBytes 2 crc.toNat ++ [0, 0] ++ body

/-- A record as a word of 64 bytes. -/
def recordWord (e : Event) (seq : Nat) (mark : Byte) : BitVec 512 := BitVec.ofNat 512 (leVal (recordBytes e seq mark))

/-- The class of a record: bits [15:12] of its code. -/
def recordClass (r : BitVec 512) : Nat := bvf r 92 4

/-! ### Notices (R364, R397, R400) -/

/-- A notice with one record. -/
def noticeMsg (r : BitVec 512) : Msg :=
  { ver := 1, kind := 4, role := 0, status := 0, seq := 0, index := 0x5000, sub := 0, flags := 0, offset := 0, rsv := 0,
    data := leBytes 64 r.toNat, tag := 0 }

/-- The I3C queue keeps eight outputs: the oldest notice makes room, a response is never discarded (R367). -/
def i3cKeep (out : List Msg) : List Msg :=
  if out.length ≤ 8 then out else
    match out.findIdx? (fun m => m.kind == 4) with
    | some i => listRemove out i
    | none => out

/-- The target raises an In-Band Interrupt with its mandatory byte where one is enabled and an output is pending (R367). -/
def Dict.ibi (d : Dict) : Dict := if d.ibiEn && !d.i3cOut.isEmpty then { d with ibis := 0x5A :: d.ibis } else d

/-- A response or a notice waits at the I3C target (R367). -/
def i3cPush (s : State) (m : Msg) : State := s.updDict (fun d => Dict.ibi { d with i3cOut := i3cKeep (d.i3cOut ++ [m]) })

/-- The EtherType of the dictionary's frames, and the broadcast address (R362). -/
def dictEtherType : BitVec 16 := 0x88B5
def broadcast : BitVec 48 := 0xFFFFFFFFFFFF

/-- A frame that a port sends. -/
def sentFrame (own dst : BitVec 48) : Frame := { dst := dst, src := own, etype := dictEtherType, fcs := true }

/-- A notice leaves on both segments, to the broadcast address, and waits at the I3C target. -/
def sendNotice (s : State) (r : BitVec 512) : State :=
  let m := noticeMsg r
  i3cPush (s.updDict (fun d => { d with
    chainOut := (.chainB (sentFrame d.macB broadcast), m) :: (.chainA (sentFrame d.macA broadcast), m) :: d.chainOut })) m

/-- The 1 ms after a notice of a class has passed (R400). -/
def classFree (s : State) (c : Nat) : Bool :=
  match SMap.find s.book.classAt c with
  | some t => decide (t + 1500000 ≤ s.wall)
  | none => true

/-- A record of a selected class is sent as a notice, at most one of a class in 1 ms. -/
def classNotice (s : State) (r : BitVec 512) : State :=
  let c := recordClass r
  if bvb s.book.notice c && classFree s c then
    sendNotice { s with book := { s.book with classAt := SMap.put s.book.classAt c s.wall } } r
  else s

/-- The notice of a record just written: every one in last-gasp mode; while the surveyor restarts it waits (R413), unless the
record falls within 1 ms of a notice of its class, which is never followed by its own (R400). -/
def noticeOf (s : State) (lg : Bool) (r : BitVec 512) : State :=
  if s.hub.fw.restarting then
    (if lg then { s with book := { s.book with lgUnsent := s.book.lgUnsent ++ [r] } }
    else if bvb s.book.notice (recordClass r) && classFree s (recordClass r) then
      { s with book := { s.book with unsent := s.book.unsent ++ [r] } } else s)
  else if lg then sendNotice s r
  else classNotice s r

/-- The notices that waited for the surveyor are sent. -/
def sendUnsent (s : State) : State :=
  let s1 := { s with book := { s.book with unsent := [], lgUnsent := [] } }
  s.book.lgUnsent.foldl sendNotice (s.book.unsent.foldl classNotice s1)

/-! ### The arbiter (R393 to R397) -/

/-- Payload of a LOG_FLOOD record (R395). -/
def floodPayload (f : Flood) : List Byte :=
  placeFields [(0, 8, f.count), (8, 2, f.off), (10, 2, f.code), (12, 4, f.held), (16, 8, f.lastCount), (24, 2, f.lastOff),
    (26, 1, b2n f.mixed)] []

/-- The pending slot of a source is free again: a flood counter that holds a count becomes a LOG_FLOOD record in it. -/
def freeSlot (s : State) (src : Nat) : State :=
  let b := s.book
  match SMap.find b.floods src with
  | none => { s with book := { b with slots := SMap.erase b.slots src } }
  | some f =>
    let e : Event := { count := s.datum.count, off := s.offset (srcParcelOf src), code := evLogFlood, source := src,
                       payload := floodPayload f }
    { s with book := { b with slots := SMap.put b.slots src e, floods := SMap.erase b.floods src } }

/-- LOG_MEMORY_FAIL (R397). -/
def raiseFail (s : State) (copy slot seq : Nat) : State :=
  raise s (srcHub 3) evLogMemoryFail (placeFields [(0, 1, copy), (2, 2, slot), (4, 4, seq)] [])

/-- The record goes into both copies (R392, R396): a copy whose read-back fails gets no mark and is marked failed. -/
def writeCopies (b : Book) (e : Event) (okA okB : Bool) : Book :=
  let n := b.slotNo
  let good := recordWord e b.seq.toNat 0xA5
  let bad := recordWord e b.seq.toNat 0
  { b with
    copyA := if b.failA then b.copyA else SMap.put b.copyA n (if okA then good else bad)
    copyB := if b.failB then b.copyB else SMap.put b.copyB n (if okB then good else bad)
    failA := b.failA || !okA, failB := b.failB || !okB }

/-- The record goes into the last-gasp file: a ring of eight, newest first. One overwritten before its notice was sent is
lost and counted. -/
def writeLastGasp (b : Book) (r : BitVec 512) : Book :=
  let lost := decide (8 ≤ b.lgUnsent.length)
  { b with
    lastGasp := (r :: b.lastGasp).take 8, lastGaspNv := []
    lgUnsent := if lost then b.lgUnsent.drop 1 else b.lgUnsent
    lgLost := if lost then BitVec.ofNat 16 (satAdd 16 b.lgLost.toNat 1) else b.lgLost }

/-- What a failed read-back brings: LOG_MEMORY_FAIL, and last-gasp mode once both copies have failed. -/
def afterFail (s old : State) : State :=
  let b := s.book
  if b.failA == old.book.failA && b.failB == old.book.failB then s
  else
    let both := b.failA && b.failB
    let s1 := if both then { s with book := { b with lgMode := true } } else s
    raiseFail s1 (if both then 2 else if b.failA then 0 else 1) (old.book.seq.toNat % 4096) old.book.seq.toNat

/-- One record is completed, at the end of its 96 ns (R393). -/
def bookDone (s : State) (src : Nat) (e : Event) (okA okB : Bool) : State :=
  let b := s.book
  let r := recordWord e b.seq.toNat 0xA5
  let b1 := if b.lgMode then writeLastGasp b r else writeCopies b e okA okB
  let s1 : State := { s with book := { b1 with
    seq := b.seq + 1, written := BitVec.ofNat 32 (satAdd 32 b.written.toNat 1), lastSrc := src, writing := none } }
  let s2 := freeSlot s1 src
  let s3 := if b.lgMode then s2 else afterFail s2 s
  noticeOf (setHubInt s3 0) b.lgMode r

/-- A record is completed, and the next one starts. -/
def bookWrite (s : State) (src : Nat) (e : Event) (okA okB : Bool) : State :=
  let s1 := bookDone s src e okA okB
  { s1 with book := s1.book.start }

/-- The record that is being written, with its source. -/
def Book.current (b : Book) : Option (Nat × Event) := b.writing.bind (fun src => (SMap.find b.slots src).map (fun e => (src, e)))

/-- FIELD_BOOK_WRITE (R393): the record being written is completed, while the auxiliary supply is good. -/
def execFieldBookWrite (okA okB : Bool) (s : State) : Out :=
  .next (match s.book.current with
    | some (src, e) => if s.hub.lands.auxGood then bookWrite s src e okA okB else s
    | none => s)

/-! ### Registers and readers (R396, R398) -/

/-- The value of FB_STAT. -/
def fbStatWord (b : Book) : Word :=
  BitVec.ofNat 64 (b.seq.toNat % 4096 + b2n b.failA * 2 ^ 12 + b2n b.failB * 2 ^ 13 + b2n b.lgMode * 2 ^ 14 +
    b.written.toNat * 2 ^ 16 + b.lgLost.toNat * 2 ^ 48)

/-- A slot passes the test of R392: its mark and its CRC. -/
def slotGood (r : BitVec 512) : Bool :=
  let bs := leBytes 64 r.toNat
  bs.getD 15 0 == 0xA5 &&
  leVal ((bs.drop 20).take 2) == (crc16 (bs.take 15 ++ (bs.drop 16).take 4 ++ bs.drop 24)).toNat

/-- A slot as a reader takes it: from copy A, or from copy B where A has failed or its slot does not pass (R396). -/
def bookSlot (b : Book) (n : Nat) : BitVec 512 :=
  let a := SMap.get 0 b.copyA n
  if b.failA || !slotGood a then SMap.get 0 b.copyB n else a

/-- The last-gasp file as it is read: after a power-up the saved copy, until a new record enters the file (R397). -/
def lastGaspFile (b : Book) : List (BitVec 512) := if b.lastGasp.isEmpty then b.lastGaspNv else b.lastGasp

end Sys2Proof.Machine
end

