-- ==== Sys2Proof/Machine/Steps.lean ====
section
/-!
DEFINITION. The end of a sealed step (10 R277 to R282): the finished test, the overrun with its two policies, the end of
a stretch, and what happens at one reached stake within a reach.
-/

namespace Sys2Proof.Machine

/-- The head of issue allows the step to be finished (R277); a task that has executed HALT has nothing more to issue
(log 26). -/
def headFinishes (r : Reach) (closing : Stake) : Bool :=
  (r.task.halt && !r.task.run) || r.task.stopHalt || (decide (r.task.pc.toNat < Config.imemSize) &&
    (isHalt (fetchWord r r.task.pc.toNat) || isNextStak r closing (fetchWord r r.task.pc.toNat)))

/-- The instructions of the work not completed. -/
def workLeft (r : Reach) : List Flight := r.flights.filter (fun f => f.inStep)

/-- The work of the open step is finished (R277). -/
def workFinished (r : Reach) (closing : Stake) : Bool := (workLeft r).isEmpty && headFinishes r closing

/-- The instructions that end a step leave it. -/
def leaveStep (r : Reach) : Reach := { r with flights := r.flights.map (fun f => { f with inStep := false }) }

/-- The step of a reach closes; its rate leaves the ledger with it (R425). -/
def closeStep (s : State) (p l : Nat) : State :=
  s.updReach p l (fun r => leaveStep { r with task := { r.task with step := none } })

/-- Payload of STEP_OVERRUN (R286). The fields do not fit 40 bytes as R391 packs them; the count takes one byte at 35
and the address stands at 36 (log 27). -/
def overrunPayload (l : Nat) (o : OpenStep) (left : List Flight) : List Byte :=
  let pc := match left with | f :: _ => f.job.pc.toNat | [] => 0
  placeFields [(0, 1, l), (8, 8, o.opening.count), (16, 2, o.opening.off), (24, 8, o.closing.count),
    (32, 2, o.closing.off), (34, 1, b2n o.abort), (35, 1, left.length), (36, 4, pc)] []

/-- Cycles from one stake to a later one at `nc` cycles per tick. -/
def ccBetween (a b : Stake) (nc : Nat) : Nat := (b.count * nc + b.off) - (a.count * nc + a.off)

/-- An instruction of a unit that the abort cuts short (R280); SCL, BRC, CSR and TALY complete, and so does a FENC. -/
def cutUnit (f : Flight) : Bool := !(f.unit == .tally || f.unit == .sequencer)

/-- The flight of an instruction that is cut short, with the records of the pieces that it keeps. -/
def cutShort (undone : List Undo) (f : Flight) : Flight :=
  if !cutUnit f then f
  else { f with
    wait := .none
    status := if f.status = 3 then 3 else 6
    guard := (undone.head?).elim f.guard (fun u => u.guard)
    out := (undone.head?).elim f.out (fun u => u.out)
    undo := [] }

/-- The entries of tile slots, and their mode tags, go back to what stood there. -/
def slotsBack (slots : BitVec 32) (old : SMap PoolEntry × BitVec 32) (r : Reach) : Reach :=
  let sel (e : Nat × PoolEntry) : Bool := slots.getLsbD (e.1 / 256)
  { r with
    pool := (old.1.filter sel).foldl (fun m e => SMap.put m e.1 e.2) (r.pool.filter (fun e => !sel e))
    paired := (r.paired &&& ~~~slots) ||| (old.2 &&& slots) }

/-- One piece of an instruction is undone. -/
def undoPiece (p l : Nat) (f : Flight) (s : State) (u : Undo) : State :=
  let s1 := u.bytes.foldl (fun t b => setCells t b.1 (memSet (cells t b.1) b.2.1 b.2.2)) s
  let s2 := match u.pool with
    | some old => s1.updReach p l (slotsBack f.wr.slots old)
    | none => s1
  match u.rows with
  | some x => s2.updReach p l (fun r => { r with stats := x.1, calAcc := x.2 })
  | none => s2

/-- The adds of a cut CONF that have not been sent stay unsent (R280): `k` of its outputs have been. -/
def dropAdds (s : State) (p l no k : Nat) : State :=
  forParcels s (fun t q => t.updParcel q (fun x => { x with adds := x.adds.filter (fun a =>
    !(a.rowId.isNone && a.parcel == p && a.reach == l && a.flight == no && decide (k ≤ a.col))) }))

/-- An instruction is cut short (R280). One that has started keeps the pieces, chunks, rows or vectors written before the
closing stake, how many being a free value (log 7, log 103); one behind another of its unit has not started and keeps none. -/
def cutFlight (s : State) (p l : Nat) (f : Flight) (started : Bool) : State :=
  if !cutUnit f || f.status == 3 then s
  else
    let k := if started then Config.free s.free % (f.undo.length + 1) else 0
    let undone := f.undo.drop k
    let s1 := undone.reverse.foldl (undoPiece p l f) { s with free := s.free + 1 }
    let s2 := if wOp f.job.word == 8 then dropAdds s1 p l f.no (f.sent + (if started then Config.free s.free % 257 else 0)) else s1
    updFlight s2 p l f.no (cutShort undone)

/-- The instructions in flight are cut short, the youngest first. -/
def cutFlights (s : State) (p l : Nat) : State :=
  let fs := (s.reach p l).flights
  fs.reverse.foldl (fun t f => cutFlight t p l f (!f.wait.unstarted &&
    !fs.any (fun g => g.unit == f.unit && decide (g.no < f.no)))) (drainOf s (srcReach p l))

/-- An abort stops every unit of the reach, and the sequencer scans forward (R280). -/
def abortReach (s : State) (p l : Nat) (closing : Stake) : State :=
  let s2 := cutFlights (withdrawHead s p l) p l
  let s3 := s2.updParcel p (fun x => { x with sums := x.sums.filter (fun c => c.dest != l && c.dest != 256 + l) })
  scanTask (closeStep s3 p l) p l closing

/-- The closing stake is reached with the work not finished (R279). -/
def overrun (s : State) (p l : Nat) (o : OpenStep) : State :=
  let left := workLeft (s.reach p l)
  let s1 := bumpPcnt (raise s (srcReach p l) evStepOverrun (overrunPayload l o left)) p 17 1
  let s2 := s1.updTask p l (fun t => { t with overruns := BitVec.ofNat 16 (satAdd 16 t.overruns.toNat 1) })
  if o.abort then abortReach s2 p l o.closing
  else s2.updTask p l (fun t => { t with step := some { o with stretched := true, late := false } })

/-- The closing stake of the open step is reached (R279). A step restored after its closing stake had passed is overrun
(R194). -/
def closingReached (s : State) (p l : Nat) (o : OpenStep) : State :=
  if !o.late && workFinished (s.reach p l) o.closing then closeStep s p l else overrun s p l o

/-- A stake held at the head is reached (R183): the WAIT completes, or the STEP is admitted or denied. -/
def stakeRelease (s : State) (p l : Nat) (st : Stake) (isStep : Bool) : State :=
  if isStep then
    match stopAtStep s p l with
    | some s1 => s1
    | none => openStep s p l st
  else headDone s p l (headJob s p l) 0

/-- The STAK at the head can go on: no stretched step holds it, nothing holds it at issue (R162), and a STEP may open
(R279, R285). -/
def releasable (s : State) (p l : Nat) (t : Task) (st : Stake) (isStep : Bool) : Bool :=
  !stretchHolds t st && !t.drain && !stakHeld s p l && (!isStep || (decide (t.step = none) && (opensSteps s p || t.failing ||
    decide ((s.parcel p).state = .quiesce))))

/-- The stretch ends with the work (R279): `last` takes its length, the step closes, and the STAK at the head proceeds
under R275. -/
def stretchDone (s : State) (p l : Nat) : State :=
  let r := s.reach p l
  match r.task.step with
  | none => s
  | some o =>
    if !(o.stretched && workFinished r o.closing) then s
    else
      let n := ccBetween o.closing (s.now p) (s.nc p)
      let s1 := (closeStep s p l).updTask p l (fun t => { t with
        lastStretch := BitVec.ofNat 32 (min n (2 ^ 32 - 1)), left := some o.closing, atOnce := true })
      match (s1.reach p l).task.wait with
      | .stake st isStep =>
        if st.le (s1.now p) && releasable s1 p l (s1.reach p l).task st isStep && (!isStep || stakeClear s1 p st)
        then stakeRelease s1 p l st isStep else s1
      | _ => s1

/-- STRETCH_END (R279). -/
def execStretchEnd (p : ParcelId) (l : ReachId) (s : State) : Out := .next (stretchDone s p l)

/-- A closing of every open step of a parcel's reaches without STEP_OVERRUN (R282). -/
def closeAllSteps (s : State) (p : Nat) : State :=
  s.updParcel p (fun x => { x with reaches := x.reaches.map (fun e =>
    (e.1, leaveStep { e.2 with task := { e.2.task with step := none } })) })

end Sys2Proof.Machine
end

