-- ==== Sys2Proof/Machine/TaskControl.lean ====
section
/-!
DEFINITION. Task control of a reach (06 R159 to R161): the writes of TASK_CTL, TASK_PC and TASK_IMG, the reach reset, and
the task image (R192 to R194, 09 R258, 08 R231).
-/

namespace Sys2Proof.Machine

/-! ### The reach reset (R161) -/

/-- The reach at its reset state; what other levels hold of it is kept: its retirement, its sparing, the number of its
newest instruction. -/
def Reach.cleared (r : Reach) : Reach :=
  { task := { failing := r.task.failing, failHard := r.task.failHard, retired := r.task.retired,
              ceCount := r.task.ceCount, issueNo := r.task.issueNo } }

/-- A reach reset. -/
def resetReach (s : State) (p l : Nat) : State := s.updReach p l Reach.cleared

/-- A write of 1 to TASK_CTL.rst: the reset starts, or the write is discarded. -/
def requestReset (s : State) (p l : Nat) : State :=
  let r := s.reach p l
  if r.idle && !r.task.run then (resetReach s p l).updTask p l (fun t => { t with resetting := true }) else s

/-! ### TASK_CTL -/

/-- The value of TASK_CTL; a retired reach's fault reads 1 (R405). -/
def ctlWord (r : Reach) : Word :=
  BitVec.ofNat 64 (b2n r.task.run + 2 * b2n r.task.strict + 4 * b2n r.idle + 8 * b2n (r.task.fault || r.task.retired) +
    16 * b2n r.task.halt)

/-- Whether a write of 1 to run starts the task: the parcel is in RUN (R375) and the reach is not retired (R405). -/
def mayRun (s : State) (p l : Nat) : Bool :=
  decide ((s.parcel p).state = .run) && !(s.reach p l).task.retired

/-- Issue starts at TASK_PC (R159). A restored step whose closing stake had passed is overrun at once (R194). -/
def startTask (s : State) (p l : Nat) : State :=
  let s1 := s.updTask p l (fun t => { t with run := true, faultNo := none, headCc := 0 })
  match (s.reach p l).task.step with
  | some o => if o.late then overrun s1 p l o else fetchCheck s1 p l
  | none => fetchCheck s1 p l

/-- A write of TASK_CTL without rst: the sticky bits, strict, and run (R159, R160). A sticky bit that the hardware has set in
this cycle stays set (R14), and a stop of this cycle prevails over a write of 1 to run (R160). -/
def ctlWrite (s : State) (p l : Nat) (v : Word) : State :=
  if bvb v 5 then requestReset s p l
  else
    let s1 := s.updTask p l (fun t => { t with
      strict := bvb v 1, fault := w1c t.fault (bvb v 3) (s.marked (.fault p l))
      halt := w1c t.halt (bvb v 4) (s.marked (.halt p l)) })
    let run := (s.reach p l).task.run
    let stopped := s.marked (.fault p l) || s.marked (.halt p l)
    if bvb v 0 && !run then (if mayRun s p l && !stopped then startTask s1 p l else s1)
    else if !bvb v 0 && run then stopRun s1 p l
    else s1

/-- A write of TASK_PC, discarded while the reach is not idle (R159). It ends a pending ARM. -/
def pcWrite (s : State) (p l : Nat) (v : Word) : State :=
  if (s.reach p l).idle
  then s.updTask p l (fun t => { t with pc := BitVec.ofNat 32 (bvf v 4 28 * 16), arm := none }) else s

/-! ### Windows (R257, R258) -/

/-- The writable bits of SP_WIN and of CB_WIN. -/
def winMask (cb : Bool) : Word := if cb then 0x7FFFF0003FFFF0#64 else 0x7FFF00007FFF0#64

/-- Whether base plus size stays within the memory. -/
def winFits (cb : Bool) (v : Word) : Bool :=
  if cb then bvf v 4 18 * 16 + bvf v 36 19 * 16 ≤ Config.cbSize else bvf v 4 15 * 16 + bvf v 36 15 * 16 ≤ Config.spSize

/-- Set a window register. -/
def Reach.setWin (r : Reach) (cb : Bool) (v : Word) : Reach :=
  if cb then { r with cbWin := v &&& winMask true } else { r with spWin := v &&& winMask false }

/-- A write of a window is accepted while the reach is idle and stopped and the window fits (R258). -/
def winAccepts (s : State) (p l : Nat) (cb : Bool) (v : Word) : Bool :=
  (s.reach p l).idle && !(s.reach p l).task.run && winFits cb v

/-! ### The task image (R192 to R194) -/

/-- The writable bits of the four words of a PROFILE entry (R190). -/
def profMask (w : Nat) : Word :=
  if w = 0 then 0xFFFFFFFF0FFFFFFF#64 else if w = 1 then 0xFFFFFFFFFFFFFFFF#64
  else if w = 2 then 0x7FFFFFFFFFFFFFFF#64 else 0x3FFFFFFFFFFFF#64

/-- The writable bits of a word of a TRAVERSE descriptor: a level's word 0 has two reserved bits (R196). -/
def trvMask (w : Nat) : Word := if 4 ≤ w && w % 2 == 0 then 0xFFFFFFFF3FFFFFFF#64 else 0xFFFFFFFFFFFFFFFF#64

/-- The writable bits of an ACT_SEG entry's two words (R108). -/
def actMask (w : Nat) : Word := if w = 0 then 0xFFFFFFFFFFFFFFFF#64 else 0x1FFFFF#64

/-- A mask over `n` words, word 0 lowest. -/
def maskOf (f : Nat → Word) : Nat → Nat → Nat
  | 0, _ => 0
  | n + 1, w => (f w).toNat + 2 ^ 64 * maskOf f n (w + 1)

/-- Word `w` of a wide value. -/
def wordOf {k : Nat} (v : BitVec k) (w : Nat) : Word := BitVec.ofNat 64 (bvf v (64 * w) 64)

/-- A wide value with word `w` replaced. -/
def setWord {k : Nat} (v : BitVec k) (w : Nat) (x : Word) : BitVec k := putField v (64 * w) 64 x.toNat

/-- The header of an image. -/
def imageHeader (r : Reach) (mask : Nat) : List Byte :=
  let t := r.task
  let (tick, off, flags) := match t.step with
    | some o => (o.closing.count, o.closing.off, b2n o.abort + 2)
    | none => (0, 0, 0)
  padTo 256 (leBytes 8 t.pc.toNat ++ leBytes 8 (b2n t.strict) ++ leBytes 16 t.faultWord.toNat ++ leBytes 8 mask ++
    leBytes 8 1 ++ leBytes 8 tick ++ leBytes 8 off ++ leBytes 1 flags)

/-- The scalar registers as bytes. -/
def scalarBytes (r : Reach) : List Byte := (List.range 32).flatMap (fun n => leBytes 8 (r.scalar n).toNat)

/-- The bytes of a memory, each poisoned unit as zeros (R402). -/
def cleanBytes (m : Mem) (poison : List Nat) (unit n : Nat) : List Byte :=
  (List.range n).map (fun a => if poison.contains (a / unit) then 0 else memByte m a)

/-- The areas of an image, each with its offset (R192, R231, R258). -/
def imageAreas (r : Reach) (mask : Nat) : List (Nat × List Byte) :=
  [(0, imageHeader r mask), (256, scalarBytes r),
   (512, (List.range 32).flatMap (fun n => leBytes 128 (SMap.get 0 r.trv n).toNat)),
   (4608, padTo 128 (leBytes 8 r.spWin.toNat ++ leBytes 8 r.cbWin.toNat) ++
     (List.range 16).flatMap (fun k => leBytes 8 (SMap.get 0 r.swz k).toNat))] ++
  (if mask.testBit 0 then [(4864, padTo 66048 (poolImage r))] else []) ++
  (if mask.testBit 1 then [(70912, (List.range 64).flatMap (fun n => leBytes 32 (SMap.get 0 r.prof n).toNat) ++
      (List.range 128).flatMap (fun n => leBytes 8 (SMap.get 0 r.actSeg (2 * n)).toNat ++
        leBytes 8 (SMap.get 0 r.actSeg (2 * n + 1)).toNat))] else []) ++
  (if mask.testBit 2 then [(75008, cleanBytes r.spad r.spPoison 16 Config.spSize)] else []) ++
  (if mask.testBit 3 then [(468224, cleanBytes r.imem r.imemPoison 8 Config.imemSize)] else [])

/-- The cells of bytes that are not zero, from address `a`. -/
def nonzeroCells (a : Nat) (bs : List Byte) : Mem := (cellsOf a bs).filter (fun c => c.2 != 0)

/-- A memory with `bs` at address `a`. -/
def memBlit (m : Mem) (a : Nat) (bs : List Byte) : Mem :=
  m.filter (fun c => c.1 < a) ++ nonzeroCells a bs ++ m.filter (fun c => a + bs.length ≤ c.1)

/-- The reach DMA writes whole sectors of stacked memory: counts, back-invalidation, and the poison and the errors that they
clear. -/
def smBlit (s : State) (p a : Nat) (bs : List Byte) : State :=
  let as := (List.range bs.length).map (fun i => a + i)
  let s1 := smCount (backInvalidate s (.sm p) as) (.sm p) true as
  let s2 := s1.updParcel p (fun x => { x with
    mem := memBlit x.mem a bs,
    poison := x.poison.filter (fun u => !(a ≤ u * 64 && u * 64 + 64 ≤ a + bs.length)) })
  { s2 with upsets := s1.upsets.filter (fun u =>
      !(decide (u.site = .cells (.sm p)) && decide (a ≤ u.unit * 64) && decide (u.unit * 64 + 64 ≤ a + bs.length))) }

/-- Length of an image whose last area the mask names. -/
def imageLen (mask : Nat) : Nat :=
  if mask.testBit 3 then 484608 else if mask.testBit 2 then 468224 else if mask.testBit 1 then 75008
  else if mask.testBit 0 then 70912 else 4864

/-- An image at `a` lies in stacked memory; one that does not is not moved (log 28). -/
def imageFits (a mask : Nat) : Bool := a + imageLen mask ≤ Config.smSize

/-- The words of the pool and of the tables that an image saves (R192, R401). -/
def imageWord (mask : Nat) : WordMem → Bool
  | .pool => mask.testBit 0
  | .prof => mask.testBit 1
  | .seg => mask.testBit 1
  | .trv => true
  | .regs => true
  | .assoc => false
  | .planes => false

/-- A save meets the errors that stand in the words that it reads; an uncorrectable one raises its MEM_UE, and the reach fails
where it is hard. -/
def settleWords (s : State) (p l mask : Nat) : State :=
  let hit (u : Upset) : Bool := match u.site with
    | .words q m w => q == p && m == l && imageWord mask w
    | .cells _ => false
  (s.upsets.filter hit).foldl (fun t u =>
    if !u.fatal then correctedAt (t.dropUpset u) u (srcReach p l)
    else
      let t1 := (hardFound (t.dropUpset u) u).updReach p l (fun r => { r with
        ruined := match u.site with | .words _ _ w => (w, u.unit) :: r.ruined | .cells _ => r.ruined })
      raise t1 (srcReach p l) evMemUe (packFields [(1, p), (8, u.unit * 8), (2, 0), (2, srcReach p l)] [])) s

/-- A poisoned word is saved as 0 (R402). -/
def Reach.savedWords (r : Reach) : Reach :=
  r.ruined.foldl (fun r x => match x.1 with
    | .pool => { r with pool := SMap.erase r.pool x.2 }
    | .prof => { r with prof := SMap.put r.prof (x.2 / 4) (setWord (SMap.get 0 r.prof (x.2 / 4)) (x.2 % 4) 0) }
    | .trv => { r with trv := SMap.put r.trv (x.2 / 16) (setWord (SMap.get 0 r.trv (x.2 / 16)) (x.2 % 16) 0) }
    | .seg => { r with actSeg := SMap.put r.actSeg x.2 0 }
    | .regs => { r with s := SMap.store 0 r.s x.2 0 }
    | .assoc => r
    | .planes => r) r

/-- MEM_UE for each unit and word of an image that was poisoned as the save began (R402). -/
def reportPoison (s : State) (p l : Nat) (r : Reach) (mask : Nat) : State :=
  let me := srcReach p l
  let s1 := if mask.testBit 2 then r.spPoison.foldl (fun s u => raiseUe s (.sp p l) u me) s else s
  let s2 := if mask.testBit 3 then r.imemPoison.foldl (fun s u => raiseUe s (.imem p l) u me) s1 else s1
  (r.ruined.filter (fun x => imageWord mask x.1)).foldl (fun s x =>
    raise s me evMemUe (packFields [(1, p), (8, x.2 * 8), (2, 0), (2, me)] [])) s2

/-- A save reads the scratchpad, the IMEM and the words of the reach, meeting the errors that stand there, and writes the image
(R192, R193, R402). -/
def saveImage (s0 : State) (p l a mask : Nat) : State :=
  if !imageFits a mask then s0
  else
    let met := settleWords s0 p l mask
    let met := if mask.testBit 2 then settle met (.sp p l) 0 Config.spSize (srcReach p l) else met
    let s := if mask.testBit 3 then settle met (.imem p l) 0 Config.imemSize (srcReach p l) else met
    let s2 := (imageAreas (s.reach p l).savedWords mask).foldl (fun s x => smBlit s p (a + x.1) x.2) s
    reportPoison s2 p l (s0.reach p l) mask

/-- Bytes of an image; what a poisoned sector gives is a free value (log 28). -/
def imageRead (s : State) (p a n : Nat) : List Byte :=
  if (poisonIn s (.sm p) a n).isNone then rdBytes s (.sm p) a n
  else (List.range n).map (fun i =>
    if (poisonIn s (.sm p) (a + i) 1).isSome then BitVec.ofNat 8 (Config.free (s.free + i)) else rdByte s (.sm p) (a + i))

/-- Cut bytes into `n` pieces of `k` bytes, as numbers, each with its index. -/
def pieces (k : Nat) : Nat → Nat → List Byte → List (Nat × Nat)
  | 0, _, _ => []
  | n + 1, i, bs => (i, leVal (bs.take k)) :: pieces k n (i + 1) (bs.drop k)

/-- A map of the pieces that are not zero. -/
def piecesMap {k : Nat} (mask : Nat) (ps : List (Nat × Nat)) : SMap (BitVec k) :=
  ps.filterMap (fun x => if x.2 &&& mask = 0 then none else some (x.1, BitVec.ofNat k (x.2 &&& mask)))

/-- The step of an image's header, restored at `now` (R192, R194). Its opening stake, allowance and rate are not in the
image (log 29). -/
def restoredStep (h : List Byte) (now : Stake) : Option OpenStep :=
  let flags := leVal ((h.drop 64).take 1)
  if flags.testBit 1 then
    let closing : Stake := { count := leVal ((h.drop 48).take 8), off := leVal ((h.drop 56).take 8) }
    some { opening := {}, closing := closing, abort := flags.testBit 0, alw := 0, rate := 0, late := closing.le now }
  else none

/-- A restored window: a size check that fails leaves the register and raises ILLEGAL_ENCODING (R258). -/
def restoreWin (p l a : Nat) (cb : Bool) (s : State) (v : Word) : State :=
  if winFits cb v then s.updReach p l (fun r => r.setWin cb v)
  else raise s (srcReach p l) evIllegalEncoding (restoreFail a).payload

/-- The areas always restored: header, scalars, traverses, windows and swizzle keys. -/
def restoreBase (s : State) (p l a : Nat) : State :=
  let h := imageRead s p a 256
  let word (o n : Nat) : Nat := leVal ((h.drop o).take n)
  let win := imageRead s p (a + 4608) 256
  let s1 := s.updReach p l (fun r => { r with
    task := { r.task with pc := BitVec.ofNat 32 (word 0 4 / 16 * 16), strict := (word 8 1).testBit 0,
                          faultWord := BitVec.ofNat 128 (word 16 16) &&& 0xFFFFFFFFFFFFFFFF00FFFFFF#128,
                          step := restoredStep h (s.now p), left := none, atOnce := false, arm := none },
    s := piecesMap (2 ^ 64 - 1) ((pieces 8 32 0 (imageRead s p (a + 256) 256)).drop 1),
    trv := piecesMap (maskOf trvMask 16 0) (pieces 128 32 0 (imageRead s p (a + 512) 4096)),
    swz := piecesMap 0xFFFF (pieces 8 16 0 (win.drop 128)) })
  restoreWin p l a true (restoreWin p l a false s1 (BitVec.ofNat 64 (leVal (win.take 8))))
    (BitVec.ofNat 64 (leVal ((win.drop 8).take 8)))

/-- The pool area (R78, R194). -/
def restorePoolArea (s : State) (p l a : Nat) : State :=
  match restorePool (s.reach p l) (imageRead s p (a + 4864) 65856) with
  | some r => s.setReach p l r
  | none => raise s (srcReach p l) evIllegalEncoding (restoreFail a).payload

/-- PROFILE and ACT_SEG, under the masks of their writable bits. R194 states no check of this area: a reserved encoding is
loaded as it stands, and acts as the meanings read it, log 97 (DESIGN CHOICE). -/
def restoreTables (s : State) (p l a : Nat) : State :=
  let segs := (pieces 8 256 0 (imageRead s p (a + 72960) 2048)).filterMap (fun x =>
    let v := x.2 &&& (actMask (x.1 % 2)).toNat
    if v = 0 then none else some (x.1, BitVec.ofNat 64 v))
  s.updReach p l (fun r => { r with
    prof := piecesMap (maskOf profMask 4 0) (pieces 32 64 0 (imageRead s p (a + 70912) 2048)), actSeg := segs })

/-- A restore (R194) reads the image as a device does (R348, R351, R352): another format than 1 restores nothing. -/
def restoreImage (s0 : State) (p l a mask : Nat) : State :=
  let as := (List.range (imageLen mask)).map (fun i => a + i)
  let s := if imageFits a mask then settle (smCount (backInvalidate s0 (.sm p) as) (.sm p) false as) (.sm p) a (imageLen mask)
    (srcReach p l) else s0
  if !imageFits a mask then s
  else if leVal (imageRead s p (a + 40) 8) ≠ 1 then raise s (srcReach p l) evIllegalEncoding (restoreFail a).payload
  else
    let s1 := restoreBase s p l a
    let s2 := if mask.testBit 0 then restorePoolArea s1 p l a else s1
    let s3 := if mask.testBit 1 then restoreTables s2 p l a else s2
    let s4 := if mask.testBit 2 then s3.updReach p l (fun r => { r with
      spad := nonzeroCells 0 (imageRead s p (a + 75008) Config.spSize), spPoison := [] }) else s3
    let s5 := if mask.testBit 3 then s4.updReach p l (fun r => { r with
      imem := nonzeroCells 0 (imageRead s p (a + 468224) Config.imemSize), imemPoison := [] }) else s4
    { s5.updReach p l (fun r => { r with ruined := r.ruined.filter (fun x => !imageWord mask x.1) }) with
      free := s.free + imageLen mask }

/-- The value of TASK_IMG (R193). -/
def imgWord (t : Task) : Word :=
  BitVec.ofNat 64 (t.imgMask.toNat + t.imgOp.toNat * 16 + b2n t.imgBusy * 64 + t.imgAddr.toNat * 256)

/-- Whether a write of TASK_IMG is accepted (R193). -/
def imgAccepts (r : Reach) (v : Word) : Bool :=
  !r.task.imgBusy && (bvf v 4 2 == 0 || (r.idle && !r.task.run))

/-- An accepted write of TASK_IMG: a save or a restore runs, busy until TASK_IMAGE_DONE. -/
def imgWrite (s : State) (p l : Nat) (v : Word) : State :=
  let op := bvf v 4 2
  let mask := bvf v 0 4
  let a := bvf v 8 27 * 256
  let s1 := s.updTask p l (fun t => { t with imgMask := BitVec.ofNat 4 mask, imgOp := BitVec.ofNat 2 op,
                                             imgAddr := BitVec.ofNat 27 (bvf v 8 27), imgBusy := op != 0 })
  if op = 1 then saveImage s1 p l a mask else if op = 2 then restoreImage s1 p l a mask else s1

/-- TASK_IMAGE_DONE (R193). -/
def execTaskImageDone (p : ParcelId) (l : ReachId) (s : State) : Out :=
  .next (s.updTask p l (fun t => { t with imgBusy := false, imgOp := if t.imgBusy then 0 else t.imgOp }))

end Sys2Proof.Machine
end

