-- ==== Sys2Proof/Machine/Links.lean ====
section
/-!
DEFINITION. River links and UCIe ports (11 R287 to R308, R312, R327, R328): the state table, going down, the negotiation,
the flits of a slot, go-back-N, and the down map.
-/

namespace Sys2Proof.Machine

/-! ### Ports and the down map -/

/-- The river links in the order +X to −Z. -/
def riverPorts : List Port := [.xp, .xn, .yp, .yn, .zp, .zn]

/-- The UCIe ports. -/
def uciePorts : List Port := [.ringPlus, .ringMinus, .hubPort]

/-- Every port. -/
def allPorts : List Port := riverPorts ++ uciePorts

/-- The unit of a port in a source (R389). -/
def portUnit (q : Port) : Nat := if isRiver q then portNo q + 2 else portNo q

/-- Dimension of a river link. -/
def portDim (q : Port) : Nat := portNo q / 2

/-- Whether a river link is the − link of its dimension. -/
def portMinus (q : Port) : Bool := portNo q % 2 == 1

/-- The opposite direction. -/
def portOpposite (q : Port) : Nat := if portMinus q then portNo q - 1 else portNo q + 1

/-- Whether the torus has the dimension of a river link (R310). -/
def portUsed (s : State) (q : Port) : Bool := !isRiver q || decide (1 < torusSize s.hub.torus (portDim q))

/-- The LINK_STAT word (R298), with the partner's device ID: at a UCIe port the own one (R328). -/
def linkStat (k : Link) (peer : Nat) : Word :=
  BitVec.ofNat 64 (linkCode k.state + k.ver.toNat * 2 ^ 4 + peer * 2 ^ 8 + k.pport.toNat * 2 ^ 22 +
    k.lat.toNat * 2 ^ 25 + k.reason.toNat * 2 ^ 48 + k.downs.toNat * 2 ^ 56)

/-- A control record waits at a link. -/
def pushCtl (s : State) (p : Nat) (q : Port) (c : Ctl) : State := s.updLink p q (fun k => { k with ctl := k.ctl ++ [c] })

/-- A record goes to every river link in UP but one (R312). -/
def flood (s : State) (p : Nat) (not : Option Port) (c : Ctl) : State :=
  riverPorts.foldl (fun s q => if some q ≠ not && decide ((s.link p q).state = .up) then pushCtl s p q c else s) s

/-- Set or clear a mark of the down map; the route cache is cleared when the map changes (R312, R313). -/
def setMark (s : State) (p : Nat) (m : Nat × Nat) (down : Bool) : State :=
  s.updFab p (fun f =>
    if f.down.contains m = down then f
    else { f with down := if down then m :: f.down else f.down.filter (fun x => x != m), routes := [] })

/-- An own link leaves or reaches UP: the map, and a FAULT that names the device whose + link it is, with the number after
that device's last notice, which is also the one that the device itself gives (R312, log 30). -/
def noteFault (s : State) (p : Nat) (q : Port) (down : Bool) : State :=
  let m := hopMark s.hub.torus s.dev (portDim q) (portMinus q)
  let seq := SMap.get 0 (s.parcel p).fab.lastFault m.1 + 1
  let s1 := setMark s p m down
  let s2 := s1.updFab p (fun f => { f with lastFault := SMap.put f.lastFault m.1 seq })
  flood s2 p (some q) (.fault { origin := BitVec.ofNat 14 m.1, dim := ⟨m.2 % 3, Nat.mod_lt _ (by decide)⟩, down := down,
                                seq := seq })

/-! ### Going down -/

/-- A link with nothing of its last connection. -/
def Link.cleared (k : Link) (dst : LinkState) : Link :=
  { en := k.en, state := dst, peer := k.peer, pport := k.pport, lat := k.lat, reason := k.reason, downs := k.downs,
    wiringSaid := k.wiringSaid, srcRoot := k.srcRoot }

/-- Packets with a flit that has not been acknowledged (R297, R314). -/
def Link.packetsLost (k : Link) : Nat :=
  let n (fs : List Flit) : Nat := (fs.filter (fun f => f.ftype == 1 && f.last)).length
  n k.retry + (k.data.map (fun x => n x.2)).foldl (· + ·) 0

/-- LINK_DOWN (R304). -/
def raiseDown (s : State) (p : Nat) (q : Port) (reason : Nat) : State :=
  raise s (srcParcel p (portUnit q)) evLinkDown (linkDownPayload s p q reason (linkCode (s.link p q).state))

/-- A link goes to `dst`; one that leaves UP raises LINK_DOWN, drops what it holds, breaks cascades and floods a FAULT
(R299, R303, R312, R326). -/
def linkDown (s : State) (p : Nat) (q : Port) (reason : Nat) (dst : LinkState) : State :=
  let k := s.link p q
  if k.state ≠ .up then s.updLink p q (fun k => k.cleared dst)
  else
    let s1 := bumpPcnt (raiseDown s p q reason) p 10 k.packetsLost
    let s2 := if isRiver q then breakCascades s1 p q reason else s1
    let s3 := s2.updLink p q (fun k => { k.cleared dst with
      reason := BitVec.ofNat 8 reason, downs := BitVec.ofNat 8 (satAdd 8 k.downs.toNat 1) })
    if isRiver q then noteFault s3 p q true else s3

/-- Every river link of a parcel goes to OFF (R299, R374). -/
def riverOff (s : State) (p : Nat) : State := riverPorts.foldl (fun s q => linkDown s p q 4 .off) s

/-- The parcel is out of reset, not in CONTAIN, and has been READY (R299, R376). -/
def linksAllowed (s : State) (p : Nat) : Bool :=
  let x := s.parcel p
  x.wasReady && relays s p && decide (x.state ≠ .contain)

/-- The enabled river links of a parcel leave OFF where they may. -/
def linksStart (s : State) (p : Nat) : State :=
  if !linksAllowed s p then s
  else riverPorts.foldl (fun s q =>
    if (s.link p q).en && decide ((s.link p q).state = .off) then s.updLink p q (fun k => { k with state := .detect })
    else s) s

/-- A write of LINK_CTL (R298, R328): en of a UCIe port is read-only. -/
def linkCtlWrite (s : State) (p : Nat) (q : Port) (v : Word) : State :=
  let en := bvb v 0
  let s1 := if !isRiver q then s
    else if en then linksStart (s.updLink p q (fun k => { k with en := true })) p
    else linkDown (s.updLink p q (fun k => { k with en := false })) p q 4 .off
  if bvb v 1 && decide ((s1.link p q).state ≠ .off) then
    linkDown s1 p q 4 (if (s1.link p q).state = .up then .hold else .detect)
  else s1

/-! ### Training (R299) -/

/-- Move a link from one state to another. -/
def linkMove (s : State) (p : Nat) (q : Port) (frm dst : LinkState) : State :=
  if (s.link p q).state = frm then s.updLink p q (fun k => { k with state := dst }) else s

/-- The link starts sending NEG (R299). -/
def startNeg (s : State) (p : Nat) (q : Port) : State :=
  s.updLink p q (fun k => { k with state := .negotiate, ctl := [.neg], negDue := s.wall })

/-- SIGNAL_DETECTED (R299); a dimension of size 1 stays in DETECT (R310). -/
def execSignalDetected (p : ParcelId) (port : Port) (s : State) : Out :=
  .next (if portUsed s port then linkMove s p port .detect .train else s)

/-- TRAINING_CONVERGED (R299); a UCIe port has no frame search (R328). -/
def execTrainingConverged (p : ParcelId) (port : Port) (s : State) : Out :=
  .next (if isRiver port then linkMove s p port .train .align
    else if (s.link p port).state = .train then startNeg s p port else s)

/-- TRAINING_TIMEOUT (R299). -/
def execTrainingTimeout (p : ParcelId) (port : Port) (s : State) : Out := .next (linkMove s p port .train .hold)

/-- FRAME_LOCK (R299). -/
def execFrameLock (p : ParcelId) (port : Port) (s : State) : Out :=
  .next (if (s.link p port).state = .align then startNeg s p port else s)

/-- FRAME_SEARCH_TIMEOUT (R299). -/
def execFrameSearchTimeout (p : ParcelId) (port : Port) (s : State) : Out := .next (linkMove s p port .align .hold)

/-- A link in NEGOTIATE goes to HOLD, with nothing of the attempt. -/
def negFails (s : State) (p : Nat) (q : Port) : State :=
  if (s.link p q).state = .negotiate then s.updLink p q (fun k => k.cleared .hold) else s

/-- NEG_TIMEOUT (R299). -/
def execNegTimeout (p : ParcelId) (port : Port) (s : State) : Out := .next (negFails s p port)

/-- HOLD_EXPIRY (R299). -/
def execHoldExpiry (p : ParcelId) (port : Port) (s : State) : Out := .next (linkMove s p port .hold .detect)

/-- LOSS_OF_SIGNAL (R303). -/
def execLossOfSignal (p : ParcelId) (port : Port) (s : State) : Out :=
  .next (if isRiver port && decide ((s.link p port).state = .up) then linkDown s p port 0 .hold else s)

/-- MISSING_IDLE_FLITS (R303): two consecutive tick boundaries without a valid idle flit in the tick just ended. -/
def execMissingIdleFlits (p : ParcelId) (port : Port) (s : State) : Out :=
  let k := s.link p port
  .next (if isRiver port && decide (k.state = .up) && decide (2 ≤ k.missed) then linkDown s p port 1 .hold else s)

/-- UCIE_PORT_DOWN (R327). -/
def execUciePortDown (p : ParcelId) (port : Port) (s : State) : Out :=
  .next (if !isRiver port && decide ((s.link p port).state = .up) then linkDown s p port 6 .hold else s)

/-! ### Negotiation (R300, R301, R306) -/

/-- PEER_VERSION for a link. -/
def raisePeer (s : State) (p : Nat) (q : Port) (vmax vmin neg : Nat) : State :=
  let f := (s.parcel p).fab
  raise s (srcParcel p (portUnit q)) evPeerVersion
    (peerVersionPayload p (portNo q) f.linkMax.toNat f.linkMin.toNat vmax vmin neg)

/-- The negotiated version, if the sets overlap (R306). -/
def negVersion (f : Fabric) (vmax vmin : Nat) : Option Nat :=
  let v := min f.linkMax.toNat vmax
  if v < max f.linkMin.toNat vmin then none else some v

/-- The hub's oscillator in units of 0.1 ns, as finely as the model's clock tells it (log 66). -/
def State.time10 (s : State) : Nat := s.wall * 20 / 3

/-- Half the measured round trip of the NEG exchange, less the time for which the partner held the own NEG (R301). -/
def roundTrip (s : State) (n : Neg) (echo : Nat) : Nat := (s.time10 - echo - n.hold) / 2

/-- The wiring checks of a river link (R300, R301), `lat` its measured latency. -/
def wiringOk (s : State) (p : Nat) (q : Port) (n : Neg) (lat : Nat) : Bool :=
  !isRiver q || (n.parcel.val == p && n.dev.toNat == neighbour s.hub.torus s.dev (portDim q) (portMinus q) &&
    n.link.toNat == portOpposite q && decide (lat ≤ 2500))

/-- Devices whose marks one MAP record carries (log 31). -/
def mapPart : Nat := 512

/-- The map in parts, each a MAP record (R293, R312). -/
def mapParts (s : State) (p : Nat) : List Ctl :=
  let n := torusSize s.hub.torus 0 + 32 * (torusSize s.hub.torus 1 - 1) + 1024 * (torusSize s.hub.torus 2 - 1)
  (List.range (ceilDiv n mapPart)).map (fun i =>
    .map (BitVec.ofNat 14 (i * mapPart)) (BitVec.ofNat 14 (i * mapPart + mapPart - 1))
      (((s.parcel p).fab.down.filter (fun m => m.1 / mapPart == i)).map (fun m =>
        (BitVec.ofNat 14 m.1, ⟨m.2 % 3, Nat.mod_lt _ (by decide)⟩))))

/-- A link comes UP (R299, R312): version, partner, latency and credits are set; the whole map is sent and a FAULT (up)
flooded. A NEG stays pending, so that the partner has an echo of its own last one (log 66). -/
def linkUp (s : State) (p : Nat) (q : Port) (n : Neg) (lat v : Nat) : State :=
  let s1 := s.updLink p q (fun k => { k with
    state := .up, ver := BitVec.ofNat 4 v, peer := if isRiver q then n.dev else BitVec.ofNat 14 s.dev,
    pport := if isRiver q then n.link else 0, lat := BitVec.ofNat 16 lat, wiringSaid := false,
    peerMax := n.vmax, peerMin := n.vmin, credits := (List.range 8).map (fun c => (c, (n.buffers.getD c 0).toNat)),
    negDue := s.wall, idleSeen := true, missed := 0 })
  let s2 := if v < (s.parcel p).fab.linkMax.toNat then raisePeer s1 p q n.vmax.toNat n.vmin.toNat v else s1
  if isRiver q then
    let s3 := noteFault s2 p q false
    (mapParts s3 p).foldl (fun t c => pushCtl t p q c) s3
  else s2

/-- A wiring failure (R300): LINK_DOWN once until the link next reaches UP, and HOLD. -/
def wiringFails (s : State) (p : Nat) (q : Port) (n : Neg) : State :=
  let s0 := s.updLink p q (fun k => { k with peer := n.dev, pport := n.link })
  negFails (if (s.link p q).wiringSaid then s0 else (raiseDown s0 p q 5).updLink p q (fun k => { k with
    wiringSaid := true, reason := 5 })) p q

/-- NEG_RX (R300, R301). The checks that need no latency come first; a NEG without an echo measures none, and the link waits
for the next (log 66). -/
def execNegRx (p : ParcelId) (port : Port) (n : Neg) (s : State) : Out :=
  .next (
    if (s.link p port).state ≠ .negotiate then s
    else match negVersion (s.parcel p).fab n.vmax.toNat n.vmin.toNat with
      | none => negFails (raisePeer s p port n.vmax.toNat n.vmin.toNat 0) p port
      | some v =>
        if !wiringOk s p port n 0 then wiringFails s p port n
        else match n.echo with
          | none => s.updLink p port (fun k => { k with negGot := some (n.stamp, s.time10) })
          | some e =>
            let lat := roundTrip s n e
            if wiringOk s p port n lat
            then linkUp (s.updLink p port (fun k => { k with negGot := some (n.stamp, s.time10) })) p port n lat v
            else wiringFails s p port n)

/-! ### The down map (R312) -/

/-- FAULT_RECORD_RX (R312). -/
def execFaultRecordRx (p : ParcelId) (port : Port) (r : FaultRec) (s : State) : Out :=
  let d : Nat := match SMap.find (s.parcel p).fab.lastFault r.origin.toNat with
    | some l => (r.seq.toNat + 256 - l.toNat) % 256
    | none => 1
  .next (
    if !(isRiver port && decide ((s.link p port).state = .up) && decide (1 ≤ d ∧ d ≤ 127)) then s
    else
      let s1 := s.updFab p (fun f => { f with lastFault := SMap.put f.lastFault r.origin.toNat r.seq })
      flood (setMark s1 p (r.origin.toNat, r.dim.val) r.down) p (some port) (.fault r))

/-- MAP_RECORD_RX (R312): the part of the map is adopted when no other link is UP. -/
def execMapRecordRx (p : ParcelId) (port : Port) (m : MapRec) (s : State) : Out :=
  let other := riverPorts.any (fun q => q != port && decide ((s.link p q).state = .up))
  .next (
    if !(isRiver port && decide ((s.link p port).state = .up)) || other then s
    else s.updFab p (fun f => { f with
      down := f.down.filter (fun x => decide (x.1 < m.first.toNat) || decide (m.last.toNat < x.1)) ++
        (m.marks.filter (fun x => decide (m.first.toNat ≤ x.1.toNat) && decide (x.1.toNat ≤ m.last.toNat))).map
          (fun x => (x.1.toNat, x.2.val))
      routes := [] }))

/-! ### Version renegotiation (R308) -/

/-- The parcel sends VER on a link. -/
def sendVer (s : State) (p : Nat) (q : Port) : State :=
  let f := (s.parcel p).fab
  (pushCtl s p q (.ver f.linkMax f.linkMin)).updLink p q (fun k => { k with verSent := true })

/-- Both VER flits have passed: the switch comes at the second tick boundary after the later (R308). -/
def verCount (s : State) (p : Nat) (q : Port) : State :=
  s.updLink p q (fun k => if k.verOut && k.verGot then { k with verTicks := some 2 } else k)

/-- VER_RX (R308): the partner's set; an answer where none has been sent. -/
def execVerRx (p : ParcelId) (port : Port) (vmax vmin : BitVec 4) (s : State) : Out :=
  .next (
    if !(isRiver port && decide ((s.link p port).state = .up)) then s
    else
      let s1 := s.updLink p port (fun k => { k with peerMax := vmax, peerMin := vmin })
      match negVersion (s.parcel p).fab vmax.toNat vmin.toNat with
      | none => linkDown (raisePeer s1 p port vmax.toNat vmin.toNat 0) p port 3 .hold
      | some v =>
        let s2 := if (s1.link p port).verSent then s1 else sendVer s1 p port
        verCount (s2.updLink p port (fun k => { k with verGot := true, verNew := BitVec.ofNat 4 v })) p port)

/-- VERSION_SWITCH (R308): the second tick boundary has come. -/
def execVersionSwitch (p : ParcelId) (port : Port) (s : State) : Out :=
  .next (
    if (s.link p port).state = .up && (s.link p port).verTicks == some 0 then
      s.updLink p port (fun k => { k with ver := k.verNew, verTicks := none, verSent := false, verOut := false, verGot := false })
    else s)

/-! ### Flits -/

/-- The header of a flit (R290). -/
def flitHeader (f : Flit) : List Byte :=
  leBytes 8 (f.ftype.toNat + f.vc.toNat * 2 ^ 4 + b2n f.last * 2 ^ 7 + f.seq.toNat * 2 ^ 8 + f.ack.toNat * 2 ^ 20 +
    f.crd.toNat * 2 ^ 32)

/-- The CRC of a flit (R290). -/
def flitCrc (f : Flit) : BitVec 32 := crc32c (flitHeader f ++ f.payload)

/-- The 12-bit sequence number before `n`. -/
def seqBefore (n : BitVec 12) : BitVec 12 := n - 1

/-- Distance from one sequence number to another, modulo 4,096 (R296). -/
def seqDist (a b : BitVec 12) : Nat := (b - a).toNat

/-- An ack covers the retry buffer up to its flit (R296); resends count from the last advance. -/
def Link.acked (k : Link) (ack : BitVec 12) : Link :=
  match k.retry with
  | [] => k
  | f :: _ =>
    let n := seqDist (seqBefore f.seq) ack
    if n = 0 || k.retry.length < n then k
    else { k with retry := k.retry.drop n, resends := 0,
                  resend := k.resend.filter (fun x => seqDist f.seq x.seq ≥ n) }

/-- Credits returned by a flit. -/
def Link.credited (k : Link) (crd : BitVec 32) : Link :=
  { k with credits := k.credits.map (fun c => (c.1, c.2 + bvf crd (4 * c.1) 4)) }

/-- What every valid flit carries: ack and credits. -/
def flitCommon (s : State) (p : Nat) (q : Port) (f : Flit) : State :=
  s.updLink p q (fun k => (k.acked f.ack).credited f.crd)

/-- Go-back-N: everything in the retry buffer is sent again. -/
def resendAll (s : State) (p : Nat) (q : Port) : State :=
  s.updLink p q (fun k => if k.retry.isEmpty then k else { k with resend := k.retry, resends := k.resends + 1 })

/-- A NAK (R296). -/
def nakReceived (s : State) (p : Nat) (q : Port) (ack : BitVec 12) : State :=
  resendAll (s.updLink p q (fun k => k.acked ack)) p q

/-- A river link that sends and receives flits: in NEGOTIATE or UP. -/
def linkTalks (s : State) (p : Nat) (q : Port) : Bool :=
  isRiver q && (decide ((s.link p q).state = .up) || decide ((s.link p q).state = .negotiate))

/-- NAK_RX (R296). -/
def execNakRx (p : ParcelId) (port : Port) (ack : BitVec 12) (s : State) : Out :=
  .next (if linkTalks s p port then nakReceived s p port ack else s)

/-- RETRY_TIMEOUT (R296). -/
def execRetryTimeout (p : ParcelId) (port : Port) (s : State) : Out :=
  .next (if linkTalks s p port then resendAll s p port else s)

/-- LINK_RETRY_EXHAUST (R297): the event, then the link goes down with reason 2. -/
def execLinkRetryExhaust (p : ParcelId) (port : Port) (s : State) : Out :=
  let k := s.link p port
  .next (match k.retry with
    | f :: _ =>
      if isRiver port && decide (k.state = .up) then
        linkDown (raise s (srcParcel p (portUnit port)) evLinkRetryExhaust
          (packFields [(1, p), (1, portNo port), (2, f.seq.toNat), (4, k.resends)] [])) p port 2 .hold
      else s
    | [] => s)

/-- A packet is complete: it enters the parcel's inbox with its channel. -/
def packetIn (s : State) (p : Nat) (q : Port) (vc : BitVec 3) : State :=
  let bs := SMap.get [] (s.link p q).rx vc.toNat
  let s1 := s.updLink p q (fun k => { k with rx := SMap.erase k.rx vc.toNat })
  s1.updFab p (fun f => { f with inbox := f.inbox ++ [(vc, packetOf bs)] })

/-- A protocol error takes a link in UP down (R303). -/
def protocolError (s : State) (p : Nat) (q : Port) : State := if (s.link p q).state = .up then linkDown s p q 3 .hold else s

/-- A data flit in order (R295, R315): its bytes join those of its channel, its buffer is free again (log 108), and a
reserved packet type is a protocol error (R303, R316). -/
def dataIn (s : State) (p : Nat) (q : Port) (f : Flit) : State :=
  let v := f.vc.toNat
  let bs := SMap.get [] (s.link p q).rx v ++ f.payload
  if 4 < (packetOf bs).ptype.toNat then protocolError s p q
  else
    let s1 := bumpBw (bumpPcnt s p 8 1) p (8 + portNo q) 244
    let s2 := s1.updLink p q (fun k => { k with rx := SMap.put k.rx v bs,
                                                owed := SMap.put k.owed v (SMap.get 0 k.owed v + 1) })
    if f.last then packetIn s2 p q f.vc else s2

/-- A control flit in order: a reserved record is a protocol error; what the record says arrives as the command of its
own row (log 31). -/
def ctlIn (s : State) (p : Nat) (q : Port) (f : Flit) : State :=
  let t := (f.payload.getD 0 0).toNat
  if t = 0 || 5 < t then protocolError s p q else s

/-- A sequenced flit arrives (R296): accepted in order, or discarded with one NAK for the gap. -/
def sequencedIn (s : State) (p : Nat) (q : Port) (f : Flit) (ok : Bool) : State :=
  let k := s.link p q
  if ok && f.seq == k.rxNext then
    let s1 := (flitCommon s p q f).updLink p q (fun k => { k with rxNext := k.rxNext + 1, gapSeen := false })
    if f.ftype = 1 then dataIn s1 p q f else ctlIn s1 p q f
  else
    let s1 := if ok then flitCommon s p q f else s
    if ok && decide (2048 ≤ seqDist k.rxNext f.seq) then s1
    else s1.updLink p q (fun k => { k with nakOwed := k.nakOwed || !k.gapSeen, gapSeen := true })

/-- DATA_FLIT_RX (R291, R296, R303). A flit that does not arrive whole and is not a sequenced one is discarded. -/
def execDataFlitRx (p : ParcelId) (port : Port) (f : Flit) (decodable : Bool) (s : State) : Out :=
  let ok := decodable && f.crc == flitCrc f
  if f.payload.length ≠ 244 then .fault (.illFormed "a payload of 244 bytes")
  else .next (
    if !linkTalks s p port then s
    else if f.ftype == 1 || f.ftype == 3 then sequencedIn s p port f ok
    else if !ok then s
    else if 3 < f.ftype.toNat then protocolError s p port
    else if f.ftype = 2 then nakReceived s p port f.ack
    else flitCommon s p port f)

/-! ### The flit slot (R294) -/

/-- The river link of a number. -/
def riverNo (n : Nat) : Port := riverPorts.getD n .xp

/-- The link of the in-band source. -/
def sourceLink (s : State) : Link :=
  s.link (s.datum.srcport.toNat / 8) (riverNo (s.datum.srcport.toNat % 8))

/-- The hop count that the package advertises (R266, R267). -/
def advertised (s : State) : Nat :=
  if s.datum.root || decide (s.datum.state = .cabled) then 0
  else if s.datum.state = .inband then min 63 ((sourceLink s).srcHops.toNat + 1) else 63

/-- The datum record of an idle flit (R266, R292). -/
def datumRecord (s : State) (p : Nat) : List Byte :=
  let d := s.datum
  let root := if d.root || decide (d.state = .cabled) then s.dev
    else (SMap.get ({} : Link) (s.parcel (d.srcport.toNat / 8)).links (d.srcport.toNat % 8)).srcRoot.toNat
  padTo 244 (leBytes 8 d.count ++ leBytes 2 (s.offset p + d.tick.toNat * 2 ^ 13) ++ leBytes 2 root ++
    leBytes 1 (advertised s))

/-- The type byte of a control record (R293). -/
def ctlType : Ctl → Nat
  | .neg => 1 | .fault _ => 2 | .map _ _ _ => 3 | .ready _ => 4 | .ver _ _ => 5

/-- The payload of a control flit: its type; the layout of the rest is not stated, free bytes (log 31). -/
def ctlPayload (s : State) (c : Ctl) : List Byte :=
  BitVec.ofNat 8 (ctlType c) :: (List.range 243).map (fun i => BitVec.ofNat 8 (Config.free (s.free + i)))

/-- Credits due, at most 15 a channel. -/
def dueCredits (k : Link) : BitVec 32 :=
  BitVec.ofNat 32 ((k.owed.map (fun c => min c.2 15 * 16 ^ c.1)).foldl (· + ·) 0)

/-- A flit leaves: it carries the current ack and the credits due (R294). -/
def transmit (s : State) (p : Nat) (q : Port) (f : Flit) : State :=
  let k := s.link p q
  let g : Flit := { f with ack := seqBefore k.rxNext, crd := dueCredits k }
  s.updLink p q (fun k => { k with sent := some { g with crc := flitCrc g },
                                   owed := k.owed.map (fun c => (c.1, c.2 - min c.2 15)) })

/-- An unsequenced flit. -/
def plainFlit (ftype : Nat) (payload : List Byte) : Flit :=
  { ftype := BitVec.ofNat 4 ftype, vc := 0, last := false, seq := 0, ack := 0, crd := 0, payload := payload, crc := 0 }

/-- An idle flit leaves. -/
def sendIdle (s : State) (p : Nat) (q : Port) : State :=
  (transmit s p q (plainFlit 0 (datumRecord s p))).updLink p q (fun k => { k with idleDue := false })

/-- A new sequenced flit takes its number, enters the retry buffer and leaves. -/
def sendSequenced (s : State) (p : Nat) (q : Port) (f : Flit) : State :=
  let g := { f with seq := (s.link p q).txSeq }
  transmit (s.updLink p q (fun k => { k with txSeq := k.txSeq + 1, retry := k.retry ++ [g] })) p q g

/-- The NEG that a link sends now (R300): 32 buffers a channel (R295). -/
def negRecord (s : State) (p : ParcelId) (q : Port) : Neg :=
  let f := (s.parcel p).fab
  let k := s.link p q
  { dev := BitVec.ofNat 14 s.dev, parcel := p, link := BitVec.ofNat 3 (portNo q), vmax := f.linkMax, vmin := f.linkMin,
    tick := s.datum.tick, buffers := List.replicate 8 32, count := BitVec.ofNat 64 s.datum.count,
    off := BitVec.ofNat 13 (s.offset p), stamp := s.time10, echo := k.negGot.map (fun g => g.1),
    hold := match k.negGot with | some g => s.time10 - g.2 | none => 0 }

/-- Cycles between two NEG: 1 µs (R299). -/
def negEvery : Nat := 1500

/-- A channel that may send: a flit ready and a credit. -/
def vcReady (k : Link) (v : Nat) : Bool := !(SMap.get [] k.data v).isEmpty && decide (0 < SMap.get 0 k.credits v)

/-- The channel that sends: the one in the middle of a packet while it may, else the next in rotating order (log 109). -/
def chooseVc (k : Link) : Option Nat :=
  let next := ((List.range 8).map (fun i => (k.lastVc + 1 + i) % 8)).find? (vcReady k)
  match k.midVc with
  | some v => if vcReady k v then some v else next
  | none => next

/-- The first flit of channel `v` leaves. -/
def sendData (s : State) (p : Nat) (q : Port) (v : Nat) : State :=
  match SMap.get [] (s.link p q).data v with
  | [] => s
  | f :: rest =>
    let s1 := s.updLink p q (fun k => { k with
      data := if rest.isEmpty then SMap.erase k.data v else SMap.put k.data v rest,
      credits := SMap.put k.credits v (SMap.get 0 k.credits v - 1), lastVc := v,
      midVc := if f.last then none else some v })
    bumpBw (bumpPcnt (sendSequenced s1 p q f) p 7 1) p (2 + portNo q) 244

/-- The pending control record that may leave: in NEGOTIATE a NEG stays pending, one each µs (R299). -/
def ctlReady (s : State) (k : Link) : Option Ctl := k.ctl.find? (fun c => decide (c ≠ .neg) || decide (k.negDue ≤ s.wall))

/-- A control record leaves. -/
def sendCtl (s : State) (p : ParcelId) (q : Port) (c : Ctl) : State :=
  let s1 := sendSequenced { s with free := s.free + 243 } p q { plainFlit 3 (ctlPayload s c) with seq := 0 }
  let done (k : Link) : Link := { k with ctl := k.ctl.erase c }
  match c with
  | .neg => s1.updLink p q (fun k =>
      { (if k.state = .negotiate then k else done k) with negDue := s.wall + negEvery, negSent := some (negRecord s p q) })
  | .ver _ _ => verCount (s1.updLink p q (fun k => { done k with verOut := true })) p q
  | _ => s1.updLink p q done

/-- A flit of the retry buffer leaves again (R296). -/
def sendAgain (s : State) (p : Nat) (q : Port) (f : Flit) : State :=
  bumpPcnt (transmit (s.updLink p q (fun k => { k with resend := k.resend.drop 1 })) p q f) p 9 1

/-- The frame word of a frame (R288): inverted in an odd frame. -/
def frameWordOf (n : Nat) : BitVec 40 := if n % 2 = 0 then 0xA55A0FF0C3#40 else ~~~0xA55A0FF0C3#40

/-- A flit slot belongs to a frame of five: the first one follows the frame word (R288). -/
def frameStep (k : Link) : Link :=
  { k with
    frameWord := if k.inFrame = 0 then frameWordOf k.frame else k.frameWord
    frame := if k.inFrame = 4 then k.frame + 1 else k.frame
    inFrame := (k.inFrame + 1) % 5 }

/-- A NAK leaves; the slot was the first of its tick if an idle flit was due, which is due no longer (R294). -/
def sendNak (s : State) (p : Nat) (q : Port) : State :=
  (transmit s p q (plainFlit 2 (List.replicate 244 0))).updLink p q (fun k => { k with nakOwed := false, idleDue := false })

/-- What leaves in one flit slot (R294). -/
def flitSlot (s : State) (p : ParcelId) (q : Port) : State :=
  let k := s.link p q
  if k.nakOwed then sendNak s p q
  else if k.idleDue then sendIdle s p q
  else match k.resend with
    | f :: _ => sendAgain s p q f
    | [] =>
      if 512 ≤ k.retry.length then sendIdle s p q
      else match ctlReady s k with
        | some c => sendCtl s p q c
        | none =>
          if k.state ≠ .up then sendIdle s p q
          else match chooseVc k with
            | some v => sendData s p q v
            | none => sendIdle s p q

/-- FLIT_SLOT (R294): a river link that sends flits, in NEGOTIATE or UP. The UCIe ports carry their traffic without the
flits of this model (log 32). -/
def execFlitSlot (p : ParcelId) (port : Port) (s : State) : Out :=
  .next (if linkTalks s p port then flitSlot (s.updLink p port frameStep) p port else s)

/-- What a tick boundary does to a link (R294, R303, R308): an idle flit is due, missed ticks are counted, a version
switch comes nearer. -/
def Link.tick (k : Link) : Link :=
  { k with idleDue := decide (k.state = .up) || k.idleDue,
           missed := if k.state = .up then (if k.idleSeen then 0 else k.missed + 1) else 0, idleSeen := false,
           verTicks := k.verTicks.map (fun n => n - 1) }

/-! ### Packets at a parcel -/

/-- The leg on which a packet in the inbox came: bit 1 of its channel (R295). -/
def arrivedLeg (s : State) (p : Nat) (k : Packet) : Nat :=
  match (s.parcel p).fab.inbox.find? (fun x => x.2 = k) with
  | some x => bvf x.1 1 1
  | none => 0

/-- PACKET_FORWARD (R314): forwarded unchanged, or dropped and counted. -/
def execPacketForward (p : ParcelId) (k : Packet) (s : State) : Out :=
  .next (
    if k.dst.toNat = s.dev then s
    else
      let leg := arrivedLeg s p k
      let s1 := s.updFab p (fun f => { f with inbox := dropInbox k f.inbox })
      if tooOld s k then bumpPcnt s1 p 10 1 else forwardPacket s1 p leg k)

/-- The conditions of a landing, in order: the result code (R322). -/
def landingResult (s : State) (p : Nat) (k : Packet) : Nat :=
  let w := SMap.get 0 (s.parcel p).fab.rxWin k.win.toNat
  let a := bvf w 32 23 * 4096 + k.off.toNat
  let cells := cellsOf a k.body
  if !bvb w 0 then 1
  else if !(bvb w 1 || bvf w 2 14 == k.src.toNat) then 2
  else if 4096 * bvf w 64 24 < k.off.toNat + k.body.length then 3
  else if !(poisoned s (.sm p)).isEmpty && (touched (.sm p) cells).any (fun u =>
      (poisoned s (.sm p)).contains u && !covers (.sm p) cells u) then 4
  else 0

/-- A message lands in its window: the bytes, then the count, the interrupt and the barrier arrival (R322, R345). -/
def land (s : State) (p : Nat) (k : Packet) : State :=
  let n := k.win.toNat
  let w := SMap.get 0 (s.parcel p).fab.rxWin n
  let s1 := devWrite s (.sm p) k.src.toNat (cellsOf (bvf w 32 23 * 4096 + k.off.toNat) k.body)
  let s2 := bumpPcnt s1 p 6 1
  let s3 := s2.updFab p (fun f => { f with rxWin := SMap.put f.rxWin n (putField w 96 32 (satAdd 32 (bvf w 96 32) 1)) })
  let s4 := if bvb (s.parcel p).mon.intWin n then setInt s3 p 2 else s3
  if bvb w 16 then parcelArrive s4 p (bvf w 17 4) else s4

/-- The answer of a message (R322). -/
def answerMessage (s : State) (p : Nat) (k : Packet) (result : Nat) : State :=
  let a : Packet := { ptype := 1, dst := k.src, src := 0, via := 0, viaEn := false, dir0 := 0, dir1 := 0, id := k.id,
                      gen := 0, win := 0, off := 0, stamp := 0, tag := 0, pver := 0, body := leBytes 1 result }
  (sendPacket s p a).1

/-- A message is landed or refused, and answered (R322). A landing that poison refuses raises MEM_UE (R352). -/
def messageIn (s : State) (p : Nat) (k : Packet) : State :=
  let c := landingResult s p k
  let w := SMap.get 0 (s.parcel p).fab.rxWin k.win.toNat
  let cells := cellsOf (bvf w 32 23 * 4096 + k.off.toNat) k.body
  let s1 := if c = 0 then land s p k
    else if c = 4 then ((touched (.sm p) cells).filter (fun u => (poisoned s (.sm p)).contains u)).foldl
      (fun s u => raiseUe s (.sm p) u k.src.toNat) s
    else s
  answerMessage s1 p k c

/-- MESSAGE_PACKET_RX (R322). A parcel in CONTAIN has no link and takes none. -/
def execMessagePacketRx (p : ParcelId) (k : Packet) (s : State) : Out :=
  .next (if k.ptype ≠ 0 || decide ((s.parcel p).state = .contain) then s
    else match acceptPacket s p k with
      | (s1, true) => messageIn s1 p k
      | (s1, false) => s1)

/-- The answer packet with an identifier in the inbox, if it lies there. -/
def answerInInbox (s : State) (p : Nat) (id : BitVec 16) : Option Packet :=
  inInbox s p 1 id

/-- An answer counts its message (R318, R322), unless Q has passed since the injection (R323). -/
def messageAnswered (s : State) (p : Nat) (id : BitVec 16) (result : Byte) : State :=
  match (s.parcel p).fab.msgs.find? (fun m => m.id == id) with
  | none => s
  | some m =>
    if m.count + s.qTicks ≤ s.datum.count then s
    else
      let s1 := s.updFab p (fun f => { f with msgs := f.msgs.filter (fun x => x.id != id) })
      if result = 0 then countDelivered s1 p m.chan else countRefused s1 p m.chan

/-- MESSAGE_ANSWER_RX (R322). -/
def execMessageAnswerRx (p : ParcelId) (id : BitVec 16) (result : Byte) (s : State) : Out :=
  .next (match answerInInbox s p id with
    | none => messageAnswered s p id result
    | some k => match acceptPacket s p k with
      | (s1, true) => messageAnswered s1 p id result
      | (s1, false) => s1)

/-- MESSAGE_LOST (R323): Q after its injection without an answer. -/
def execMessageLost (p : ParcelId) (id : BitVec 16) (s : State) : Out :=
  .next (match (s.parcel p).fab.msgs.find? (fun m => m.id == id) with
    | none => s
    | some m =>
      if m.count + s.qTicks ≤ s.datum.count then
        countLost (s.updFab p (fun f => { f with msgs := f.msgs.filter (fun x => x.id != id) })) p m.chan
      else s)

end Sys2Proof.Machine
end

