-- ==== Sys2Proof/Machine/Datum.lean ====
section
/-!
DEFINITION. The datum (10 R261 to R273): the tick boundary, the reference inputs, in-band sources, the states, loss and
holdover, and the corrections of the count. Slewing (R272) changes only the wall-clock length of a cc, which no command
shows.
-/

namespace Sys2Proof.Machine

/-! ### Positions, in 0.1 ns since count 0 -/

/-- A tick in 0.1 ns. -/
def State.tick10 (s : State) : Nat := s.tickNs * 10

/-- Cycles of 1.5 GHz in 0.1 ns. -/
def cyc10 (n : Nat) : Nat := n * 20 / 3

/-- The package's own position. -/
def ownPos (s : State) : Nat := s.datum.count * s.tick10 + cyc10 s.phase

/-- Place the package at a position: count and phase. -/
def atPos (s : State) (pos : Nat) : State :=
  { s with phase := min (pos % s.tick10 * 3 / 20) (s.nMax - 1), datum := { s.datum with count := pos / s.tick10 } }

/-- The position of the partner of a link now: its last idle flit, the time since, and the link's delay (R266). Its
offset is read at this parcel's cycles per tick. -/
def partnerPos (s : State) (p : Nat) (q : Port) : Nat :=
  let k := s.link p q
  k.srcCount * s.tick10 + (if s.nc p = 0 then 0 else k.srcOff * s.tick10 / s.nc p) + cyc10 (s.wall - k.srcWall) + k.lat.toNat

/-! ### States -/

/-- Bring DATUM_STATUS.hops up to date. -/
def refreshHops (s : State) : State := s.updDatum (fun d => { d with hops := BitVec.ofNat 6 (advertised s) })

/-- A STAK ARM held while the datum was UNSET comes to issue (R270). -/
def wakeUnset (s : State) : State :=
  forParcels s (fun s p => s.updParcel p (fun x => { x with
    reaches := x.reaches.map (fun e => (e.1, { e.2 with
      task := { e.2.task with wait := if e.2.task.wait = .unset then .none else e.2.task.wait } })) }))

/-- Enter a datum state; a change sets HUB_INT_STAT.datum (R346). -/
def enterDatum (s : State) (st : DatumState) : State :=
  let s0 := if s.datum.state = .unset && decide (st ≠ .unset) then wakeUnset s else s
  let s1 := refreshHops (s0.updDatum (fun d => { d with state := st }))
  if s.datum.state = st then s1 else setHubInt s1 2

/-- The state goes to HOLDOVER: the loss is remembered for DATUM_LOSS (R271, R286). -/
def enterHoldover (s : State) (lost : Nat) : State :=
  enterDatum (s.updDatum (fun d => { d with lostAt := d.count, lostSrc := lost })) .holdover

/-! ### Differences (R265, R272, R273) -/

/-- A phase error as DATUM_STATUS shows it: reference minus own, in cc of parcel 0, modulo 2^16. -/
def phaseCc (s : State) (diff : Int) : BitVec 16 := BitVec.ofInt 16 ((diff * (s.nc 0 : Int)).tdiv (s.tick10 : Int))

/-- DATUM_JUMP (R286). -/
def raiseJump (s : State) (ref j : Nat) (behind : Bool) : State :=
  let now := s.now 0
  raise s (srcHub 0) evDatumJump (packFields [(8, now.count), (2, now.off), (8, ref), (1, b2n behind), (4, j)] [])

/-- A lock, an adoption or a pulse compares a position with the package's own: a tick or more is corrected at the next
tick boundary, less is slewed. A comparison that finds the correction which waits already changes nothing, and one that finds
less than a tick takes a waiting correction back; none is made while the clocks are gated (log 104). -/
def compareDatum (s : State) (pos ref : Nat) : State :=
  let diff : Int := (pos : Int) - (ownPos s : Int)
  let j := diff.natAbs / s.tick10
  let s1 := s.updDatum (fun d => { d with phaseErr := phaseCc s diff })
  let found : Option Jump := if j = 0 then none else some (if diff < 0 then .behind j else .ahead (s.datum.count + 1 + j))
  if s.datum.gated.isSome then s
  else if j = 0 then s1.updDatum (fun d => { d with jump := none })
  else if s.datum.jump = found then s1
  else (raiseJump s1 ref j (decide (diff < 0))).updDatum (fun d => { d with jump := found })

/-! ### The tick boundary -/

/-- A root leaves UNSET at the next local tick (R270). -/
def rootDue (d : Datum) : Bool :=
  d.root && d.armed && (d.src == 1 || (d.src == 2 && !d.qualified))

/-- In CABLED the epoch boundary of the tick that ends had a pulse, or miss counts it (R271). -/
def epochCheck (d : Datum) : Datum :=
  if d.state = .cabled && d.count % 65536 == 0 then
    (if d.seen then { d with seen := false, missedLast := false }
    else { d with miss := BitVec.ofNat 8 (satAdd 8 d.miss.toNat 1), missedLast := true })
  else d

/-- The epoch boundary of the tick that ends is the second in a row without a pulse: the reference is lost (R271). -/
def twoMissed (d : Datum) : Bool := decide (d.state = .cabled) && d.count % 65536 == 0 && !d.seen && d.missedLast

/-- The cabled reference is lost (R270, R271). -/
def referenceLost (s : State) : State :=
  let s1 := s.updDatum (fun d => { d with qualified := false, missedLast := false })
  if s.datum.state = .cabled then enterHoldover s1 255 else s1

/-- A tick boundary in the power state of a parcel: written weights, floor and f_min take effect, a raised f_min raises the
caps (R437), and the throttle times run (R436). -/
def Power.tick (w : Power) : Power :=
  { w with
    weight := w.weightNew, floor := w.floorNew, fMin := w.fMinNew
    pwrCap := max w.pwrCap w.fMinNew.toNat, thermCap := max w.thermCap w.fMinNew.toNat
    thrSince := w.thrSince.map (fun e => (e.1, e.2 + 1))
    thrCool := w.thrCool.map (fun e => (e.1, if SMap.get 0 w.sensors (16 + e.1) < 950 then e.2 + 1 else 0)) }

/-- A tick boundary in the counters of a parcel: the tick that ends counts in PCNT[14], [18] and [19] (R443), then a
freeze or its end takes effect, and an asked snapshot is due (R445, R446). -/
def tickMon (m : Monitors) (w : Power) : Monitors :=
  let c := if m.frozen then m.cnt else
    cntBump (cntBump (cntBump m.cnt 14 (b2n w.held)) 18 (b2n (w.thrLevel.any (fun e => decide (0 < e.2))))) 19
      (b2n (decide (w.now < w.sched)))
  { m with cnt := c, cntOld := c, frozen := m.freezeAsked, snapDue := m.snapDue || m.snapAsked, snapAsked := false }

/-- A tick boundary in a parcel; a new epoch starts a new count of corrected errors (R403). -/
def Parcel.tick (x : Parcel) (epoch : Bool) : Parcel :=
  { x with
    pwr := x.pwr.tick
    mon := tickMon x.mon x.pwr
    links := x.links.map (fun k => (k.1, k.2.tick))
    reaches := if epoch then x.reaches.map (fun e => (e.1, { e.2 with task := { e.2.task with ceCount := 0 } }))
      else x.reaches }

/-- The rest of the tick passes and a tick boundary follows, at which the count becomes `count`: a written tick length
takes effect (R263), every link sees the boundary, and an ordered stay quiesce reaches its stake (R417). -/
def tickBoundary (s : State) (count : Nat) : State :=
  let s1 := passTo s s.nMax
  let s2 : State := { s1 with
    phase := 0
    stay := { s1.stay with due := s1.stay.quiesce }
    datum := { epochCheck s1.datum with count := count, tick := s1.datum.tickNew.getD s1.datum.tick, tickNew := none }
    parcels := s1.parcels.map (fun e => (e.1, e.2.tick (s1.datum.count / 65536 != count / 65536))) }
  if twoMissed s1.datum then referenceLost s2 else s2

/-- DATUM_TICK (R261, R270): in UNSET the count stays 0 and a root that is due loads its count; a boundary at which a
correction is due, or that is held while the clocks are gated, is none of these. The count of the model has no top: the spec
states nothing past 2^64 - 1 (DESIGN CHOICE, log 100). -/
def execDatumTick (s : State) : Out :=
  .next (
    if s.datum.jump.isSome || s.datum.gated.isSome then s
    else if s.datum.state = .unset then
      (if rootDue s.datum then
        enterDatum ((tickBoundary s s.datum.load.toNat).updDatum (fun d => { d with armed := false })) .root
      else tickBoundary s 0)
    else tickBoundary s (s.datum.count + 1))

/-- DATUM_JUMP_CORRECTION (R273). -/
def execDatumJumpCorrection (s : State) : Out :=
  .next (match s.datum.jump with
    | none => s
    | some (.ahead target) =>
      (tickBoundary s target).updDatum (fun d => { d with
        jump := none, skipped := d.skipped ++ [(s.datum.count + 1, target)] })
    | some (.behind j) =>
      let s1 := passTo s (s.nMax - 1)
      s1.updDatum (fun d => { d with jump := none, gated := some j }))

/-- CLOCK_GATING_END (R273): the next tick begins at offset 0. -/
def execClockGatingEnd (s : State) : Out :=
  .next (match s.datum.gated with
    | none => s
    | some _ => (tickBoundary s (s.datum.count + 1)).updDatum (fun d => { d with gated := none }))

/-! ### The cabled reference -/

/-- The multiple of 65,536 ticks nearest to a position, the later one on a tie (R265). -/
def nearestEpoch (s : State) (pos : Int) : Nat :=
  let e : Int := (65536 * s.tick10 : Nat)
  (((2 * pos + e) / (2 * e)) * 65536).toNat

/-- A pulse locks the count to the reference (R270). -/
def locks (d : Datum) : Bool :=
  match d.state with
  | .cabled => true
  | .holdover => true
  | .freerun => true
  | .root => d.src == 2
  | .inband => d.src == 2
  | .unset => false

/-- A pulse outside UNSET: marked, it is compared with DATUM_LOAD, where less than a tick changes nothing; else with the
nearest epoch boundary (R265). -/
def pulseCompare (s : State) : State :=
  let d := s.datum
  let delay := d.delay.toNat
  let ref := if d.armed then d.load.toNat else nearestEpoch s ((ownPos s : Int) - delay)
  let s1 := compareDatum (s.updDatum (fun d => { d with armed := false, seen := true })) (ref * s.tick10 + delay) ref
  if locks d then enterDatum s1 .cabled else s1

/-- DATUM_SYNC_PULSE (R265, R270). A reference that does not qualify, or is not used, does nothing. -/
def execDatumSyncPulse (s : State) : Out :=
  let d := s.datum
  .next (
    if !d.qualified || d.src == 1 then s
    else if d.state = .unset then
      (if d.armed then
        let s1 := atPos s (d.load.toNat * s.tick10 + d.delay.toNat)
        enterDatum (s1.updDatum (fun d => { d with armed := false, seen := true })) .cabled
      else s)
    else pulseCompare s)

/-- REFERENCE_LOST (R270, R271). -/
def execReferenceLost (s : State) : Out := .next (referenceLost s)

/-- REFERENCE_QUALIFIED (R271): the next pulse locks or loads. -/
def execReferenceQualified (s : State) : Out := .next (s.updDatum (fun d => { d with qualified := true }))

/-! ### In-band sources (R266, R267) -/

/-- A link is selectable as a source. -/
def selectable (s : State) (p : Nat) (q : Port) : Bool :=
  let k := s.link p q
  decide (k.state = .up) && k.srcTick == s.datum.tick && decide (k.srcHops.toNat < 63)

/-- The key of the selection: root, hops, parcel, link. -/
def sourceKey (s : State) (x : Nat × Port) : Nat :=
  let k := s.link x.1 x.2
  ((k.srcRoot.toNat * 64 + k.srcHops.toNat) * 8 + x.1) * 8 + portNo x.2

/-- Every river link of the package. -/
def riverLinks : List (Nat × Port) := (List.range 8).flatMap (fun p => riverPorts.map (fun q => (p, q)))

/-- The source that R266 takes. -/
def bestSource (s : State) : Option (Nat × Port) :=
  (riverLinks.filter (fun x => selectable s x.1 x.2)).foldl (fun b x => match b with
    | none => some x
    | some y => if sourceKey s x < sourceKey s y then some x else some y) none

/-- The package may follow in-band datum. -/
def mayFollow (d : Datum) : Bool := !d.root && d.src != 0

/-- Take a source. -/
def setSource (s : State) (x : Nat × Port) : State :=
  s.updDatum (fun d => { d with srcport := BitVec.ofNat 6 (x.1 * 8 + portNo x.2) })

/-- Compare with a source's position (R273). -/
def compareSource (s : State) (x : Nat × Port) : State :=
  let pos := partnerPos s x.1 x.2
  compareDatum s pos (pos / s.tick10)

/-- Adopt a source under R273. -/
def adopt (s : State) (x : Nat × Port) : State := enterDatum (compareSource (setSource s x) x) .inband

/-- In INBAND: the selection is made again; a source that is no longer selectable is lost (R267, R270). -/
def reselect (s : State) (sender : Nat × Port) : State :=
  match bestSource s with
  | none => enterHoldover s s.datum.srcport.toNat
  | some x =>
    if x.1 * 8 + portNo x.2 = s.datum.srcport.toNat then
      (if x = sender then refreshHops (compareSource s x) else refreshHops s)
    else adopt s x

/-- A datum record has come (R270). -/
def followDatum (s : State) (sender : Nat × Port) : State :=
  if !mayFollow s.datum then s
  else match s.datum.state with
    | .unset =>
      (match bestSource s with
        | some x => enterDatum (atPos (setSource s x) (partnerPos s x.1 x.2)) .inband
        | none => s)
    | .freerun =>
      (match bestSource s with
        | some x => adopt s x
        | none => s)
    | .inband => reselect s sender
    | .cabled => s
    | .root => s
    | .holdover => s

/-- The datum record of a payload enters the link (R292). -/
def recordIn (s : State) (p : Nat) (q : Port) (bs : List Byte) : State :=
  let w := leVal ((bs.drop 8).take 2)
  s.updLink p q (fun k => { k with
    idleSeen := true, srcCount := leVal (bs.take 8), srcOff := field w 0 13, srcTick := BitVec.ofNat 3 (field w 13 3),
    srcRoot := BitVec.ofNat 14 (leVal ((bs.drop 10).take 2)), srcHops := BitVec.ofNat 6 (leVal ((bs.drop 12).take 1)),
    srcWall := s.wall })

/-- IDLE_FLIT_RX (R266, R292): a flit with a valid CRC on a link in UP. -/
def execIdleFlitRx (p : ParcelId) (port : Port) (f : Flit) (s : State) : Out :=
  if f.payload.length ≠ 244 then .fault (.illFormed "a payload of 244 bytes")
  else .next (
    if isRiver port && decide ((s.link p port).state = .up) && f.ftype == 0 && f.crc == flitCrc f then
      followDatum (recordIn (flitCommon s p port f) p port f.payload) (p, port)
    else s)

/-- SOURCE_LINK_LOST (R270): the in-band source's link has left UP. -/
def execSourceLinkLost (s : State) : Out :=
  .next (
    if s.datum.state = .inband && decide ((sourceLink s).state ≠ .up) then
      (match bestSource s with
        | some x => if mayFollow s.datum then adopt s x else enterHoldover s s.datum.srcport.toNat
        | none => enterHoldover s s.datum.srcport.toNat)
    else s)

/-- DATUM_LOSS (R286): what was lost, the count then, the state entered. -/
def raiseLoss (s : State) (entered : Nat) : State :=
  raise s (srcHub 0) evDatumLoss (packFields [(1, s.datum.lostSrc), (8, s.datum.lostAt), (1, entered)] [])

/-- HOLDOVER_EXPIRY (R270): 10 ms in holdover. -/
def execHoldoverExpiry (s : State) : Out :=
  .next (
    if s.datum.state = .holdover && decide (s.datum.lostAt + s.ticksUp 10 ≤ s.datum.count) then
      (match bestSource s with
        | some x => if mayFollow s.datum then adopt (raiseLoss s 2) x else enterDatum (raiseLoss s 5) .freerun
        | none => enterDatum (raiseLoss s 5) .freerun)
    else s)

/-! ### Registers (R269) -/

/-- A write of DATUM_CFG that the access rules let through: a tick length takes effect at once while UNSET, else at the
next tick boundary (R263). -/
def datumCfgSet (s : State) (v : Word) : State :=
  let tick := BitVec.ofNat 3 (bvf v 2 3)
  let now := s.datum.state = .unset
  let s1 := s.updDatum (fun d => { d with
    src := BitVec.ofNat 2 (bvf v 0 2), root := bvb v 5, delay := BitVec.ofNat 16 (bvf v 16 16),
    tick := if now then tick else d.tick, tickNew := if now || d.tick == tick then none else some tick })
  refreshHops (if now && tick != s.datum.tick then { s1 with phase := 0 } else s1)

/-- The value of DATUM_CFG. -/
def datumCfgWord (d : Datum) : Word :=
  BitVec.ofNat 64 (d.src.toNat + (d.tickNew.getD d.tick).toNat * 4 + b2n d.root * 32 + d.delay.toNat * 2 ^ 16)

/-- A write of DATUM_LOAD arms it; a value off an epoch boundary is discarded. -/
def datumLoadSet (s : State) (v : Word) : State :=
  if bvf v 0 16 = 0 then s.updDatum (fun d => { d with load := v, armed := true }) else s

/-- The value of DATUM_STATUS. -/
def datumStatusWord (d : Datum) : Word :=
  let st := match d.state with
    | .unset => 0 | .cabled => 1 | .inband => 2 | .root => 3 | .holdover => 4 | .freerun => 5
  BitVec.ofNat 64 (st + b2n d.armed * 8 + d.hops.toNat * 2 ^ 4 + d.srcport.toNat * 2 ^ 10 + d.miss.toNat * 2 ^ 16 +
    d.phaseErr.toNat * 2 ^ 24)

end Sys2Proof.Machine
end

