-- ==== Sys2Proof/Machine/Monitor.lean ====
section
/-!
DEFINITION. The monitors of a parcel: counter freeze and snapshot, port bandwidth and sampling (16 R445 to R450), the
calibration windows (04 R112), the channel-skew windows and the rotation of the channel key (08 R242 to R244).
-/

namespace Sys2Proof.Machine

/-- A window of `w` ticks closes at the boundary at which the package stands, and has not closed there before. -/
def closesNow (s : State) (w : Nat) (last : Option Nat) : Bool :=
  atBoundary s && decide (w ≠ 0) && s.datum.count % w == 0 && decide (last ≠ some s.wall)

/-! ### Freeze and snapshot (R445, R446) -/

/-- Every live counter of a parcel is copied into its snapshot words as it stood before this cc (R440); a second request at
one boundary gives the same snapshot. -/
def takeSnapshot (s : State) (p : Nat) : State :=
  let m := (s.parcel p).mon
  if m.snapWall = some s.wall then s.updMon p (fun m => { m with snapDue := false })
  else
    let s1 := (s.mark (.snapDone p)).updParcel p (fun x => { x with
      clusters := x.clusters.map (fun e => (e.1, { e.2 with snap := e.2.cntOld }))
      reaches := x.reaches.map (fun e => (e.1, { e.2 with snap := e.2.cntOld }))
      mon := { x.mon with
        snap := x.mon.cntOld, snapDue := false, snapDone := true, snapSeq := x.mon.snapSeq + 1,
        snapCount := s.datum.count, snapClock := x.pwr.now, snapFrozen := x.mon.frozen, snapWall := some s.wall } })
    s1.updDict (fun d => { d with
      snaps := if d.snapWall = some s.wall then d.snaps else d.snaps + 1, snapWall := some s.wall })

/-- COUNTER_SNAPSHOT (R446): at the tick boundary after the request, as step 6 of R32. -/
def execCounterSnapshot (p : ParcelId) (s : State) : Out :=
  .next (if s.phase == 0 && (s.parcel p).mon.snapDue && closingsDone s p && !boundaryWaits s p then takeSnapshot s p else s)

/-- A write of PERF_CTL (R445). -/
def perfCtlSet (s : State) (p : Nat) (v : Word) : State :=
  s.updMon p (fun m => { m with
    freezeAsked := bvb v 0, snapAsked := m.snapAsked || bvb v 1
    snapDone := w1c m.snapDone (bvb v 2) (s.marked (.snapDone p)) })

/-- The value of PERF_CTL. -/
def perfCtlWord (m : Monitors) : Word :=
  BitVec.ofNat 64 (b2n m.freezeAsked + b2n m.snapDone * 4 + m.snapSeq.toNat * 2 ^ 32)

/-- A write of 1 to 0x8000:02: a snapshot of every parcel at the next tick boundary (R446). -/
def snapshotAll (s : State) : State := forParcels s (fun s p => s.updMon p (fun m => { m with snapAsked := true }))

/-- SNAPSHOT_ON_COMMAND (R446). -/
def execSnapshotOnCommand (s : State) : Out := .next (snapshotAll s)

/-! ### Port bandwidth (R448) -/

/-- BW_PORT[k] after the close of a window of `w` ticks in which `n` bytes passed. -/
def bwClosed (s : State) (w n : Nat) (old : BitVec 128) : BitVec 128 :=
  let bytes := min n (2 ^ 48 - 1)
  let rate := if w = 0 then 0 else bytes * 1000 / (w * s.tickNs)
  BitVec.ofNat 128 (bytes + place 64 32 rate + place 96 32 (bvf old 96 32 + 1))

/-- BW_WINDOW_CLOSE (R448): the bytes of the boundary's cc belong to the new window. -/
def execBwWindowClose (p : ParcelId) (s : State) : Out :=
  let m := (s.parcel p).mon
  let w := bvf m.bwCfg 0 20
  .next (if closesNow s w m.bwWall then
      s.updMon p (fun m => { m with
        bwPort := (List.range 24).map (fun k =>
          (k, bwClosed s w (SMap.get 0 m.bwAcc k - SMap.get 0 m.bwInc k) (SMap.get 0 m.bwPort k))),
        bwAcc := m.bwInc, bwWall := some s.wall, bwCfg := m.bwNext.getD m.bwCfg, bwNext := none })
    else s)

/-- A write of BW_CFG takes effect at the next close; while measurement is off there is none, and it does so at once. -/
def bwCfgSet (s : State) (p : Nat) (v : Word) : State :=
  s.updMon p (fun m =>
    let w := v &&& 0xFFFFF#64
    if bvf m.bwCfg 0 20 = 0 then { m with bwCfg := w, bwNext := none, bwAcc := [] } else { m with bwNext := some w })

/-! ### Sampling (R449, R450) -/

/-- The writable bits of SAMPLE_CFG. -/
def sampleMask : Word := 0xFFFFFFFFFFFFF#64

/-- A write of SAMPLE_CFG: en from 0 to 1 loads every countdown and starts a new record file. -/
def sampleCfgSet (s : State) (p : Nat) (v : Word) : State :=
  let m := (s.parcel p).mon
  let w := v &&& sampleMask
  let s1 := s.updMon p (fun m => { m with smpCfg := w })
  if bvb v 0 && !bvb m.smpCfg 0 then
    let s2 := s1.updMon p (fun m => { m with smpNext := 0, smpFull := false, smpWritten := 0, smpDropped := 0 })
    forReaches s2 (fun s l => s.updTask p l (fun t => { t with sampleCd := bvf w 32 20 + 1 }))
  else s1

/-- The value of SAMPLE_STAT. -/
def sampleStatWord (m : Monitors) : Word :=
  BitVec.ofNat 64 (m.smpNext.toNat + b2n m.smpFull * 2 ^ 10 + m.smpWritten.toNat * 2 ^ 16 + m.smpDropped.toNat * 2 ^ 48)

/-- The first record of the queue goes into slot `next`. -/
def writeSample (m : Monitors) : Monitors :=
  match m.smpQueue with
  | [] => m
  | d :: rest =>
    let r := d.bytes
    if bvb m.smpCfg 1 && m.smpFull then
      { m with smpQueue := rest, smpDropped := BitVec.ofNat 16 (satAdd 16 m.smpDropped.toNat 1) }
    else
      let n := satAdd 32 m.smpWritten.toNat 1
      let v : BitVec 512 := putField (BitVec.ofNat 512 (leVal r)) (52 * 8) 32 n
      { m with
        smpQueue := rest, smpBuf := SMap.put m.smpBuf m.smpNext.toNat v, smpNext := m.smpNext + 1,
        smpWritten := BitVec.ofNat 32 n, smpFull := m.smpFull || decide (1024 ≤ n) }

/-- SAMPLE_RECORD_WRITE (R450): at most one record per cc. -/
def execSampleRecordWrite (p : ParcelId) (s : State) : Out :=
  let x := s.parcel p
  .next (if x.mon.smpQueue.isEmpty || decide (x.mon.smpCyc = some x.cyc) then s
    else s.updMon p (fun m => { writeSample m with smpCyc := some x.cyc }))

/-! ### Calibration windows (R111, R112) -/

/-- The close of monitor `m` of a reach: its snapshot, the drift check at the limits in force, and cleared accumulators. -/
def calClose (s : State) (p l m : Nat) : State :=
  let r := s.reach p l
  let a := SMap.get ({} : CalAcc) r.calAcc m
  let u := SMap.get ((0 : Word), (0 : Word)) r.calUse m
  let drift := decide (0 < a.count) && (decide (bvf u.2 32 32 < a.clamps) || decide (bvf u.1 32 32 * a.count < a.sumSq))
  let s1 := if drift then raise s (srcReach p l) evCalibDrift
    (packFields [(1, m), (1, l), (4, a.count), (4, a.clamps), (4, a.sumSq / 2 ^ 32)] []) else s
  let cfg := SMap.get 0 r.calCfg m
  let s2 := if drift then s1.mark (.drift p l m) else s1
  s2.updReach p l (fun r => { r with
    calSnap := SMap.put r.calSnap m a, calAcc := SMap.erase r.calAcc m, calWall := SMap.put r.calWall m s.wall,
    calCfg := if drift then SMap.put r.calCfg m (putBit cfg 1 true) else r.calCfg,
    calUse := SMap.put r.calUse m (cfg, SMap.get 0 r.calWin m) })

/-- CAL_WINDOW_CLOSE (R112). -/
def execCalWindowClose (p : ParcelId) (l : ReachId) (m : Fin 4) (s : State) : Out :=
  let r := s.reach p l
  .next (if closesNow s (bvf (SMap.get 0 r.calWin m) 0 20) (SMap.find r.calWall m) then calClose s p l m else s)

/-- A write of CAL_CFG[m]: drift is W1C, `set` where the hardware has set it in this cycle; enable 0 clears the accumulators
at once. -/
def calCfgSet (r : Reach) (m : Nat) (v : Word) (set : Bool) : Reach :=
  let old := SMap.get 0 r.calCfg m
  let w := putBit (v &&& 0xFFFFFFFFFFFF0001#64) 1 (w1c (bvb old 1) (bvb v 1) set)
  { r with calCfg := SMap.put r.calCfg m w, calAcc := if bvb v 0 then r.calAcc else SMap.erase r.calAcc m }

/-- The bytes of a calibration snapshot. -/
def calSnapBytes (a : CalAcc) (m : Nat) : List Byte :=
  if m = 0 then leBytes 4 (min a.count (2 ^ 32 - 1)) ++ leBytes 4 (min a.clamps (2 ^ 32 - 1))
  else if m = 1 then leBytes 8 (min a.sumSq (2 ^ 64 - 1))
  else if m % 2 = 0 then leBytes 8 (min (SMap.get 0 a.chCount ((m - 2) / 2)) (2 ^ 32 - 1))
  else leBytes 8 (min (SMap.get 0 a.chSum ((m - 2) / 2)) (2 ^ 64 - 1))

/-! ### Channel skew (R242) -/

/-- The close of a skew window: CHANNEL_SKEW when one group took more than its share. -/
def skewClose (s : State) (p : Nat) : State :=
  let m := (s.parcel p).mon
  let total : Nat := (m.skewAcc.map (fun e => e.2)).foldl (· + ·) 0
  let g := (List.range 32).foldl (fun b k => if SMap.get 0 m.skewAcc b < SMap.get 0 m.skewAcc k then k else b) 0
  let n := SMap.get 0 m.skewAcc g
  let s1 := if decide (0 < total) && decide (bvf m.skewCfg 20 8 * total < 256 * n) then
    raise s (srcParcel p 0) evChannelSkew (packFields [(1, g), (4, n), (4, total), (4, (s.parcel p).keys.key.toNat)] []) else s
  s1.updMon p (fun m => { m with
    skewAcc := [], skewWall := some s.wall, skewCfg := m.skewNext.getD m.skewCfg, skewNext := none })

/-- CHANNEL_SKEW_WINDOW_CLOSE (R242). -/
def execChannelSkewWindowClose (p : ParcelId) (s : State) : Out :=
  let m := (s.parcel p).mon
  .next (if closesNow s (bvf m.skewCfg 0 20) m.skewWall then skewClose s p else s)

/-- A write of CHAN_SKEW_CFG takes effect at the next close; while detection is off, at once. -/
def skewCfgSet (s : State) (p : Nat) (v : Word) : State :=
  s.updMon p (fun m =>
    let w := v &&& 0xFFFFFFF#64
    if bvf m.skewCfg 0 20 = 0 then { m with skewCfg := w, skewNext := none, skewAcc := [] } else { m with skewNext := some w })

/-! ### Rotation of the channel key (R243, R244) -/

/-- Change the key registers of a parcel. -/
def updKeys (s : State) (p : Nat) (f : ChanKeys → ChanKeys) : State := s.updParcel p (fun x => { x with keys := f x.keys })

/-- A write of a word of CHAN_ROTATE; discarded as a whole while busy. -/
def chanRotateSet (s : State) (p w : Nat) (v : Word) : State :=
  updKeys s p (fun k =>
    if k.busy then k
    else if w = 0 then { k with arm := bvb v 0, done := w1c k.done (bvb v 2) (s.marked (.rotated p)) }
    else { k with tick := v })

/-- The words of CHAN_ROTATE. -/
def chanRotateWord (k : ChanKeys) : BitVec 128 :=
  BitVec.ofNat 128 (b2n k.arm + b2n k.busy * 2 + b2n k.done * 4 + k.mark.toNat * 8 + k.tick.toNat * 2 ^ 64)

/-- ROTATION_START (R244): at its stake, or at the first tick after it. -/
def execRotationStart (p : ParcelId) (s : State) : Out :=
  let k := (s.parcel p).keys
  .next (if k.arm && atBoundary s && decide (k.tick.toNat ≤ s.datum.count) then
      updKeys s p (fun k => { k with latched := k.keyNext, busy := true, arm := false, mark := 0 })
    else s)

/-- ROTATION_BLOCK_MIGRATED (R244): mark advances; after block 196,607 the new key is in force. -/
def execRotationBlockMigrated (p : ParcelId) (s : State) : Out :=
  let k := (s.parcel p).keys
  let s1 := if k.busy && decide (196608 ≤ k.mark.toNat + 1) then s.mark (.rotated p) else s
  .next (updKeys s1 p (fun k =>
    if !k.busy then k
    else if k.mark.toNat + 1 < 196608 then { k with mark := k.mark + 1 }
    else { k with key := k.latched, busy := false, done := true, mark := 0 }))

end Sys2Proof.Machine
end

