-- ==== Sys2Proof/Machine/Contain.lean ====
section
/-!
DEFINITION. Memory errors of the stacked memory (12 R349 to R353), spare reaches (14 R403 to R406), fencing a parcel
(14 R407 to R409), the reset of a parcel and the end of its training (13 R376, 09 R248, 11 R320).
-/

namespace Sys2Proof.Machine

/-! ### Stacked memory (R351, R352) -/

/-- The source that names the scrub in a record. -/
def scrubSource : Nat := 0xFFFF

/-- SCRUB_SECTOR (R349): a corrected sector is written back, an uncorrectable one poisoned in place, whether the error stood
there already or is the one that the operand names. -/
def execScrubSector (p : ParcelId) (sector : Nat) (err : CellError) (s : State) : Out :=
  .next (
    if !relays s p || decide (Config.smSize ≤ sector * 64) then s
    else settle (plantIn s (.sm p) (sector * 64) 64 err) (.sm p) (sector * 64) 64 scrubSource)

/-! ### Fencing (R407, R408) -/

/-- A fenced reach: issue stops, instructions in flight are discarded, the open step closes (R282, R408). -/
def Reach.fenced (r : Reach) : Reach :=
  { r with flights := [], task := { r.task with
    run := false, fault := r.task.fault || r.task.stopFault, halt := r.task.halt || r.task.stopHalt
    stopFault := false, stopHalt := false, step := none, wait := .none, arm := none } }

/-- A barrier that nothing waits at any more. -/
def Barrier.emptied (b : Barrier) : Barrier :=
  { b with arrived := b.arrived - BitVec.ofNat 8 b.waiting.length, waiting := [] }

/-- A reach whose TASK_CTL.fault or halt becomes 1 as it is fenced: a stop was on its way (R164, R345). -/
def Reach.stopsFenced (r : Reach) : Bool := (r.task.stopFault && !r.task.fault) || (r.task.stopHalt && !r.task.halt)

/-- The writes that the reaches of a parcel have posted become visible: their controllers have taken them (R356, log 105). -/
def drainParcel (s : State) (p : Nat) : State := drainIf s (fun w => decide (w.writer / 1024 = p))

/-- The package has given the parcel power and taken it out of its cold start: it is in any state but OFF and IDENTIFY. -/
def powered (s : State) (p : Nat) : Bool :=
  match (s.parcel p).state with
  | .off => false
  | .identify => false
  | _ => true

/-- A UCIe port comes up with its partner (R327, R328): the negotiation of R300 has found version `v`; its round trip, a
measured time, is a free value. -/
def ucieUp (s : State) (p : Nat) (q : Port) (v : Nat) : State :=
  (s.updLink p q (fun k => { k with state := .up, ver := BitVec.ofNat 4 v, peer := BitVec.ofNat 14 s.dev, pport := 0,
                                    lat := BitVec.ofNat 16 s.freeValue })).useFree

/-- The two ends of a ring link negotiate (R300, R306, R328): without a common version both ports raise PEER_VERSION and go
to HOLD; an end that speaks a higher version than the common one raises it too, and both come up. -/
def ringNegotiate (s : State) (p n : Nat) (q r : Port) : State :=
  let f := (s.parcel p).fab
  let g := (s.parcel n).fab
  let peer (s : State) (a : Nat) (port : Port) (h : Fabric) (v : Nat) : State :=
    raisePeer s a port h.linkMax.toNat h.linkMin.toNat v
  match negVersion f g.linkMax.toNat g.linkMin.toNat with
  | none =>
    ((peer (peer s p q g 0) n r f 0).updLink p q (fun k => { k with state := .hold })).updLink n r (fun k => { k with state := .hold })
  | some v =>
    let s1 := if v < f.linkMax.toNat then peer s p q g v else s
    let s2 := if v < g.linkMax.toNat then peer s1 n r f v else s1
    ucieUp (ucieUp s2 p q v) n r v

/-- The ports between a parcel and its ring neighbours, and its hub port, come up once both ends are out of reset; the hub
speaks every version that the parcel does (log 106). -/
def ucieStart (s : State) (p : Nat) : State :=
  let ring (s : State) (minus : Bool) : State :=
    let n := ringNext p minus
    if relays s n then ringNegotiate s p n (if minus then .ringMinus else .ringPlus) (if minus then .ringPlus else .ringMinus)
    else s
  ring (ring (ucieUp s p .hubPort (s.parcel p).fab.linkMax.toNat) false) true

/-- A parcel enters CONTAIN, in whatever state it has power (R407, R408); entry 0x9p10:02 records the cause. One that was in
reset starts its UCIe ports: they run in every state but reset (R328, R329). -/
def contain (s : State) (p cause : Nat) : State :=
  if !powered s p || decide ((s.parcel p).state = .contain) then s
  else
    let stops := (List.range 128).filter (fun l => (s.reach p l).stopsFenced)
    let s1 := (riverOff (drainParcel s p) p).updParcel p (fun x => { x with
      state := .contain
      containCause := BitVec.ofNat 16 cause
      reaches := x.reaches.map (fun e => (e.1, e.2.fenced))
      clusters := x.clusters.map (fun e => (e.1, { e.2 with bar := e.2.bar.map (fun b => (b.1, b.2.emptied)) }))
      bar := x.bar.map (fun b => (b.1, b.2.emptied))
      sums := []
      held := [] })
    let s2 := stops.foldl (fun t l => setInt ((t.mark (.fault p l)).mark (.halt p l)) p 0) s1
    if (s.parcel p).state = .train then ucieStart s2 p else s2

/-- Temperature of sensor `n` of parcel `p` (R433): 48 to 51 are the hub's. -/
def sensorOf (s : State) (p n : Nat) : Int :=
  if n < 48 then SMap.get 0 (s.parcel p).pwr.sensors n else SMap.get 0 s.hub.pwr.hubSensors n

/-- A sensor number of a parcel that satisfies a test. -/
def sensorWith (s : State) (p : Nat) (ok : Int → Bool) : Option Nat := (List.range 52).find? (fun n => ok (sensorOf s p n))

/-- A parcel is fenced by its junction: one THERMAL_TRIP (R435, R438). -/
def thermalFence (s : State) (p n : Nat) : State :=
  if !powered s p || decide ((s.parcel p).state = .contain) then s
  else contain (raise s (srcHub 2) evThermalTrip
    (packFields [(1, p), (4, n), (2, unsignedBits 16 (sensorOf s p n))] [])) p evThermalTrip

/-- An uncorrectable error in parcel control state: MEM_UE of the parcel's register block at an offset that the command
does not tell, a free value (R401, R407). -/
def controlFault (s : State) (p : Nat) : State :=
  if !powered s p || decide ((s.parcel p).state = .contain) then s
  else contain ((raise s (srcParcel p 11) evMemUe
    (packFields [(1, p), (8, s.freeValue), (2, 0), (2, srcParcel p 11)] [])).useFree) p evMemUe

/-- PARCEL_CONTAIN (R407). The events of a cluster buffer's hard fault and of a lost hub port are raised where they are
detected (R401, R327). -/
def execParcelContain (p : ParcelId) (cause : ContainCause) (s : State) : Out :=
  .next (match cause with
    | .controlError => controlFault s p
    | .clusterBufferHard => if (s.parcel p).clusters.any (fun e => !e.2.hardUnits.isEmpty) then contain s p evMemUe else s
    | .thermalTrip =>
      (match sensorWith s p (fun t => decide (1150 ≤ t)) with
        | some n => thermalFence s p n
        | none => s)
    | .hubPortDown => if (s.link p .hubPort).state = .up then s else contain s p evLinkDown)

/-! ### Spare reaches (R404 to R406) -/

/-- Physical reach of a logical reach (R25). -/
def physReach (s : State) (p l : Nat) : Nat :=
  let c := clusterOf l
  c * 9 + SMap.get (l % 8) (s.cluster p c).reachMap (l % 8)

/-- REACH_SPARED (R406), new physical reach `dst`. -/
def raiseSpared (s : State) (p l dst : Nat) : State :=
  raise s (srcParcel p 11) evReachSpared (placeFields [(0, 1, clusterOf l), (1, 1, l), (2, 1, physReach s p l), (3, 1, dst),
    (4, 2, if (s.reach p l).task.failHard then evMemUe else evMemCe), (8, 8, s.datum.count)] [])

/-- The remap of a failing reach onto its cluster's spare, where it may happen (R404 step 5). -/
def remapReach (s : State) (p l : Nat) : State :=
  let c := clusterOf l
  let spare := (s.cluster p c).spare
  if !(mapMayChange s p l && decide (spare < 9)) then s
  else
    let s1 := raiseSpared s p l (c * 9 + spare)
    let s2 := s1.updCluster p c (fun x => { x with reachMap := SMap.put x.reachMap (l % 8) spare, spare := 255 })
    let s3 := s2.updReach p l (fun r => { task := { issueNo := r.task.issueNo } })
    s3.updDict (fun d => { d with sparings := SMap.put d.sparings p (SMap.get 0 d.sparings p + 1) })

/-- The retirement of a failing reach of a cluster without a spare (R405, R440): its TASK_CTL.fault reads 1 from here on, so
INT_STAT.stop rises (R345). -/
def retireReach (s : State) (p l : Nat) : State :=
  if !(mapMayChange s p l && decide (9 ≤ (s.cluster p (clusterOf l)).spare)) then s
  else setInt ((raiseSpared s p l 255).updReach p l (fun r => { r with
    cnt := [], cntOld := [], cntInc := [], task := { r.task with failing := false, retired := true } })) p 0

/-- REACH_REMAP (R404): step 2 of R32, after the closing steps. -/
def execReachRemap (p : ParcelId) (l : ReachId) (s : State) : Out :=
  .next (if closingsDone s p then remapReach s p l else s)

/-- REACH_RETIRE (R405): step 2 of R32, after the closing steps. -/
def execReachRetire (p : ParcelId) (l : ReachId) (s : State) : Out :=
  .next (if closingsDone s p then retireReach s p l else s)

/-! ### Reset and training of a parcel -/

/-- Every river link and every UCIe port of a parcel goes to OFF. A river link that was UP raises LINK_DOWN (R299); a
UCIe port stops with the reset, and the partner's port raises LINK_DOWN (R327, R328). -/
def portsOff (s : State) (p : Nat) : State :=
  uciePorts.foldl (fun s q => s.updLink p q (fun k => k.cleared .off)) (riverOff s p)

/-- A parcel at its reset state (R15, R248, R320): what the hub or the non-volatile store holds of it is kept, with the
stacked memory, its key registers (R243) and its power state. -/
def Parcel.afterReset (x : Parcel) (vmax vmin : BitVec 4) : Parcel :=
  { state := .train, containCause := x.containCause, gen := x.gen + 1, mem := x.mem, poison := x.poison,
    reaches := x.reaches.map (fun e => (e.1, e.2.cleared)),
    clusters := x.clusters.map (fun e => (e.1,
      { reachMap := e.2.reachMap, spare := e.2.spare, hardUnits := e.2.hardUnits, spareRows := e.2.spareRows })),
    keys := x.keys, fab := { linkMax := vmax, linkMin := vmin }, pwr := x.pwr, bank := x.bank, bankNew := x.bankNew }

/-- The firmware bank that a parcel runs. -/
def bankOf (s : State) (b : Bool) : Bank := if b then s.hub.fw.bank1 else s.hub.fw.bank0

/-- The adds that wait at the controllers of a parcel are refused as it is reset: no CONF of another parcel is left waiting
for them (R22, R86). -/
def refuseAdds (s : State) (p : Nat) : State :=
  (s.parcel p).adds.foldl (fun t a => answerAdd t p a true) (s.updParcel p (fun x => { x with adds := [] }))

/-- The errors that stand in the on-die memories of a parcel go with their contents (R248; log 101). -/
def onDie (p : Nat) (u : Upset) : Bool :=
  match u.site with
  | .cells (.sm _) => false
  | .cells k => spaceParcel k == p
  | .words q _ _ => q == p

/-- A parcel reset (R24, R376): the parcel enters TRAIN. -/
def resetParcel (s : State) (p : Nat) : State :=
  let b := bankOf s (s.parcel p).bank
  let s1 := portsOff (refuseAdds (drainParcel s p) p) p
  { s1.updParcel p (fun x => x.afterReset b.vmax b.vmin) with upsets := s1.upsets.filter (fun u => !onDie p u) }

/-- The state that a trained parcel enters (R376). -/
def trainedState (s : State) : PState :=
  match s.hub.state with
  | .ready => .ready
  | .run => .ready
  | .quiesce => .ready
  | st => st

/-- A parcel enters a state; the first entry of READY lets its river links leave OFF (R376). -/
def enterState (s : State) (p : Nat) (st : PState) : State :=
  let s1 := s.updParcel p (fun x => { x with state := st, wasReady := x.wasReady || decide (st = .ready) })
  if st = .ready then linksStart s1 p else s1

/-- Training waits while the junction is at or above 105 degrees (R409). -/
def trainingWaits (s : State) (p : Nat) : Bool := (sensorWith s p (fun t => decide (1050 ≤ t))).isSome

/-- The spare rows of each cluster buffer replace its hard-faulted units, a row a unit (R409, log 107). -/
def repairable (x : Parcel) : Bool := x.clusters.all (fun e => decide (e.2.hardUnits.length ≤ e.2.spareRows))

/-- The hard-faulted units are replaced. -/
def Cluster.repaired (c : Cluster) : Cluster := { c with hardUnits := [], spareRows := c.spareRows - c.hardUnits.length }

/-- The training of a parcel ends: it is repaired and in service, or it cannot be repaired and is fenced (R376, R409). Its
UCIe ports run in both cases (R328). -/
def trainingEnd (s : State) (p : Nat) (ok : Bool) (st : PState) : State :=
  if ok && repairable (s.parcel p) then
    ucieStart (enterState (s.updParcel p (fun x => { x with clusters := x.clusters.map (fun e => (e.1, e.2.repaired)) })) p st) p
  else ucieStart (s.updParcel p (fun x => { x with state := .contain, containCause := BitVec.ofNat 16 evMemUe })) p

/-- PARCEL_TRAINING_END (R376, R409). While the package itself trains, TRAINING_COMPLETE ends the training. -/
def execParcelTrainingEnd (p : ParcelId) (ok : Bool) (s : State) : Out :=
  .next (
    if (s.parcel p).state = .train && decide (s.hub.state ≠ .train) && !(ok && trainingWaits s p)
    then trainingEnd s p ok (trainedState s) else s)

end Sys2Proof.Machine
end

