-- ==== Sys2Proof/Machine/Power.lean ====
section
/-!
DEFINITION. Power and thermal limits (15 R421 to R438, 17 R469): the governor at a tick boundary, drop requests, the
cut-short, the end of recovery, the thermal caps and trips, the channel guards, and the changes of clock (10 R285).
-/

namespace Sys2Proof.Machine

/-! ### Averages and budgets (R423, R424) -/

/-- M: the ticks of 1 ms. -/
def State.mTicks (s : State) : Nat := s.ticksUp 1

/-- The largest M: that of the shortest tick, 256 ns. The tick values are kept this far back, so that a change of the tick
length leaves the last M of them at hand. -/
def mMax : Nat := 3907

/-- The sum of the last M tick values; a tick before the first measurement counts as 0 W (log 11). -/
def State.sumLast (s : State) (ts : List Nat) : Nat := (ts.take s.mTicks).foldl (· + ·) 0

/-- The average of parcel `p` exceeds its budget. -/
def overBudget (s : State) (p : Nat) : Bool :=
  decide (budget s p * s.mTicks < s.sumLast (s.parcel p).pwr.ticks * 1000)

/-- The package average exceeds P_lim. -/
def overLimit (s : State) : Bool := decide (s.hub.pwr.limit.toNat * s.mTicks < s.sumLast s.hub.pwr.hist)

/-- Average in W, rounded down. -/
def avgW (s : State) (ts : List Nat) : Nat := s.sumLast ts / max 1 s.mTicks

/-- The parcels of a test, as a mask. -/
def maskWhere (f : Nat → Bool) : Nat := ((List.range 8).map (fun p => if f p then 2 ^ p else 0)).foldl (· + ·) 0

/-- SPATE_EXPIRED (R438). -/
def raiseSpate (s : State) (reason mask : Nat) : State :=
  let w := s.hub.pwr
  let start := if w.state = 1 then w.start else 0
  let caps := ((List.range 8).map (fun p => (s.parcel p).pwr.pwrCap * 16 ^ p)).foldl (· + ·) 0
  raise s (srcHub 2) evSpateExpired (packFields [(1, reason), (8, start), (2, avgW s w.hist), (4, w.peak), (1, mask),
    (4, caps)] [])

/-! ### Drop requests (R428) -/

/-- A parcel whose cap was applied less than M ticks ago is left out. -/
def capFree (s : State) (p : Nat) : Bool :=
  match (s.parcel p).pwr.sinceCap with
  | some n => decide (s.mTicks ≤ n)
  | none => true

/-- The cap that a parcel over its budget gets: the largest setting at or below f·B/(1,000·P), one lower if that is f. -/
def dropCap (s : State) (p : Nat) : Nat :=
  let w := (s.parcel p).pwr
  let top := (6 + w.now) * budget s p * s.mTicks / (s.sumLast w.ticks * 1000)
  let c := top - 6
  if c = w.now then c - 1 else c

/-- Lower the power cap of a parcel, not below its f_min. -/
def lowerCap (s : State) (p cap : Nat) : State :=
  s.updPwr p (fun w =>
    let c := max w.fMin.toNat (min w.pwrCap cap)
    if c < w.pwrCap then { w with pwrCap := c, capWait := true } else w)

/-- A drop request, and the mask of the parcels whose cap was lowered. -/
def dropRequest (s : State) : State × Nat :=
  let anyOver := (List.range 8).any (overBudget s)
  let s1 := forParcels s (fun t p =>
    if !capFree s p then t
    else if anyOver then (if overBudget s p then lowerCap t p (dropCap s p) else t)
    else lowerCap t p ((s.parcel p).pwr.pwrCap - 1))
  (s1.updPkgPwr (fun w => { w with asked := true }),
    maskWhere (fun p => decide ((s1.parcel p).pwr.pwrCap < (s.parcel p).pwr.pwrCap)))

/-- A drop request with its SPATE_EXPIRED. -/
def dropWith (s : State) (reason : Nat) : State :=
  let (s1, mask) := dropRequest s
  raiseSpate s1 reason mask

/-! ### The governor (R427, R432 to R434) -/

/-- Hottest compute sensor of a parcel. -/
def hottest (w : Power) (lo n : Nat) : Int :=
  ((List.range n).map (fun i => SMap.get 0 w.sensors (lo + i))).foldl max (SMap.get 0 w.sensors lo)

/-- The governor's evaluation of one parcel whose tick drew `watts`. -/
def govParcel (s : State) (p watts : Nat) : State :=
  let m := s.mTicks
  let s1 := s.updPwr p (fun w => { w with ticks := (watts :: w.ticks).take mMax, sinceCap := w.sinceCap.map (· + 1),
                                          sinceLower := w.sinceLower.map (· + 1) })
  let above := overBudget s1 p
  s1.updPwr p (fun w =>
    let h := hottest w 0 16
    let overTicks := if w.pwrCap == w.fMin.toNat && decide (w.now ≤ w.fMin.toNat) && above then w.overTicks + 1 else 0
    let hot := if 1050 ≤ h then w.hotTicks + 1 else 0
    let lower := decide (1050 ≤ h) && decide (w.fMin.toNat < w.thermCap) &&
      (match w.sinceLower with | some n => decide (m ≤ n) | none => true)
    let cap := if lower then w.thermCap - 1 else w.thermCap
    { w with
      overTicks := overTicks, heldPower := above && (w.heldPower || decide (m ≤ overTicks))
      hotTicks := hot, coolTicks := if h < 1000 then w.coolTicks + 1 else 0
      thermCap := cap, sinceLower := if lower then some 0 else w.sinceLower
      heldHeat := decide (1000 ≤ h) && (w.heldHeat || (cap == w.fMin.toNat && decide (m ≤ hot))) })

/-- The spate state at a tick boundary. -/
def govSpate (s : State) (pkg : Nat) : State :=
  let w := s.hub.pwr
  let anyOver := (List.range 8).any (overBudget s)
  if w.state = 0 then
    (if overLimit s then s.updPkgPwr (fun w => { w with
      state := 1, ticks := 0, start := s.datum.count, peak := pkg, asked := false, drop32 := false, cut40 := false })
    else s.updPkgPwr (fun w => { w with peak := pkg }))
  else if w.state = 1 then
    let s1 := s.updPkgPwr (fun w => { w with ticks := w.ticks + 1, peak := max w.peak pkg })
    if !overLimit s then s1.updPkgPwr (fun w => { w with state := 2, ticks := s.ticksUp 400 })
    else if w.asked && anyOver then (dropRequest s1).1 else s1
  else
    let s1 := s.updPkgPwr (fun w => { w with ticks := w.ticks - 1 })
    if overLimit s || anyOver then dropWith s1 2 else s1

/-- GOVERNOR_TICK (R423, R427) at a tick boundary: `pkg` and `parcels` are the powers of the tick that has just ended, in W. -/
def execGovernorTick (pkg : Nat) (parcels : List Nat) (s : State) : Out :=
  let s1 := s.updPkgPwr (fun w => { w with hist := (pkg :: w.hist).take mMax })
  let s2 := forParcels s1 (fun t p => govParcel t p (parcels.getD p 0))
  let s3 := govSpate s2 pkg
  if parcels.length ≠ 8 then .fault (.illFormed "powers of eight parcels")
  else .next (if s.hub.state = .off || !onBoundary s then s else if 2400 < pkg then dropWith s3 3 else s3)

/-- SPATE_DROP_REQUEST (R427): elapsed has reached 32 ms. -/
def execSpateDropRequest (s : State) : Out :=
  let w := s.hub.pwr
  .next (if onBoundary s && w.state = 1 && !w.drop32 && decide (s.ticksDown 32 ≤ w.ticks) then
      dropWith (s.updPkgPwr (fun w => { w with drop32 := true })) 0
    else s)

/-! ### Clock changes (R285, R430) -/

/-- The clock that the schedule and the caps give applies in a parcel. -/
def applyClock (s : State) (p : Nat) : State :=
  s.updPwr p (fun w => { w with now := w.target, capWait := false, sinceCap := if w.capWait then some 0 else w.sinceCap })

/-- A new P_lim applies where no step of any parcel spans the boundary (R431). -/
def applyLimit (s : State) : State :=
  match s.hub.pwr.limitNew with
  | none => s
  | some v => if limitDue s then s.updPkgPwr (fun w => { w with limit := v, limitNew := none }) else s

/-- The pending changes of clock and rate of a parcel at a tick boundary (R32 step 4, R285). -/
def applyChanges (s : State) (p : Nat) : State := applyLimit (if clockDue s p then applyClock s p else s)

/-- CLOCK_CHANGE_APPLY (R285): step 4 of R32. -/
def execClockChangeApply (p : ParcelId) (s : State) : Out :=
  .next (if closingsDone s p && !remapDue s p && !lockDue s p then applyChanges s p else s)

/-- An abort of the open step of a reach, whatever its policy (R280, R429). -/
def cutStep (s : State) (p l : Nat) : State :=
  match (s.reach p l).task.step with
  | some o => abortReach s p l o.closing
  | none => s

/-- SPATE_CUT_SHORT (R429): in each parcel whose requested cap still waits, the open steps are cut short and the cap
applies at once. -/
def execSpateCutShort (s : State) : Out :=
  let w := s.hub.pwr
  let due := (List.range 8).filter (fun p => (s.parcel p).pwr.capWait)
  .next (if onBoundary s && w.state = 1 && !w.cut40 && decide (s.ticksDown 40 ≤ w.ticks) && !due.isEmpty then
      let s1 := due.foldl (fun t p => applyClock (forReaches t (fun t l => cutStep t p l)) p) s
      raiseSpate (s1.updPkgPwr (fun w => { w with cut40 := true })) 1 (maskWhere (fun p => due.contains p))
    else s)

/-- RECOVERY_END (R427, R430): the power caps are lifted. -/
def execRecoveryEnd (s : State) : Out :=
  let w := s.hub.pwr
  .next (if onBoundary s && w.state = 2 && w.ticks == 0 then
      forParcels (s.updPkgPwr (fun w => { w with state := 0, asked := false })) (fun t p =>
        t.updPwr p (fun w => { w with pwrCap := 9, capWait := false, sinceCap := none }))
    else s)

/-- THERMAL_CAP_RAISE (R433): below 100.0 degrees for 10 ms. -/
def execThermalCapRaise (p : ParcelId) (s : State) : Out :=
  .next (if onBoundary s && decide (s.ticksUp 10 ≤ (s.parcel p).pwr.coolTicks) then
      s.updPwr p (fun w => { w with thermCap := min 9 (w.thermCap + 1), coolTicks := 0 })
    else s)

/-! ### Junctions (R433, R435, R436, R469) -/

/-- A sample is stored. -/
def storeSample (s : State) (p n : Nat) (temp : Int) : State :=
  let s1 := if n < 48 then s.updPwr p (fun w => { w with sensors := SMap.put w.sensors n temp })
    else s.updPkgPwr (fun w => { w with hubSensors := SMap.put w.hubSensors n temp })
  if 1050 ≤ temp then s1.updPkgPwr (fun w => { w with hotAt := s.wall }) else s1

/-- SENSOR_SAMPLE (R433, R435, R469): at 115.0 degrees the parcel, or for a hub sensor every parcel, is fenced, and THERMTRIP_N
is driven low, by logic that runs on the auxiliary supply. -/
def execSensorSample (p : ParcelId) (n : Fin 52) (temp : Int) (s : State) : Out :=
  let s1 := storeSample s p n temp
  .next (if !s.hub.lands.auxGood then s
    else if temp < 1150 then s1
    else
      let s2 := s1.updPkgPwr (fun w => { w with thermtrip := true })
      if n.val < 48 then thermalFence s2 p n else forParcels s2 (fun t q => thermalFence t q n))

/-- Every sensor of the package is below 105.0 degrees. -/
def packageCool (s : State) : Bool :=
  (List.range 8).all (fun p => (s.parcel p).pwr.sensors.all (fun e => decide (e.2 < 1050))) &&
  s.hub.pwr.hubSensors.all (fun e => decide (e.2 < 1050))

/-- THERMTRIP_RELEASE (R469): after 10 ms below 105.0 degrees. -/
def execThermtripRelease (s : State) : Out :=
  .next (if packageCool s && decide (s.hub.pwr.hotAt + 15000000 ≤ s.wall) then
      s.updPkgPwr (fun w => { w with thermtrip := false })
    else s)

/-- CHANNEL_THROTTLE_RISE (R436): at most once in each M ticks while the group's sensor is at or above 100.0 degrees. -/
def execChannelThrottleRise (p : ParcelId) (g : Fin 32) (s : State) : Out :=
  let w := (s.parcel p).pwr
  let temp := SMap.get 0 w.sensors (16 + g)
  let level := SMap.get 0 w.thrLevel g
  let due := match SMap.find w.thrSince g with | some n => decide (s.mTicks ≤ n) | none => true
  .next (if decide (1000 ≤ temp) && decide (level < 3) && due then
      let s1 := s.updPwr p (fun w => { w with
        thrLevel := SMap.put w.thrLevel g (level + 1), thrSince := SMap.put w.thrSince g 0,
        thrCool := SMap.put w.thrCool g 0 })
      if level = 0 then
        raise s1 (srcParcel p 0) evChannelHot (packFields [(1, g.val), (2, unsignedBits 16 temp), (1, 1)] [])
      else s1
    else s)

/-- CHANNEL_THROTTLE_FALL (R436): after 10 ms below 95.0 degrees. -/
def execChannelThrottleFall (p : ParcelId) (g : Fin 32) (s : State) : Out :=
  let w := (s.parcel p).pwr
  let level := SMap.get 0 w.thrLevel g
  .next (if decide (0 < level) && decide (s.ticksUp 10 ≤ SMap.get 0 w.thrCool g) then
      s.updPwr p (fun w => { w with thrLevel := SMap.put w.thrLevel g (level - 1), thrCool := SMap.put w.thrCool g 0 })
    else s)

/-! ### Registers (R437) -/

/-- The value of PWR_CFG. -/
def pwrCfgWord (w : PkgPower) : Word := BitVec.ofNat 64 ((w.limitNew.getD w.limit).toNat + 0x78 * 2 ^ 16)

/-- A new P_lim waits for its boundary. -/
def setLimit (s : State) (v : Nat) : State := s.updPkgPwr (fun w => { w with limitNew := some (BitVec.ofNat 11 v) })

/-- A value of P_lim that is a reserved encoding (R431). -/
def limitBad (v : Nat) : Bool := decide (v < 400) || decide (1800 < v)

/-- The value of PWR_STAT. -/
def pwrStatWord (s : State) : Word :=
  let w := s.hub.pwr
  BitVec.ofNat 64 (w.state.toNat + b2n ((List.range 8).any (fun p => (s.parcel p).pwr.capWait)) * 4 +
    place 16 12 (avgW s w.hist) + place 32 32 w.ticks)

/-- Hottest sensor of a parcel, the hub's included (R433). -/
def junction (s : State) (p : Nat) : Int := ((List.range 52).map (sensorOf s p)).foldl max (sensorOf s p 0)

/-- The value of PWR_PARCEL[p]. -/
def pwrParcelWord (s : State) (p : Nat) : BitVec 128 :=
  let w := (s.parcel p).pwr
  BitVec.ofNat 128 (w.weightNew.toNat + place 8 8 w.floorNew.toNat + place 16 4 w.fMinNew.toNat + place 20 4 w.sched +
    place 24 4 (min w.pwrCap w.thermCap) + place 28 4 w.now + place 32 1 (b2n w.held) +
    place 33 11 (ceilDiv (budget s p) 1000) + place 44 12 (ceilDiv (ledger s p) 1000) + place 64 12 (avgW s w.ticks) +
    place 80 16 (unsignedBits 16 (junction s p)))

/-- A write of PWR_PARCEL's low word, in force at the next tick boundary. -/
def pwrParcelSet (s : State) (p : Nat) (v : Word) : State :=
  s.updPwr p (fun w => { w with
    weightNew := BitVec.ofNat 8 (bvf v 0 8), floorNew := BitVec.ofNat 8 (bvf v 8 8), fMinNew := BitVec.ofNat 4 (bvf v 16 4) })

/-- The value of CHAN_HOT[p]. -/
def chanHotWord (w : Power) : Word := BitVec.ofNat 64 ((w.thrLevel.map (fun e => e.2 % 4 * 4 ^ e.1)).foldl (· + ·) 0)

end Sys2Proof.Machine
end

