-- ==== Sys2Proof/Machine/Queues.lean ====
section
/-!
DEFINITION. The DMA queues of a reach (06 R183, R189): the start of an instruction that waited for its stake, for a message
identifier, or for an older instruction of its queue.
-/

namespace Sys2Proof.Machine

/-- The unit of an instruction that waited in its queue runs it. -/
def runQueued (p l : Nat) (s : State) (j : Job) (no : Nat) : State :=
  match wOp j.word with
  | 4 =>
    (match mvForm s p j with
      | .plain => runDense p l s j no
      | .imem => runDense p l s j no
      | .halo => runDense p l s j no
      | .localCopy => runDense p l s j no
      | .message => startMessage p l s j no
      | .poolSave => runPoolSave p l s j no
      | .poolRestore => runPoolRestore p l s j no
      | .expand => runExpand p l s j no
      | .unstructured => runStore makeUnstructured p l s j no
      | .store24 => runStore make24 p l s j no
      | .masked24 => runStore makeMasked p l s j no)
  | 5 => runGath p l s j no
  | 6 => runGath p l s j no
  | 7 => runCasc p l s j no
  | 8 => runConf p l s j no
  | _ => s

/-- An instruction that waited in its queue starts (R183, R189). -/
def startArmed (s : State) (p l : Nat) (f : Flight) : State :=
  drainFenced (startRun (runQueued p l) (updFlight s p l f.no (fun f => { f with wait := .none })) p l f.job f.no f.rd) p l f.wr

/-- The first instruction of a queue whose turn has come: nothing older in its queue still has to start. -/
def nextTurn (r : Reach) : Option Flight :=
  r.flights.find? (fun f => decide (f.wait = .turn) && !queueWaits r f.unit f.no)

/-- The instructions whose turn has come start, in issue order; at most `n`. -/
def startTurns : Nat → State → Nat → Nat → State
  | 0, s, _, _ => s
  | n + 1, s, p, l =>
    match nextTurn (s.reach p l) with
    | none => s
    | some f => startTurns n (startArmed s p l f) p l

/-- The stake of an armed instruction has come (R183): it starts, or waits for its turn in its queue (R189). -/
def startQueued (s : State) (p l : Nat) (f : Flight) : State :=
  if queueWaits (s.reach p l) f.unit f.no then updFlight s p l f.no (fun f => { f with wait := .turn })
  else startTurns 16 (startArmed s p l f) p l

/-- A message identifier becomes available (R319): the first MOVE that waits for one goes on, and its queue with it. -/
def execMessageIdAvailable (p : ParcelId) (l : ReachId) (s : State) : Out := .next (startTurns 16 (resumeMessage s p l) p l)

end Sys2Proof.Machine
end

