-- ==== Sys2Proof/Machine/Sched.lean ====
section
/-!
DEFINITION. The stake schedule (10 R283, R284) with the lock switch-over (14 R412), and STAKE_REACHED: everything bound to
the stakes that a parcel has reached, in stake order and within one stake in the order of R32.
-/

namespace Sys2Proof.Machine

/-- The hub clears valid after firing. -/
def fired (s : State) (k : Nat) : State :=
  s.updHub (fun h => { h with sched := SMap.put h.sched k (putBit (SMap.get 0 h.sched k) 0 false) })

/-- Apply `f` for the parcels of a mask. -/
def forMask (s : State) (mask : Nat) (f : State → Nat → State) : State :=
  forParcels s (fun s p => if mask.testBit p then f s p else s)

/-- An entry fires if its turn has come and it has the action (R283). -/
def fire (s : State) (k action : Nat) (f : State → BitVec 128 → State) : State :=
  let e := schedEntry s k
  if schTurn s k && schAction e == action then fired (f s e) k else s

/-- SCHED_NONE (R284). -/
def execSchedNone (k : Fin 16) (s : State) : Out := .next (fire s k 0 (fun s _ => s))

/-- SCHED_REACH_CLOCK_SETTING (R285, R430): the setting is remembered and applies as far as the caps allow. -/
def execSchedReachClockSetting (k : Fin 16) (s : State) : Out :=
  .next (fire s k 1 (fun s e => forMask s (schParcels e) (fun s p =>
    s.updPwr p (fun w => { w with sched := schArg e % 16 }))))

/-- SCHED_POWER_RATE_LIMIT (R431); the limit belongs to the package. -/
def execSchedPowerRateLimit (k : Fin 16) (s : State) : Out := .next (fire s k 4 (fun s e => setLimit s (schArg e)))

/-- SCHED_COUNTER_SNAPSHOT (R446): step 6 of R32, after the closing steps. -/
def execSchedCounterSnapshot (k : Fin 16) (s : State) : Out :=
  let ps := schParcels (schedEntry s k)
  .next (if (List.range 8).all (fun p => !ps.testBit p || (closingsDone s p && !boundaryWaits s p)) then
      fire s k 3 (fun s e => forMask s (schParcels e) takeSnapshot)
    else s)

/-- The named bank holds no verified image: ILLEGAL_ENCODING, origin 5 (R412, R473). -/
def lockRefused (s : State) (k : Nat) : State :=
  raise s (srcHub 0) evIllegalEncoding (illegalPayload 5 0xFF 0xFFFF 0xFFFFFFFF k 0)

/-- SCHED_LOCK_SWITCHOVER (R412): each named parcel switches at its first free boundary. -/
def execSchedLockSwitchover (k : Fin 16) (s : State) : Out :=
  .next (if schParcels (schedEntry s k) = 0 then s
    else fire s k 2 (fun s e =>
      let b := bvb e 16
      if (bankOf s b).verified then forMask s (schParcels e) (fun s p => s.updParcel p (fun x => { x with bankNew := some b }))
      else lockRefused s k))

/-- SCHED_SURVEYOR_SWITCHOVER (R413): the surveyor restarts from the named bank. -/
def execSchedSurveyorSwitchover (k : Fin 16) (s : State) : Out :=
  .next (if schParcels (schedEntry s k) ≠ 0 then s
    else fire s k 2 (fun s e =>
      let b := bvb e 16
      if (bankOf s b).verified then s.updHub (fun h => { h with fw := { h.fw with surveyor := b, restarting := true } })
      else lockRefused s k))

/-! ### The lock in a parcel (R412) -/

/-- A parcel switches to its new bank: issue holds until nothing is in flight, LINK_VER takes the image's versions, and
the links in UP renegotiate (R308). -/
def applyLock (s : State) (p : Nat) : State :=
  match (s.parcel p).bankNew with
  | none => s
  | some b =>
    if !lockDue s p then s
    else
      let i := bankOf s b
      let s1 := s.updParcel p (fun x => { x with
        bank := b, bankNew := none, fab := { x.fab with linkMax := i.vmax, linkMin := i.vmin }
        reaches := x.reaches.map (fun e => (e.1, { e.2 with task := { e.2.task with drain := !e.2.flights.isEmpty } })) })
      riverPorts.foldl (fun s q => if (s.link p q).state = .up then sendVer s p q else s) s1

/-- LOCK_SWITCHOVER_APPLY (R412): step 3 of R32. -/
def execLockSwitchoverApply (p : ParcelId) (s : State) : Out :=
  .next (if closingsDone s p && !remapDue s p then applyLock s p else s)

/-! ### Everything at reached stakes (R32, R274) -/

/-- One action bound to a stake. -/
inductive Act where
  | close (l : Nat)
  | boundary
  | head (l : Nat) (st : Stake) (isStep : Bool)
  | armed (l : Nat) (f : Flight)
deriving DecidableEq, Repr

/-- An action with its stake, its step of R32 and its place within that step. -/
structure Bound where
  st : Stake
  rank : Nat
  key : Nat
  act : Act
deriving DecidableEq, Repr

/-- The order in which bound actions are applied. -/
def Bound.before (a b : Bound) : Bool :=
  a.st.lt b.st || (decide (a.st = b.st) && (a.rank < b.rank || (a.rank == b.rank && a.key < b.key)))

/-- The actions of one reach whose stakes are reached at `now`. -/
def reachBound (s : State) (p l : Nat) (r : Reach) (now : Stake) : List Bound :=
  (match r.task.step with
    | some o => if o.closing.le now && !o.stretched && !o.late then [⟨o.closing, 1, l, .close l⟩] else []
    | none => []) ++
  (match r.task.wait with
    | .stake st isStep =>
      if st.le now && releasable s p l r.task st isStep && !(isStep && schedHolds s p st)
      then [⟨st, if isStep then 5 else 6, l, .head l st isStep⟩] else []
    | _ => []) ++
  r.flights.filterMap (fun f => match f.wait with
    | .stake st => if st.le now && !schedHolds s p st then some ⟨st, 6, 128 + l, .armed l f⟩ else none
    | _ => none)

/-- Every action of a parcel whose stake is reached. -/
def bounds (s : State) (p : Nat) : List Bound :=
  let now := s.now p
  (if boundaryWaits s p then [⟨{ count := s.datum.count }, 2, 0, .boundary⟩] else []) ++
  (s.parcel p).reaches.flatMap (fun e => reachBound s p e.1 e.2 now)

/-- Steps 2 to 4 of R32. -/
def applyBoundary (s : State) (p : Nat) : State :=
  let s1 := forReaches s (fun s l => retireReach (remapReach s p l) p l)
  applyChanges (applyLock s1 p) p

/-- Apply one action. -/
def applyAct (s : State) (p : Nat) : Act → State
  | .close l => (match (s.reach p l).task.step with
    | some o => closingReached s p l o
    | none => s)
  | .boundary => applyBoundary s p
  | .head l st isStep => stakeRelease s p l st isStep
  | .armed l f => startQueued s p l f

/-- Apply the actions one after another, the first in order each time. -/
def applyBounds : Nat → State → Nat → State
  | 0, s, _ => s
  | n + 1, s, p =>
    match bounds s p with
    | [] => s
    | b :: bs => applyBounds n (applyAct s p (bs.foldl (fun m x => if x.before m then x else m) b).act) p

/-- STAKE_REACHED (R32, R274): nothing is reached while the datum is UNSET or the clocks are gated. -/
def execStakeReached (p : ParcelId) (s : State) : Out :=
  .next (if s.datum.state = .unset || s.datum.gated.isSome then s else applyBounds 4096 s p)

end Sys2Proof.Machine
end

