-- ==== Sys2Proof/Machine/Dma.lean ====
section
/-!
DEFINITION. The hub DMA (12 R354, R355): its registers, the start at a stake with the check of the whole range, and the end
of a transfer, with the pieces that an error leaves written.
-/

namespace Sys2Proof.Machine

/-! ### Ranges of memory -/

/-- `dst` with `n` bytes from `b` taken from `src` at `a`. -/
def copyRange (src : Mem) (a : Nat) (dst : Mem) (b n : Nat) : Mem :=
  dst.filter (fun c => c.1 < b) ++
  (src.filter (fun c => a ≤ c.1 && c.1 < a + n)).map (fun c => (c.1 - a + b, c.2)) ++
  dst.filter (fun c => b + n ≤ c.1)

/-- Counts of an access to `n` consecutive bytes of stacked memory (R242, R443, R448), after the back-invalidation of the
lines that it touches (R348). -/
def smRange (s : State) (p : Nat) (write : Bool) (a n : Nat) : State :=
  let ls := SMap.get [] s.hub.port.snoop p
  let hit := ls.filter (fun x => a / 64 ≤ x && x * 64 < a + n)
  let s1 := if hit.isEmpty then s else
    snooped (s.updPort (fun h => { h with snoop := SMap.put h.snoop p (ls.filter (fun x => !hit.contains x)) })) p hit.length
  let s2 := bumpBw (bumpPcnt s1 p (if write then 2 else 1) n) p (b2n write) n
  let gs := if n = 0 then [] else
    (List.range ((a + n - 1) / 256 - a / 256 + 1)).map (fun i => channelGroup s p ((a / 256 + i) * 256))
  s2.updMon p (fun m => { m with skewAcc := gs.foldl (fun c g => SMap.put c g (SMap.get 0 c g + 1)) m.skewAcc })

/-! ### Registers -/

/-- HUB_DMA[c]. -/
def dmaOf (s : State) (c : Nat) : Dma := SMap.get {} s.hub.port.dma c

/-- Change HUB_DMA[c]. -/
def updDma (s : State) (c : Nat) (f : Dma → Dma) : State :=
  s.updPort (fun h => { h with dma := SMap.put h.dma c (f (SMap.get {} h.dma c)) })

/-- Word `w` of HUB_DMA[c]. -/
def dmaWord (d : Dma) (w : Nat) : Word :=
  if w = 0 then d.host else if w = 1 then d.sys else if w = 3 then d.tick
  else BitVec.ofNat 64 (d.len.toNat + b2n d.dir * 2 ^ 32 + b2n d.arm * 2 ^ 33 + b2n d.busy * 2 ^ 34 + b2n d.done * 2 ^ 35 +
    d.status.toNat * 2 ^ 36 + b2n d.barEn * 2 ^ 39 + d.bar.toNat * 2 ^ 40)

/-- A write of word 0, 1 or 3, dropped while busy. -/
def dmaSet (s : State) (c w : Nat) (v : Word) : State :=
  updDma s c (fun d =>
    if d.busy then d
    else if w = 0 then { d with host := v }
    else if w = 1 then { d with sys := v &&& 0xFFFFFFFFFFFFF#64 }
    else { d with tick := v })

/-- The fields of a write of word 2; `set` where the hardware has set done in this cycle (R14). -/
def dmaFields (d : Dma) (v : Word) (set : Bool) : Dma :=
  { d with
    len := BitVec.ofNat 32 (bvf v 0 32), dir := bvb v 32, arm := bvb v 33, done := w1c d.done (bvb v 35) set, barEn := bvb v 39,
    bar := BitVec.ofNat 4 (bvf v 40 4) }

/-- A write with arm = 1 that is a reserved encoding: its length or an address (R354). -/
def dmaReserved (d : Dma) (v : Word) : Bool :=
  bvb v 33 && !d.busy && (bvf v 0 32 % 64 != 0 || bvf v 0 32 == 0 || bvf d.host 0 6 != 0 || bvf d.sys 0 6 != 0)

/-- STAKE_PAST raised by the hub, reason 2 (R283, R286, R354). -/
def hubPast (s : State) (tick : Nat) : State :=
  raise s (srcHub 0) evStakePast (pastPayload 0xFF { count := tick } (s.now 0) 2)

/-- A write of word 2 that is no reserved encoding (R354). In QUIESCE no channel arms (R375). -/
def dmaArm (s : State) (c : Nat) (v : Word) : State :=
  let d := dmaOf s c
  if bvb v 33 && (d.busy || decide (s.hub.state = .quiesce)) then s
  else if bvb v 33 && d.tick.toNat != 0 && decide (d.tick.toNat ≤ s.datum.count) then hubPast s d.tick.toNat
  else updDma s c (fun d => dmaFields d v (s.marked (.dmaDone c)))

/-! ### Transfers -/

/-- Parcel and parcel-space address of a channel. -/
def dmaParcel (d : Dma) : Nat := bvf d.sys 35 3
/-- Parcel-space address of a channel. -/
def dmaAddr (d : Dma) : Nat := bvf d.sys 0 35
/-- Length of the running transfer. -/
def dmaLen (d : Dma) : Nat := bvf d.taken 0 32

/-- The channel ends: done, its status, its barrier arrival, its interrupt (R354, R355, R346). -/
def dmaEnd (s : State) (c status : Nat) : State :=
  let d := dmaOf s c
  let s1 := updDma (s.mark (.dmaDone c)) c (fun d =>
    { d with arm := false, busy := false, done := true, status := BitVec.ofNat 3 status })
  let s2 := if bvb d.taken 39 then parcelArrive s1 (dmaParcel d) (bvf d.taken 40 4) else s1
  setHubInt s2 1

/-- BOUND of the hub DMA: origin 5, its range, or origin 4, a contained parcel. -/
def dmaBound (s : State) (d : Dma) (origin parcel : Nat) : State :=
  raise s (srcHub 4) evBound (boundPayload 0xFFFFFFFF origin 0xFF 2 parcel d.sys.toNat (d.sys.toNat + dmaLen d - 1) 0
    (srcHub 4))

/-- The channel's stake has come, or it names none. -/
def dmaDue (s : State) (d : Dma) : Bool :=
  d.arm && !d.busy && (d.tick == 0 ||
    (decide (s.datum.state ≠ .unset) && s.datum.gated.isNone && decide (d.tick.toNat ≤ s.datum.count)))

/-- The whole range lies in the stacked memory of one parcel of this device. -/
def dmaInRange (s : State) (d : Dma) : Bool :=
  bvf d.sys 38 14 == s.dev && decide (dmaAddr d + dmaLen d ≤ Config.smSize)

/-- A parcel that the hub cannot reach: contained, in reset, or its hub port down (R407, R408). -/
def hubReaches (s : State) (p : Nat) : Bool :=
  relays s p && decide ((s.parcel p).state ≠ .contain) && decide ((s.link p .hubPort).state = .up)

/-- Steps 1 to 4 of R32 at the channel's stake are done in every parcel; a channel without a stake waits for none. -/
def dmaClear (s : State) (d : Dma) : Bool :=
  d.tick == 0 || (List.range 8).all (fun p => stakeClear s p { count := d.tick.toNat })

/-- HUB_DMA_START (R354): at the stake, as step 6 of R32, or at once when tick is 0. -/
def execHubDmaStart (c : Fin 8) (s : State) : Out :=
  .next (if !(dmaDue s (dmaOf s c) && dmaClear s (dmaOf s c)) then s
    else
      let s1 := updDma s c (fun d => { d with arm := false, busy := true, taken := dmaWord d 2 })
      let d := dmaOf s1 c
      if !dmaInRange s d then dmaEnd (dmaBound s1 d 5 0xFF) c 2
      else if !hubReaches s (dmaParcel d) then dmaEnd (dmaBound s1 d 4 (dmaParcel d)) c 2
      else s1)

/-- The first `n` bytes of a transfer move, counted at the parcel and at its hub port; a sector that is written holds no
error any more (R352). -/
def dmaMove (s : State) (d : Dma) (n : Nat) : State :=
  let p := dmaParcel d
  let a := dmaAddr d
  if bvb d.taken 32 then
    let s1 := bumpBw (bumpBw (bumpPcnt (smRange s p false a n) p 11 n) p 16 n) p 23 n
    s1.updPort (fun h => { h with hostMem := copyRange (s.parcel p).mem a h.hostMem d.host.toNat n })
  else
    let s1 := bumpBw (bumpBw (bumpPcnt (smRange s p true a n) p 20 n) p 19 n) p 23 n
    let s2 := s1.updParcel p (fun x => { x with
      mem := copyRange s.hub.port.hostMem d.host.toNat x.mem a n
      poison := x.poison.filter (fun u => !(a ≤ u * 64 && u * 64 < a + n)) })
    { s2 with upsets := s1.upsets.filter (fun u =>
        !(decide (u.site = .cells (.sm p)) && decide (a ≤ u.unit * 64) && decide (u.unit * 64 < a + n))) }

/-- A number of whole 4 KiB pieces below the length, which the command does not tell: a free value (log 33). -/
def somePieces (s : State) (len : Nat) : Nat := s.freeValue % ceilDiv len 4096 * 4096

/-- Offset of the first poisoned sector of a transfer to the host. -/
def dmaPoison (s : State) (d : Dma) : Option Nat :=
  if bvb d.taken 32 then (poisonIn s (.sm (dmaParcel d)) (dmaAddr d) (dmaLen d)).map (fun u => u * 64 - dmaAddr d) else none

/-- HUB_DMA_DONE (R354, R355): the transfer has moved its bytes, or ended at a piece that could not be moved. A read meets the
errors that stand in its range (R351, R352). -/
def execHubDmaDone (c : Fin 8) (host : HostEnd) (s0 : State) : Out :=
  let d := dmaOf s0 c
  let n := dmaLen d
  let s := if d.busy && bvb d.taken 32 then settle s0 (.sm (dmaParcel d)) (dmaAddr d) n (srcHub 4) else s0
  .next (if !d.busy then s
    else if !hubReaches s (dmaParcel d) then
      dmaEnd (dmaBound (dmaMove s.useFree d (somePieces s n)) d 4 (dmaParcel d)) c 2
    else match dmaPoison s d, host with
      | some o, .ok => dmaEnd (dmaMove s d (o / 4096 * 4096)) c 3
      | _, .hostError => dmaEnd (dmaMove s.useFree d (somePieces s n)) c 1
      | none, .ok => dmaEnd (dmaMove s d n) c 0)

/-- Every armed or running transfer ends with status aborted (R335, R417); `n` bytes of a running one have moved, a free
number of pieces. -/
def dmaAbortAll (s : State) : State :=
  (List.range 8).foldl (fun s c =>
    let d := dmaOf s c
    if d.busy then dmaEnd (dmaMove s.useFree d (somePieces s (dmaLen d))) c 4
    else if d.arm then dmaEnd (updDma s c (fun d => { d with taken := dmaWord d 2 })) c 4 else s) s

end Sys2Proof.Machine
end

