-- ==== Sys2Proof/Machine/Stay.lean ====
section
/-!
DEFINITION. The stay interlock (14 R415 to R419): the monitor's states, the discrepancy timer, the stay quiesce and the
registers.
-/

namespace Sys2Proof.Machine

/-- Change the stay monitor. -/
def updStay (s : State) (f : Stay → Stay) : State := { s with stay := f s.stay }

/-- The stay stake: the first tick boundary after now; where a forward jump waits for it, the boundary carries the jump's
target (R273, R419). -/
def stayStake (s : State) : Nat :=
  if s.datum.state = .unset then 0
  else match s.datum.jump with
    | some (.ahead target) => target
    | _ => s.datum.count + 1

/-- STAY_ASSERTED or STAY_DISCREPANCY (R419), with HUB_INT_STAT.stay (R346). -/
def raiseStay (s : State) (code leaving : Nat) (tail : List (Nat × Nat × Nat)) : State :=
  setHubInt (raise s (srcHub 1) code (placeFields ([(0, 1, b2n s.stay.a + 2 * b2n s.stay.b), (1, 1, leaving),
    (8, 8, stayStake s), (16, 2, 0)] ++ tail) [])) 3

/-- Both channels are asserted: STAY_ASSERTED and a stay quiesce (R416). -/
def stayAsserted (s : State) (leaving : Nat) : State :=
  updStay (raiseStay s evStayAsserted leaving []) (fun y => { y with state := 2, timer := false, quiesce := true })

/-- A short discrepancy is counted. -/
def stayShort (y : Stay) : Stay := { y with shorts := BitVec.ofNat 32 (satAdd 32 y.shorts.toNat 1) }

/-- The timer starts: T_d is taken now (R415). -/
def stayTimer (y : Stay) (wall : Nat) : Stay := { y with timer := true, inUse := y.dtime, since := wall }

/-- The move of the monitor once the new filtered levels are stored (R416): both asserted, both released (`off`), or one. -/
def stayMove (s : State) (both off : Bool) : State :=
  let y := s.stay
  if y.state = 0 then
    (if both then stayAsserted (updStay s (fun y => { y with firstB := false })) 0
    else if off then s
    else updStay s (fun y => { stayTimer y s.wall with state := 1, firstB := y.b }))
  else if y.state = 1 then
    (if both then stayAsserted (updStay s stayShort) 1
    else if off then updStay s (fun y => { stayShort y with state := 0, timer := false })
    else updStay s (fun y => { stayTimer (stayShort y) s.wall with firstB := y.b }))
  else if y.state = 2 then
    (if off then updStay s (fun y => { (if y.timer then stayShort y else y) with state := 0, timer := false })
    else if both then updStay s (fun y => { (if y.timer then stayShort y else y) with timer := false })
    else if y.timer then s else updStay s (fun y => stayTimer y s.wall))
  else s

/-- STAY_INPUT_CHANGE (R416): `a` and `b` are the filtered levels after the change. The monitor runs only while the auxiliary
supply is good (R461). -/
def execStayInputChange (a b : Bool) (s : State) : Out :=
  .next (if !s.hub.lands.auxGood || (s.stay.a == a && s.stay.b == b) then s
    else stayMove (updStay s (fun y => { y with a := a, b := b })) (a && b) (!a && !b))

/-- DISCREPANCY_TIME_REACHED (R416): T_d after the timer started. -/
def execDiscrepancyTimeReached (s : State) : Out :=
  let y := s.stay
  .next (if !(s.hub.lands.auxGood && y.timer && decide (y.since + y.inUse.toNat * 1500000 ≤ s.wall)) then s
    else
      let s1 := raiseStay s evStayDiscrepancy y.state.toNat [(20, 1, b2n y.firstB), (22, 2, y.inUse.toNat)]
      updStay s1 (fun z => { z with state := 3, timer := false, quiesce := z.quiesce || y.state == 1 }))

/-- Every open step of a parcel is cut short, and every reach stops (R417). -/
def stayStop (s : State) (p : Nat) : State := forReaches s (fun s l => stopRun (cutStep s p l) p l)

/-- STAY_QUIESCE (R417): at the stay stake. -/
def execStayQuiesce (s : State) : Out :=
  .next (if !s.stay.due then s
    else
      let s1 := dmaAbortAll (forParcels s stayStop)
      let s2 := updStay s1 (fun y => { y with quiesce := false, due := false })
      if s.hub.state = .run then
        forParcels (s2.updHub (fun h => { h with state := .quiesce })) (fun s p =>
          if (s.parcel p).state = .run then s.updParcel p (fun x => { x with state := .quiesce }) else s)
      else s2)

/-- A re-arm is accepted: the monitor is latched and both channels are released. -/
def rearmOk (y : Stay) : Bool := !(y.state == 3) || (!y.a && !y.b)

/-- A re-arm (R416). -/
def stayRearm (s : State) : State :=
  if s.stay.state = 3 && rearmOk s.stay then updStay s (fun y => { y with state := 0 }) else s

/-- The value of STAY_STAT. -/
def stayStatWord (y : Stay) : Word :=
  BitVec.ofNat 64 (y.state.toNat + b2n y.a * 4 + b2n y.b * 8 + y.dtime.toNat * 2 ^ 16 + y.shorts.toNat * 2 ^ 32)

end Sys2Proof.Machine
end

