-- ==== Sys2Proof/Machine/RegMap.lean ====
section
/-!
DEFINITION. The register blocks (12 R337 to R345, 16 R444): what each 8-byte word reads as, the registers wider than a
word with their latches (00 R17), and the address of a register as records name it.
-/

namespace Sys2Proof.Machine

/-! ### Values -/

/-- A number as a word. -/
def word (n : Nat) : Word := BitVec.ofNat 64 n

/-- The value of STEP_STAT (R278). -/
def stepStatWord (t : Task) : Word :=
  word (b2n t.step.isSome + 2 * b2n (t.step.elim false (fun o => o.stretched)) + t.overruns.toNat * 2 ^ 16 +
    t.lastStretch.toNat * 2 ^ 32)

/-- Word `i` of a calibration snapshot, where the snapshot has one (R112). -/
def calSnapWord (r : Reach) (m i : Nat) : Word :=
  if i < 514 then word (leVal (calSnapBytes (SMap.get {} r.calSnap m) i)) else 0

/-- The offset lies in the area of `n` bytes at `base`. -/
def within (off base n : Nat) : Bool := base ≤ off && off < base + n

/-- The word of a reach block at an offset that is a multiple of 8 (R338, R444). -/
def reachWord (r : Reach) (off : Nat) : Word :=
  if off = 0x00 then ctlWord r
  else if off = 0x08 then word r.task.pc.toNat
  else if within off 0x10 16 then wordOf r.task.faultWord ((off - 0x10) / 8)
  else if off = 0x20 then imgWord r.task
  else if off = 0x28 then stepStatWord r.task
  else if off = 0x30 then r.spWin
  else if off = 0x38 then r.cbWin
  else if off = 0x40 then r.fuse
  else if off = 0x48 then word Config.spSize
  else if off = 0x50 then word Config.imemSize
  else if within off 0x80 0x80 then SMap.get 0 r.swz ((off - 0x80) / 8)
  else if within off 0x800 0x800 then wordOf (SMap.get 0 r.prof ((off - 0x800) / 32)) (off % 32 / 8)
  else if within off 0x1000 0x1000 then wordOf (SMap.get 0 r.trv ((off - 0x1000) / 128)) (off % 128 / 8)
  else if within off 0x2000 0x800 then SMap.get 0 r.actSeg ((off - 0x2000) / 8)
  else if within off 0x2800 0x40 then
    (if off % 16 = 0 then SMap.get 0 r.calCfg ((off - 0x2800) / 16) else SMap.get 0 r.calWin ((off - 0x2800) / 16))
  else if within off 0x3000 0x5000 then calSnapWord r ((off - 0x3000) / 0x1400) ((off - 0x3000) % 0x1400 / 8)
  else if within off 0x8000 Config.imemSize then word (leVal (memRead r.imem (off - 0x8000) 8))
  else if within off 0xC000 0x80 then SMap.get 0 r.cnt ((off - 0xC000) / 8)
  else if within off 0xC080 0x80 then SMap.get 0 r.snap ((off - 0xC080) / 8)
  else 0

/-- The value of a barrier register (R185). -/
def barWord (b : Barrier) : Word := word (b.members.toNat + b.arrived.toNat * 2 ^ 8 + b2n b.round * 2 ^ 16)

/-- The word of a cluster block (R340, R444). -/
def clusterWord (c : Cluster) (off : Nat) : Word :=
  if off = 0x00 then word Config.cbSize
  else if off = 0x08 then word c.rtGen.toNat
  else if off = 0x10 then word Config.rtBankElems
  else if within off 0x40 0x20 then SMap.get 0 c.tally ((off - 0x40) / 8)
  else if within off 0x80 0x80 then barWord (SMap.get {} c.bar ((off - 0x80) / 8))
  else if within off 0x100 0x40 then SMap.get 0 c.cbCfg ((off - 0x100) / 8)
  else if within off 0x200 0x400 then SMap.get 0 c.cbLvl ((off - 0x200) / 8)
  else if within off 0x8000 0x80 then SMap.get 0 c.cnt ((off - 0x8000) / 8)
  else if within off 0x8080 0x80 then SMap.get 0 c.snap ((off - 0x8080) / 8)
  else 0

/-- STOPPED (R345): fault or halt of each reach. -/
def stoppedWord (x : Parcel) : BitVec 128 :=
  BitVec.ofNat 128 ((x.reaches.map (fun e =>
    if e.2.task.fault || e.2.task.retired || e.2.task.halt then 2 ^ e.1 else 0)).foldl (· + ·) 0)

/-- The port whose registers lie at an offset of a parcel block (R341). -/
def portAt (off : Nat) : Option Port :=
  if within off 0x400 0x60 then riverPorts[(off - 0x400) / 16]?
  else if within off 0x500 0x30 then uciePorts[(off - 0x500) / 16]? else none

/-- Offset of a port's LINK_CTL (R341). -/
def linkCtlOff (q : Port) : Nat := if isRiver q then 0x400 + 16 * portNo q else 0x500 + 16 * (portNo q - 8)

/-- LINK_CTL and LINK_STAT of a port (R298, R328). -/
def linkWord (s : State) (p : Nat) (q : Port) (off : Nat) : Word :=
  if off % 16 = 0 then word (b2n (!isRiver q || (s.link p q).en)) else linkStat (s.link p q) (if isRiver q then (s.link p q).peer.toNat else s.dev)

/-- The value of LINK_VER (R306). -/
def linkVerWord (f : Fabric) : Word := word (f.linkMax.toNat + f.linkMin.toNat * 16 + f.pkt.toNat * 256)

/-- The word of a parcel block (R341, R444). -/
def parcelWord (s : State) (p off : Nat) : Word :=
  let x := s.parcel p
  let m := x.mon
  if within off 0x000 0x200 then SMap.get 0 x.region (off / 8)
  else if within off 0x200 0x80 then barWord (SMap.get {} x.bar ((off - 0x200) / 8))
  else if off = 0x300 then word (x.keys.key.toNat + x.keys.keyNext.toNat * 2 ^ 32)
  else if off = 0x308 then m.skewNext.getD m.skewCfg
  else if within off 0x310 16 then wordOf (chanRotateWord x.keys) ((off - 0x310) / 8)
  else if off = 0x480 then linkVerWord x.fab
  else if within off 0x800 0x400 then wordOf (SMap.get 0 x.fab.chan ((off - 0x800) / 16)) (off % 16 / 8)
  else if within off 0xC00 0x400 then wordOf (SMap.get 0 x.fab.rxWin ((off - 0xC00) / 16)) (off % 16 / 8)
  else if off = 0x1000 then word m.intStat.toNat
  else if off = 0x1008 then word m.intEn.toNat
  else if off = 0x1010 then word m.intBar.toNat
  else if off = 0x1018 then m.intWin
  else if within off 0x1020 16 then wordOf (stoppedWord x) ((off - 0x1020) / 8)
  else if off = 0x1100 then word (m.ce.toNat + m.ue.toNat * 2 ^ 32)
  else if off = 0x8000 then perfCtlWord m
  else if off = 0x8008 then m.smpCfg
  else if off = 0x8010 then sampleStatWord m
  else if off = 0x8018 then m.bwNext.getD m.bwCfg
  else if within off 0x8100 0x100 then SMap.get 0 m.cnt ((off - 0x8100) / 8)
  else if within off 0x8200 0x100 then SMap.get 0 m.snap ((off - 0x8200) / 8)
  else if within off 0x8400 0x180 then wordOf (SMap.get 0 m.bwPort ((off - 0x8400) / 16)) (off % 16 / 8)
  else if within off 0x10000 0x10000 then wordOf (SMap.get 0 m.smpBuf ((off - 0x10000) / 64)) (off % 64 / 8)
  else match portAt off with
    | some q => linkWord s p q off
    | none => 0

/-- The word of the hub block (R343, R398, R418, R437). -/
def hubWord (s : State) (off : Nat) : Word :=
  if off = 0x00 then datumCfgWord s.datum
  else if off = 0x08 then s.datum.load
  else if off = 0x10 then word s.datum.count
  else if off = 0x18 then word (s.offset 0)
  else if off = 0x20 then datumStatusWord s.datum
  else if within off 0x100 0x100 then wordOf (schedEntry s ((off - 0x100) / 16)) (off % 16 / 8)
  else if off = 0x200 then s.hub.torus
  else if off = 0x300 then word s.hub.port.intStat.toNat
  else if off = 0x308 then word s.hub.port.intEn.toNat
  else if within off 0x400 0x100 then dmaWord (dmaOf s ((off - 0x400) / 32)) (off % 32 / 8)
  else if off = 0x1000 then pwrCfgWord s.hub.pwr
  else if off = 0x1008 then pwrStatWord s
  else if within off 0x1040 0x80 then wordOf (pwrParcelWord s ((off - 0x1040) / 16)) (off % 16 / 8)
  else if within off 0x1100 0x40 then chanHotWord (s.parcel ((off - 0x1100) / 8)).pwr
  else if off = 0x8000 then fbStatWord s.book
  else if off = 0x8008 then word s.book.notice.toNat
  else if off = 0x8100 then stayStatWord s.stay
  else 0

/-- Size of a window of a function (R332): WIN_CTL, WIN_MEM, WIN_DBG. -/
def windowSize (fn w : Nat) : Nat :=
  if fn = 0 then [0x100000, 0x100000, 0].getD w 0 else [0x1000000, 0x800000000, 0x1000000].getD w 0

/-- A register of the configuration space (R332, R347): a BAR of a window of size 0 reads 0, the others are 64-bit memory
BARs, WIN_MEM of a parcel prefetchable (log 14). -/
def configWord (s : State) (fn : Nat) : ConfigReg → Word
  | .bar k =>
    let w := k.val / 2
    if windowSize fn w = 0 then 0
    else
      let base := SMap.get 0 s.hub.port.bars (fn * 3 + w)
      if k.val % 2 = 1 then word (bvf base 32 32) else word (bvf base 0 32 + 4 + (if fn ≠ 0 ∧ w = 1 then 8 else 0))
  | .msixControl => word (b2n (bvb s.hub.port.fnMask fn) * 2 ^ 14)
  | .msixMask v => word (b2n (SMap.get false s.hub.port.vecMask (fn * 4 + v)))

/-- The 8-byte word that holds an address. -/
def regWord (s : State) : RegAddr → Word
  | .reach p l off => reachWord (s.reach p l) (off / 8 * 8)
  | .cluster p c off => clusterWord (s.cluster p c) (off / 8 * 8)
  | .parcel p off => parcelWord s p (off / 8 * 8)
  | .hub off => hubWord s (off / 8 * 8)
  | .config fn r => configWord s fn r

/-! ### Wide registers (R17) -/

/-- Byte offset of an address in its block. -/
def regOff : RegAddr → Nat
  | .reach _ _ off => off
  | .cluster _ _ off => off
  | .parcel _ off => off
  | .hub off => off
  | .config _ _ => 0

/-- The same block at another offset. -/
def regAt (off : Nat) : RegAddr → RegAddr
  | .reach p l _ => .reach p l off
  | .cluster p c _ => .cluster p c off
  | .parcel p _ => .parcel p off
  | .hub _ => .hub off
  | .config fn r => .config fn r

/-- Size in bytes of the register at an address; the memories that the blocks show (IMEM, the calibration snapshots, the
sampling records) count as words of 4 B, which take no latch. -/
def regSize : RegAddr → Nat
  | .reach _ _ off =>
    if within off 0x10 16 then 16 else if within off 0x800 0x800 then 32 else if within off 0x1000 0x1000 then 128
    else if within off 0x2000 0x800 then 16 else if within off 0x3000 0x9000 then 4 else 8
  | .cluster _ _ _ => 8
  | .parcel _ off =>
    if within off 0x310 16 || within off 0x800 0x800 || within off 0x1020 16 || within off 0x8400 0x180 then 16
    else if within off 0x10000 0x10000 then 4 else 8
  | .hub off =>
    if within off 0x10 16 || within off 0x100 0x100 || within off 0x1040 0x80 then 16
    else if within off 0x400 0x100 then 32 else 8
  | .config _ _ => 4

/-- Offset of the lowest byte of the register at an address. -/
def regBase (a : RegAddr) : Nat := regOff a / regSize a * regSize a

/-- The whole register at an address, as a number. -/
def regWhole (s : State) (a : RegAddr) : Nat :=
  ((List.range (ceilDiv (regSize a) 8)).map (fun i =>
    (regWord s (regAt (regBase a / 8 * 8 + 8 * i) a)).toNat * 2 ^ (64 * i))).foldl (· + ·) 0

/-- The number of a requester among the latches. -/
def rqNo : Requester → Nat
  | .host => 0
  | .surveyor => 1
  | .task => 2

/-- The key of a latch within its level. -/
def latchKey (rq : Requester) : RegAddr → Nat
  | .reach _ _ off => rqNo rq * 2 ^ 20 + off
  | .cluster _ c off => rqNo rq * 2 ^ 24 + 2 ^ 23 + c * 2 ^ 16 + off
  | .parcel _ off => rqNo rq * 2 ^ 24 + off
  | .hub off => rqNo rq * 2 ^ 20 + off
  | .config fn _ => rqNo rq * 2 ^ 20 + 2 ^ 19 + fn.val

/-- The latches of the level of an address. -/
def latches (s : State) : RegAddr → SMap Nat
  | .reach p l _ => (s.reach p l).latch
  | .cluster p _ _ => (s.parcel p).latch
  | .parcel p _ => (s.parcel p).latch
  | .hub _ => s.hub.port.latch
  | .config _ _ => s.hub.port.latch

/-- Take a latch. -/
def takeLatch (s : State) (rq : Requester) (a : RegAddr) (v : Nat) : State :=
  let k := latchKey rq a
  match a with
  | .reach p l _ => s.updReach p l (fun r => { r with latch := SMap.put r.latch k v })
  | .cluster p _ _ => s.updParcel p (fun x => { x with latch := SMap.put x.latch k v })
  | .parcel p _ => s.updParcel p (fun x => { x with latch := SMap.put x.latch k v })
  | .hub _ => s.updPort (fun h => { h with latch := SMap.put h.latch k v })
  | .config _ _ => s

/-- A read of `size` bytes at an address (R17): of the lowest word of a wider register it takes a latch, of a higher word
it is served from the requester's latch, if it holds one. -/
def regRead (s : State) (rq : Requester) (a : RegAddr) (size : Nat) : State × Nat :=
  let off := regOff a
  let base := regAt (regBase a) a
  let cut (v : Nat) : Nat := field v (8 * (off - regBase a)) (8 * size)
  if regSize a ≤ size then (s, field (regWord s a).toNat (8 * (off % 8)) (8 * size))
  else if off = regBase a then (takeLatch s rq base (regWhole s a), cut (regWhole s a))
  else match SMap.find (latches s a) (latchKey rq base) with
    | some v => (s, cut v)
    | none => (s, cut (regWhole s a))

/-! ### Addresses in records (R473, R474) -/

/-- Parcel-space address of a register; of a hub register its offset with bit 63 set. -/
def regAddress : RegAddr → Nat
  | .reach _ l off => 0x654000000 + l * 0x10000 + off
  | .cluster _ c off => 0x654800000 + c * 0x10000 + off
  | .parcel _ off => 0x654900000 + off
  | .hub off => 2 ^ 63 + off
  | .config _ _ => 0

/-- The source of a register's events: the reach, the cluster, the parcel's register block, or the host port. -/
def regSource : RegAddr → Nat
  | .reach p l _ => srcReach p l
  | .cluster p c _ => srcCluster p c
  | .parcel p _ => srcParcel p 11
  | .hub _ => srcHub 6
  | .config _ _ => srcHub 6

/-- The unit that refuses a host access (R334): the parcel, or the host port. -/
def refuser : RegAddr → Nat
  | .reach p _ _ => srcParcel p 11
  | .cluster p _ _ => srcParcel p 11
  | .parcel p _ => srcParcel p 11
  | .hub _ => srcHub 6
  | .config _ _ => srcHub 6

/-- The parcel of a register; 0xFF for the hub. -/
def regParcel : RegAddr → Nat
  | .reach p _ _ => p
  | .cluster p _ _ => p
  | .parcel p _ => p
  | .hub _ => 0xFF
  | .config _ _ => 0xFF

/-- The requester in a BOUND record. -/
def rqSource (a : RegAddr) : Requester → Nat
  | .host => 0xFFFF
  | .surveyor => 0xFFFE
  | .task => regSource a

/-- A refused access raises BOUND, origin 3 (R334, R338). -/
def refuseAccess (s : State) (rq : Requester) (a : RegAddr) (size mem : Nat) : State :=
  raise s (refuser a) evBound (boundPayload 0xFFFFFFFF 3 0xFF mem (regParcel a) (regAddress a) (regAddress a + size - 1) 0
    (rqSource a rq))

end Sys2Proof.Machine
end

