-- ==== Sys2Proof/Machine/RegWrite.lean ====
section
/-!
DEFINITION. Register writes: the bits a 4-byte write leaves out (12 R333), staged entries (06 R191, R196), the verdict of
each register's own rule and of the reserved encodings (00 R19), the effect, and the writes that wait (04 R96, R108,
07 R214, 06 R161).
-/

namespace Sys2Proof.Machine

/-! ### The value written -/

/-- The W1C and WO bits of the word at an address; in the untouched half of a 4-byte write they take 0 (R333). -/
def actionBits : RegAddr → Nat
  | .reach _ _ off =>
    let o := off / 8 * 8
    if o = 0 then 0x38 else if within o 0x2800 0x40 && o % 16 == 0 then 2 else if within o 0xC000 0x80 then 2 ^ 48 else 0
  | .cluster _ _ off => if within off 0x8000 0x80 then 2 ^ 48 else 0
  | .parcel _ off =>
    let o := off / 8 * 8
    if within o 0 0x200 then 4 else if (portAt o).isSome && o % 16 == 0 then 2 else if o = 0x310 then 4
    else if o = 0x1000 then 0xF else if o = 0x1040 then 0xF else if o = 0x8000 then 6
    else if within o 0x8100 0x100 then 2 ^ 48 else 0
  | .hub off =>
    let o := off / 8 * 8
    if o = 0x300 then 0xF else if within o 0x400 0x100 && o % 32 == 16 then 2 ^ 35 else if o = 0x8108 then 1 else 0
  | .config _ _ => 0

/-- A staged entry's number and word, with the last word of an entry (R191, R196). -/
def stagedAt (off : Nat) : Option (Nat × Nat × Nat) :=
  if within off 0x800 0x800 then some ((off - 0x800) / 32, off % 32 / 8, 3)
  else if within off 0x1000 0x1000 then some ((off - 0x1000) / 128, off % 128 / 8, 15) else none

/-- Key of a staged word. -/
def stageKey (rq : Requester) (n w : Nat) : Nat := (rqNo rq * 64 + n) * 16 + w

/-- The staged words of the table at an offset. -/
def stageOf (r : Reach) (off : Nat) : SMap Word := if off < 0x1000 then r.profStage else r.trvStage

/-- The value that a 4-byte write completes: a requester's staged word, else the current value. -/
def regCurrent (s : State) (rq : Requester) (a : RegAddr) : Word :=
  match a with
  | .reach p l off =>
    (match stagedAt off with
      | some (n, w, _) => (SMap.find (stageOf (s.reach p l) off) (stageKey rq n w)).getD (regWord s a)
      | none => regWord s a)
  | .cluster _ _ _ => regWord s a
  | .parcel _ _ => regWord s a
  | .hub _ => regWord s a
  | .config _ _ => regWord s a

/-- The word that an access of `size` bytes writes (R333). -/
def composed (s : State) (rq : Requester) (a : RegAddr) (size : Nat) (v : Word) : Word :=
  if size ≠ 4 then v
  else
    let cur := regCurrent s rq a &&& ~~~(word (actionBits a))
    putField cur (8 * (regOff a % 8)) 32 v.toNat

/-- The entry that a commit composes: words not staged take the entry's current values. -/
def stagedEntry {k : Nat} (st : SMap Word) (rq : Requester) (n : Nat) (cur : BitVec k) (mask : Nat → Word) : Nat → Nat → BitVec k
  | 0, _ => cur
  | m + 1, w =>
    setWord (stagedEntry st rq n cur mask m (w + 1)) w
      (((SMap.find st (stageKey rq n w)).getD (wordOf cur w)) &&& mask w)

/-- A staging map without the words of one entry of one requester. -/
def endStaging (st : SMap Word) (rq : Requester) (n : Nat) : SMap Word :=
  st.filter (fun e => e.1 / 16 != rqNo rq * 64 + n)

/-- The PROFILE entry that a write of `v` to its word 3 commits. -/
def profCommit (r : Reach) (rq : Requester) (n : Nat) (v : Word) : BitVec 256 :=
  stagedEntry (SMap.put r.profStage (stageKey rq n 3) v) rq n (SMap.get 0 r.prof n) profMask 4 0

/-- The TRAVERSE descriptor that a write of `v` to its word 15 commits. -/
def trvCommit (r : Reach) (rq : Requester) (n : Nat) (v : Word) : BitVec 1024 :=
  stagedEntry (SMap.put r.trvStage (stageKey rq n 15) v) rq n (SMap.get 0 r.trv n) trvMask 16 0

/-- The lowest bit of the first level whose dim is reserved (R196, R197). -/
def trvReserved (t : BitVec 1024) : Option Nat :=
  ((List.range 6).find? (fun i => decide (4 < (trvLevel t i).dim))).map (fun i => 256 + 128 * i + 24)

/-! ### Verdicts -/

/-- What a register's rules say of a write: it takes effect, it is discarded, it is discarded with DICT_STATE or with
STAKE_PAST, it is refused with BOUND, or it carries a reserved encoding, whose lowest bit, register offset and value the
record names (R19, R473). -/
inductive Verdict where
  | ok
  | discard
  | state
  | past (tick : Nat)
  | bound
  | reserved (lowBit off : Nat) (value : Word)
deriving DecidableEq, Repr

/-- Discarded when `bad`. -/
def discardIf (bad : Bool) : Verdict := if bad then .discard else .ok

/-- Reserved at `lowBit` when `bad`. -/
def reservedIf (bad : Bool) (lowBit off : Nat) (v : Word) (other : Verdict) : Verdict :=
  if bad then .reserved lowBit off v else other

/-- A swizzle key with en = 1 that is not legal (R229). -/
def swzBad (v : Word) : Bool :=
  bvb v 15 && (decide (bvf v 9 6 < bvf v 0 6 + (bvf v 6 3 + 1)) || decide (35 < bvf v 9 6 + (bvf v 6 3 + 1)))

/-- Verdict on a reach register. The record of a reserved encoding in a staged entry carries word 0 of the composed, masked
entry as its value written, log 39 (DESIGN CHOICE). -/
def reachVerdict (s : State) (rq : Requester) (p l off : Nat) (v : Word) : Verdict :=
  let r := s.reach p l
  if off = 0x08 then discardIf (!r.idle)
  else if off = 0x20 then reservedIf (bvf v 4 2 == 3) 4 off v (discardIf (!imgAccepts r v))
  else if off = 0x30 then discardIf (!winAccepts s p l false v)
  else if off = 0x38 then discardIf (!winAccepts s p l true v)
  else if within off 0x80 0x80 then reservedIf (swzBad v) 0xFFFF off v .ok
  else if within off 0x8000 Config.imemSize then (if r.idle && !r.task.run then .ok else .bound)
  else match stagedAt off with
    | some (n, 3, 3) =>
      let e := profCommit r rq n v
      (match profReserved e with
        | some b => .reserved b (0x800 + 32 * n) (wordOf e 0)
        | none => .ok)
    | some (n, 15, _) =>
      let e := trvCommit r rq n v
      (match trvReserved e with
        | some b => .reserved b (0x1000 + 128 * n) (wordOf e 0)
        | none => .ok)
    | _ => .ok

/-- A confluence region that is enabled and passes the top of stacked memory (R83). -/
def regionBad (v : Word) : Bool :=
  bvb v 0 && decide (0 < bvf v 40 24) && decide (Config.smSize < bvf v 12 23 * 4096 + bvf v 40 24 * 4096)

/-- A receive window that is enabled and passes the top of stacked memory (R321). -/
def rxWinBad (w : BitVec 128) : Bool :=
  bvb w 0 && decide (0 < bvf w 64 24) && decide (Config.smSize < bvf w 32 23 * 4096 + bvf w 64 24 * 4096)

/-- The writable bits of RX_WIN's words. -/
def rxMask (w : Nat) : Word := if w = 0 then 0x7FFFFF001FFFFF#64 else 0xFFFFFFFF00FFFFFF#64

/-- RX_WIN[k] after a write of word `w`. -/
def rxWinNew (s : State) (p k w : Nat) (v : Word) : BitVec 128 :=
  setWord (SMap.get 0 (s.parcel p).fab.rxWin k) w (v &&& rxMask w)

/-- Verdict on a parcel register. -/
def parcelVerdict (s : State) (p off : Nat) (v : Word) : Verdict :=
  let x := s.parcel p
  if within off 0 0x200 then discardIf (regionBad v)
  else if within off 0x310 16 then discardIf x.keys.busy
  else if off = 0x480 then discardIf (decide (x.fab.linkMax.toNat < bvf v 8 4) || decide (bvf v 8 4 < x.fab.linkMin.toNat))
  else if within off 0xC00 0x400 then discardIf (rxWinBad (rxWinNew s p ((off - 0xC00) / 16) (off % 16 / 8) v))
  else .ok

/-- The package is not in CONFIGURE: DICT_STATE; else the other verdict (R269, R309, R418). -/
def configOnly (s : State) (other : Verdict) : Verdict := if s.hub.state = .configure then other else .state

/-- The device's coordinates lie outside the sizes (R309). -/
def torusBad (v : Word) : Bool :=
  decide (torusSize v 0 ≤ coord (bvf v 0 14) 0) || decide (torusSize v 1 ≤ coord (bvf v 0 14) 1) ||
  decide (torusSize v 2 ≤ coord (bvf v 0 14) 2)

/-- A reserved action, or a reserved argument of one, in word 0 of a schedule entry: its lowest bit (R284). -/
def schedReserved (v : Word) : Option Nat :=
  let action := bvf v 1 3
  if 4 < action then some 1
  else if (action = 1 && decide (9 < bvf v 16 4)) || (action = 4 && limitBad (bvf v 16 16)) then some 16 else none

/-- Verdict on a write of word `w` of STAKE_SCHED[k] (R283). -/
def schedVerdict (s : State) (k w off : Nat) (v : Word) : Verdict :=
  let e := schedEntry s k
  if w = 0 then
    (match schedReserved v with
      | some b => .reserved b off v
      | none =>
        if bvb e 0 && bvb v 0 then .discard
        else if bvb v 0 && decide (schTick e ≤ s.datum.count) then .past (schTick e)
        else .ok)
  else discardIf (bvb e 0)

/-- The lowest bit of the first reserved field of HUB_DMA[c] as word 2 takes `v` (R354, R473): an address, or the length. -/
def dmaLowBit (d : Dma) : Nat := if bvf d.host 0 6 ≠ 0 then 0 else if bvf d.sys 0 6 ≠ 0 then 64 else 128

/-- Verdict on a write of word `w` of HUB_DMA[c] (R354, R375); the record names the register of 256 bits (R473). -/
def dmaVerdict (s : State) (c w : Nat) (v : Word) : Verdict :=
  let d := dmaOf s c
  if w ≠ 2 then discardIf d.busy
  else if dmaReserved d v then .reserved (dmaLowBit d) (0x400 + 32 * c) v
  else discardIf (bvb v 33 && (d.busy || decide (s.hub.state = .quiesce)))

/-- Verdict on a hub register. -/
def hubVerdict (s : State) (off : Nat) (v : Word) : Verdict :=
  if off = 0x00 then
    configOnly s (reservedIf (bvf v 0 2 == 3) 0 off v (reservedIf (decide (4 < bvf v 2 3)) 2 off v .ok))
  else if off = 0x08 then discardIf (bvf v 0 16 != 0)
  else if within off 0x100 0x100 then schedVerdict s ((off - 0x100) / 16) (off % 16 / 8) off v
  else if off = 0x200 then configOnly s (reservedIf (bvf v 32 8 == 0) 32 off v (discardIf (torusBad v)))
  else if within off 0x400 0x100 then dmaVerdict s ((off - 0x400) / 32) (off % 32 / 8) v
  else if off = 0x1000 then reservedIf (limitBad (bvf v 0 11)) 0 off v .ok
  else if within off 0x1040 0x80 && off % 16 == 0 then reservedIf (decide (9 < bvf v 16 4)) 16 off v .ok
  else if off = 0x8008 then reservedIf ((v &&& 0xFC01#64) != 0) 0 off v .ok
  else if off = 0x8100 then
    configOnly s (reservedIf (bvf v 16 16 == 0 || decide (500 < bvf v 16 16)) 16 off v .ok)
  else if off = 0x8108 then discardIf (bvb v 0 && !rearmOk s.stay)
  else .ok

/-- The verdict on a write of the whole word at an address. -/
def regVerdict (s : State) (rq : Requester) (a : RegAddr) (v : Word) : Verdict :=
  match a with
  | .reach p l off => reachVerdict s rq p l (off / 8 * 8) v
  | .cluster _ _ _ => .ok
  | .parcel p off => parcelVerdict s p (off / 8 * 8) v
  | .hub off => hubVerdict s (off / 8 * 8) v
  | .config _ _ => .ok

/-! ### Effects -/

/-- A live counter takes a written value and the increments of this cc on top (R440); wrap is W1C (R439). -/
def counterSet (m : SMap Word) (inc : SMap Nat) (k : Nat) (v : Word) : SMap Word :=
  SMap.put m k (cntAdd (word (bvf v 0 48 + b2n (bvb (SMap.get 0 m k) 48 && !bvb v 48) * 2 ^ 48)) (SMap.get 0 inc k))

/-- A word of the tables that a register write replaces holds no poison any more (R403). -/
def Reach.cleanWord (r : Reach) (m : WordMem) (lo n : Nat) : Reach :=
  { r with ruined := r.ruined.filter (fun x => !(decide (x.1 = m) && decide (lo ≤ x.2) && decide (x.2 < lo + n))) }

/-- A write of a staged word; the last one commits the entry and ends the staging (R191). -/
def stageWrite (r : Reach) (rq : Requester) (off n w last : Nat) (v : Word) : Reach :=
  if off < 0x1000 then
    (if w = last then
      Reach.cleanWord { r with
        prof := SMap.put r.prof n (profCommit r rq n v), profStage := endStaging r.profStage rq n } .prof (n * 4) 4
    else { r with profStage := SMap.put r.profStage (stageKey rq n w) v })
  else
    (if w = last then
      Reach.cleanWord { r with
        trv := SMap.put r.trv n (trvCommit r rq n v), trvStage := endStaging r.trvStage rq n } .trv (n * 16) 16
    else { r with trvStage := SMap.put r.trvStage (stageKey rq n w) v })

/-- A word written into IMEM; the whole write clears its poison (R403). -/
def imemWrite (r : Reach) (a : Nat) (v : Word) : Reach :=
  { r with imem := memWrite r.imem a (leBytes 8 v.toNat), imemPoison := setErase r.imemPoison (a / 8) }

/-- The effect of a write on the registers of a reach that only hold what is written; `set` where the hardware has set the
drift bit of a monitor in this cycle (R14). -/
def reachStore (r : Reach) (rq : Requester) (off : Nat) (v : Word) (set : Bool) : Reach :=
  if off = 0x30 then r.setWin false v
  else if off = 0x38 then r.setWin true v
  else if off = 0x40 then { r with fuse := v &&& 0xFFFF#64 }
  else if within off 0x80 0x80 then { r with swz := SMap.put r.swz ((off - 0x80) / 8) (v &&& 0xFFFF#64) }
  else if within off 0x2000 0x800 then
    Reach.cleanWord { r with actSeg := SMap.put r.actSeg ((off - 0x2000) / 8) (v &&& actMask (off % 16 / 8)) } .seg
      ((off - 0x2000) / 8) 1
  else if within off 0x2800 0x40 then
    (if off % 16 = 0 then calCfgSet r ((off - 0x2800) / 16) v set
    else { r with calWin := SMap.put r.calWin ((off - 0x2800) / 16) (v &&& 0xFFFFFFFF000FFFFF#64) })
  else if within off 0x8000 Config.imemSize then imemWrite r (off - 0x8000) v
  else if within off 0xC000 0x80 then { r with cnt := counterSet r.cnt r.cntInc ((off - 0xC000) / 8) v }
  else match stagedAt off with
    | some (n, w, last) => stageWrite r rq off n w last v
    | none => r

/-- The effect of a write on a reach register. -/
def reachSet (s : State) (rq : Requester) (p l off : Nat) (v : Word) : State :=
  if off = 0x00 then ctlWrite s p l v
  else if off = 0x08 then pcWrite s p l v
  else if off = 0x20 then imgWrite s p l v
  else s.updReach p l (fun r => reachStore r rq off v (s.marked (.drift p l ((off - 0x2800) / 16))))

/-- A write of members completes the round when it is at or below the arrivals (R185). -/
def membersSetCluster (s : State) (p c k m : Nat) : State :=
  let b := (clusterBar s p c k).setMembers m
  let s1 := setClusterBar s p c k b
  if b.full then clusterRound s1 p c k else s1

/-- The same for a parcel barrier. -/
def membersSetParcel (s : State) (p k m : Nat) : State :=
  let b := (parcelBar s p k).setMembers m
  let s1 := setParcelBar s p k b
  if b.full then parcelRound s1 p k else s1

/-- The effect of a write on a cluster register. -/
def clusterSet (s : State) (p c off : Nat) (v : Word) : State :=
  if within off 0x80 0x80 then membersSetCluster s p c ((off - 0x80) / 8) (bvf v 0 8)
  else s.updCluster p c (fun x =>
    if within off 0x40 0x20 then { x with tally := SMap.put x.tally ((off - 0x40) / 8) v }
    else if within off 0x100 0x40 then { x with cbCfg := SMap.put x.cbCfg ((off - 0x100) / 8) (v &&& 3) }
    else if within off 0x200 0x400 then { x with cbLvl := SMap.put x.cbLvl ((off - 0x200) / 8) (v &&& 0xFFFF#64) }
    else if within off 0x8000 0x60 then { x with cnt := counterSet x.cnt x.cntInc ((off - 0x8000) / 8) v }
    else x)

/-- A write of CONF_REGION[k]: sat is W1C (R83); `set` where an add has set it in this cycle (R14). -/
def regionSet (x : Parcel) (k : Nat) (v : Word) (set : Bool) : Parcel :=
  { x with region := SMap.put x.region k (putBit (v &&& 0xFFFFFF07FFFFF003#64) 2
      (w1c (bvb (SMap.get 0 x.region k) 2) (bvb v 2) set)) }

/-- INT_STAT after a write of 1s to W1C bits: those that the hardware has set in this cycle stay (R14). -/
def statCleared (st : BitVec 4) (v : Word) (set : Nat → Bool) : BitVec 4 :=
  (List.range 4).foldl (fun x n => putBit x n (w1c (bvb st n) (bvb v n) (set n))) st

/-- A write of INT_STAT (R345). A bit that stood already, and that its source set again in the cycle of the clear, sends its
vector (R347). -/
def intStatSet (s : State) (p : Nat) (v : Word) : State :=
  let s1 := s.updMon p (fun m => { m with
    intStat := statCleared m.intStat v (fun n => s.marked (.int p n) || s.marked (.intAgain p n)) })
  (List.range 4).foldl (fun t n =>
    if bvb v n && bvb (s.parcel p).mon.intStat n && bvb (s.parcel p).mon.intEn n && s.marked (.intAgain p n)
    then msix t (p + 1) n else t) s1

/-- A write of HUB_INT_STAT (R346, R347). -/
def hubIntStatSet (s : State) (v : Word) : State :=
  let s1 := s.updPort (fun h => { h with
    intStat := statCleared h.intStat v (fun n => s.marked (.hubInt n) || s.marked (.hubIntAgain n)) })
  (List.range 4).foldl (fun t n =>
    if bvb v n && bvb s.hub.port.intStat n && bvb s.hub.port.intEn n && s.marked (.hubIntAgain n) then msix t 0 n else t) s1

/-- A write of INT_EN: a bit written 1 while its INT_STAT bit is 1 sends its vector (R347). -/
def intEnSet (s : State) (p : Nat) (v : Word) : State :=
  let s1 := s.updMon p (fun m => { m with intEn := BitVec.ofNat 4 (bvf v 0 4) })
  (List.range 4).foldl (fun s n => if bvb v n && bvb (s.parcel p).mon.intStat n then msix s (p + 1) n else s) s1

/-- A write of HUB_INT_EN (R346, R347). -/
def hubIntEnSet (s : State) (v : Word) : State :=
  let s1 := s.updPort (fun h => { h with intEn := BitVec.ofNat 4 (bvf v 0 4) })
  (List.range 4).foldl (fun s n => if bvb v n && bvb s.hub.port.intStat n then msix s 0 n else s) s1

/-- The effect of a write on the monitor registers of a parcel. -/
def monSet (m : Monitors) (off : Nat) (v : Word) : Monitors :=
  if off = 0x1010 then { m with intBar := BitVec.ofNat 16 (bvf v 0 16) }
  else if off = 0x1018 then { m with intWin := v }
  else if within off 0x8100 0xA8 then { m with cnt := counterSet m.cnt m.cntInc ((off - 0x8100) / 8) v }
  else m

/-- The writable bits of MSG_CHAN's words (R318). -/
def chanMask (w : Nat) : Word := if w = 0 then 0x3F7FFF#64 else 0xFFFFFFFFFFFFFFFF#64

/-- The effect of a write on the fabric registers of a parcel. -/
def fabSet (f : Fabric) (off : Nat) (v : Word) : Fabric :=
  if off = 0x480 then { f with pkt := BitVec.ofNat 4 (bvf v 8 4) }
  else if within off 0x800 0x400 then
    let k := (off - 0x800) / 16
    { f with chan := SMap.put f.chan k (setWord (SMap.get 0 f.chan k) (off % 16 / 8) (v &&& chanMask (off % 16 / 8))) }
  else if within off 0xC00 0x400 then
    let k := (off - 0xC00) / 16
    { f with rxWin := SMap.put f.rxWin k (setWord (SMap.get 0 f.rxWin k) (off % 16 / 8) (v &&& rxMask (off % 16 / 8))) }
  else f

/-- The effect of a write on a parcel register. -/
def parcelSet (s : State) (p off : Nat) (v : Word) : State :=
  if within off 0 0x200 then s.updParcel p (fun x => regionSet x (off / 8) v (s.marked (.sat p (off / 8))))
  else if within off 0x200 0x80 then membersSetParcel s p ((off - 0x200) / 8) (bvf v 0 8)
  else if off = 0x300 then updKeys s p (fun k => { k with keyNext := BitVec.ofNat 32 (bvf v 32 32) })
  else if off = 0x308 then skewCfgSet s p v
  else if within off 0x310 16 then chanRotateSet s p ((off - 0x310) / 8) v
  else if off = 0x1000 then intStatSet s p v
  else if off = 0x1008 then intEnSet s p v
  else if off = 0x1040 then parcelArrive s p (bvf v 0 4)
  else if off = 0x8000 then perfCtlSet s p v
  else if off = 0x8008 then sampleCfgSet s p v
  else if off = 0x8018 then bwCfgSet s p v
  else match portAt off with
    | some q => if off % 16 = 0 then linkCtlWrite s p q v else s
    | none => (s.updMon p (fun m => monSet m off v)).updFab p (fun f => fabSet f off v)

/-- The effect of a write on word `w` of STAKE_SCHED[k] (R283). -/
def schedSet (s : State) (k w : Nat) (v : Word) : State :=
  s.updHub (fun h => { h with sched := SMap.put h.sched k (setWord (SMap.get 0 h.sched k) w
    (if w = 0 then v &&& 0xFFFF0FFF#64 else v)) })

/-- The effect of a write on a hub register. -/
def hubSet (s : State) (off : Nat) (v : Word) : State :=
  if off = 0x00 then datumCfgSet s v
  else if off = 0x08 then datumLoadSet s v
  else if within off 0x100 0x100 then schedSet s ((off - 0x100) / 16) (off % 16 / 8) v
  else if off = 0x200 then s.updHub (fun h => { h with torus := v &&& 0xFF3FFF3FFF#64 })
  else if off = 0x300 then hubIntStatSet s v
  else if off = 0x308 then hubIntEnSet s v
  else if within off 0x400 0x100 then
    (if off % 32 / 8 = 2 then dmaArm s ((off - 0x400) / 32) v else dmaSet s ((off - 0x400) / 32) (off % 32 / 8) v)
  else if off = 0x1000 then setLimit s (bvf v 0 11)
  else if within off 0x1040 0x80 && off % 16 == 0 then pwrParcelSet s ((off - 0x1040) / 16) v
  else if off = 0x8008 then { s with book := { s.book with notice := BitVec.ofNat 16 (bvf v 0 16) } }
  else if off = 0x8100 then updStay s (fun y => { y with dtime := BitVec.ofNat 16 (bvf v 16 16) })
  else if off = 0x8108 then (if bvb v 0 then stayRearm s else s)
  else s

/-- The pending vectors of a function that nothing masks any more are sent (R347, log 14). -/
def msixRelease (s : State) (fn : Nat) : State :=
  (List.range 4).foldl (fun s v =>
    let h := s.hub.port
    if SMap.get false h.vecPend (fn * 4 + v) && !bvb h.fnMask fn && !SMap.get false h.vecMask (fn * 4 + v)
    then s.updPort (fun h => { h with
      vecPend := SMap.put h.vecPend (fn * 4 + v) false, sent := (fn, v) :: h.sent }) else s) s

/-- The effect of a write on the configuration space (R332, R347). -/
def configSet (s : State) (fn : Nat) (r : ConfigReg) (v : Word) : State :=
  match r with
  | .bar k =>
    let w := k.val / 2
    let n := windowSize fn w
    let i := fn * 3 + w
    let base (h : HostPort) : Nat := (putField (SMap.get 0 h.bars i) (32 * (k.val % 2)) 32 (bvf v 0 32)).toNat / n * n
    if n = 0 then s else s.updPort (fun h => { h with bars := SMap.put h.bars i (word (base h)) })
  | .msixControl => msixRelease (s.updPort (fun h => { h with fnMask := putBit h.fnMask fn (bvb v 14) })) fn
  | .msixMask n => msixRelease (s.updPort (fun h => { h with vecMask := SMap.put h.vecMask (fn * 4 + n) (bvb v 0) })) fn

/-- The effect of a write that its rules let through. -/
def regSet (s : State) (rq : Requester) (a : RegAddr) (v : Word) : State :=
  match a with
  | .reach p l off => reachSet s rq p l (off / 8 * 8) v
  | .cluster p c off => clusterSet s p c (off / 8 * 8) v
  | .parcel p off => parcelSet s p (off / 8 * 8) v
  | .hub off => hubSet s (off / 8 * 8) v
  | .config fn r => configSet s fn r v

/-! ### Performing a write -/

/-- A refused commit ends the requester's staging (R191). -/
def dropStaging (s : State) (rq : Requester) (a : RegAddr) : State :=
  match a with
  | .reach p l off =>
    (match stagedAt off with
      | some (n, w, last) =>
        if w ≠ last then s
        else if off < 0x1000 then s.updReach p l (fun r => { r with profStage := endStaging r.profStage rq n })
        else s.updReach p l (fun r => { r with trvStage := endStaging r.trvStage rq n })
      | none => s)
  | .cluster _ _ _ => s
  | .parcel _ _ => s
  | .hub _ => s
  | .config _ _ => s

/-- The number of a package or parcel state (R376). -/
def stateNo : PState → Nat
  | .off => 0 | .identify => 1 | .train => 2 | .configure => 3 | .ready => 4 | .run => 5 | .quiesce => 6 | .contain => 7

/-- DICT_STATE of a register write (R372): path 3, index 0xFFFF, and the register's address. -/
def raiseRegState (s : State) (a : RegAddr) : State :=
  raise s (srcHub 5) evDictState (placeFields [(0, 1, 3), (1, 1, 0), (2, 1, 0), (3, 1, 2), (4, 2, 0xFFFF), (6, 1, 0),
    (7, 1, stateNo s.hub.state), (8, 1, 0xFF), (12, 4, 0), (16, 5, regAddress a)] [])

/-- A write of the whole word at an address, by an access of `size` bytes, under the register's rules. -/
def regWrite (s : State) (rq : Requester) (a : RegAddr) (size : Nat) (v : Word) : State :=
  match regVerdict s rq a v with
  | .ok => regSet s rq a v
  | .discard => s
  | .state => raiseRegState s a
  | .past tick => hubPast s tick
  | .bound => refuseAccess s rq a size 3
  | .reserved lowBit off value =>
    dropStaging (raise s (regSource a) evIllegalEncoding
      (illegalPayload 1 0xFF lowBit 0xFFFFFFFF (regAddress (regAt off a)) value.toNat)) rq a

/-! ### Writes that wait -/

/-- What a waiting write waits for: a reach that is being reset, the DLTAs of a reach, those that name one of its tables, or
the readers of a code book. -/
inductive Lock where
  | reset (l : Nat)
  | fuse (l : Nat)
  | table (l t : Nat)
  | book (c k : Nat)
deriving DecidableEq, Repr

/-- The lock of a register, if its writes can wait for instructions. -/
def regLock : RegAddr → Option Lock
  | .reach _ l off =>
    if off / 8 * 8 = 0x40 then some (.fuse l)
    else if within off 0x2000 0x800 then some (.table l ((off - 0x2000) / 256)) else none
  | .cluster _ c off =>
    if within off 0x100 0x40 then some (.book c ((off - 0x100) / 8))
    else if within off 0x200 0x400 then some (.book c ((off - 0x200) / 128)) else none
  | .parcel _ _ => none
  | .hub _ => none
  | .config _ _ => none

/-- An instruction in flight reads code book `k` (R96, R123, R124). -/
def readsBook (f : Flight) (k : Nat) : Bool :=
  let q := prof f.job.prof
  (wOp f.job.word == 1 && q.wGrid == 3 && q.wCb == k) || (wOp f.job.word == 3 && q.outKind == 3 && q.outCb == k)

/-- A DLTA in flight. -/
def isDlta (f : Flight) : Bool := wOp f.job.word == 3

/-- A DLTA in flight names piecewise table `t` (R108). -/
def namesTable (f : Flight) (t : Nat) : Bool := isDlta f && (prof f.job.prof).actEn && (prof f.job.prof).actSel == t

/-- A lock is taken. -/
def locked (s : State) (p : Nat) : Lock → Bool
  | .reset l => (s.reach p l).task.resetting
  | .fuse l => (s.reach p l).flights.any isDlta
  | .table l t => (s.reach p l).flights.any (fun f => namesTable f t)
  | .book c k => (List.range 8).any (fun i => (s.reach p (8 * c + i)).flights.any (fun f => readsBook f k))

/-- The reach whose reset an access waits for; reads of its register block return reset values (R161). -/
def heldReach : Held → Option Nat
  | .reg _ (.reach _ l _) _ _ => some l
  | .reg _ _ _ _ => none
  | .read _ _ _ => none
  | .dbg _ _ => none
  | .mem off _ _ => if 0x650000000 ≤ off && off < 0x654000000 then some ((off - 0x650000000) / 0x80000) else none

/-- The locks of an access. -/
def heldLocks (h : Held) : List Lock :=
  (match heldReach h with
    | some l => [.reset l]
    | none => []) ++
  (match h with
    | .reg _ a _ _ => (match regLock a with | some k => [k] | none => [])
    | .read _ _ _ => []
    | .dbg _ _ => []
    | .mem _ _ _ => [])

/-- An access of the host. -/
def hostHeld : Held → Bool
  | .reg rq _ _ _ => decide (rq = .host)
  | .read rq _ _ => decide (rq = .host)
  | .mem _ _ _ => true
  | .dbg _ _ => true

/-- An access waits while one of its locks is taken, or while an older one with the same lock waits; an access of the host
waits behind every older one of the host to the same function (R359). -/
def mustWait (s : State) (p : Nat) (older : List Held) (h : Held) : Bool :=
  (heldLocks h).any (fun k => locked s p k || older.any (fun o => (heldLocks o).contains k)) ||
  (hostHeld h && older.any hostHeld)

end Sys2Proof.Machine
end

