-- ==== Sys2Proof/Machine/Access.lean ====
section
/-!
DEFINITION. The host's accesses (12 R331 to R344, R348, 14 R399): which of them reach their target, the windows WIN_MEM
and WIN_DBG, CXL.mem, register accesses, and the accesses that wait.
-/

namespace Sys2Proof.Machine

/-! ### Replies -/

/-- The completion that the host sees. -/
def reply (s : State) (r : HostReply) : State := s.updPort (fun h => { h with reply := r })

/-- A parcel function takes accesses: the parcel is out of reset, not in CONTAIN, and its hub port is up (R335, R408). -/
def functionOpen (s : State) (p : Nat) : Bool := hubReaches s p

/-- An access of `len` bytes has a form that the windows accept (R333). -/
def winForm (off len : Nat) : Bool := decide (0 < len) && decide (len ≤ 4096) && decide (off % 4096 + len ≤ 4096)

/-- Length of an access. -/
def accLen : MemAccess → Nat
  | .read n => n
  | .write bs => bs.length

/-- Whether an access reads. -/
def accReads : MemAccess → Bool
  | .read _ => true
  | .write _ => false

/-- A refused access to a window (R334): BOUND, and Unsupported Request for a read. -/
def refuseWin (s : State) (src parcel mem off : Nat) (acc : MemAccess) : State :=
  let s1 := raise s src evBound (boundPayload 0xFFFFFFFF 3 0xFF mem parcel off (off + accLen acc - 1) 0 0xFFFF)
  if accReads acc then reply s1 .unsupported else s1

/-- An access that the parcel cannot take: Completer Abort for a read, a dropped write (R335). -/
def abortWin (s : State) (acc : MemAccess) : State := if accReads acc then reply s .abort else s

/-! ### The snoop filter (R348) -/

/-- Lines of the snoop filter of one parcel. -/
def filterLines : Nat := 262144

/-- A line cached by the host enters the filter; a full filter back-invalidates its oldest entry. -/
def cacheLine (s : State) (p line : Nat) : State :=
  let ls := SMap.get [] s.hub.port.snoop p
  if ls.contains line then s
  else if ls.length < filterLines then
    s.updPort (fun h => { h with snoop := SMap.put h.snoop p (ls ++ [line]) })
  else
    snooped (s.updPort (fun h => { h with snoop := SMap.put h.snoop p (ls.drop 1 ++ [line]) })) p 1

/-- The lines that an access touches. -/
def linesOf (a n : Nat) : List Nat :=
  if n = 0 then [] else (List.range ((a + n - 1) / 64 - a / 64 + 1)).map (fun i => a / 64 + i)

/-! ### The window's targets (R332, R336) -/

/-- What a WIN_MEM offset names: a memory and the offset in it, or the memory whose slot it passes. -/
inductive Target where
  | mem (k : Space) (a : Nat)
  | none (mem : Nat)
deriving DecidableEq, Repr

/-- The target of an access of `n` bytes at an offset of a parcel's window. -/
def winTarget (p off n : Nat) (cxl : Bool) : Target :=
  if off + n ≤ Config.smSize then .mem (.sm p) off
  else if cxl || decide (off < Config.smSize) then .none 2
  else if within off 0x640000000 0x10000000 then
    (if (off - 0x640000000) % 0x1000000 + n ≤ Config.cbSize
      then .mem (.cb p ((off - 0x640000000) / 0x1000000)) ((off - 0x640000000) % 0x1000000) else .none 1)
  else if within off 0x650000000 0x4000000 then
    (if (off - 0x650000000) % 0x80000 + n ≤ Config.spSize
      then .mem (.sp p ((off - 0x650000000) / 0x80000)) ((off - 0x650000000) % 0x80000) else .none 0)
  else if within off 0x654000000 0xA00000 then .none 4
  else .none 0xFF

/-- The memory of a target as a BOUND record names it (R474). -/
def targetMem : Target → Nat
  | .mem (.sm _) _ => 2
  | .mem (.cb _ _) _ => 1
  | .mem (.sp _ _) _ => 0
  | .mem (.imem _ _) _ => 3
  | .none m => m

/-- What a host read finds in its cells (R350 to R352, R401, R403), with the errors that stood there. -/
def cellError (s : State) (k : Space) (a n : Nat) (err : CellError) : State := settle (plantIn s k a n err) k a n (srcHub 6)

/-- The bytes that a host read returns; those of a poisoned unit are free values (log 34). -/
def hostBytes (s : State) (k : Space) (a n : Nat) : List Byte :=
  if (poisonIn s k a n).isNone then rdBytes s k a n
  else (List.range n).map (fun i =>
    if (poisonIn s k (a + i) 1).isSome then BitVec.ofNat 8 (Config.free (s.free + i)) else rdByte s k (a + i))

/-- Counts of a host access: the accesses to a cluster buffer (R442), the bytes through the windows and the hub port
(R443, R448). -/
def countHost (s : State) (k : Space) (write : Bool) (n : Nat) (cxl : Bool) : State :=
  let p := spaceParcel k
  let s1 := match k with
    | .cb p c => bumpCcnt s p c 10 1
    | _ => s
  let s2 := if cxl then s1 else bumpBw s1 p 22 n
  if write then bumpBw s2 p 19 n else bumpBw (bumpPcnt s2 p 11 n) p 16 n

/-- A host read of `n` bytes. -/
def hostRead (s : State) (k : Space) (a n : Nat) (cxl : Bool) (err : CellError) : State :=
  let as := match k with | .sm _ => (List.range n).map (fun i => a + i) | _ => []
  let s1 := smCount (if cxl then s else backInvalidate s k as) k false as
  let s2 := if cxl then (linesOf a n).foldl (fun s x => cacheLine s (spaceParcel k) x) s1 else s1
  let s3 := cellError (countHost s2 k false n cxl) k a n err
  { reply s3 (.data (hostBytes s3 k a n) (poisonIn s3 k a n).isSome) with free := s3.free + n }

/-- A host write. -/
def hostStore (s : State) (k : Space) (a : Nat) (bs : List Byte) (cxl : Bool) : State :=
  let ws := cellsOf a bs
  let as := ws.map (fun c => c.1)
  let s1 := smCount (if cxl then s else backInvalidate s k as) k true as
  let s2 := countHost s1 k true bs.length cxl
  let bad := if (poisoned s2 k).isEmpty then []
    else (touched k ws).filter (fun u => (poisoned s2 k).contains u && !covers k ws u)
  bad.foldl (fun t u => raiseUe t k u (srcHub 6)) (writeCells s2 k ws).1

/-- A host access to a memory. -/
def memAccess (s : State) (k : Space) (a : Nat) (acc : MemAccess) (cxl : Bool) (err : CellError) : State :=
  match acc with
  | .read n => hostRead s k a n cxl err
  | .write bs => hostStore s k a bs cxl

/-- An access to a parcel's WIN_MEM, or through CXL.mem, that its parcel takes. -/
def parcelWin (s : State) (p off : Nat) (acc : MemAccess) (cxl : Bool) (err : CellError) : State :=
  if !winForm off (accLen acc) then refuseWin s (srcParcel p 11) p (targetMem (winTarget p off 1 cxl)) off acc
  else match winTarget p off (accLen acc) cxl with
    | .none mem => refuseWin s (srcParcel p 11) p mem off acc
    | .mem k a => memAccess s k a acc cxl err

/-! ### The hub function's WIN_MEM (R399) -/

/-- The byte at an offset of the field-book image. -/
def bookByte (b : Book) (off : Nat) : Byte :=
  let at64 (r : BitVec 512) : Byte := BitVec.ofNat 8 (bvf r (8 * (off % 64)) 8)
  if off < 0x40000 then at64 (SMap.get 0 b.copyA (off / 64))
  else if off < 0x80000 then at64 (SMap.get 0 b.copyB ((off - 0x40000) / 64))
  else if off < 0x80200 then at64 ((lastGaspFile b).getD ((off - 0x80000) / 64) 0)
  else 0

/-- An access to the hub's WIN_MEM, 1 MiB and read-only. -/
def hubWin (s : State) (off : Nat) (acc : MemAccess) : State :=
  match acc with
  | .read n =>
    if winForm off n && decide (off + n ≤ 0x100000) then
      reply s (.data ((List.range n).map (fun i => bookByte s.book (off + i))) false)
    else refuseWin s (srcHub 6) 0xFF 0xFF off acc
  | .write _ => refuseWin s (srcHub 6) 0xFF 0xFF off acc

/-! ### WIN_DBG (R344) -/

/-- A write into the scalar area of a reach, at a byte offset. -/
def scalarStore (r : Reach) (o : Nat) (bs : List Byte) : Reach :=
  let old := scalarBytes r
  let new := old.take o ++ bs ++ old.drop (o + bs.length)
  (pieces 8 32 0 new).foldl (fun r x => r.setScalar x.1 (word x.2)) r

/-- Bytes of an access of the host or the surveyor cross the hub port of parcel `p`: received for a write, sent for a read
(R443, R448). -/
def portCount (s : State) (p : Nat) (write : Bool) (n : Nat) : State :=
  if write then bumpBw s p 19 n else bumpBw (bumpPcnt s p 11 n) p 16 n

/-- An access to WIN_DBG that its parcel takes. -/
def dbgWin (s : State) (p off : Nat) (acc : MemAccess) : State :=
  let l := off / 0x20000
  let o := off % 0x20000
  let r := s.reach p l
  let n := accLen acc
  if !winForm off n || decide (0x1000000 < off + n) then refuseWin s (srcParcel p 11) p 0xFF off acc
  else match acc with
    | .read _ =>
      if r.idle && decide (o + n ≤ 65856) then reply (portCount s p false n) (.data (((poolImage r).drop o).take n) false)
      else if r.idle && decide (0x18000 ≤ o) && decide (o + n ≤ 0x18100) then
        reply (portCount s p false n) (.data (((scalarBytes r).drop (o - 0x18000)).take n) false)
      else refuseWin s (srcParcel p 11) p 0xFF off acc
    | .write bs =>
      if r.idle && !r.task.run && decide (0x18000 ≤ o) && decide (o + n ≤ 0x18100) then
        portCount (s.updReach p l (fun r => scalarStore r (o - 0x18000) bs)) p true n
      else refuseWin s (srcParcel p 11) p 0xFF off acc

/-! ### Registers -/

/-- A register number that a task may write by CSR, or read (R188, R337, R451). -/
def csrWritable (off : Nat) : Bool :=
  !(decide (off < 0x28) || off == 0x30 || off == 0x38 || within off 0x80 0x80 || decide (0x8000 ≤ off))

/-- An access by a requester reaches a register (R335, R337, R342, R409). -/
def regGate (s : State) (rq : Requester) (write : Bool) (a : RegAddr) : Bool :=
  match a with
  | .hub _ => decide (rq ≠ .task)
  | .config _ _ => decide (rq = .host)
  | .parcel p off => decide (rq ≠ .task) && relays s p && (decide ((s.parcel p).state ≠ .contain) || !write ||
      decide (off / 8 * 8 = 0x1000) || decide (off / 8 * 8 = 0x1008))
  | .cluster p _ _ => decide (rq ≠ .task) && functionOpen s p
  | .reach p _ off => functionOpen s p && (decide (rq ≠ .task) || !write || csrWritable (off / 8 * 8))

/-- A register access has a size and an alignment that the block accepts (R333). -/
def regForm (off size : Nat) : Bool := (size == 4 || size == 8) && off % size == 0

/-- The reply to a read of a requester; only the host's is kept. -/
def replyTo (s : State) (rq : Requester) (r : HostReply) : State := if rq = .host then reply s r else s

/-- The bytes of a register access of the host or the surveyor, which cross the hub port of the parcel. -/
def portBytes (s : State) (rq : Requester) (p : Nat) (write : Bool) (n : Nat) : State :=
  if rq = .task then s else portCount s p write n

/-- A register is read and the reader has its value. -/
def readNow (s : State) (rq : Requester) (a : RegAddr) (size : Nat) : State :=
  let (s1, v) := regRead s rq a size
  replyTo s1 rq (.data (leBytes size v) false)

/-- Perform an access that waited. -/
def performHeld (s : State) (p : Nat) : Held → State
  | .reg rq a size v => regWrite s rq a size (composed s rq a size v)
  | .read rq a size => readNow (portBytes s rq p false size) rq a size
  | .dbg off acc => dbgWin s p off acc
  | .mem off acc err => parcelWin s p off acc false err

/-- The accesses that wait in a parcel are performed in order, as far as they may be. -/
def releaseHeld (s : State) (p : Nat) : State :=
  let (s1, rest) := (s.parcel p).held.foldl (fun (x : State × List Held) h =>
    if mustWait x.1 p x.2 h then (x.1, x.2 ++ [h]) else (performHeld x.1 p h, x.2)) (s, [])
  s1.updParcel p (fun x => { x with held := rest })

/-- An access waits, or is performed at once. -/
def holdOr (s : State) (p : Nat) (h : Held) : State :=
  if mustWait s p (s.parcel p).held h then s.updParcel p (fun x => { x with held := x.held ++ [h] })
  else performHeld s p h

/-- The requester can issue an access: the host needs its link. -/
def rqPresent (s : State) (rq : Requester) : Bool := decide (rq ≠ .host) || s.hub.port.linkUp

/-- Before the host port answers configuration requests with success, from step 7 of the power-up on with PERST_N released, it
answers them with Configuration Request Retry Status (R466). -/
def configRetry (s : State) (rq : Requester) : RegAddr → Bool
  | .config _ _ => decide (rq = .host) && !s.hub.port.linkUp && decide (s.hub.state ≠ .off) &&
      decide (s.hub.state ≠ .identify) && !s.hub.lands.perstN && !s.hub.lands.resetN
  | _ => false

/-- A register write of a requester (R13, R333 to R335). -/
def accessWrite (s : State) (rq : Requester) (a : RegAddr) (size : Nat) (v : Word) : State :=
  if configRetry s rq a then reply s .retry
  else if !rqPresent s rq || !regGate s rq true a then s
  else if !regForm (regOff a) size then refuseAccess s rq a size 4
  else match a with
    | .hub _ => regWrite s rq a size (composed s rq a size v)
    | .config _ _ => regWrite s rq a size (composed s rq a size v)
    | .parcel p _ => holdOr (portBytes s rq p true size) p (.reg rq a size v)
    | .cluster p _ _ => holdOr (portBytes s rq p true size) p (.reg rq a size v)
    | .reach p _ _ => holdOr (portBytes s rq p true size) p (.reg rq a size v)

/-- A register read of a requester (R17, R333 to R335). -/
def accessRead (s : State) (rq : Requester) (a : RegAddr) (size : Nat) : State :=
  if configRetry s rq a then reply s .retry
  else if !rqPresent s rq then s
  else if !regGate s rq false a then replyTo s rq .abort
  else if !regForm (regOff a) size then replyTo (refuseAccess s rq a size 4) rq .unsupported
  else match a with
    | .hub _ => readNow s rq a size
    | .config _ _ => readNow s rq a size
    | .parcel p _ => holdOr s p (.read rq a size)
    | .cluster p _ _ => holdOr s p (.read rq a size)
    | .reach p _ _ => holdOr s p (.read rq a size)

/-! ### The commands of the windows -/

/-- WIN_MEM_ACCESS (R333, R334, R348). -/
def execWinMemAccess (fn : Fin 9) (cxl : Bool) (off : Nat) (acc : MemAccess) (err : CellError) (s : State) : Out :=
  .next (
    if !s.hub.port.linkUp then s
    else if fn.val = 0 then hubWin s off acc
    else
      let p := fn.val - 1
      if !functionOpen s p then abortWin s acc
      else if cxl then parcelWin s p off acc true err
      else holdOr s p (.mem off acc err))

/-- WIN_DBG_ACCESS (R344). -/
def execWinDbgAccess (p : ParcelId) (off : Nat) (acc : MemAccess) (s : State) : Out :=
  .next (if !s.hub.port.linkUp then s else if !functionOpen s p then abortWin s acc else holdOr s p (.dbg off acc))

/-- REGISTER_WRITE (R13): any register. -/
def execRegisterWrite (rq : Requester) (a : RegAddr) (size : Nat) (v : Word) (s : State) : Out :=
  .next (accessWrite s rq a size v)

/-- LATCHED_READ (R17). -/
def execLatchedRead (rq : Requester) (a : RegAddr) (size : Nat) (s : State) : Out := .next (accessRead s rq a size)

end Sys2Proof.Machine
end

