-- ==== Sys2Proof/Machine/Csr.lean ====
section
/-!
DEFINITION. CSR (06 R188, 12 R337, 16 R451), the completion of an instruction (06 R171), and the end of a stop and of a
reach reset (06 R160, R161).
-/

namespace Sys2Proof.Machine

/-! ### CSR -/

/-- The registers that only the host and the surveyor write (R188). -/
def csrHostOnly (off : Nat) : Bool := decide (off < 0x28) || off == 0x30 || off == 0x38 || within off 0x80 0x80

/-- A register number that raises BOUND (R188, R337, R451). -/
def csrBound (s : State) (j : Job) : Bool :=
  let n := csrNo j
  within n 0x1000 0x800 || decide (0x2000 ≤ n) ||
  (within n 0x1800 0x200 && (csrDir j || !s.hub.dict.grant)) || (csrDir j && csrHostOnly (8 * n))

/-- The plan of a CSR. -/
def csrPlan (s : State) (p l : Nat) (j : Job) : Plan :=
  { csrSets j with
    checks := [failAddress p l j (csrBound s j) 0xFF 4 (8 * csrNo j) (8 * csrNo j + 7) 0] }

/-- A CSR read (R188): the word, or 0 at the numbers that R451 leaves empty. -/
def csrValue (s : State) (p l : Nat) (j : Job) : State × Nat :=
  if within (csrNo j) 0x1820 0x1E0 then (s, 0)
  else regRead s .task (.reach ⟨p % 8, Nat.mod_lt _ (by decide)⟩ ⟨l % 128, Nat.mod_lt _ (by decide)⟩ (8 * csrNo j)) 8

/-- CSR_READ (R188). -/
def execCsrRead (p : ParcelId) (l : ReachId) (s : State) : Out :=
  .next (issueSeq s p l (fun w => wOp w == 15 && !bvb w 24) (csrPlan s p l)
    (fun s j =>
      let (s1, v) := csrValue s p l j
      headDone (setScalar s1 p l (j.f 25 5) (word v)) p l j 0))

/-- An instruction uses its profile. -/
def usesProfile (f : Flight) : Bool := [0, 1, 2, 3, 7, 8].contains (wOp f.job.word)

/-- An instruction in flight names the table that a CSR would write (R108, R167, R214). -/
def csrHeld (r : Reach) (off : Nat) : Bool :=
  if off = 0x40 then r.flights.any isDlta
  else if within off 0x2000 0x800 then r.flights.any (fun f => namesTable f ((off - 0x2000) / 256))
  else if within off 0x800 0x800 then r.flights.any (fun f => usesProfile f && f.job.profNo == (off - 0x800) / 32)
  else false

/-- CSR_WRITE (R188): the write takes effect before the next instruction issues. -/
def execCsrWrite (p : ParcelId) (l : ReachId) (s : State) : Out :=
  .next (issueSeq s p l (fun w => wOp w == 15 && bvb w 24) (csrPlan s p l)
    (fun s j =>
      if csrHeld (s.reach p l) (8 * csrNo j) then s
      else headDone (regWrite s .task (.reach p l (8 * csrNo j)) 8 (j.scalar (j.f 25 5))) p l j 0))

/-! ### Completion (R171) -/

/-- Nothing is left for an instruction to wait for. -/
def Flight.ready (f : Flight) : Bool := decide (f.wait = .none) || decide (f.wait = .adds 0)

/-- The instruction may complete: it is ready, it is no FENC, and its unit has finished every older one (R189). -/
def mayComplete (r : Reach) (f : Flight) : Bool :=
  f.ready && wOp f.job.word != 11 && r.flights.all (fun g => !(decide (g.no < f.no) && g.unit == f.unit))

/-- An instruction completes: its status and its records, a build's generation, the accesses that waited for it, and what
waits at the head. -/
def completeFlight (s : State) (p l : Nat) (f : Flight) : State :=
  wakeHead (releaseHeld (buildDone (retire s p l f) p l f) p) p l

/-- INSTRUCTION_COMPLETE (R171); nothing completes while the clocks are gated (R273). -/
def execInstructionComplete (p : ParcelId) (l : ReachId) (k : Nat) (s : State) : Out :=
  .next (match (s.reach p l).flights[k]? with
    | some f => if s.datum.gated.isNone && mayComplete (s.reach p l) f then completeFlight s p l f else s
    | none => s)

/-- TASK_STOP_COMPLETE (R160): the last instruction in flight of a stopped task completes. -/
def execTaskStopComplete (p : ParcelId) (l : ReachId) (s : State) : Out :=
  let r := s.reach p l
  .next (match r.flights with
    | [f] => if !r.task.issuing && s.datum.gated.isNone && mayComplete r f then completeFlight s p l f else s
    | _ => s)

/-- REACH_RESET_COMPLETE (R161): the accesses held during the reset proceed. -/
def execReachResetComplete (p : ParcelId) (l : ReachId) (s : State) : Out :=
  .next (if (s.reach p l).task.resetting then
      releaseHeld (s.updTask p l (fun t => { t with resetting := false })) p
    else s)

end Sys2Proof.Machine
end

