-- ==== Sys2Proof/Machine/Package.lean ====
section
/-!
DEFINITION. Supplies, resets and power-up (17 R462 to R467, 13 R374), the resets of the host port (12 R335, 17 R463), and
the test access port (17 R468).
-/

namespace Sys2Proof.Machine

/-- Change the lands. -/
def State.updLands (s : State) (f : Lands → Lands) : State := s.updHub (fun h => { h with lands := f h.lands })

/-- The package reset is asserted: RESET_N, or PERST_N under scope 0 (R463, R464). -/
def inReset (s : State) : Bool := s.hub.lands.resetN || (!s.hub.lands.scope && s.hub.lands.perstN)

/-! ### The host port (R335, R463) -/

/-- A channel of the hub DMA resets; a transfer in progress ends with status aborted. -/
def dmaReset (s : State) (c : Nat) : State :=
  let d := dmaOf s c
  if d.busy then
    updDma (dmaEnd (dmaMove s.useFree d (somePieces s (dmaLen d))) c 4) c (fun _ => { done := true, status := 4 })
  else updDma s c (fun _ => {})

/-- Every channel resets. -/
def dmaResetAll (s : State) : State := (List.range 8).foldl dmaReset s

/-- The MSI-X state of a function is at its reset values (log 14). -/
def msixReset (s : State) (fn : Nat) : State :=
  s.updPort (fun h => { h with
    fnMask := putBit h.fnMask fn false
    vecMask := h.vecMask.filter (fun e => e.1 / 4 != fn)
    vecPend := h.vecPend.filter (fun e => e.1 / 4 != fn) })

/-- A latch of HUB_DMA, which a reset of its level releases (R17). -/
def dmaLatch (k : Nat) : Bool := within (k % 2 ^ 20) 0x400 0x100

/-- The host port resets: no link, the configuration space, BARs and MSI-X state of all nine functions, HUB_INT_EN and the hub
DMA (R463). -/
def portReset (s : State) : State :=
  ((List.range 9).foldl msixReset (dmaResetAll s)).updPort (fun h => { h with
    linkUp := false, success := false, reply := .none, intEn := 0, snoop := [], bars := []
    latch := h.latch.filter (fun e => !dmaLatch e.1) })

/-- FUNCTION_LEVEL_RESET_PARCEL (R335, R24): the parcel alone, with its function. -/
def execFunctionLevelResetParcel (p : ParcelId) (s : State) : Out :=
  .next (if s.hub.port.linkUp && (relays s p || decide ((s.parcel p).state = .train))
    then (msixReset (resetParcel s p) (p + 1)).updPort (fun h => { h with
      bars := h.bars.filter (fun e => decide (e.1 / 3 ≠ p.val + 1)) }) else s)

/-- FUNCTION_LEVEL_RESET_HUB (R335). -/
def execFunctionLevelResetHub (s : State) : Out :=
  .next (if s.hub.port.linkUp then
      (msixReset (dmaResetAll s) 0).updPort (fun h => { h with
        intEn := 0, latch := h.latch.filter (fun e => !dmaLatch e.1), bars := h.bars.filter (fun e => decide (3 ≤ e.1)) })
    else s)

/-! ### Boot (R374) -/

/-- A bank boots: its measurement is recorded. -/
def Bank.booted (b : Bank) : Bank := { b with measure := Config.sha384 (b.image.take (b.image.length - 96)) }

/-- The surveyor boots a verified bank, the preferred one first, or the recovery loader runs. -/
def bootBank (s : State) : State :=
  let w := s.hub.fw
  let pick : Option Bool :=
    if (bankOf s w.prefer).verified then some w.prefer
    else if (bankOf s (!w.prefer)).verified then some (!w.prefer) else none
  match pick with
  | none => (s.updHub (fun h => { h with fw := { h.fw with restarting := false } })).updDict (fun d => { d with boot := 2 })
  | some b =>
    (s.updHub (fun h => { h with fw := { h.fw with
      surveyor := b, restarting := false
      bank0 := if b then h.fw.bank0 else h.fw.bank0.booted
      bank1 := if b then h.fw.bank1.booted else h.fw.bank1 } })).updDict (fun d => { d with boot := 0 })

/-- SURVEYOR_BOOT (R374): the auxiliary supply is good. -/
def execSurveyorBoot (s : State) : Out :=
  .next (if s.hub.state = .off && s.hub.lands.auxGood then
      forParcels ((bootBank s).updHub (fun h => { h with state := .identify })) (fun s p =>
        s.updParcel p (fun x => { x with state := .identify }))
    else s)

/-! ### Parcels without power or in reset -/

/-- Every parcel is reset, its links go to electrical idle, and it is left as `f` has it (R374). What any of them has posted
is in the memories before (log 105). -/
def resetParcels (s : State) (f : Parcel → Parcel) : State :=
  forParcels (drainIf s (fun _ => true)) (fun s p => (resetParcel s p).updParcel p f)

/-- A parcel without its load supply waits in IDENTIFY, its stacked memory without its contents (log 4). -/
def Parcel.memoryLost (x : Parcel) : Parcel := { x with state := .identify, mem := [], poison := [] }

/-- The package leaves its running states for IDENTIFY: the 48 V input went out of range (R374, R467). -/
def loadLost (s : State) : State :=
  { (portReset (resetParcels s Parcel.memoryLost)).updHub (fun h => { h with state := .identify }) with upsets := [] }

/-- A parcel after a package reset (R243, R320, R464): its entries take their defaults, its sensors are still read. -/
def Parcel.fresh (x : Parcel) : Parcel :=
  { x.memoryLost with gen := 0, containCause := 0, keys := {}, pwr := { sensors := x.pwr.sensors }, bankNew := none }

/-- The datum after a package reset: its reference stays qualified. -/
def Datum.fresh (d : Datum) : Datum := { qualified := d.qualified }

/-- The field book after a package reset: its records and its pending events are kept, new records start at slot 0, and a
failed copy is tested again (R396, R464). -/
def Book.fresh (b : Book) : Book :=
  Book.start { slots := b.slots, floods := b.floods, lastSrc := b.lastSrc, copyA := b.copyA, copyB := b.copyB
               unsent := b.unsent, lgUnsent := b.lgUnsent, lastGasp := b.lastGasp, lastGaspNv := b.lastGaspNv, classAt := b.classAt }

/-- The stay monitor after a package reset: its state is kept, its entries take their defaults. -/
def Stay.fresh (y : Stay) : Stay := { y with dtime := 20, shorts := 0, quiesce := false, due := false }

/-- The package's power state after a package reset. -/
def PkgPower.fresh (w : PkgPower) : PkgPower :=
  { vinMv := w.vinMv, hubSensors := w.hubSensors, thermtrip := w.thermtrip, hotAt := w.hotAt }

/-- The dictionary after a package reset: RW entries take their defaults, keys, sequence records and the fuses stay. -/
def Dict.fresh (d : Dict) : Dict :=
  { d with plcaA := 0xFF, plcaB := 0xFF, nodesA := 8, nodesB := 8, i3cAddr := 0, ibiEn := true, grant := false, snaps := 0,
           snapWall := none }

/-- A record whose writing has begun is completed before a package reset takes effect on the field book (R392, R464); its
read-back agrees (log 61). -/
def completeRecord (s : State) : State :=
  match s.book.current with
  | some (src, e) => bookDone s src e true true
  | none => s

/-- A package reset (R464). With the recovery loader running, the surveyor boots again. A package in OFF has its hub alone to
reset, once the auxiliary supply is good. -/
def packageReset (s0 : State) : State :=
  let s := completeRecord s0
  let st : PState := if s.hub.state = .off then .off else .identify
  if !s.hub.lands.auxGood then s0
  else
    let s1 := portReset (resetParcels s (fun x => { x.fresh with state := st }))
    let s2 : State := { s1 with
      datum := s1.datum.fresh, book := s1.book.fresh, stay := s1.stay.fresh, phase := 0, upsets := []
      hub := { s1.hub with
        state := st, sched := [], torus := 0x800000000#64, pwr := s1.hub.pwr.fresh, dict := s1.hub.dict.fresh
        port := { s1.hub.port with intStat := 0, latch := [] } } }
    if st = .identify ∧ s.hub.dict.boot = 2 then bootBank s2 else s2

/-! ### Supplies (R465, R467) -/

/-- AUX_GOOD (R465, R463, R466 step 2): HOSTRST_SCOPE is sampled, and the stay monitor starts. -/
def execAuxGood (scope : Bool) (s : State) : Out :=
  .next (if s.hub.lands.auxGood then s
    else { s.updLands (fun x => { x with auxGood := true, scope := scope }) with stay := {} })

/-- What a parcel keeps without any supply: the spare map and the retirements, in the hub's non-volatile store (R404). -/
def Parcel.unpowered (x : Parcel) : Parcel :=
  { reaches := x.reaches.map (fun e => (e.1, { task := { retired := e.2.task.retired, issueNo := e.2.task.issueNo } }))
    clusters := x.clusters.map (fun e => (e.1,
      { reachMap := e.2.reachMap, spare := e.2.spare, hardUnits := e.2.hardUnits, spareRows := e.2.spareRows })) }

/-- What the dictionary keeps without any supply: the key store and the fuses (R369). -/
def Dict.unpowered (d : Dict) : Dict :=
  { key1 := d.key1, key2 := d.key2, key3 := d.key3, seq1 := d.seq1, seq2 := d.seq2, seq3 := d.seq3, macA := d.macA,
    macB := d.macB, i3cId := d.i3cId, serial := d.serial, dieSerial := d.dieSerial, stepping := d.stepping,
    shallow := d.shallow, sparings := d.sparings }

/-- The package without its auxiliary supply (R374, R397, R467); the host's memory and the lands are not part of it. -/
def unpowered (s : State) : State :=
  { parcels := s.parcels.map (fun e => (e.1, e.2.unpowered))
    book := { lastGaspNv := lastGaspFile s.book }
    hub := { dict := s.hub.dict.unpowered, port := { hostMem := s.hub.port.hostMem, sent := s.hub.port.sent }
             fw := { bank0 := s.hub.fw.bank0, bank1 := s.hub.fw.bank1, prefer := s.hub.fw.prefer }
             lands := { s.hub.lands with auxGood := false, scope := false } }
    wall := s.wall, free := s.free, pending := s.pending }

/-- AUX_LOST (R467). -/
def execAuxLost (s : State) : Out := .next (if s.hub.lands.auxGood then unpowered s else s)

/-- VIN48_QUALIFIED (R465): within 41 V to 59 V for 10 ms. -/
def execVin48Qualified (mv : Nat) (s : State) : Out :=
  .next (if decide (41000 ≤ mv) && decide (mv ≤ 59000) then
      (s.updLands (fun x => { x with vinOk := true })).updPkgPwr (fun w => { w with vinMv := mv })
    else s)

/-- The test logic lets go of the lands (R468). -/
def tapIdle (t : Tap) : Tap := { t with driven := false, highz := false, pulse := false, train := false }

/-- VIN48_OUT_OF_RANGE (R465, R467): below 40.0 V or above 60.0 V for 5 µs. In IDENTIFY the lane PHYs, which the 1149.6
instructions drive, lose their supply (R468). -/
def execVin48OutOfRange (mv : Nat) (s : State) : Out :=
  .next (if decide (40000 ≤ mv) && decide (mv ≤ 60000) then s
    else
      let s1 := (s.updLands (fun x => { x with vinOk := false })).updPkgPwr (fun w => { w with vinMv := mv })
      if s.hub.state = .off || s.hub.state = .identify then s1.updHub (fun h => { h with
        tap := if h.tap.pulse || h.tap.train then tapIdle h.tap else h.tap }) else loadLost s1)

/-! ### From IDENTIFY to CONFIGURE (R374, R466) -/

/-- A parcel that starts to train with the booted microcode. -/
def Parcel.training (x : Parcel) (bank : Bool) (vmax vmin : BitVec 4) : Parcel :=
  { x with state := .train, bank := bank, fab := { x.fab with linkMax := vmax, linkMin := vmin } }

/-- IDENTIFY_TO_TRAIN (R374, R466 step 7). -/
def execIdentifyToTrain (s : State) : Out :=
  let b := s.hub.fw.surveyor
  .next (if s.hub.state = .identify && s.hub.dict.boot == 0 && s.hub.lands.vinOk && !inReset s then
      forParcels (s.updHub (fun h => { h with state := .train })) (fun s p =>
        s.updParcel p (fun x => x.training b (bankOf s b).vmax (bankOf s b).vmin))
    else s)

/-- TRAINING_COMPLETE (R374, R466 step 10): a parcel that has not trained enters CONTAIN. Training waits while a junction
is too hot (R409). -/
def execTrainingComplete (trained : BitVec 8) (s : State) : Out :=
  .next (if s.hub.state ≠ .train || (List.range 8).any (fun p => bvb trained p && trainingWaits s p) then s
    else
      forParcels (s.updHub (fun h => { h with state := .configure })) (fun s p =>
        if (s.parcel p).state = .train then trainingEnd s p (bvb trained p) .configure else s))

/-- HOST_LINK_TRAINED (R466 step 11): from step 7 on, with PERST_N released. -/
def execHostLinkTrained (s : State) : Out :=
  .next (if s.hub.state = .off || s.hub.state = .identify || s.hub.lands.perstN || inReset s then s
    else s.updPort (fun h => { h with linkUp := true, success := true }))

/-! ### Reset lands (R462 to R464) -/

/-- RESET_N, or PERST_N under scope 0, is asserted by the change from `a` to `b` (R464). -/
def asserted (a b : Lands) : Bool := (!a.resetN && b.resetN) || (!b.scope && !a.perstN && b.perstN)

/-- The lands change; each assertion of a land of the package reset resets the package, a release of the reset ends the
boundary scan. -/
def setLands (s : State) (f : Lands → Lands) : State :=
  let s1 := s.updLands f
  if asserted s.hub.lands s1.hub.lands then packageReset s1
  else if inReset s && !inReset s1 then s1.updHub (fun h => { h with tap := tapIdle h.tap })
  else s1

/-- RESET_N_ASSERTED (R462, R464). -/
def execResetNAsserted (s : State) : Out := .next (setLands s (fun x => { x with resetN := true }))

/-- RESET_N_RELEASED (R462). -/
def execResetNReleased (s : State) : Out := .next (setLands s (fun x => { x with resetN := false }))

/-- PERST_N_ASSERTED (R463): under scope 1 the host port alone. -/
def execPerstNAsserted (s : State) : Out :=
  .next (if s.hub.lands.scope && !s.hub.lands.perstN then portReset (setLands s (fun x => { x with perstN := true }))
    else setLands s (fun x => { x with perstN := true }))

/-- PERST_N_RELEASED (R463, R466). -/
def execPerstNReleased (s : State) : Out := .next (setLands s (fun x => { x with perstN := false }))

/-! ### The test access port (R468) -/

/-- The boundary-scan cells (R454, R457, R468): the six 3.3 V low-speed lands that are no TAP lands, RESET_N, PERST_N,
HOSTRST_SCOPE, STAY_A, STAY_B and THERMTRIP_N; then the PCIe lanes of both directions, and the river-link lanes of both
directions, a cell each (log 110). -/
def scanCells : Nat := 6 + 2 * 16 + 8 * 6 * 4 * 2

/-- Values for the cells: a shorter list leaves the rest at 0. -/
def scanFit (bs : List Bool) : List Bool := (List.range scanCells).map (fun i => bs.getD i false)

/-- Load an instruction: one that acts does `f`, at any other time it acts as BYPASS. -/
def tapLoad (s : State) (ir : Nat) (ac : Bool) (f : Tap → Tap) : State :=
  let acts : Bool := decide (s.hub.state = .identify) && inReset s && (!ac || s.hub.lands.vinOk)
  let t := { tapIdle s.hub.tap with ir := BitVec.ofNat 4 ir }
  if s.hub.lands.auxGood then s.updHub (fun h => { h with tap := if acts then f t else t }) else s

/-- EXTEST (R468). -/
def execExtest (cells : List Bool) (s : State) : Out :=
  .next (tapLoad s 0 false (fun t => { t with cells := scanFit cells, driven := true }))

/-- SAMPLE/PRELOAD (R468). -/
def execSamplePreload (captured shifted : List Bool) (s : State) : Out :=
  .next (tapLoad s 1 false (fun t => { t with captured := scanFit captured, cells := scanFit shifted }))

/-- EXTEST_PULSE (R468). -/
def execExtestPulse (cells : List Bool) (s : State) : Out :=
  .next (tapLoad s 2 true (fun t => { t with cells := scanFit cells, driven := true, pulse := true }))

/-- EXTEST_TRAIN (R468). -/
def execExtestTrain (cells : List Bool) (s : State) : Out :=
  .next (tapLoad s 3 true (fun t => { t with cells := scanFit cells, driven := true, train := true }))

/-- HIGHZ (R468). -/
def execHighz (s : State) : Out := .next (tapLoad s 4 false (fun t => { t with highz := true }))

/-- CLAMP (R468): the lands are driven from the cells as they stand. -/
def execClamp (s : State) : Out := .next (tapLoad s 5 false (fun t => { t with driven := true }))

/-- BYPASS (R468). -/
def execBypass (s : State) : Out := .next (tapLoad s 15 false (fun t => t))

end Sys2Proof.Machine
end

