-- ==== Sys2Proof/Machine/Entries.lean ====
section
/-!
DEFINITION. The object dictionary (13 R370, R377 to R387): its entries with their types, rights and classes, and what each
reads as.
-/

namespace Sys2Proof.Machine

/-- The object that an index and subindex name; `d` is a dimension, `b` a bank or a chain, `q` a port. -/
inductive Obj where
  | highest (n : Nat) (classB : Bool) (parcel : Option Nat)
  | const (size value : Nat)
  | pkgState | bootStatus | parcelStates | quiesceDone
  | deviceName | firmware | stepping | serial
  | mac (b : Bool) | plcaId (b : Bool) | plcaCount (b : Bool) | phy (b : Bool)
  | i3cId | i3cAddr | ibiEnable
  | key (role : Nat) | seqRecord (role : Nat)
  | prefer | version (b : Bool) | measure (b : Bool) | image | loadResult
  | request | parcelRequest (p : Nat)
  | torusDev | torusSizeOf (d : Nat) | lifetime
  | parcelState (p : Nat) | dieSerial (p : Nat) | spare (p c : Nat)
  | memCe (p : Nat) | memUe (p : Nat) | hashKey (p : Nat) | hashNext (p : Nat) | shallow (p k : Nat)
  | datumSrc | datumTickLen | datumRoot | datumDelay | datumLoad | datumCount | datumState | datumHops | datumMiss
  | datumPhase
  | schedValid (k : Nat) | schedField (k sub : Nat)
  | fbWritten | fbNext | fbNotice | fbBook | lastGaspRec (n : Nat)
  | linkEn (p : Nat) (q : Port) | linkRetrain (p : Nat) (q : Port) | linkField (p : Nat) (q : Port) (lo bits : Nat)
  | linkMax (p : Nat) | linkMin (p : Nat) | linkPkt (p : Nat)
  | vin | pkgPower | auxPower | limit | spate | junctionMax | junctionOf (p : Nat) | throttled (p : Nat)
  | grant | snapCommand | snapCount | snapImage (p : Nat)
  | stayState | stayDtime | stayRearm | stayShorts | sparings (p : Nat) | cause (p : Nat) | generation (p : Nat)
deriving DecidableEq, Repr

/-- Access rights (R370). -/
inductive Right where
  | ro | rw | wo | const | rwc | rws
deriving DecidableEq, Repr

/-- How a value is moved: a number of fixed size, a string, or a block in segments (R378). -/
inductive Ty where
  | num | str | domain
deriving DecidableEq, Repr

/-- What the listing says of an entry. -/
structure Spec where
  ty : Ty := .num
  size : Nat
  right : Right
  classB : Bool := false
  parcel : Option Nat := none
deriving DecidableEq, Repr

/-! ### Finding an entry -/

/-- An entry with subindexes: sub 0 holds the highest one (R378). -/
def withSubs (n : Nat) (classB : Bool) (parcel : Option Nat) (sub : Nat) (f : Nat → Option Obj) : Option Obj :=
  if sub = 0 then some (.highest n classB parcel) else if sub ≤ n then f sub else none

/-- 0x1000 to 0x1FFF (R379). -/
def findIdentity (index sub : Nat) : Option Obj :=
  match index with
  | 0x1000 => if sub = 0 then some (.const 4 0x18016) else none
  | 0x1001 => withSubs 4 false none sub (fun n => [Obj.pkgState, .bootStatus, .parcelStates, .quiesceDone][n - 1]?)
  | 0x1008 => if sub = 0 then some .deviceName else none
  | 0x100A => if sub = 0 then some .firmware else none
  | 0x1018 => withSubs 4 false none sub (fun n => [Obj.const 4 0x414457, .const 4 0x8016, .stepping, .serial][n - 1]?)
  | 0x1020 => withSubs 4 false none sub (fun n => [Obj.mac false, .plcaId false, .plcaCount false, .phy false][n - 1]?)
  | 0x1021 => withSubs 4 false none sub (fun n => [Obj.mac true, .plcaId true, .plcaCount true, .phy true][n - 1]?)
  | 0x1030 => withSubs 3 false none sub (fun n => [Obj.i3cId, .i3cAddr, .ibiEnable][n - 1]?)
  | 0x1040 => withSubs 6 false none sub (fun n =>
      [Obj.key 2, .key 1, .key 3, .seqRecord 1, .seqRecord 2, .seqRecord 3][n - 1]?)
  | 0x1050 => withSubs 7 false none sub (fun n =>
      [Obj.prefer, .version false, .version true, .measure false, .measure true, .image, .loadResult][n - 1]?)
  | _ => none

/-- 0x2000 to 0x2FFF (R380). -/
def findConfig (index sub : Nat) : Option Obj :=
  match index with
  | 0x2001 => withSubs 1 false none sub (fun _ => some .request)
  | 0x2002 => withSubs 8 true none sub (fun n => some (.parcelRequest (n - 1)))
  | 0x2010 => withSubs 5 true none sub (fun n =>
      [Obj.torusDev, .torusSizeOf 0, .torusSizeOf 1, .torusSizeOf 2, .lifetime][n - 1]?)
  | _ => none

/-- 0x3p00 to 0x3p40 (R381, R152). -/
def findParcel (p low sub : Nat) : Option Obj :=
  match low with
  | 0x00 => withSubs 2 false (some p) sub (fun n => [Obj.parcelState p, .dieSerial p][n - 1]?)
  | 0x10 => withSubs 16 true (some p) sub (fun n => some (.spare p (n - 1)))
  | 0x20 => withSubs 4 true (some p) sub (fun n => [Obj.memCe p, .memUe p, .hashKey p, .hashNext p][n - 1]?)
  | 0x40 => withSubs 10 true (some p) sub (fun n => some (.shallow p (n - 1)))
  | _ => none

/-- 0x4000 to 0x401F (R382). -/
def findDatum (index sub : Nat) : Option Obj :=
  if index = 0x4000 then withSubs 10 false none sub (fun n =>
    [Obj.datumSrc, .datumTickLen, .datumRoot, .datumDelay, .datumLoad, .datumCount, .datumState, .datumHops, .datumMiss,
      .datumPhase][n - 1]?)
  else if within index 0x4010 16 then withSubs 5 true none sub (fun n =>
    some (if n = 1 then .schedValid (index - 0x4010) else .schedField (index - 0x4010) n))
  else none

/-- 0x5000 and 0x5F00 (R383). -/
def findBook (index sub : Nat) : Option Obj :=
  match index with
  | 0x5000 => withSubs 4 false none sub (fun n => [Obj.fbWritten, .fbNext, .fbNotice, .fbBook][n - 1]?)
  | 0x5F00 => withSubs 8 false none sub (fun n => some (.lastGaspRec (n - 1)))
  | _ => none

/-- 0x6pll (R384): ports 0 to 5 and 8 to 10, and 0xF0 for LINK_VER. -/
def findLink (p low sub : Nat) : Option Obj :=
  if low = 0xF0 then withSubs 3 true (some p) sub (fun n => [Obj.linkMax p, .linkMin p, .linkPkt p][n - 1]?)
  else
    match if 8 ≤ low then uciePorts[low - 8]? else riverPorts[low]? with
    | none => none
    | some q => withSubs 9 true (some p) sub (fun n =>
        [Obj.linkEn p q, .linkRetrain p q, .linkField p q 0 4, .linkField p q 4 4, .linkField p q 8 14,
          .linkField p q 22 3, .linkField p q 25 16, .linkField p q 48 8, .linkField p q 56 8][n - 1]?)

/-- 0x7000 (R385). -/
def findPower (sub : Nat) : Option Obj :=
  withSubs 8 false none sub (fun n =>
    [Obj.vin, .pkgPower, .auxPower, .limit, .spate, .junctionMax, .const 2 1050, .const 2 1150][n - 1]?)

/-- The object of an index and subindex (R379 to R387). -/
def findObj (index sub : Nat) : Option Obj :=
  let p := field index 8 4
  let low := field index 0 8
  match field index 12 4 with
  | 1 => findIdentity index sub
  | 2 => findConfig index sub
  | 3 => if p < 8 then findParcel p low sub else none
  | 4 => findDatum index sub
  | 5 => findBook index sub
  | 6 => if p < 8 then findLink p low sub else none
  | 7 => if index = 0x7000 then findPower sub
    else if p < 8 && low = 0x10 then
      withSubs 2 false (some p) sub (fun n => [Obj.junctionOf p, .throttled p][n - 1]?)
    else none
  | 8 => if index = 0x8000 then withSubs 3 true none sub (fun n => [Obj.grant, .snapCommand, .snapCount][n - 1]?)
    else if p < 8 && low = 0x10 then withSubs 1 true (some p) sub (fun _ => some (.snapImage p)) else none
  | 9 => if index = 0x9000 then
      withSubs 4 false none sub (fun n => [Obj.stayState, .stayDtime, .stayRearm, .stayShorts][n - 1]?)
    else if p < 8 && low = 0x10 then
      withSubs 3 false (some p) sub (fun n => [Obj.sparings p, .cause p, .generation p][n - 1]?)
    else none
  | _ => none

/-! ### The listings -/

/-- The version string of a bank without its padding. -/
def versionBytes (b : Bank) : List Byte := b.version.takeWhile (fun x => x != 0)

/-- The device name. -/
def deviceNameBytes : List Byte := "Lunan Ritra ADW-LN8016".toUTF8.toList.map (fun b => BitVec.ofNat 8 b.toNat)

/-- Type, size, right, class and parcel of an entry (R379 to R387). -/
def Obj.spec (s : State) : Obj → Spec
  | .highest _ b p => { size := 1, right := .const, classB := b, parcel := p }
  | .const n _ => { size := n, right := .const }
  | .pkgState => { size := 1, right := .ro }
  | .bootStatus => { size := 1, right := .ro }
  | .parcelStates => { size := 4, right := .ro }
  | .quiesceDone => { size := 1, right := .ro }
  | .deviceName => { ty := .str, size := deviceNameBytes.length, right := .const }
  | .firmware => { ty := .str, size := (versionBytes (bankOf s s.hub.fw.surveyor)).length, right := .ro }
  | .stepping => { size := 4, right := .const }
  | .serial => { size := 8, right := .const }
  | .mac _ => { ty := .str, size := 6, right := .ro }
  | .plcaId _ => { size := 1, right := .rw }
  | .plcaCount _ => { size := 1, right := .rw }
  | .phy _ => { size := 1, right := .ro }
  | .i3cId => { ty := .str, size := 6, right := .ro }
  | .i3cAddr => { size := 1, right := .ro }
  | .ibiEnable => { size := 1, right := .rw }
  | .key _ => { ty := .str, size := 16, right := .rws }
  | .seqRecord _ => { size := 4, right := .ro }
  | .prefer => { size := 1, right := .rws }
  | .version b => { ty := .str, size := (versionBytes (bankOf s b)).length, right := .ro }
  | .measure _ => { ty := .str, size := 48, right := .ro }
  | .image => { ty := .domain, size := 4194304, right := .rws }
  | .loadResult => { size := 1, right := .ro }
  | .request => { size := 1, right := .wo }
  | .parcelRequest p => { size := 1, right := .wo, classB := true, parcel := some p }
  | .torusDev => { size := 2, right := .rwc, classB := true }
  | .torusSizeOf _ => { size := 1, right := .rwc, classB := true }
  | .lifetime => { size := 1, right := .rwc, classB := true }
  | .parcelState p => { size := 1, right := .ro, parcel := some p }
  | .dieSerial p => { size := 8, right := .const, parcel := some p }
  | .spare p _ => { size := 1, right := .ro, classB := true, parcel := some p }
  | .memCe p => { size := 4, right := .ro, classB := true, parcel := some p }
  | .memUe p => { size := 2, right := .ro, classB := true, parcel := some p }
  | .hashKey p => { size := 4, right := .ro, classB := true, parcel := some p }
  | .hashNext p => { size := 4, right := .rw, classB := true, parcel := some p }
  | .shallow p _ => { size := 4, right := .const, classB := true, parcel := some p }
  | .datumSrc => { size := 1, right := .rwc, classB := true }
  | .datumTickLen => { size := 1, right := .rwc, classB := true }
  | .datumRoot => { size := 1, right := .rwc, classB := true }
  | .datumDelay => { size := 2, right := .rwc, classB := true }
  | .datumLoad => { size := 8, right := .rw, classB := true }
  | .datumCount => { size := 8, right := .ro }
  | .datumState => { size := 1, right := .ro }
  | .datumHops => { size := 1, right := .ro }
  | .datumMiss => { size := 1, right := .ro }
  | .datumPhase => { size := 2, right := .ro }
  | .schedValid _ => { size := 1, right := .rw, classB := true }
  | .schedField _ sub => { size := if sub = 4 then 2 else if sub = 5 then 8 else 1, right := .rw, classB := true }
  | .fbWritten => { size := 4, right := .ro }
  | .fbNext => { size := 2, right := .ro }
  | .fbNotice => { size := 2, right := .rw }
  | .fbBook => { ty := .domain, size := 262144, right := .ro }
  | .lastGaspRec _ => { ty := .str, size := 64, right := .ro }
  | .linkEn p q => { size := 1, right := if isRiver q then .rw else .ro, classB := true, parcel := some p }
  | .linkRetrain p _ => { size := 1, right := .wo, classB := true, parcel := some p }
  | .linkField p _ _ n => { size := ceilDiv n 8, right := .ro, classB := true, parcel := some p }
  | .linkMax p => { size := 1, right := .ro, classB := true, parcel := some p }
  | .linkMin p => { size := 1, right := .ro, classB := true, parcel := some p }
  | .linkPkt p => { size := 1, right := .rw, classB := true, parcel := some p }
  | .vin => { size := 4, right := .ro }
  | .pkgPower => { size := 2, right := .ro }
  | .auxPower => { size := 2, right := .ro }
  | .limit => { size := 2, right := .rw, classB := true }
  | .spate => { size := 1, right := .ro, classB := true }
  | .junctionMax => { size := 2, right := .ro }
  | .junctionOf p => { size := 2, right := .ro, parcel := some p }
  | .throttled p => { size := 4, right := .ro, classB := true, parcel := some p }
  | .grant => { size := 1, right := .rw, classB := true }
  | .snapCommand => { size := 1, right := .wo, classB := true }
  | .snapCount => { size := 4, right := .ro, classB := true }
  | .snapImage p => { ty := .domain, size := 32768, right := .ro, classB := true, parcel := some p }
  | .stayState => { size := 1, right := .ro }
  | .stayDtime => { size := 2, right := .rwc, classB := true }
  | .stayRearm => { size := 1, right := .wo, classB := true }
  | .stayShorts => { size := 4, right := .ro }
  | .sparings p => { size := 1, right := .ro, classB := true, parcel := some p }
  | .cause p => { size := 2, right := .ro, parcel := some p }
  | .generation p => { size := 1, right := .ro, classB := true, parcel := some p }

/-! ### Values -/

/-- Every reach of every parcel in QUIESCE is idle (R375). -/
def parcelQuiet (s : State) (p : Nat) : Bool := (s.parcel p).reaches.all (fun e => e.2.idle)

/-- Quiesce is complete (R375). -/
def quiesceComplete (s : State) : Bool :=
  (decide (s.hub.state = .quiesce) || (List.range 8).any (fun p => decide ((s.parcel p).state = .quiesce))) &&
  (List.range 8).all (fun p => decide ((s.parcel p).state ≠ .quiesce) || parcelQuiet s p)

/-- A field of a register as a number. -/
def regField (s : State) (a : RegAddr) (lo n : Nat) : Nat := bvf (regWord s a) lo n

/-- Parcel number of an object. -/
def parcelNo (p : Nat) : ParcelId := ⟨p % 8, Nat.mod_lt _ (by decide)⟩

/-- The image of a parcel's last snapshot (R447). -/
def snapBytes (s : State) (p : Nat) : List Byte :=
  let x := s.parcel p
  let m := x.mon
  let words (c : SMap Word) (n : Nat) : List Byte := (List.range n).flatMap (fun k => leBytes 8 (SMap.get 0 c k).toNat)
  padTo 64 (leBytes 8 m.snapCount ++ leBytes 4 m.snapSeq.toNat ++ leBytes 1 p ++ leBytes 1 m.snapClock ++
    leBytes 1 (b2n m.snapFrozen)) ++ words m.snap 32 ++
  padTo 16064 ((List.range 16).flatMap (fun c => words (s.cluster p c).snap 16)) ++
  (List.range 128).flatMap (fun l => words (s.reach p l).snap 16)

/-- The value of a number entry. -/
def Obj.num (s : State) : Obj → Nat
  | .highest n _ _ => n
  | .const _ v => v
  | .pkgState => stateNo s.hub.state
  | .bootStatus => s.hub.dict.boot.toNat
  | .parcelStates => ((List.range 8).map (fun p => stateNo (s.parcel p).state * 16 ^ p)).foldl (· + ·) 0
  | .quiesceDone => b2n (quiesceComplete s)
  | .stepping => s.hub.dict.stepping.toNat
  | .serial => s.hub.dict.serial.toNat
  | .plcaId b => (if b then s.hub.dict.plcaB else s.hub.dict.plcaA).toNat
  | .plcaCount b => (if b then s.hub.dict.nodesB else s.hub.dict.nodesA).toNat
  | .phy b => b2n (if b then s.hub.dict.phyB else s.hub.dict.phyA)
  | .i3cAddr => s.hub.dict.i3cAddr.toNat
  | .ibiEnable => b2n s.hub.dict.ibiEn
  | .seqRecord r => (if r = 1 then s.hub.dict.seq1 else if r = 2 then s.hub.dict.seq2 else s.hub.dict.seq3).toNat
  | .prefer => b2n s.hub.fw.prefer
  | .loadResult => s.hub.fw.result.toNat
  | .torusDev => regField s (.hub 0x200) 0 14
  | .torusSizeOf d => torusSize s.hub.torus d
  | .lifetime => regField s (.hub 0x200) 32 8
  | .parcelState p => stateNo (s.parcel p).state
  | .dieSerial p => (SMap.get 0 s.hub.dict.dieSerial p).toNat
  | .spare p c => (s.cluster p c).spare
  | .memCe p => (s.parcel p).mon.ce.toNat
  | .memUe p => (s.parcel p).mon.ue.toNat
  | .hashKey p => (s.parcel p).keys.key.toNat
  | .hashNext p => (s.parcel p).keys.keyNext.toNat
  | .shallow p k => (SMap.get 0 s.hub.dict.shallow (10 * p + k)).toNat
  | .datumSrc => regField s (.hub 0) 0 2
  | .datumTickLen => regField s (.hub 0) 2 3
  | .datumRoot => regField s (.hub 0) 5 1
  | .datumDelay => regField s (.hub 0) 16 16
  | .datumLoad => s.datum.load.toNat
  | .datumCount => s.datum.count
  | .datumState => regField s (.hub 0x20) 0 3
  | .datumHops => regField s (.hub 0x20) 4 6
  | .datumMiss => regField s (.hub 0x20) 16 8
  | .datumPhase => regField s (.hub 0x20) 24 16
  | .schedValid k => bvf (schedEntry s k) 0 1
  | .schedField k sub =>
    let e := schedEntry s k
    if sub = 2 then schAction e else if sub = 3 then schParcels e else if sub = 4 then schArg e else schTick e
  | .fbWritten => s.book.written.toNat
  | .fbNext => s.book.seq.toNat % 4096
  | .fbNotice => s.book.notice.toNat
  | .linkEn p q => bvf (linkWord s p q 0) 0 1
  | .linkField p q lo n => bvf (linkWord s p q 8) lo n
  | .linkMax p => (s.parcel p).fab.linkMax.toNat
  | .linkMin p => (s.parcel p).fab.linkMin.toNat
  | .linkPkt p => (s.parcel p).fab.pkt.toNat
  | .vin => s.hub.pwr.vinMv
  | .pkgPower => avgW s s.hub.pwr.hist
  | .auxPower => (Config.auxPower s.wall).toNat
  | .limit => regField s (.hub 0x1000) 0 11
  | .spate => s.hub.pwr.state.toNat
  | .junctionMax => unsignedBits 16 (((List.range 8).map (junction s)).foldl max (junction s 0))
  | .junctionOf p => unsignedBits 16 (junction s p)
  | .throttled p =>
    ((s.parcel p).pwr.thrLevel.map (fun e => if 0 < e.2 then 2 ^ e.1 else 0)).foldl (· + ·) 0
  | .grant => b2n s.hub.dict.grant
  | .snapCount => s.hub.dict.snaps.toNat
  | .stayState => s.stay.state.toNat
  | .stayDtime => s.stay.dtime.toNat
  | .stayShorts => s.stay.shorts.toNat
  | .sparings p => SMap.get 0 s.hub.dict.sparings p
  | .cause p => (s.parcel p).containCause.toNat
  | .generation p => (s.parcel p).gen.toNat
  | .request => 0 | .parcelRequest _ => 0 | .linkRetrain _ _ => 0 | .snapCommand => 0 | .stayRearm => 0
  | .deviceName => 0 | .firmware => 0 | .mac _ => 0 | .i3cId => 0 | .key _ => 0 | .version _ => 0 | .measure _ => 0
  | .image => 0 | .fbBook => 0 | .lastGaspRec _ => 0 | .snapImage _ => 0

/-- The value of a string entry; a key reads as zeros (R370). -/
def Obj.str (s : State) : Obj → List Byte
  | .deviceName => deviceNameBytes
  | .firmware => versionBytes (bankOf s s.hub.fw.surveyor)
  | .mac b => leBytes 6 (if b then s.hub.dict.macB else s.hub.dict.macA).toNat
  | .i3cId => leBytes 6 s.hub.dict.i3cId.toNat
  | .key _ => List.replicate 16 0
  | .version b => versionBytes (bankOf s b)
  | .measure b => (padTo 48 (bankOf s b).measure).take 48
  | .lastGaspRec n => leBytes 64 ((lastGaspFile s.book).getD n 0).toNat
  | _ => []

/-- `n` bytes of a block from `off`, for the requester with role number `who` (R379, R396, R447): the image entry reads as
the image in the bank that the surveyor does not run, with zeros after its end (log 11). -/
def Obj.block (s : State) (who off n : Nat) : Obj → List Byte
  | .fbBook => (List.range n).map (fun i =>
      BitVec.ofNat 8 (bvf (bookSlot s.book ((off + i) / 64)) (8 * ((off + i) % 64)) 8))
  | .snapImage p =>
    (((if off = 0 then none else SMap.find s.hub.dict.snapLatch (who * 8 + p)).getD (snapBytes s p)).drop off).take n
  | .image => padTo n (((bankOf s (!s.hub.fw.surveyor)).image.drop off).take n)
  | _ => List.replicate n 0

end Sys2Proof.Machine
end

