-- ==== Sys2Proof/Machine/States.lean ====
section
/-!
DEFINITION. Requests for package and parcel states (13 R374 to R376) and the stop of a reach under a requested quiesce.
-/

namespace Sys2Proof.Machine

/-- The stay monitor lets the package return to service: it is clear and orders no quiesce (R374, R417). -/
def stayClear (y : Stay) : Bool := y.state == 0 && !y.quiesce

/-- The stay state refuses a request for RUN, in every state (R417). -/
def stayRefuses (s : State) : Bool := s.stay.state == 2 || s.stay.state == 3

/-- A request for RUN is not refused (R375, R417). -/
def runAllowed (s : State) : Bool := decide (s.datum.state ≠ .unset) && !stayRefuses s

/-- The parcels in state `a` enter state `b`. -/
def parcelsEnter (s : State) (a b : PState) : State :=
  forParcels s (fun s p => if (s.parcel p).state = a then enterState s p b else s)

/-- The package enters a state. -/
def hubEnter (s : State) (st : PState) : State := s.updHub (fun h => { h with state := st })

/-- The river links of a parcel stay in OFF until the parcel enters READY again. -/
def linksBack (s : State) (p : Nat) : State := (riverOff s p).updParcel p (fun x => { x with wasReady := false })

/-- A request for state number `v` of the package: the new state, or `none` where it is refused (R374, R375). -/
def pkgMove (s : State) (v : Nat) : Option State :=
  if v = 5 ∧ stayRefuses s then none
  else if v = stateNo s.hub.state then some s
  else match s.hub.state with
    | .configure => if v = 4 then some (parcelsEnter (hubEnter s .ready) .configure .ready) else none
    | .ready =>
      if v = 3 then some (parcelsEnter (forParcels (hubEnter s .configure) linksBack) .ready .configure)
      else if v = 5 && runAllowed s then some (parcelsEnter (hubEnter s .run) .ready .run) else none
    | .run => if v = 6 then some (parcelsEnter (hubEnter s .quiesce) .run .quiesce) else none
    | .quiesce =>
      if v = 4 && quiesceComplete s && stayClear s.stay then some (parcelsEnter (hubEnter s .ready) .quiesce .ready)
      else none
    | .off => none
    | .identify => none
    | .train => none
    | .contain => none

/-- The package has reached READY. -/
def pkgReady (s : State) : Bool := s.hub.state = .ready || s.hub.state = .run || s.hub.state = .quiesce

/-- A request for state number `v` of one parcel, never beyond the package's state (R376). -/
def parcelMove (s : State) (p v : Nat) : Option State :=
  let st := (s.parcel p).state
  if v = 5 ∧ stayRefuses s then none
  else if v = stateNo st then some s
  else match st with
    | .configure => if v = 4 && pkgReady s then some (enterState s p .ready) else none
    | .ready =>
      if v = 3 then some (enterState (linksBack s p) p .configure)
      else if v = 5 && decide (s.hub.state = .run) && runAllowed s then some (enterState s p .run) else none
    | .run => if v = 6 then some (enterState s p .quiesce) else none
    | .quiesce => if v = 4 && parcelQuiet s p && stayClear s.stay then some (enterState s p .ready) else none
    | .off => none
    | .identify => none
    | .train => none
    | .contain => none

/-- A state that a request may name. -/
def requestable (v : Nat) : Bool := 3 ≤ v && v ≤ 6

/-- REQUEST_CONFIGURE (R374). -/
def execRequestConfigure (s : State) : Out := .next ((pkgMove s 3).getD s)

/-- REQUEST_READY (R374). -/
def execRequestReady (s : State) : Out := .next ((pkgMove s 4).getD s)

/-- REQUEST_RUN (R375). -/
def execRequestRun (s : State) : Out := .next ((pkgMove s 5).getD s)

/-- REQUEST_QUIESCE (R375). -/
def execRequestQuiesce (s : State) : Out := .next ((pkgMove s 6).getD s)

/-- PARCEL_STATE_REQUEST (R376). -/
def execParcelStateRequest (p : ParcelId) (v : Byte) (s : State) : Out :=
  .next (if requestable v.toNat then (parcelMove s p v.toNat).getD s else s)

/-- QUIESCE_REACH_STOP (R375): a running reach of a parcel in QUIESCE without an open step, at a tick boundary. -/
def execQuiesceReachStop (p : ParcelId) (l : ReachId) (s : State) : Out :=
  let t := (s.reach p l).task
  .next (if (s.parcel p).state = .quiesce && t.run && t.step.isNone && s.phase == 0 then stopRun s p l else s)

end Sys2Proof.Machine
end

