-- ==== Sys2Proof/Machine/Dict.lean ====
section
/-!
DEFINITION. The surveyor's service of management messages (13 R361 to R373, R382): roles, tags and sequence numbers, the
checks in their order, reads, writes, segments, answers, and the firmware load (14 R411).
-/

namespace Sys2Proof.Machine

/-! ### Messages (R363) -/

/-- Bytes 0 to 23 of a message and its data, over which the tag is taken. -/
def msgBytes (m : Msg) : List Byte :=
  [m.ver, m.kind, m.role, m.status] ++ leBytes 4 m.seq.toNat ++ leBytes 2 m.index.toNat ++ [m.sub, m.flags] ++
    leBytes 4 m.offset.toNat ++ leBytes 2 m.data.length ++ leBytes 6 m.rsv.toNat ++ m.data

/-- The key of a role. -/
def roleKey (d : Dict) (role : Nat) : BitVec 128 := if role = 1 then d.key1 else if role = 2 then d.key2 else d.key3

/-- The sequence record of a role. -/
def roleSeq (d : Dict) (role : Nat) : BitVec 32 := if role = 1 then d.seq1 else if role = 2 then d.seq2 else d.seq3

/-- The last response of a role (R366). -/
def roleCache (d : Dict) (role : Nat) : Option Msg :=
  if role = 1 then d.cache1 else if role = 2 then d.cache2 else d.cache3

/-- A role's record takes a value. -/
def setSeq (d : Dict) (role : Nat) (v : BitVec 32) : Dict :=
  if role = 1 then { d with seq1 := v } else if role = 2 then { d with seq2 := v } else { d with seq3 := v }

/-- A role's key is written: its record clears to 0 (R369). -/
def setKey (d : Dict) (role : Nat) (v : BitVec 128) : Dict :=
  setSeq (if role = 1 then { d with key1 := v } else if role = 2 then { d with key2 := v } else { d with key3 := v }) role 0

/-- A response is kept for duplicates. -/
def setCache (d : Dict) (role : Nat) (m : Msg) : Dict :=
  if role = 1 then { d with cache1 := some m } else if role = 2 then { d with cache2 := some m }
  else if role = 3 then { d with cache3 := some m } else d

/-- The number of a path in records (R372). -/
def pathNo : Path → Nat
  | .chainA _ => 0
  | .chainB _ => 1
  | .i3c => 2

/-- Bytes 16 to 21 of a DICT_ACCESS or DICT_STATE payload. -/
def pathSource (s : State) : Path → Nat
  | .chainA f => f.src.toNat
  | .chainB f => f.src.toNat
  | .i3c => s.hub.dict.i3cAddr.toNat

/-- The answer to a message leaves by the path of its request: on the same segment, to the address that sent it (R362, R367). -/
def sendMsg (s : State) (path : Path) (m : Msg) : State :=
  match path with
  | .i3c => i3cPush s m
  | .chainA f => s.updDict (fun d => { d with chainOut := (.chainA (sentFrame d.macA f.src), m) :: d.chainOut })
  | .chainB f => s.updDict (fun d => { d with chainOut := (.chainB (sentFrame d.macB f.src), m) :: d.chainOut })

/-- The port accepts the frame of a message (R362). -/
def frameAccepted (d : Dict) : Path → Bool
  | .i3c => true
  | .chainA f => (f.dst == d.macA || f.dst == broadcast) && f.etype == dictEtherType && f.fcs
  | .chainB f => (f.dst == d.macB || f.dst == broadcast) && f.etype == dictEtherType && f.fcs

/-- A frame that a port receives shows that its PHY's link is up (R379, log 11). -/
def phySeen (s : State) : Path → State
  | .i3c => s
  | .chainA _ => s.updDict (fun d => { d with phyA := true })
  | .chainB _ => s.updDict (fun d => { d with phyB := true })

/-- A message with its tag: none for role 0; a reserved role has no key, so its tag is a free value (log 7). -/
def tagged (s : State) (m : Msg) : State × Msg :=
  let role := m.role.toNat
  if role = 0 then (s, m)
  else if role ≤ 3 then (s, { m with tag := Config.cmac (roleKey s.hub.dict role) (msgBytes m) })
  else (s.useFree, { m with tag := BitVec.ofNat 128 s.freeValue })

/-- The response to a request. -/
def responseMsg (m : Msg) (kind status : Nat) (flags : Nat) (data : List Byte) : Msg :=
  { m with kind := BitVec.ofNat 8 kind, status := BitVec.ofNat 8 status, flags := BitVec.ofNat 8 flags, rsv := 0,
           data := data, tag := 0 }

/-! ### Events (R371 to R373) -/

/-- DICT_ACCESS or DICT_STATE of a message. -/
def raiseDict (s : State) (path : Path) (m : Msg) (code status : Nat) (parcel : Option Nat) : State :=
  raise s (srcHub 5) code (placeFields [(0, 1, pathNo path), (1, 1, m.role.toNat), (2, 1, status), (3, 1, m.kind.toNat),
    (4, 2, m.index.toNat), (6, 1, m.sub.toNat), (7, 1, stateNo s.hub.state),
    (8, 1, match parcel with | some p => stateNo (s.parcel p).state | none => 0xFF), (12, 4, m.seq.toNat),
    (16, 6, pathSource s path)] [])

/-- The value written is one field, whose lowest bit is 0: a write to any entry but the commit of a schedule entry, whose
reserved field has been staged before (R382, R473). -/
def oneField (m : Msg) : Bool :=
  m.kind == 2 && decide (m.role.toNat ≤ 3) && match findObj m.index.toNat m.sub.toNat with
    | some (.schedValid _) => leVal m.data != 1
    | some _ => true
    | none => false

/-- ILLEGAL_ENCODING, origin 2 (R473). -/
def raiseDictIllegal (s : State) (m : Msg) : State :=
  raise s (srcHub 5) evIllegalEncoding (illegalPayload 2 0xFF (if oneField m then 0 else 0xFFFF) 0xFFFFFFFF (m.index.toNat * 256 + m.sub.toNat)
    (leVal (m.data.take 8)))

/-- The event of a refusal (R371). -/
def raiseStatus (s : State) (path : Path) (m : Msg) (status : Nat) (parcel : Option Nat) : State :=
  if status = 2 || status = 7 then raiseDict s path m evDictAccess status parcel
  else if status = 3 then raiseDict s path m evDictState status parcel
  else if status = 5 then raiseDictIllegal s m else s

/-! ### Rights and states -/

/-- The role a message acts in (R368): 0 anonymous, 1 operator, 2 service, 3 user-counter. -/
def actingRole (path : Path) (m : Msg) : Nat := if path = .i3c && m.role == 0 then 1 else m.role.toNat

/-- The role may make the access (R368, R370). -/
def rightAllows (s : State) (role : Nat) (isWrite : Bool) (index : Nat) (r : Right) : Bool :=
  if role = 0 then !isWrite && within index 0x1000 0x100
  else if role = 3 then !isWrite && (within index 0x1000 0x100 || (s.hub.dict.grant && within index 0x8000 0x1000))
  else !isWrite || (match r with
    | .ro => false
    | .const => false
    | .rws => role == 2
    | .rw => true
    | .wo => true
    | .rwc => true)

/-- A parcel or package in which class B entries answer. -/
def inService (st : PState) : Bool := st = .configure || st = .ready || st = .run || st = .quiesce

/-- The entry answers in the current state (R377, R409), and a RWC entry is written in CONFIGURE only. -/
def answers (s : State) (x : Spec) (isWrite : Bool) : Bool :=
  (!x.classB || (match x.parcel with
    | some p => inService (s.parcel p).state || (!isWrite && decide ((s.parcel p).state = .contain))
    | none => inService s.hub.state)) &&
  !(isWrite && decide (x.right = .rwc) && decide (s.hub.state ≠ .configure))

/-- A state request that the state tables do not give (R375, R380); a value that names no state is a reserved encoding,
but in IDENTIFY and TRAIN every request of the package is refused. -/
def requestRefused (s : State) (o : Obj) (v : Nat) : Bool :=
  match o with
  | .request => s.hub.state = .identify || s.hub.state = .train || (requestable v && (pkgMove s v).isNone)
  | .parcelRequest p => requestable v && (parcelMove s p v).isNone
  | _ => false

/-! ### Reads -/

/-- The bytes a read returns, with its segment flags: a number whole, a longer value from the offset on. -/
def readLength (x : Spec) (m : Msg) : Nat :=
  if x.ty = .num then x.size else if m.data.length = 0 then min 1024 (x.size - m.offset.toNat) else m.data.length

/-- The length of a request matches its entry (R371, order 5). -/
def lengthFits (x : Spec) (isWrite : Bool) (m : Msg) : Bool :=
  let n := m.data.length
  let off := m.offset.toNat
  if x.ty = .num then (n == x.size || (!isWrite && n == 0)) && decide (off + n ≤ x.size)
  else if isWrite then
    (if x.ty = .str then n == x.size && off == 0 else decide (n ≤ 1024) && decide (off + n ≤ x.size))
  else decide (readLength x m ≤ 1024) && decide (off + readLength x m ≤ x.size)

/-- Flags of a read of a value longer than one message. -/
def readFlags (x : Spec) (m : Msg) : Nat :=
  if x.size ≤ 1024 then 0 else if m.offset.toNat + readLength x m = x.size then 3 else 1

/-- The snapshot image is latched for the requester that reads offset 0 (R447). -/
def snapTaken (s : State) (who : Nat) (o : Obj) (off : Nat) : State :=
  match o with
  | .snapImage p =>
    if off = 0 then s.updDict (fun d => { d with snapLatch := SMap.put d.snapLatch (who * 8 + p) (snapBytes s p) }) else s
  | _ => s

/-- The bytes of a read. -/
def readBytes (s : State) (who : Nat) (o : Obj) (x : Spec) (m : Msg) : List Byte :=
  let off := m.offset.toNat
  match x.ty with
  | .num => if x.right = .wo then List.replicate x.size 0 else leBytes x.size (o.num s)
  | .str => ((o.str s).drop off).take (readLength x m)
  | .domain => o.block s who off (readLength x m)

/-! ### Writes that mirror a register (R373) -/

/-- A write of a register that composes `f` of its current word, W1C and WO bits taking 0. -/
def mirror (s : State) (a : RegAddr) (f : Word → Word) : State × Nat :=
  let v := f (regWord s a &&& ~~~(word (actionBits a)))
  match regVerdict s .surveyor a v with
  | .ok => (regSet s .surveyor a v, 0)
  | .discard => (s, 6)
  | .state => (s, 3)
  | .past tick => (hubPast s tick, 6)
  | .bound => (s, 6)
  | .reserved _ _ _ => (s, 5)

/-- A write of one field. -/
def mirrorField (s : State) (a : RegAddr) (lo n v : Nat) : State × Nat := mirror s a (fun w => putField w lo n v)

/-! ### The stake schedule (R382) -/

/-- The staged value of a field of STAKE_SCHED[k], else its current value. -/
def stagedField (s : State) (who k sub : Nat) : Nat :=
  match s.hub.dict.schedStage.find? (fun e => e.who.toNat == who && e.k == k && e.sub == sub) with
  | some e => e.value
  | none => (Obj.schedField k sub).num s

/-- The requester's staged values of an entry are dropped. -/
def dropSched (s : State) (who k : Nat) : State :=
  s.updDict (fun d => { d with schedStage := d.schedStage.filter (fun e => !(e.who.toNat == who && e.k == k)) })

/-- A field is staged for the requester. -/
def stageSched (s : State) (who k sub v : Nat) : State :=
  let new : SchedStage := { who := BitVec.ofNat 8 who, k := k, sub := sub, value := v }
  s.updDict (fun d =>
    let others := d.schedStage.filter (fun e => !(e.who.toNat == who && e.k == k && e.sub == sub))
    { d with schedStage := new :: others })

/-- The entry that a commit writes. -/
def schedCommit (s : State) (who k : Nat) : BitVec 128 :=
  let e := schedEntry s k
  let e1 := putField (putField (putBit e 0 true) 1 3 (stagedField s who k 2)) 4 8 (stagedField s who k 3)
  putField (putField e1 16 16 (stagedField s who k 4)) 64 64 (stagedField s who k 5)

/-- A write of valid: 1 commits under R283, 0 clears valid. -/
def schedValidWrite (s : State) (who k v : Nat) : State × Nat :=
  if v = 0 then (s.updHub (fun h => { h with sched := SMap.put h.sched k (putBit (schedEntry s k) 0 false) }), 0)
  else
    let e := schedCommit s who k
    let s1 := dropSched s who k
    if (schedReserved (wordOf e 0)).isSome then (s1, 5)
    else if bvb (schedEntry s k) 0 then (s1, 6)
    else if schTick e ≤ s.datum.count then (hubPast s1 (schTick e), 6)
    else (s1.updHub (fun h => { h with sched := SMap.put h.sched k e }), 0)

/-! ### Segmented writes (R365) -/

/-- The open staged write of an entry. -/
def stagedOf (s : State) (index : BitVec 16) (sub : Byte) : Option Staged :=
  s.hub.dict.staged.find? (fun e => e.index == index && e.sub == sub)

/-- The staged writes but that of one entry. -/
def dropStaged (s : State) (index : BitVec 16) (sub : Byte) : State :=
  s.updDict (fun d => { d with staged := d.staged.filter (fun e => !(e.index == index && e.sub == sub)) })

/-- Bytes placed at an offset. -/
def placeAt (bs : List Byte) (off : Nat) (data : List Byte) : List Byte :=
  (padTo off bs).take off ++ data ++ bs.drop (off + data.length)

/-- The last segment of a value, or the value in one message. -/
def lastSegment (m : Msg) : Bool := bvb m.flags 1 || !bvb m.flags 0

/-! ### The firmware load (R410, R411) -/

/-- A unit runs a bank: the surveyor, unless the recovery loader runs, or a parcel that has left IDENTIFY. -/
def bankRuns (s : State) (b : Bool) : Bool :=
  (s.hub.dict.boot != 2 && s.hub.fw.surveyor == b) ||
  (List.range 8).any (fun p =>
    decide ((s.parcel p).state ≠ .off) && decide ((s.parcel p).state ≠ .identify) && (s.parcel p).bank == b)

/-- A valid schedule entry names a bank (R412). -/
def bankNamed (s : State) (b : Bool) : Bool :=
  s.hub.sched.any (fun e => bvb e.2 0 && schAction e.2 == 2 && bvb e.2 16 == b)

/-- The bank that a load writes: the one that nothing runs; `none` where the load is answered with 0x06 (R411). -/
def loadBank (s : State) : Option Bool :=
  let b := !s.hub.fw.surveyor
  if bankRuns s b || bankNamed s b then none else some b

/-- A little-endian field of an image. -/
def imageField (img : List Byte) (off n : Nat) : Nat := leVal ((img.drop off).take n)

/-- The result of a load (R411). -/
def imageResult (img : List Byte) : Nat :=
  let n := img.length
  if imageField img 8 4 ≠ n || n < 1120 then 2
  else if Config.sha384 ((img.drop 80).take 96) = Config.fusedKeyHash &&
      Config.ecdsaOk ((img.drop 80).take 96) (Config.sha384 (img.take (n - 96))) (img.drop (n - 96)) &&
      decide (Config.fusedMinVersion ≤ imageField img 12 2) then 0
  else 1

/-- The bank that holds an image. -/
def imageBank (img : List Byte) : Bank :=
  { image := img, verified := imageResult img == 0, version := (img.drop 16).take 64,
    measure := Config.sha384 (img.take (img.length - 96)), vmax := BitVec.ofNat 4 (imageField img 14 1),
    vmin := BitVec.ofNat 4 (imageField img 14 1 / 16) }

/-- An image is committed to a bank. -/
def commitImage (s : State) (b : Bool) (img : List Byte) : State :=
  s.updHub (fun h => { h with fw := { h.fw with
    result := BitVec.ofNat 8 (imageResult img)
    bank0 := if b then h.fw.bank0 else imageBank img
    bank1 := if b then imageBank img else h.fw.bank1 } })

/-- A segment of a firmware image. -/
def imageSegment (s : State) (who : Nat) (m : Msg) : State × Nat :=
  let old := stagedOf s m.index m.sub
  let mine := old.all (fun e => e.who.toNat == who)
  match loadBank s with
  | none => (s, 6)
  | some b =>
    if !mine then (s, 6)
    else
      let bytes := placeAt ((old.map (·.bytes)).getD []) m.offset.toNat m.data
      let s1 := dropStaged s m.index m.sub
      if lastSegment m then (commitImage s1 b bytes, 0)
      else
        let new : Staged := { who := BitVec.ofNat 8 who, index := m.index, sub := m.sub, bytes := bytes, seen := s.wall }
        (s1.updDict (fun d => { d with staged := new :: d.staged }), 0)

/-! ### Writes -/

/-- The value lies outside the entry's stated range (R371, order 6; R378 to R387). -/
def outOfRange (s : State) (o : Obj) (v : Nat) : Bool :=
  match o with
  | .plcaId b => v ≠ 0xFF && decide ((if b then s.hub.dict.nodesB else s.hub.dict.nodesA).toNat ≤ v)
  | .plcaCount _ => v == 0
  | .ibiEnable => decide (1 < v)
  | .prefer => decide (1 < v)
  | .request => !requestable v
  | .parcelRequest _ => !requestable v
  | .torusDev => decide (16383 < v)
  | .torusSizeOf d => v == 0 || decide ((if d = 2 then 16 else 32) < v)
  | .lifetime => v == 0
  | .datumSrc => decide (2 < v)
  | .datumTickLen => decide (4 < v)
  | .datumRoot => decide (1 < v)
  | .schedValid _ => decide (1 < v)
  | .schedField _ sub => sub == 2 && decide (4 < v)
  | .linkEn _ _ => decide (1 < v)
  | .linkRetrain _ _ => decide (1 < v)
  | .limit => limitBad v
  | .grant => decide (1 < v)
  | .snapCommand => decide (1 < v)
  | .stayDtime => v == 0 || decide (500 < v)
  | .stayRearm => decide (1 < v)
  | _ => false

/-- Write a PLCA entry. -/
def plcaSet (d : Dict) (b count : Bool) (v : Byte) : Dict :=
  if count then (if b then { d with nodesB := v } else { d with nodesA := v })
  else if b then { d with plcaB := v } else { d with plcaA := v }

/-- The effect of a write of value `v` to a number entry, with the status that the entry's own rule gives. -/
def Obj.write (s : State) (who v : Nat) : Obj → State × Nat
  | .plcaId b => (s.updDict (fun d => plcaSet d b false (BitVec.ofNat 8 v)), 0)
  | .plcaCount b => (s.updDict (fun d => plcaSet d b true (BitVec.ofNat 8 v)), 0)
  | .ibiEnable => (s.updDict (fun d => Dict.ibi { d with ibiEn := v == 1 }), 0)
  | .prefer => (s.updHub (fun h => { h with fw := { h.fw with prefer := v == 1 } }), 0)
  | .request => ((pkgMove s v).getD s, 0)
  | .parcelRequest p => ((parcelMove s p v).getD s, 0)
  | .torusDev => mirrorField s (.hub 0x200) 0 14 v
  | .torusSizeOf d => mirrorField s (.hub 0x200) (if d = 0 then 16 else if d = 1 then 21 else 26) (if d = 2 then 4 else 5)
      (v - 1)
  | .lifetime => mirrorField s (.hub 0x200) 32 8 v
  | .hashNext p => mirrorField s (.parcel (parcelNo p) 0x300) 32 32 v
  | .datumSrc => mirrorField s (.hub 0) 0 2 v
  | .datumTickLen => mirrorField s (.hub 0) 2 3 v
  | .datumRoot => mirrorField s (.hub 0) 5 1 v
  | .datumDelay => mirrorField s (.hub 0) 16 16 v
  | .datumLoad => mirror s (.hub 8) (fun _ => word v)
  | .schedValid k => schedValidWrite s who k v
  | .schedField k sub => if bvb (schedEntry s k) 0 then (s, 6) else (stageSched s who k sub v, 0)
  | .fbNotice => mirrorField s (.hub 0x8008) 0 16 v
  | .linkEn p q => mirrorField s (.parcel (parcelNo p) (linkCtlOff q)) 0 1 v
  | .linkRetrain p q => mirrorField s (.parcel (parcelNo p) (linkCtlOff q)) 1 1 v
  | .linkPkt p => if 15 < v then (s, 6) else mirrorField s (.parcel (parcelNo p) 0x480) 8 4 v
  | .limit => mirrorField s (.hub 0x1000) 0 11 v
  | .grant => (s.updDict (fun d => { d with grant := v == 1 }), 0)
  | .snapCommand => (if v = 1 then snapshotAll s else s, 0)
  | .stayDtime => mirrorField s (.hub 0x8100) 16 16 v
  | .stayRearm => mirrorField s (.hub 0x8108) 0 1 v
  | _ => (s, 0)

/-- A write of a string entry: the keys. -/
def Obj.writeStr (s : State) (data : List Byte) : Obj → State × Nat
  | .key role => (s.updDict (fun d => setKey d role (BitVec.ofNat 128 (leVal data))), 0)
  | _ => (s, 0)

/-- A write that has passed the checks up to the length. -/
def writeEntry (s : State) (who : Nat) (o : Obj) (x : Spec) (m : Msg) : State × Nat :=
  match x.ty with
  | .num => if outOfRange s o (leVal m.data) then (s, 5) else o.write s who (leVal m.data)
  | .str => o.writeStr s m.data
  | .domain => imageSegment s who m

/-! ### Service of a request -/

/-- What the service of a request answers: the state after it, the status, the segment flags, the data and the parcel
concerned. -/
structure Served where
  st : State
  status : Nat := 0
  flags : Nat := 0
  data : List Byte := []
  parcel : Option Nat := none
deriving DecidableEq, Repr

/-- Checks 3 to 7 of R371, and the access. -/
def access (s : State) (role : Nat) (o : Obj) (m : Msg) : Served :=
  let x := o.spec s
  let isWrite := m.kind == 2
  if !rightAllows s role isWrite m.index.toNat x.right then { st := s, status := 2, parcel := x.parcel }
  else if !answers s x isWrite || (isWrite && requestRefused s o (leVal m.data)) then
    { st := s, status := 3, parcel := x.parcel }
  else if !lengthFits x isWrite m then { st := s, status := 4, parcel := x.parcel }
  else if isWrite then
    let (s1, status) := writeEntry s m.role.toNat o x m
    { st := s1, status := status, parcel := x.parcel }
  else
    { st := snapTaken s m.role.toNat o m.offset.toNat, flags := readFlags x m, data := readBytes s m.role.toNat o x m,
      parcel := x.parcel }

/-- What R369 says of a request. -/
inductive Auth where
  | accepted
  | duplicate (m : Msg)
  | waiting
  | refused
deriving DecidableEq, Repr

/-- A discover of the same role and sequence number waits for its answer. -/
def discoverWaits (d : Dict) (m : Msg) : Bool := d.discover.any (fun e => e.2.role == m.role && e.2.seq == m.seq)

/-- The checks of R369 on a message of roles 1 to 3; role 0 needs none. A copy of a discover that has no answer yet waits for
that answer (R366). -/
def auth (d : Dict) (m : Msg) : Auth :=
  let role := m.role.toNat
  if role = 0 then .accepted
  else
    let key := roleKey d role
    if key == 0 || Config.cmac key (msgBytes m) != m.tag then .refused
    else if (roleSeq d role).ult m.seq then .accepted
    else if roleSeq d role == m.seq then
      if discoverWaits d m then .waiting
      else (match roleCache d role with
        | some r => .duplicate r
        | none => .refused)
    else .refused

/-- An accepted request's record takes its sequence number (R369). -/
def takeSeq (s : State) (m : Msg) : State :=
  if m.role == 0 then s else s.updDict (fun d => setSeq d m.role.toNat m.seq)

/-- Answer a request: the event of a refusal, the response with its tag, and the copy kept for duplicates. -/
def answer (path : Path) (m : Msg) (keep : Bool) (kind : Nat) (r : Served) : State :=
  let (s1, out) := tagged (raiseStatus r.st path m r.status r.parcel) (responseMsg m kind r.status r.flags r.data)
  sendMsg (if keep then s1.updDict (fun d => setCache d m.role.toNat out) else s1) path out

/-- A read or a write (R371). -/
def serveAccess (s : State) (path : Path) (m : Msg) : State :=
  match findObj m.index.toNat m.sub.toNat with
  | none => answer path m false 3 { st := s, status := 1 }
  | some o =>
    match auth s.hub.dict m with
    | .refused => answer path m false 3 { st := s, status := 7, parcel := (o.spec s).parcel }
    | .duplicate r => sendMsg s path r
    | .waiting => s.updDict (fun d => { d with discover := d.discover ++ [(path, m)] })
    | .accepted => answer path m true 3 (access (takeSeq s m) (actingRole path m) o m)

/-- A discover waits for its answer (R364). -/
def serveDiscover (s : State) (path : Path) (m : Msg) : State :=
  match auth s.hub.dict m with
  | .refused => answer path m false 3 { st := s, status := 7 }
  | .duplicate r => sendMsg s path r
  | .waiting => s.updDict (fun d => { d with discover := d.discover ++ [(path, m)] })
  | .accepted => (takeSeq s m).updDict (fun d => { d with discover := d.discover ++ [(path, m)] })

/-- The surveyor serves one message. -/
def serve (s : State) (path : Path) (m : Msg) : State :=
  if 3 < m.role.toNat || !(m.kind == 1 || m.kind == 2 || m.kind == 5) then answer path m false 3 { st := s, status := 5 }
  else if m.kind == 5 then serveDiscover s path m else serveAccess s path m

/-- A message arrives: one in a frame that the port does not take, or with another version, is dropped, in OFF nothing answers,
and during a restart of the surveyor requests wait (R362, R363, R377, R413). -/
def receive (s0 : State) (path : Path) (m : Msg) : State :=
  let s := phySeen s0 path
  if s0.hub.state = .off || !frameAccepted s0.hub.dict path then s0
  else if m.ver != 1 then s
  else if s.hub.fw.restarting then s.updDict (fun d => { d with held := d.held ++ [(path, m)] })
  else serve s path m

/-- DICT_READ (R370). -/
def execDictRead (path : Path) (m : Msg) (s : State) : Out := .next (receive s path m)

/-- DICT_WRITE (R373). -/
def execDictWrite (path : Path) (m : Msg) (s : State) : Out := .next (receive s path m)

/-- DOMAIN_SEGMENT_WRITE (R365). -/
def execDomainSegmentWrite (path : Path) (m : Msg) (s : State) : Out := .next (receive s path m)

/-- DISCOVER (R364). -/
def execDiscover (path : Path) (m : Msg) (s : State) : Out := .next (receive s path m)

/-- KEY_WRITE (R369). -/
def execKeyWrite (path : Path) (m : Msg) (s : State) : Out := .next (receive s path m)

/-- FIRMWARE_IMAGE_LOAD (R411). -/
def execFirmwareImageLoad (path : Path) (m : Msg) (s : State) : Out := .next (receive s path m)

/-- I3C_PRIVATE_WRITE (R367): one message. -/
def execI3cPrivateWrite (m : Msg) (s : State) : Out := .next (receive s .i3c m)

/-- I3C_PRIVATE_READ (R367): the oldest pending output leaves; with none pending the read is not acknowledged. -/
def execI3cPrivateRead (s : State) : Out :=
  .next (s.updDict (fun d => match d.i3cOut with
    | [] => { d with i3cLast := .nack }
    | m :: rest => { d with i3cOut := rest, i3cLast := .data m }))

/-- ENTDAA (R367): the target takes a dynamic address. -/
def execEntdaa (addr : BitVec 7) (s : State) : Out :=
  .next (if s.hub.state = .off then s else s.updDict (fun d => { d with i3cAddr := addr }))

/-- STAGED_WRITE_TIMEOUT (R365): a staged write that received no segment for 1 s. -/
def execStagedWriteTimeout (index : BitVec 16) (sub : Byte) (s : State) : Out :=
  .next (match stagedOf s index sub with
    | some e => if e.seen + 1500000000 ≤ s.wall then dropStaged s index sub else s
    | none => s)

/-- The data of a discover answer (R364). -/
def discoverData (s : State) : List Byte :=
  leBytes 4 0x414457 ++ leBytes 4 0x8016 ++ leBytes 4 s.hub.dict.stepping.toNat ++ leBytes 8 s.hub.dict.serial.toNat ++
    leBytes 1 (stateNo s.hub.state)

/-- The kept answer of a discover that another copy of it has had already (R366). -/
def discoverCopy (d : Dict) (m : Msg) : Option Msg :=
  if m.role == 0 then none else (roleCache d m.role.toNat).bind (fun r => if r.kind == 6 && r.seq == m.seq then some r else none)

/-- DISCOVER_ANSWER (R364): the oldest discover without its answer. -/
def execDiscoverAnswer (s : State) : Out :=
  .next (if s.hub.state = .off || s.hub.fw.restarting then s
    else match s.hub.dict.discover with
      | [] => s
      | (path, m) :: rest =>
        let s1 := s.updDict (fun d => { d with discover := rest })
        match discoverCopy s.hub.dict m with
        | some r => sendMsg s1 path r
        | none => answer path m true 6 { st := s1, data := discoverData s })

/-- SURVEYOR_RESTART_DONE (R413): the requests received meanwhile are served in their order, then the notices leave. -/
def execSurveyorRestartDone (s : State) : Out :=
  .next (if !s.hub.fw.restarting then s
    else
      let s1 := (s.updHub (fun h => { h with fw := { h.fw with restarting := false } })).updDict (fun d => { d with held := [] })
      sendUnsent (s.hub.dict.held.foldl (fun s e => serve s e.1 e.2) s1))

end Sys2Proof.Machine
end

