-- ==== Sys2Proof/Machine/Rows.lean ====
section
/-!
DEFINITION. The register writes that have a row of their own: each is the access of R13 and R333 to its register, with the
fields that the row names.
-/

namespace Sys2Proof.Machine

/-- A write of a whole word. -/
def wordWrite (s : State) (rq : Requester) (a : RegAddr) (v : Nat) : Out := .next (accessWrite s rq a 8 (word v))

/-! ### Reach -/

/-- TASK_RUN (R159). -/
def execTaskRun (rq : Requester) (p : ParcelId) (l : ReachId) (strict : Bool) (s : State) : Out :=
  wordWrite s rq (.reach p l 0) (1 + 2 * b2n strict)

/-- TASK_STOP_REQUEST (R160). -/
def execTaskStopRequest (rq : Requester) (p : ParcelId) (l : ReachId) (strict : Bool) (s : State) : Out :=
  wordWrite s rq (.reach p l 0) (2 * b2n strict)

/-- REACH_RESET (R161). -/
def execReachReset (rq : Requester) (p : ParcelId) (l : ReachId) (s : State) : Out := wordWrite s rq (.reach p l 0) 0x20

/-- TASK_IMAGE_SAVE (R193). -/
def execTaskImageSave (rq : Requester) (p : ParcelId) (l : ReachId) (mask : BitVec 4) (addr : BitVec 27) (s : State) : Out :=
  wordWrite s rq (.reach p l 0x20) (mask.toNat + 0x10 + addr.toNat * 256)

/-- TASK_IMAGE_RESTORE (R194). -/
def execTaskImageRestore (rq : Requester) (p : ParcelId) (l : ReachId) (mask : BitVec 4) (addr : BitVec 27) (s : State) :
    Out :=
  wordWrite s rq (.reach p l 0x20) (mask.toNat + 0x20 + addr.toNat * 256)

/-- PROFILE_WORD_WRITE (R191): a staged word. -/
def execProfileWordWrite (rq : Requester) (p : ParcelId) (l : ReachId) (n : Fin 64) (w : Fin 3) (v : Word) (s : State) :
    Out :=
  .next (accessWrite s rq (.reach p l (0x800 + 32 * n + 8 * w)) 8 v)

/-- PROFILE_COMMIT (R191). -/
def execProfileCommit (rq : Requester) (p : ParcelId) (l : ReachId) (n : Fin 64) (v : Word) (s : State) : Out :=
  .next (accessWrite s rq (.reach p l (0x818 + 32 * n)) 8 v)

/-- TRAVERSE_WORD_WRITE (R196): a staged word. -/
def execTraverseWordWrite (rq : Requester) (p : ParcelId) (l : ReachId) (n : Fin 32) (w : Fin 15) (v : Word) (s : State) :
    Out :=
  .next (accessWrite s rq (.reach p l (0x1000 + 128 * n + 8 * w)) 8 v)

/-- TRAVERSE_COMMIT (R196). -/
def execTraverseCommit (rq : Requester) (p : ParcelId) (l : ReachId) (n : Fin 32) (v : Word) (s : State) : Out :=
  .next (accessWrite s rq (.reach p l (0x1078 + 128 * n)) 8 v)

/-- ACT_SEG_WRITE (R108). -/
def execActSegWrite (rq : Requester) (p : ParcelId) (l : ReachId) (n : Fin 128) (w : Fin 2) (v : Word) (s : State) : Out :=
  .next (accessWrite s rq (.reach p l (0x2000 + 16 * n + 8 * w)) 8 v)

/-- FUSE_CFG_WRITE (R214). -/
def execFuseCfgWrite (rq : Requester) (p : ParcelId) (l : ReachId) (v : Word) (s : State) : Out :=
  .next (accessWrite s rq (.reach p l 0x40) 8 v)

/-- WINDOW_WRITE (R258). -/
def execWindowWrite (rq : Requester) (p : ParcelId) (l : ReachId) (cb : Bool) (v : Word) (s : State) : Out :=
  .next (accessWrite s rq (.reach p l (if cb then 0x38 else 0x30)) 8 v)

/-- SWZ_KEY_WRITE (R229). -/
def execSwzKeyWrite (rq : Requester) (p : ParcelId) (l : ReachId) (k : Fin 16) (v : Word) (s : State) : Out :=
  .next (accessWrite s rq (.reach p l (0x80 + 8 * k)) 8 v)

/-! ### Cluster -/

/-- CODEBOOK_WRITE (R96). -/
def execCodebookWrite (rq : Requester) (p : ParcelId) (c : ClusterId) (k : Fin 8) (level : Option (Fin 16)) (v : Word)
    (s : State) : Out :=
  .next (accessWrite s rq (.cluster p c (match level with
    | none => 0x100 + 8 * k
    | some i => 0x200 + 128 * k + 8 * i)) 8 v)

/-- SYNC_BAR_MEMBERS_WRITE (R185). -/
def execSyncBarMembersWrite (rq : Requester) (p : ParcelId) (c : Option ClusterId) (k : Fin 16) (v : Word) (s : State) :
    Out :=
  .next (match c with
    | some c => accessWrite s rq (.cluster p c (0x80 + 8 * k)) 8 v
    | none => accessWrite s rq (.parcel p (0x200 + 8 * k)) 8 v)

/-! ### Parcel -/

/-- DOORBELL (R345). -/
def execDoorbell (p : ParcelId) (v : Word) (s : State) : Out := .next (accessWrite s .host (.parcel p 0x1040) 8 v)

/-- INT_EN_WRITE (R347). -/
def execIntEnWrite (rq : Requester) (p : ParcelId) (v : Word) (s : State) : Out :=
  .next (accessWrite s rq (.parcel p 0x1008) 8 v)

/-- CONF_REGION_WRITE (R83). -/
def execConfRegionWrite (rq : Requester) (p : ParcelId) (k : Fin 64) (v : Word) (s : State) : Out :=
  .next (accessWrite s rq (.parcel p (8 * k)) 8 v)

/-- MSG_CHAN_WRITE (R318). -/
def execMsgChanWrite (rq : Requester) (p : ParcelId) (k : Fin 64) (w : Fin 2) (v : Word) (s : State) : Out :=
  .next (accessWrite s rq (.parcel p (0x800 + 16 * k + 8 * w)) 8 v)

/-- RX_WIN_WRITE (R321). -/
def execRxWinWrite (rq : Requester) (p : ParcelId) (k : Fin 64) (w : Fin 2) (v : Word) (s : State) : Out :=
  .next (accessWrite s rq (.parcel p (0xC00 + 16 * k + 8 * w)) 8 v)

/-- LINK_EN_WRITE (R299). -/
def execLinkEnWrite (rq : Requester) (p : ParcelId) (port : Port) (en : Bool) (s : State) : Out :=
  wordWrite s rq (.parcel p (linkCtlOff port)) (b2n en)

/-- LINK_RETRAIN (R298): en is written as it stands. -/
def execLinkRetrain (rq : Requester) (p : ParcelId) (port : Port) (s : State) : Out :=
  wordWrite s rq (.parcel p (linkCtlOff port)) (2 + b2n (s.link p port).en)

/-- LINK_VER_PKT_WRITE (R306). -/
def execLinkVerPktWrite (rq : Requester) (p : ParcelId) (pkt : BitVec 4) (s : State) : Out :=
  wordWrite s rq (.parcel p 0x480) (pkt.toNat * 256)

/-- CHAN_ROTATE_ARM (R244). -/
def execChanRotateArm (rq : Requester) (p : ParcelId) (w : Fin 2) (v : Word) (s : State) : Out :=
  .next (accessWrite s rq (.parcel p (0x310 + 8 * w)) 8 v)

/-- PERF_FREEZE (R445). -/
def execPerfFreeze (rq : Requester) (p : ParcelId) (freeze : Bool) (s : State) : Out :=
  wordWrite s rq (.parcel p 0x8000) (b2n freeze)

/-- PERF_SNAP_REQUEST (R445): freeze is written as it stands. -/
def execPerfSnapRequest (rq : Requester) (p : ParcelId) (s : State) : Out :=
  wordWrite s rq (.parcel p 0x8000) (2 + b2n (s.parcel p).mon.freezeAsked)

/-- SAMPLE_ENABLE (R449). -/
def execSampleEnable (rq : Requester) (p : ParcelId) (v : Word) (s : State) : Out :=
  .next (accessWrite s rq (.parcel p 0x8008) 8 v)

/-! ### Hub -/

/-- TORUS_CFG_WRITE (R309). -/
def execTorusCfgWrite (rq : Requester) (v : Word) (s : State) : Out := .next (accessWrite s rq (.hub 0x200) 8 v)

/-- DATUM_CFG_WRITE (R269). -/
def execDatumCfgWrite (rq : Requester) (v : Word) (s : State) : Out := .next (accessWrite s rq (.hub 0x00) 8 v)

/-- DATUM_LOAD_WRITE (R265, R269). -/
def execDatumLoadWrite (rq : Requester) (v : Word) (s : State) : Out := .next (accessWrite s rq (.hub 0x08) 8 v)

/-- STAKE_SCHED_WRITE (R283). -/
def execStakeSchedWrite (rq : Requester) (k : Fin 16) (w : Fin 2) (v : Word) (s : State) : Out :=
  .next (accessWrite s rq (.hub (0x100 + 16 * k + 8 * w)) 8 v)

/-- HUB_DMA_ARM (R354): a write of word 2. -/
def execHubDmaArm (rq : Requester) (c : Fin 8) (v : Word) (s : State) : Out :=
  .next (accessWrite s rq (.hub (0x410 + 32 * c)) 8 v)

/-- PWR_CFG_WRITE (R431). -/
def execPwrCfgWrite (rq : Requester) (v : Word) (s : State) : Out := .next (accessWrite s rq (.hub 0x1000) 8 v)

/-- PWR_PARCEL_WRITE (R437). -/
def execPwrParcelWrite (rq : Requester) (p : ParcelId) (v : Word) (s : State) : Out :=
  .next (accessWrite s rq (.hub (0x1040 + 16 * p)) 8 v)

/-- STAY_DTIME_WRITE (R418). -/
def execStayDtimeWrite (rq : Requester) (dtime : BitVec 16) (s : State) : Out :=
  wordWrite s rq (.hub 0x8100) (dtime.toNat * 2 ^ 16)

/-- STAY_REARM (R416). -/
def execStayRearm (rq : Requester) (s : State) : Out := wordWrite s rq (.hub 0x8108) 1

end Sys2Proof.Machine
end

