-- ==== Sys2Proof/Machine/Dispatch.lean ====
section
/-!
DEFINITION. The effect of one command: one arm per constructor, each a direct call of its meaning.
-/

namespace Sys2Proof.Machine

def exec (i : Instr) (s : State) : Host.Outcome State Fault Refusal :=
  match i with
  | .matb p l err => Sys2Proof.Machine.execMatb p l err s
  | .matlBuild p l => Sys2Proof.Machine.execMatlBuild p l s
  | .rtBuildStart p c => Sys2Proof.Machine.execRtBuildStart p c s
  | .matlLook p l => Sys2Proof.Machine.execMatlLook p l s
  | .rtLookStart p l => Sys2Proof.Machine.execRtLookStart p l s
  | .rifl p l => Sys2Proof.Machine.execRifl p l s
  | .dlta p l => Sys2Proof.Machine.execDlta p l s
  | .move p l => Sys2Proof.Machine.execMove p l s
  | .movePoolSave p l => Sys2Proof.Machine.execMovePoolSave p l s
  | .movePoolRestore p l => Sys2Proof.Machine.execMovePoolRestore p l s
  | .moveImemLoad p l => Sys2Proof.Machine.execMoveImemLoad p l s
  | .moveHalo p l => Sys2Proof.Machine.execMoveHalo p l s
  | .moveLocalCopy p l => Sys2Proof.Machine.execMoveLocalCopy p l s
  | .moveMessageSend p l => Sys2Proof.Machine.execMoveMessageSend p l s
  | .messageIdAvailable p l => Sys2Proof.Machine.execMessageIdAvailable p l s
  | .moveExpand p l => Sys2Proof.Machine.execMoveExpand p l s
  | .moveStoreUnstructured p l => Sys2Proof.Machine.execMoveStoreUnstructured p l s
  | .moveStore24 p l => Sys2Proof.Machine.execMoveStore24 p l s
  | .moveStore24Masked p l => Sys2Proof.Machine.execMoveStore24Masked p l s
  | .gath p l => Sys2Proof.Machine.execGath p l s
  | .scat p l => Sys2Proof.Machine.execScat p l s
  | .casc p l => Sys2Proof.Machine.execCasc p l s
  | .cascadeHop p l => Sys2Proof.Machine.execCascadeHop p l s
  | .cascadeBroken p l => Sys2Proof.Machine.execCascadeBroken p l s
  | .conf p l => Sys2Proof.Machine.execConf p l s
  | .confluenceAdd p => Sys2Proof.Machine.execConfluenceAdd p s
  | .talyClaim p l => Sys2Proof.Machine.execTalyClaim p l s
  | .talySet p l => Sys2Proof.Machine.execTalySet p l s
  | .talyRead p l => Sys2Proof.Machine.execTalyRead p l s
  | .stakWait p l => Sys2Proof.Machine.execStakWait p l s
  | .stakStep p l => Sys2Proof.Machine.execStakStep p l s
  | .stakArm p l => Sys2Proof.Machine.execStakArm p l s
  | .fencAcq p l => Sys2Proof.Machine.execFencAcq p l s
  | .fencRel p l => Sys2Proof.Machine.execFencRel p l s
  | .fencFull p l => Sys2Proof.Machine.execFencFull p l s
  | .syncLocal p l => Sys2Proof.Machine.execSyncLocal p l s
  | .syncClusterBarrier p l => Sys2Proof.Machine.execSyncClusterBarrier p l s
  | .syncParcelBarrier p l => Sys2Proof.Machine.execSyncParcelBarrier p l s
  | .scl p l => Sys2Proof.Machine.execScl p l s
  | .brc p l => Sys2Proof.Machine.execBrc p l s
  | .brcHalt p l => Sys2Proof.Machine.execBrcHalt p l s
  | .csrRead p l => Sys2Proof.Machine.execCsrRead p l s
  | .csrWrite p l => Sys2Proof.Machine.execCsrWrite p l s
  | .instructionComplete p l k => Sys2Proof.Machine.execInstructionComplete p l k s
  | .sampleRecordWrite p => Sys2Proof.Machine.execSampleRecordWrite p s
  | .taskRun rq p l strict => Sys2Proof.Machine.execTaskRun rq p l strict s
  | .taskStopRequest rq p l strict => Sys2Proof.Machine.execTaskStopRequest rq p l strict s
  | .taskStopComplete p l => Sys2Proof.Machine.execTaskStopComplete p l s
  | .reachReset rq p l => Sys2Proof.Machine.execReachReset rq p l s
  | .reachResetComplete p l => Sys2Proof.Machine.execReachResetComplete p l s
  | .taskImageSave rq p l mask addr => Sys2Proof.Machine.execTaskImageSave rq p l mask addr s
  | .taskImageRestore rq p l mask addr => Sys2Proof.Machine.execTaskImageRestore rq p l mask addr s
  | .taskImageDone p l => Sys2Proof.Machine.execTaskImageDone p l s
  | .profileWordWrite rq p l n w v => Sys2Proof.Machine.execProfileWordWrite rq p l n w v s
  | .profileCommit rq p l n v => Sys2Proof.Machine.execProfileCommit rq p l n v s
  | .traverseWordWrite rq p l n w v => Sys2Proof.Machine.execTraverseWordWrite rq p l n w v s
  | .traverseCommit rq p l n v => Sys2Proof.Machine.execTraverseCommit rq p l n v s
  | .codebookWrite rq p c k level v => Sys2Proof.Machine.execCodebookWrite rq p c k level v s
  | .actSegWrite rq p l n w v => Sys2Proof.Machine.execActSegWrite rq p l n w v s
  | .fuseCfgWrite rq p l v => Sys2Proof.Machine.execFuseCfgWrite rq p l v s
  | .windowWrite rq p l cb v => Sys2Proof.Machine.execWindowWrite rq p l cb v s
  | .swzKeyWrite rq p l k v => Sys2Proof.Machine.execSwzKeyWrite rq p l k v s
  | .syncBarMembersWrite rq p c k v => Sys2Proof.Machine.execSyncBarMembersWrite rq p c k v s
  | .doorbell p v => Sys2Proof.Machine.execDoorbell p v s
  | .intEnWrite rq p v => Sys2Proof.Machine.execIntEnWrite rq p v s
  | .confRegionWrite rq p k v => Sys2Proof.Machine.execConfRegionWrite rq p k v s
  | .msgChanWrite rq p k w v => Sys2Proof.Machine.execMsgChanWrite rq p k w v s
  | .rxWinWrite rq p k w v => Sys2Proof.Machine.execRxWinWrite rq p k w v s
  | .torusCfgWrite rq v => Sys2Proof.Machine.execTorusCfgWrite rq v s
  | .datumCfgWrite rq v => Sys2Proof.Machine.execDatumCfgWrite rq v s
  | .datumLoadWrite rq v => Sys2Proof.Machine.execDatumLoadWrite rq v s
  | .stakeSchedWrite rq k w v => Sys2Proof.Machine.execStakeSchedWrite rq k w v s
  | .linkEnWrite rq p port en => Sys2Proof.Machine.execLinkEnWrite rq p port en s
  | .linkRetrain rq p port => Sys2Proof.Machine.execLinkRetrain rq p port s
  | .linkVerPktWrite rq p pkt => Sys2Proof.Machine.execLinkVerPktWrite rq p pkt s
  | .chanRotateArm rq p w v => Sys2Proof.Machine.execChanRotateArm rq p w v s
  | .rotationStart p => Sys2Proof.Machine.execRotationStart p s
  | .rotationBlockMigrated p => Sys2Proof.Machine.execRotationBlockMigrated p s
  | .hubDmaArm rq c v => Sys2Proof.Machine.execHubDmaArm rq c v s
  | .hubDmaStart c => Sys2Proof.Machine.execHubDmaStart c s
  | .hubDmaDone c host => Sys2Proof.Machine.execHubDmaDone c host s
  | .pwrCfgWrite rq v => Sys2Proof.Machine.execPwrCfgWrite rq v s
  | .pwrParcelWrite rq p v => Sys2Proof.Machine.execPwrParcelWrite rq p v s
  | .perfFreeze rq p freeze => Sys2Proof.Machine.execPerfFreeze rq p freeze s
  | .perfSnapRequest rq p => Sys2Proof.Machine.execPerfSnapRequest rq p s
  | .counterSnapshot p => Sys2Proof.Machine.execCounterSnapshot p s
  | .sampleEnable rq p v => Sys2Proof.Machine.execSampleEnable rq p v s
  | .stayDtimeWrite rq dtime => Sys2Proof.Machine.execStayDtimeWrite rq dtime s
  | .stayRearm rq => Sys2Proof.Machine.execStayRearm rq s
  | .registerWrite rq a size v => Sys2Proof.Machine.execRegisterWrite rq a size v s
  | .latchedRead rq a size => Sys2Proof.Machine.execLatchedRead rq a size s
  | .winMemAccess fn cxl off acc err => Sys2Proof.Machine.execWinMemAccess fn cxl off acc err s
  | .winDbgAccess p off acc => Sys2Proof.Machine.execWinDbgAccess p off acc s
  | .functionLevelResetParcel p => Sys2Proof.Machine.execFunctionLevelResetParcel p s
  | .functionLevelResetHub => Sys2Proof.Machine.execFunctionLevelResetHub s
  | .dictRead path m => Sys2Proof.Machine.execDictRead path m s
  | .dictWrite path m => Sys2Proof.Machine.execDictWrite path m s
  | .domainSegmentWrite path m => Sys2Proof.Machine.execDomainSegmentWrite path m s
  | .stagedWriteTimeout index sub => Sys2Proof.Machine.execStagedWriteTimeout index sub s
  | .discover path m => Sys2Proof.Machine.execDiscover path m s
  | .discoverAnswer => Sys2Proof.Machine.execDiscoverAnswer s
  | .keyWrite path m => Sys2Proof.Machine.execKeyWrite path m s
  | .firmwareImageLoad path m => Sys2Proof.Machine.execFirmwareImageLoad path m s
  | .requestConfigure => Sys2Proof.Machine.execRequestConfigure s
  | .requestReady => Sys2Proof.Machine.execRequestReady s
  | .requestRun => Sys2Proof.Machine.execRequestRun s
  | .requestQuiesce => Sys2Proof.Machine.execRequestQuiesce s
  | .parcelStateRequest p v => Sys2Proof.Machine.execParcelStateRequest p v s
  | .quiesceReachStop p l => Sys2Proof.Machine.execQuiesceReachStop p l s
  | .snapshotOnCommand => Sys2Proof.Machine.execSnapshotOnCommand s
  | .i3cPrivateWrite m => Sys2Proof.Machine.execI3cPrivateWrite m s
  | .i3cPrivateRead => Sys2Proof.Machine.execI3cPrivateRead s
  | .entdaa addr => Sys2Proof.Machine.execEntdaa addr s
  | .datumTick => Sys2Proof.Machine.execDatumTick s
  | .datumSyncPulse => Sys2Proof.Machine.execDatumSyncPulse s
  | .datumJumpCorrection => Sys2Proof.Machine.execDatumJumpCorrection s
  | .clockGatingEnd => Sys2Proof.Machine.execClockGatingEnd s
  | .referenceLost => Sys2Proof.Machine.execReferenceLost s
  | .referenceQualified => Sys2Proof.Machine.execReferenceQualified s
  | .holdoverExpiry => Sys2Proof.Machine.execHoldoverExpiry s
  | .idleFlitRx p port f => Sys2Proof.Machine.execIdleFlitRx p port f s
  | .sourceLinkLost => Sys2Proof.Machine.execSourceLinkLost s
  | .stakeReached p => Sys2Proof.Machine.execStakeReached p s
  | .stretchEnd p l => Sys2Proof.Machine.execStretchEnd p l s
  | .schedNone k => Sys2Proof.Machine.execSchedNone k s
  | .schedReachClockSetting k => Sys2Proof.Machine.execSchedReachClockSetting k s
  | .clockChangeApply p => Sys2Proof.Machine.execClockChangeApply p s
  | .schedLockSwitchover k => Sys2Proof.Machine.execSchedLockSwitchover k s
  | .lockSwitchoverApply p => Sys2Proof.Machine.execLockSwitchoverApply p s
  | .schedSurveyorSwitchover k => Sys2Proof.Machine.execSchedSurveyorSwitchover k s
  | .surveyorRestartDone => Sys2Proof.Machine.execSurveyorRestartDone s
  | .schedCounterSnapshot k => Sys2Proof.Machine.execSchedCounterSnapshot k s
  | .schedPowerRateLimit k => Sys2Proof.Machine.execSchedPowerRateLimit k s
  | .dataFlitRx p port f decodable => Sys2Proof.Machine.execDataFlitRx p port f decodable s
  | .nakRx p port ack => Sys2Proof.Machine.execNakRx p port ack s
  | .retryTimeout p port => Sys2Proof.Machine.execRetryTimeout p port s
  | .linkRetryExhaust p port => Sys2Proof.Machine.execLinkRetryExhaust p port s
  | .signalDetected p port => Sys2Proof.Machine.execSignalDetected p port s
  | .trainingConverged p port => Sys2Proof.Machine.execTrainingConverged p port s
  | .trainingTimeout p port => Sys2Proof.Machine.execTrainingTimeout p port s
  | .frameLock p port => Sys2Proof.Machine.execFrameLock p port s
  | .frameSearchTimeout p port => Sys2Proof.Machine.execFrameSearchTimeout p port s
  | .negRx p port n => Sys2Proof.Machine.execNegRx p port n s
  | .negTimeout p port => Sys2Proof.Machine.execNegTimeout p port s
  | .lossOfSignal p port => Sys2Proof.Machine.execLossOfSignal p port s
  | .missingIdleFlits p port => Sys2Proof.Machine.execMissingIdleFlits p port s
  | .holdExpiry p port => Sys2Proof.Machine.execHoldExpiry p port s
  | .uciePortDown p port => Sys2Proof.Machine.execUciePortDown p port s
  | .faultRecordRx p port r => Sys2Proof.Machine.execFaultRecordRx p port r s
  | .mapRecordRx p port m => Sys2Proof.Machine.execMapRecordRx p port m s
  | .verRx p port vmax vmin => Sys2Proof.Machine.execVerRx p port vmax vmin s
  | .versionSwitch p port => Sys2Proof.Machine.execVersionSwitch p port s
  | .packetForward p k => Sys2Proof.Machine.execPacketForward p k s
  | .messagePacketRx p k => Sys2Proof.Machine.execMessagePacketRx p k s
  | .messageAnswerRx p id result => Sys2Proof.Machine.execMessageAnswerRx p id result s
  | .messageLost p id => Sys2Proof.Machine.execMessageLost p id s
  | .confluenceRowRx p k => Sys2Proof.Machine.execConfluenceRowRx p k s
  | .confluenceAnswerRx p id mask => Sys2Proof.Machine.execConfluenceAnswerRx p id mask s
  | .confluenceAnswerTimeout p id => Sys2Proof.Machine.execConfluenceAnswerTimeout p id s
  | .readyTokenRx p port tag => Sys2Proof.Machine.execReadyTokenRx p port tag s
  | .cascadeTileRx p port k => Sys2Proof.Machine.execCascadeTileRx p port k s
  | .scrubSector p sector err => Sys2Proof.Machine.execScrubSector p sector err s
  | .reachRemap p l => Sys2Proof.Machine.execReachRemap p l s
  | .reachRetire p l => Sys2Proof.Machine.execReachRetire p l s
  | .parcelContain p cause => Sys2Proof.Machine.execParcelContain p cause s
  | .parcelTrainingEnd p ok => Sys2Proof.Machine.execParcelTrainingEnd p ok s
  | .fieldBookWrite okA okB => Sys2Proof.Machine.execFieldBookWrite okA okB s
  | .stayInputChange a b => Sys2Proof.Machine.execStayInputChange a b s
  | .discrepancyTimeReached => Sys2Proof.Machine.execDiscrepancyTimeReached s
  | .stayQuiesce => Sys2Proof.Machine.execStayQuiesce s
  | .governorTick pkg parcels => Sys2Proof.Machine.execGovernorTick pkg parcels s
  | .spateDropRequest => Sys2Proof.Machine.execSpateDropRequest s
  | .spateCutShort => Sys2Proof.Machine.execSpateCutShort s
  | .recoveryEnd => Sys2Proof.Machine.execRecoveryEnd s
  | .thermalCapRaise p => Sys2Proof.Machine.execThermalCapRaise p s
  | .sensorSample p n temp => Sys2Proof.Machine.execSensorSample p n temp s
  | .thermtripRelease => Sys2Proof.Machine.execThermtripRelease s
  | .channelThrottleRise p g => Sys2Proof.Machine.execChannelThrottleRise p g s
  | .channelThrottleFall p g => Sys2Proof.Machine.execChannelThrottleFall p g s
  | .calWindowClose p l m => Sys2Proof.Machine.execCalWindowClose p l m s
  | .channelSkewWindowClose p => Sys2Proof.Machine.execChannelSkewWindowClose p s
  | .bwWindowClose p => Sys2Proof.Machine.execBwWindowClose p s
  | .auxGood scope => Sys2Proof.Machine.execAuxGood scope s
  | .surveyorBoot => Sys2Proof.Machine.execSurveyorBoot s
  | .auxLost => Sys2Proof.Machine.execAuxLost s
  | .vin48Qualified mv => Sys2Proof.Machine.execVin48Qualified mv s
  | .vin48OutOfRange mv => Sys2Proof.Machine.execVin48OutOfRange mv s
  | .identifyToTrain => Sys2Proof.Machine.execIdentifyToTrain s
  | .trainingComplete trained => Sys2Proof.Machine.execTrainingComplete trained s
  | .resetNAsserted => Sys2Proof.Machine.execResetNAsserted s
  | .resetNReleased => Sys2Proof.Machine.execResetNReleased s
  | .perstNAsserted => Sys2Proof.Machine.execPerstNAsserted s
  | .perstNReleased => Sys2Proof.Machine.execPerstNReleased s
  | .extest cells => Sys2Proof.Machine.execExtest cells s
  | .samplePreload captured shifted => Sys2Proof.Machine.execSamplePreload captured shifted s
  | .extestPulse cells => Sys2Proof.Machine.execExtestPulse cells s
  | .extestTrain cells => Sys2Proof.Machine.execExtestTrain cells s
  | .highz => Sys2Proof.Machine.execHighz s
  | .clamp => Sys2Proof.Machine.execClamp s
  | .bypass => Sys2Proof.Machine.execBypass s
  | .flitSlot p port => Sys2Proof.Machine.execFlitSlot p port s
  | .hostLinkTrained => Sys2Proof.Machine.execHostLinkTrained s

end Sys2Proof.Machine
end

