-- ==== Sys2Proof/WellFormed.lean ====
section
/-!
DEFINITION. Which commands are well formed: those whose operands describe an event that the part can see.
-/

namespace Sys2Proof

/-- A flit carries 244 payload bytes (11 R290). -/
def Flit.wf (f : Flit) : Bool := f.payload.length == 244

/-- A message carries at most 1,024 data bytes (13 R363). -/
def Msg.wf (m : Msg) : Bool := decide (m.data.length ≤ 1024)

/-- A port with a river link (11 R298). -/
def Port.river : Port → Bool
  | .xp => true
  | .xn => true
  | .yp => true
  | .yn => true
  | .zp => true
  | .zn => true
  | .ringPlus => false
  | .ringMinus => false
  | .hubPort => false

/-- A well-formed command. -/
def Instr.wf : Instr → Bool
  | .idleFlitRx _ _ f => f.wf
  | .dataFlitRx _ _ f _ => f.wf
  | .governorTick _ ps => ps.length == 8
  | .uciePortDown _ q => !q.river
  | .sensorSample _ _ t => decide (-32768 ≤ t ∧ t < 32768)
  | .dictRead _ m => m.wf && m.kind == 1
  | .dictWrite _ m => m.wf && m.kind == 2
  | .domainSegmentWrite _ m => m.wf && m.kind == 2 && m.flags.getLsbD 0
  | .discover _ m => m.wf && m.kind == 5
  | .keyWrite _ m => m.wf && m.kind == 2 && m.index == 0x1040
  | .firmwareImageLoad _ m => m.wf && m.kind == 2 && m.index == 0x1050 && m.sub == 6
  | .i3cPrivateWrite m => m.wf
  | _ => true

end Sys2Proof
end

