-- ==== Sys2Proof/Safety.lean ====
section
/-!
DEFINITION. The terms in which the statements speak: the invariant of the memories, what an access of a requester meets on
its way, when the instruction at the head of issue issues, and what stays unchanged.
-/

namespace Sys2Proof.Machine

/-! ### The invariant -/

/-- Every byte memory of the package is in its canonical form. -/
def State.memOk (s : State) : Bool :=
  s.parcels.all (fun x => memWf x.2.mem && x.2.reaches.all (fun y => memWf y.2.spad && memWf y.2.imem) &&
    x.2.clusters.all (fun y => memWf y.2.buf)) && memWf s.hub.port.hostMem

/-- The scalar registers and the pool of every reach are held as sorted maps. -/
def State.registersOk (s : State) : Bool :=
  s.parcels.all (fun x => x.2.reaches.all (fun y => SMap.sorted y.2.s && SMap.sorted y.2.pool))

/-- In UNSET the count is 0 and no correction is under way; a correction that skips ticks goes to a later count. -/
def State.datumOk (s : State) : Prop :=
  (s.datum.state = .unset → s.datum.count = 0 ∧ s.datum.jump = none ∧ s.datum.gated = none) ∧
  ∀ target, s.datum.jump = some (.ahead target) → s.datum.count + (if s.datum.gated = none then 0 else 1) < target

/-! ### Register accesses -/

/-- A write of `v` by `rq` to a register of parcel `p` arrives (R17, R335, R337, R408) and waits for nothing (R96, R108,
R161, R214). -/
def Arrives (s : State) (rq : Requester) (p : Nat) (a : RegAddr) (v : Word) : Prop :=
  rqPresent s rq = true ∧ regGate s rq true a = true ∧ mustWait s p (s.parcel p).held (.reg rq a 8 v) = false

/-- A write by `rq` to a register of the hub arrives. -/
def HubArrives (s : State) (rq : Requester) : Prop := rqPresent s rq = true ∧ rq ≠ .task

/-! ### Frames -/

/-- Every other reach of the package is as it was. -/
def OtherReaches (s t : State) (p l : Nat) : Prop := ∀ q m, ¬ (q = p ∧ m = l) → t.reach q m = s.reach q m

/-- Every reach of the package is as it was. -/
def SameReaches (s t : State) : Prop := ∀ q m, t.reach q m = s.reach q m

/-- Every cluster of the package is as it was. -/
def SameClusters (s t : State) : Prop := ∀ q c, t.cluster q c = s.cluster q c

/-- The registers of reach `l` that no instruction of a unit writes are as they were. -/
def SameTables (s t : State) (p l : Nat) : Prop :=
  (t.reach p l).prof = (s.reach p l).prof ∧ (t.reach p l).trv = (s.reach p l).trv ∧
  (t.reach p l).swz = (s.reach p l).swz ∧ (t.reach p l).spWin = (s.reach p l).spWin ∧
  (t.reach p l).cbWin = (s.reach p l).cbWin ∧ (t.reach p l).fuse = (s.reach p l).fuse ∧
  (t.reach p l).actSeg = (s.reach p l).actSeg

/-- Every byte of every memory of the package reads as it did. -/
def SameMemory (s t : State) : Prop := ∀ k a, rdByte t k a = rdByte s k a

/-- The datum, the stay monitor, the queue of commands and the time are as they were. -/
def SameTime (s t : State) : Prop :=
  t.datum = s.datum ∧ t.stay = s.stay ∧ t.pending = s.pending ∧ t.phase = s.phase ∧ t.wall = s.wall

/-- The hub is as it was but for the host port, which may have sent an interrupt. -/
def SameHub (s t : State) : Prop :=
  t.hub.state = s.hub.state ∧ t.hub.sched = s.hub.sched ∧ t.hub.torus = s.hub.torus ∧ t.hub.pwr = s.hub.pwr ∧
  t.hub.dict = s.hub.dict ∧ t.hub.fw = s.hub.fw ∧ t.hub.tap = s.hub.tap ∧ t.hub.lands = s.hub.lands

/-! ### Posted writes -/

/-- A byte of memory `k` as the queue of unit `u` of reach `l` sees it: its own posted writes come first (R356). -/
def seenByte (s : State) (p l : Nat) (u : FuncUnit) (k : Space) (a : Nat) : Byte := memByte (viewOf s k (srcReach p l) u) a

/-- Every byte of every memory reads in `t` as it would in `s` with the posted writes of reach `l` visible (R356, R357). -/
def MemoryDrained (s t : State) (p l : Nat) : Prop := ∀ k a, rdByte t k a = rdByte (drainOf s (srcReach p l)) k a

/-- No write of reach `l` is posted. -/
def NonePosted (s : State) (p l : Nat) : Prop := ∀ w ∈ s.posted, w.writer ≠ srcReach p l

/-- The state in which time has passed to `phase` of the tick: every posted write has become visible, and the errors of that
instant have come to stand in the memories (R350, R356; log 101). -/
def passed (s : State) (phase : Nat) : State :=
  (Config.upsets (s.wall + (phase - s.phase))).foldl plant (drainIf s (fun _ => true))

/-- From `s` to `t` time has passed to `phase` of the tick: of the memories, the hub and the field book only what that brings
has changed. -/
def TimePassed (s t : State) (phase : Nat) : Prop :=
  SameMemory (passed s phase) t ∧ t.posted = [] ∧ t.book = (passed s phase).book ∧
  (s.posted = [] → t.book = s.book)

/-! ### Issue -/

/-- Nothing disturbs what an instruction of reach `l` reads and writes: no error stands in a memory, no word of the reach is
poisoned, and no FENC.rel stands behind a write that is still posted (R357, R401). -/
def Undisturbed (s : State) (p l : Nat) : Prop :=
  s.upsets = [] ∧ (s.reach p l).ruined = [] ∧ (s.reach p l).imemPoison = [] ∧
  ∀ w ∈ s.posted, w.writer = srcReach p l → w.fenced = false

/-- The instruction at the head of reach `l` of parcel `p` comes to issue, passes its checks under `pl`, is not held, no STAK
ARM binds it, and no older instruction of its DMA queue has still to start (R162, R163, R167, R183, R189). -/
def Issues (s : State) (p l : Nat) (pl : Plan) : Prop :=
  canIssue s p l = true ∧ scalarsReady (s.reach p l) pl.reads = true ∧ firstFail pl.checks = none ∧
  held s p l (headJob s p l) pl = false ∧ (s.reach p l).task.arm = none ∧
  queueWaits (s.reach p l) pl.unit ((s.reach p l).task.issueNo + 1) = false ∧ Undisturbed s p l

/-- A STAK at the head comes to issue with the scalars `reads` written, passes its checks, and no STAK ARM binds it (R183,
R275). -/
def StakIssues (s : State) (p l : Nat) (isStep : Bool) (reads : List Nat) : Prop :=
  canIssue s p l = true ∧ scalarsReady (s.reach p l) reads = true ∧ (s.reach p l).task.arm = none ∧
  firstFail (stakChecks s p l isStep (headJob s p l)) = none ∧ Undisturbed s p l

/-- The instruction at the head comes to issue and `f` is its first check that fails (R162, R163); no write of its reach is
still posted. -/
def Fails (s : State) (p l : Nat) (pl : Plan) (f : Fail) : Prop :=
  canIssue s p l = true ∧ scalarsReady (s.reach p l) pl.reads = true ∧
  firstFail (armFail s p l (headJob s p l) pl :: pl.checks) = some f ∧ Undisturbed s p l ∧
  NonePosted s p l

/-- In `t` the task has stopped on the failed check `f`: nothing has issued, both PCs of TASK_FAULT name the instruction, the
event is raised, and run clears once nothing is in flight (R163, R164). -/
def StoppedOn (s t : State) (p l : Nat) (f : Fail) : Prop :=
  (t.reach p l).task.pc = (s.reach p l).task.pc ∧ (t.reach p l).task.issueNo = (s.reach p l).task.issueNo ∧
  (t.reach p l).flights = (s.reach p l).flights ∧ (t.reach p l).s = (s.reach p l).s ∧
  (t.reach p l).pool = (s.reach p l).pool ∧ (t.reach p l).task.issuing = false ∧
  (t.reach p l).task.faultWord = faultWord f.code f.reason (s.reach p l).task.pc.toNat (s.reach p l).task.pc.toNat ∧
  ((s.reach p l).flights = [] → (t.reach p l).task.run = false ∧ (t.reach p l).task.fault = true ∧
    ((s.reach p l).task.fault = false → bvb (t.parcel p).mon.intStat 0 = true)) ∧
  t.book = (raise s (srcReach p l) f.code f.payload).book ∧
  OtherReaches s t p l ∧ SameClusters s t ∧ SameMemory s t ∧ SameTime s t

/-- The opcode of the instruction at the head (R169, R170). -/
def headOp (s : State) (p l : Nat) : Nat := wOp (headJob s p l).word

/-- In `t` the instruction at the head of `s` has entered unit `u`: the PC and the count of issued instructions have moved
on, and it is the youngest in flight, with the word, scalars, profile and traverse that it had at issue, with status `st` and
waiting for `w`; no older one has changed (R54, R158, R162). -/
def Entered (s t : State) (p l : Nat) (u : FuncUnit) (st : Nat) (w : Await) : Prop :=
  (t.reach p l).task.pc = (s.reach p l).task.pc + 16 ∧
  (t.reach p l).task.issueNo = (s.reach p l).task.issueNo + 1 ∧
  ∃ (older : List Flight) (f : Flight), (t.reach p l).flights = older ++ [f] ∧
    older.length = (s.reach p l).flights.length ∧
    (∀ (i : Nat) (g : Flight), (s.reach p l).flights[i]? = some g → g.no ≠ (s.reach p l).task.issueNo + 1 → older[i]? = some g) ∧
    f.no = (s.reach p l).task.issueNo + 1 ∧ f.job = headJob s p l ∧ f.unit = u ∧ f.status = st ∧ f.wait = w

/-- In `t` the instruction of the sequencer at the head of `s` has issued and completed with `status` in sd, and the next one
follows it (R162, R171). -/
def Completed (s t : State) (p l status : Nat) : Prop :=
  (t.reach p l).task.pc = (s.reach p l).task.pc + 16 ∧
  (t.reach p l).task.issueNo = (s.reach p l).task.issueNo + 1 ∧
  (t.reach p l).flights = (s.reach p l).flights ∧
  ∀ n, (t.reach p l).scalar n =
    if n = wSd (headJob s p l).word ∧ n ≠ 0 then BitVec.ofNat 64 status else (s.reach p l).scalar n

/-! ### Barriers -/

/-- In `t` the SYNCs of the reaches `ls` of parcel `p` that waited at a barrier have completed with status 0, and no other
reach of the package has changed (R185). -/
def Resumed (s t : State) (p : Nat) (ls : List Nat) : Prop :=
  (∀ m ∈ ls, Completed s t p m 0) ∧ ∀ q m, ¬ (q = p ∧ m ∈ ls) → t.reach q m = s.reach q m

/-- Reaches that a barrier may release: each once, with its scalar registers held in order. -/
def Waiters (s : State) (p : Nat) (ls : List Nat) : Prop :=
  ls.Nodup ∧ ∀ m ∈ ls, SMap.sorted (s.reach p m).s = true

/-! ### Messages -/

/-- A packet from parcel `p` to device `dst` can leave: it loops back, its route is cached, or the marks of the down map leave
a route (R313, R320). -/
def Sendable (s : State) (p dst : Nat) : Prop :=
  dst = s.dev ∨ (SMap.find (s.parcel p).fab.routes dst).isSome ∨ (routeOf (s.parcel p).fab.down s.hub.torus s.dev dst).isSome

/-- In `t` one message of the instruction numbered `no` of reach `l` has left on the channel that offset `off` of the aperture
names, with `bytes`: it took the next identifier and has no answer yet; to the own device it has looped back (R317 to R320). -/
def MessageSent (s t : State) (p l no off : Nat) (bytes : List Byte) : Prop :=
  (t.parcel p).fab.msgs = (s.parcel p).fab.msgs ++ [{ id := (s.parcel p).fab.nextId, chan := field off 24 6
                                                      count := s.datum.count, reach := l, flight := no, adds := 0 }] ∧
  (t.parcel p).fab.nextId = (s.parcel p).fab.nextId + 1 ∧
  SMap.find (t.parcel p).fab.idLast (s.parcel p).fab.nextId.toNat = some s.datum.count ∧
  (t.parcel p).fab.chan = (s.parcel p).fab.chan ∧ (t.parcel p).fab.rxWin = (s.parcel p).fab.rxWin ∧
  ∀ w, w = SMap.get 0 (s.parcel p).fab.chan (field off 24 6) → bvf w 1 14 = s.dev →
    (t.parcel p).fab.inbox = (s.parcel p).fab.inbox ++ [(0, {
      ptype := 0, dst := BitVec.ofNat 14 (bvf w 1 14), src := BitVec.ofNat 14 s.dev, via := 0, viaEn := false, dir0 := 0
      dir1 := 0, id := (s.parcel p).fab.nextId, gen := (s.parcel p).gen, win := BitVec.ofNat 6 (bvf w 16 6)
      off := BitVec.ofNat 24 off, stamp := BitVec.ofNat 32 s.datum.count, tag := 0, pver := (s.parcel p).fab.pkt
      body := bytes })]

/-- In `t` the answer `result` to message `k` has left parcel `p`: to the own device it has looped back, to another it waits
at the first link of its cached route (R313, R320, R322). -/
def AnswerLeft (s t : State) (p : Nat) (k : Packet) (result : Nat) : Prop :=
  ∀ a : Packet, a = { ptype := 1, dst := k.src, src := BitVec.ofNat 14 s.dev, via := 0, viaEn := false, dir0 := 0, dir1 := 0
                      id := k.id, gen := (s.parcel p).gen, win := 0, off := 0, stamp := BitVec.ofNat 32 s.datum.count, tag := 0
                      pver := (s.parcel p).fab.pkt, body := [BitVec.ofNat 8 result] } →
    (k.src.toNat = s.dev → (t.parcel p).fab.inbox = dropInbox k (s.parcel p).fab.inbox ++ [(4, a)]) ∧
    (k.src.toNat ≠ s.dev → (t.parcel p).fab.inbox = dropInbox k (s.parcel p).fab.inbox ∧
      ∀ v x b c a' q n leg dl, SMap.find (s.parcel p).fab.routes k.src.toNat = some (v, x, b, c) →
        a' = { a with viaEn := v, via := x, dir0 := b, dir1 := c } →
        nextHop s.hub.torus s.dev a' 0 = some (q, n, leg, dl) → (s.link p q).state = .up →
        SMap.get [] (t.link p q).data (vcOf a' leg dl) =
          SMap.get [] (s.link p q).data (vcOf a' leg dl) ++ packetFlits a' (vcOf a' leg dl))

/-! ### Stakes -/

/-- Time runs in parcel `p`, no change of its clock, rate, firmware or map waits, and no reach but `l` has anything bound to a
stake that has come. -/
def Alone (s : State) (p l : Nat) : Prop :=
  s.datum.state ≠ .unset ∧ s.datum.gated = none ∧ SMap.sorted (s.parcel p).reaches = true ∧ changeWaits s p = false ∧
  (s.parcel p).pwr.capWait = false ∧ (∀ st, schedHolds s p st = false) ∧ (∀ x ∈ (s.parcel p).reaches, x.2.task.failing = false) ∧
  ∀ x ∈ (s.parcel p).reaches, x.1 ≠ l → reachBound s p x.1 x.2 (s.now p) = []

/-! ### Links -/

/-- No CASC of parcel `p` waits on link `q`. -/
def NoCascade (s : State) (p : Nat) (q : Port) : Prop :=
  ∀ l < 128, (s.reach p l).flights.find? (waitsOnLink l q) = none

/-- In `t` link `q` of parcel `p`, which was UP, has gone to `dst`: nothing of its connection is left, LINK_STAT counts the
loss with its reason, LINK_DOWN is raised, the down map marks a river link, and no other link changes but for the FAULT that
goes out on it (R299, R304, R312). -/
def LinkLost (s t : State) (p : Nat) (q : Port) (reason : Nat) (dst : LinkState) : Prop :=
  t.link p q = { (s.link p q).cleared dst with
    reason := BitVec.ofNat 8 reason, downs := BitVec.ofNat 8 (min ((s.link p q).downs.toNat + 1) 255) } ∧
  t.book = (raise s (srcParcel p (portUnit q)) 0x5001 (linkDownPayload s p q reason 5)).book ∧
  (∀ r : Port, portNo r ≠ portNo q → t.link p r = { s.link p r with ctl := (t.link p r).ctl } ∧
    ((s.link p r).state ≠ .up → t.link p r = s.link p r)) ∧
  (isRiver q = true → (hopMark s.hub.torus s.dev (portDim q) (portMinus q)) ∈ (t.parcel p).fab.down) ∧
  (∀ n, n ≠ p → t.parcel n = s.parcel n) ∧ SameReaches s t ∧ SameClusters s t ∧ SameMemory s t ∧ t.hub = s.hub ∧ SameTime s t

/-- In `t` the UCIe ports of parcel `p` have started: the hub port is UP, and each ring port whose neighbour is out of reset,
with the port across, is UP at the highest version that both ends speak, or in HOLD where there is none; a version that one end
speaks alone raises PEER_VERSION (R300, R306, R328). -/
def UciePortsStarted (s t : State) (p : Nat) : Prop :=
  (t.link p .hubPort).state = .up ∧
  (∀ (m : Bool) (n v : Nat) (q r : Port), n = ringNext p m → relays s n = true →
    q = (if m then .ringMinus else .ringPlus) → r = (if m then .ringPlus else .ringMinus) →
    v = min (s.parcel p).fab.linkMax.toNat (s.parcel n).fab.linkMax.toNat →
    (max (s.parcel p).fab.linkMin.toNat (s.parcel n).fab.linkMin.toNat ≤ v →
      (t.link p q).state = .up ∧ (t.link n r).state = .up ∧ (t.link p q).ver.toNat = v ∧ (t.link n r).ver.toNat = v ∧
      (t.link p q).peer = BitVec.ofNat 14 s.dev ∧ (t.link n r).peer = BitVec.ofNat 14 s.dev) ∧
    (v < max (s.parcel p).fab.linkMin.toNat (s.parcel n).fab.linkMin.toNat →
      (t.link p q).state = .hold ∧ (t.link n r).state = .hold)) ∧
  ((∀ m, relays s (ringNext p m) = true → (s.parcel (ringNext p m)).fab.linkMax = (s.parcel p).fab.linkMax ∧
    (s.parcel p).fab.linkMin.toNat ≤ (s.parcel p).fab.linkMax.toNat ∧
    (s.parcel (ringNext p m)).fab.linkMin.toNat ≤ (s.parcel p).fab.linkMax.toNat) → t.book = s.book)

/-! ### The dictionary -/

/-- The surveyor takes message `m` as it arrives, and its role, tag and sequence number are accepted (R363, R369, R377,
R413). -/
def Accepted (s : State) (m : Msg) : Prop :=
  m.ver = 1 ∧ s.hub.state ≠ .off ∧ s.hub.fw.restarting = false ∧ m.role.toNat ≤ 3 ∧
  (m.role ≠ 0 → roleKey s.hub.dict m.role.toNat ≠ 0 ∧
    Config.cmac (roleKey s.hub.dict m.role.toNat) (msgBytes m) = m.tag ∧ roleSeq s.hub.dict m.role.toNat < m.seq)

/-- The dictionary once the record of the role of `m` has taken its sequence number (R369). -/
def tookSeq (d : Dict) (m : Msg) : Dict := if m.role = 0 then d else setSeq d m.role.toNat m.seq

/-- The way of an answer (R362, R367): the I3C target, or a frame on the segment of the request to the address that sent it. -/
def answerPath (d : Dict) : Path → Path
  | .i3c => .i3c
  | .chainA f => .chainA { dst := f.src, src := d.macA, etype := 0x88B5, fcs := true }
  | .chainB f => .chainB { dst := f.src, src := d.macB, etype := 0x88B5, fcs := true }

/-- In `t` message `m` of `path`, which left dictionary `d` behind, has been answered: a message of kind `kind` with `status`,
`flags` and `data`, the request's other fields, and the tag of the role's key has left by the way the request came, and with
`keep` it is the last response of the role (R363, R366, R367). -/
def Answered (t : State) (d : Dict) (keep : Bool) (path : Path) (m : Msg) (kind status flags : Nat) (data : List Byte) : Prop :=
  ∃ (b r : Msg) (e : Dict), e = (if keep then setCache d m.role.toNat r else d) ∧ b = { m with
      kind := BitVec.ofNat 8 kind, status := BitVec.ofNat 8 status, flags := BitVec.ofNat 8 flags, rsv := 0, data := data, tag := 0 } ∧
    r = (if m.role = 0 then b else { b with tag := Config.cmac (roleKey d m.role.toNat) (msgBytes b) }) ∧
    (path ≠ .i3c → t.hub.dict = { e with chainOut := (answerPath d path, r) :: d.chainOut }) ∧
    (path = .i3c → d.i3cOut.length < 8 → t.hub.dict = { e with
      i3cOut := d.i3cOut ++ [r], ibis := if d.ibiEn then 0x5A :: d.ibis else d.ibis })

/-- Every part of `s` but the dictionary and the field book is as it was. -/
def SameBut (s t : State) : Prop :=
  t = { s with book := t.book, hub := { s.hub with dict := t.hub.dict } }

/-! ### Completion -/

/-- The command completes, in a state of which `P` holds. -/
def Gives (i : Instr) (s : State) (P : State → Prop) : Prop := ∃ t, exec i s = .next t ∧ P t

end Sys2Proof.Machine
end

