-- ==== Sys2Proof/Certificates/Slice0/Obligations.lean ====
section
/-!
DEFINITION. The statements of this slice. Each says which rule of the spec it formalises.
-/

open Sys2Proof Sys2Proof.Machine

/-- The registers of a reach that a write of a whole word sets: the value under the register's writable bits, and
nothing else of the part but the bytes that an access of the host counts at the hub port (R443, R448), and the poison of
a table word that is replaced (R403). What R19, R229 and R258 refuse: a swizzle key that is not legal raises
ILLEGAL_ENCODING, a window that does not fit or that meets a running reach is discarded, and no register changes. The
model's own choices in it: log 71. -/
def Obligations.RegistersOfAReachAreWritten : Prop :=
  (∀ (rq : Requester) (p : ParcelId) (l : ReachId) (v : Word) (s : State),
    (∀ k : Fin 16, Arrives s rq p (.reach p l (0x80 + 8 * k)) v →
      (bvb v 15 = true → bvf v 0 6 + (bvf v 6 3 + 1) ≤ bvf v 9 6 ∧ bvf v 9 6 + (bvf v 6 3 + 1) ≤ 35) →
      exec (.swzKeyWrite rq p l k v) s =
        .next ((portBytes s rq p true 8).updReach p l (fun r => { r with swz := SMap.put r.swz k (v &&& 0xFFFF#64) }))) ∧
    (Arrives s rq p (.reach p l 0x40) v →
      exec (.fuseCfgWrite rq p l v) s = .next ((portBytes s rq p true 8).updReach p l (fun r => { r with fuse := v &&& 0xFFFF#64 }))) ∧
    (∀ (n : Fin 128) (w : Fin 2), Arrives s rq p (.reach p l (0x2000 + 16 * n + 8 * w)) v →
      exec (.actSegWrite rq p l n w v) s = .next ((portBytes s rq p true 8).updReach p l (fun r =>
        Reach.cleanWord { r with actSeg := SMap.put r.actSeg (2 * n + w) (if w = 0 then v else v &&& 0x1FFFFF#64) } .seg
          (2 * n + w) 1))) ∧
    (Arrives s rq p (.reach p l 0x30) v → (s.reach p l).idle = true →
      bvf v 4 15 * 16 + bvf v 36 15 * 16 ≤ 393216 →
      exec (.windowWrite rq p l false v) s = .next ((portBytes s rq p true 8).updReach p l (fun r => { r with spWin := v &&& 0x7FFF00007FFF0#64 }))) ∧
    (Arrives s rq p (.reach p l 0x38) v → (s.reach p l).idle = true →
      bvf v 4 18 * 16 + bvf v 36 19 * 16 ≤ 4194304 →
      exec (.windowWrite rq p l true v) s = .next ((portBytes s rq p true 8).updReach p l (fun r => { r with cbWin := v &&& 0x7FFFF0003FFFF0#64 })))) ∧
  (∀ (rq : Requester) (p : ParcelId) (l : ReachId) (v : Word) (s : State),
    (∀ k : Fin 16, Arrives s rq p (.reach p l (0x80 + 8 * k)) v → bvb v 15 = true →
      (bvf v 9 6 < bvf v 0 6 + (bvf v 6 3 + 1) ∨ 35 < bvf v 9 6 + (bvf v 6 3 + 1)) →
      exec (.swzKeyWrite rq p l k v) s = .next (raise (portBytes s rq p true 8) (srcReach p l) 0x1011
        (illegalPayload 1 0xFF 0xFFFF 0xFFFFFFFF (0x654000080 + l * 0x10000 + 8 * k) v.toNat))) ∧
    (∀ cb : Bool, Arrives s rq p (.reach p l (if cb then 0x38 else 0x30)) v →
      ((s.reach p l).idle = false ∨
        (if cb then 4194304 < bvf v 4 18 * 16 + bvf v 36 19 * 16 else 393216 < bvf v 4 15 * 16 + bvf v 36 15 * 16)) →
      exec (.windowWrite rq p l cb v) s = .next (portBytes s rq p true 8)))

/-- Writes to words of a staged entry change no entry; the write of the last word takes every word staged by the same
requester under its writable bits, leaves the words not staged as they were, and ends the staging (R191, R196). A commit
whose composed entry holds a reserved encoding changes no entry, raises one ILLEGAL_ENCODING and ends the staging of the
entry (R19, R57, R191, R197). The model's own choices in it: log 39 and 68. -/
def Obligations.StagedEntriesCommit : Prop :=
  (∀ (rq : Requester) (p : ParcelId) (l : ReachId) (v : Word) (s : State),
    (∀ (n : Fin 64) (w : Fin 3), Arrives s rq p (.reach p l (0x800 + 32 * n + 8 * w)) v →
      exec (.profileWordWrite rq p l n w v) s = .next ((portBytes s rq p true 8).updReach p l (fun r => { r with
        profStage := SMap.put r.profStage (stageKey rq n w) v }))) ∧
    (∀ (n : Fin 32) (w : Fin 15), Arrives s rq p (.reach p l (0x1000 + 128 * n + 8 * w)) v →
      exec (.traverseWordWrite rq p l n w v) s = .next ((portBytes s rq p true 8).updReach p l (fun r => { r with
        trvStage := SMap.put r.trvStage (stageKey rq n w) v }))) ∧
    (∀ n : Fin 64, Arrives s rq p (.reach p l (0x818 + 32 * n)) v → profReserved (profCommit (s.reach p l) rq n v) = none →
      Gives (.profileCommit rq p l n v) s (fun t =>
        (∀ w : Fin 4, reachWord (t.reach p l) (0x800 + 32 * n + 8 * w) =
          (if w = 3 then v else (SMap.find (s.reach p l).profStage (stageKey rq n w)).getD
            (reachWord (s.reach p l) (0x800 + 32 * n + 8 * w))) &&& profMask w) ∧
        (∀ m : Fin 64, m ≠ n → SMap.get 0 (t.reach p l).prof m = SMap.get 0 (s.reach p l).prof m) ∧
        (∀ w : Fin 4, SMap.find (t.reach p l).profStage (stageKey rq n w) = none) ∧
        (t.reach p l).trv = (s.reach p l).trv ∧ (t.reach p l).task = (s.reach p l).task ∧
        (t.reach p l).s = (s.reach p l).s ∧ OtherReaches s t p l ∧ SameMemory s t ∧ t.book = s.book ∧ t.hub = s.hub)) ∧
    (∀ n : Fin 32, Arrives s rq p (.reach p l (0x1078 + 128 * n)) v → trvReserved (trvCommit (s.reach p l) rq n v) = none →
      Gives (.traverseCommit rq p l n v) s (fun t =>
        (∀ w : Fin 16, reachWord (t.reach p l) (0x1000 + 128 * n + 8 * w) =
          (if w = 15 then v else (SMap.find (s.reach p l).trvStage (stageKey rq n w)).getD
            (reachWord (s.reach p l) (0x1000 + 128 * n + 8 * w))) &&& trvMask w) ∧
        (∀ m : Fin 32, m ≠ n → SMap.get 0 (t.reach p l).trv m = SMap.get 0 (s.reach p l).trv m) ∧
        (∀ w : Fin 16, SMap.find (t.reach p l).trvStage (stageKey rq n w) = none) ∧
        (t.reach p l).prof = (s.reach p l).prof ∧ (t.reach p l).task = (s.reach p l).task ∧
        (t.reach p l).s = (s.reach p l).s ∧ OtherReaches s t p l ∧ SameMemory s t ∧ t.book = s.book ∧ t.hub = s.hub))) ∧
  (∀ (rq : Requester) (p : ParcelId) (l : ReachId) (v : Word) (s : State),
    (∀ (n : Fin 64) (b : Nat), Arrives s rq p (.reach p l (0x818 + 32 * n)) v →
      profReserved (profCommit (s.reach p l) rq n v) = some b →
      Gives (.profileCommit rq p l n v) s (fun t =>
        (t.reach p l).prof = (s.reach p l).prof ∧
        (∀ w : Fin 4, SMap.find (t.reach p l).profStage (stageKey rq n w) = none) ∧
        t.book = (raise s (srcReach p l) 0x1011 (illegalPayload 1 0xFF b 0xFFFFFFFF (0x654000800 + l * 0x10000 + 32 * n)
          (wordOf (profCommit (s.reach p l) rq n v) 0).toNat)).book ∧
        OtherReaches s t p l ∧ SameMemory s t)) ∧
    (∀ (n : Fin 32) (b : Nat), Arrives s rq p (.reach p l (0x1078 + 128 * n)) v →
      trvReserved (trvCommit (s.reach p l) rq n v) = some b →
      Gives (.traverseCommit rq p l n v) s (fun t =>
        (t.reach p l).trv = (s.reach p l).trv ∧
        (∀ w : Fin 16, SMap.find (t.reach p l).trvStage (stageKey rq n w) = none) ∧
        t.book = (raise s (srcReach p l) 0x1011 (illegalPayload 1 0xFF b 0xFFFFFFFF (0x654001000 + l * 0x10000 + 128 * n)
          (wordOf (trvCommit (s.reach p l) rq n v) 0).toNat)).book ∧
        OtherReaches s t p l ∧ SameMemory s t)))

/-- Code books take their kind and their levels (R96, R340). Confluence regions, message channels and receive windows
hold what is written under their writable bits; sat of a region is cleared by writing 1, unless an add sets it in the
same cycle (R14); a region or a window that passes the top of stacked memory is discarded (R83, R318, R321). Registers
of a parcel that an engine reads later: the packet version within its limits, the rotation of the channel key while none
runs, the freeze and the snapshot of the counters, and sampling, whose start begins a new record file and loads the
countdown of every reach (R244, R306, R445, R449). INT_EN takes four bits; an event that stands when its bit is written
1 sends its message, or waits for it while it is masked; without a link to the host none is sent; nothing else of the
parcel changes but the bytes counted at its hub port (R345, R347, R443). The model's own choices in it: log 14 and 52.
-/
def Obligations.RegistersOfAParcelAreWritten : Prop :=
  (∀ (rq : Requester) (p : ParcelId) (c : ClusterId) (k : Fin 8) (v : Word) (s : State),
    (Arrives s rq p (.cluster p c (0x100 + 8 * k)) v →
      exec (.codebookWrite rq p c k none v) s =
        .next ((portBytes s rq p true 8).updCluster p c (fun x => { x with cbCfg := SMap.put x.cbCfg k (v &&& 3#64) }))) ∧
    (∀ i : Fin 16, Arrives s rq p (.cluster p c (0x200 + 128 * k + 8 * i)) v →
      exec (.codebookWrite rq p c k (some i) v) s =
        .next ((portBytes s rq p true 8).updCluster p c (fun x => { x with cbLvl := SMap.put x.cbLvl (16 * k + i) (v &&& 0xFFFF#64) })))) ∧
  (∀ (rq : Requester) (p : ParcelId) (k : Fin 64) (v : Word) (s : State),
    (Arrives s rq p (.parcel p (8 * k)) v →
      (bvb v 0 = false ∨ bvf v 40 24 = 0 ∨ bvf v 12 23 * 4096 + bvf v 40 24 * 4096 ≤ 25769803776) →
      exec (.confRegionWrite rq p k v) s = .next ((portBytes s rq p true 8).updParcel p (fun x => { x with
        region := SMap.put x.region k (putBit (v &&& 0xFFFFFF07FFFFF003#64) 2
          (bvb (SMap.get 0 x.region k) 2 && (!bvb v 2 || s.marked (.sat p k)))) }))) ∧
    (Arrives s rq p (.parcel p (8 * k)) v → bvb v 0 = true → bvf v 40 24 ≠ 0 →
      25769803776 < bvf v 12 23 * 4096 + bvf v 40 24 * 4096 → exec (.confRegionWrite rq p k v) s = .next (portBytes s rq p true 8)) ∧
    (∀ w : Fin 2, Arrives s rq p (.parcel p (0x800 + 16 * k + 8 * w)) v →
      exec (.msgChanWrite rq p k w v) s = .next ((portBytes s rq p true 8).updFab p (fun f => { f with
        chan := SMap.put f.chan k (putField (SMap.get 0 f.chan k) (64 * w) 64
          (v &&& (if w = 0 then 0x3F7FFF#64 else 0xFFFFFFFFFFFFFFFF#64)).toNat) }))) ∧
    (∀ (w : Fin 2) (e : BitVec 128), Arrives s rq p (.parcel p (0xC00 + 16 * k + 8 * w)) v →
      e = putField (SMap.get 0 (s.parcel p).fab.rxWin k) (64 * w) 64
        (v &&& (if w = 0 then 0x7FFFFF001FFFFF#64 else 0xFFFFFFFF00FFFFFF#64)).toNat →
      exec (.rxWinWrite rq p k w v) s = .next (
        if bvb e 0 = true ∧ bvf e 64 24 ≠ 0 ∧ 25769803776 < bvf e 32 23 * 4096 + bvf e 64 24 * 4096 then (portBytes s rq p true 8)
        else (portBytes s rq p true 8).updFab p (fun f => { f with rxWin := SMap.put f.rxWin k e })))) ∧
  (∀ (rq : Requester) (p : ParcelId) (v : Word) (s : State),
    (∀ pkt : BitVec 4, Arrives s rq p (.parcel p 0x480) (BitVec.ofNat 64 (pkt.toNat * 256)) →
      exec (.linkVerPktWrite rq p pkt) s = .next (
        if (s.parcel p).fab.linkMin.toNat ≤ pkt.toNat ∧ pkt.toNat ≤ (s.parcel p).fab.linkMax.toNat
        then (portBytes s rq p true 8).updFab p (fun f => { f with pkt := pkt }) else portBytes s rq p true 8)) ∧
    (∀ w : Fin 2, Arrives s rq p (.parcel p (0x310 + 8 * w)) v →
      exec (.chanRotateArm rq p w v) s = .next (
        if (s.parcel p).keys.busy then portBytes s rq p true 8
        else (portBytes s rq p true 8).updParcel p (fun x => { x with keys :=
          if w = 0 then { x.keys with arm := bvb v 0, done := x.keys.done && (!bvb v 2 || s.marked (.rotated p)) } else { x.keys with tick := v } }))) ∧
    (∀ freeze : Bool, Arrives s rq p (.parcel p 0x8000) (BitVec.ofNat 64 (b2n freeze)) →
      exec (.perfFreeze rq p freeze) s = .next ((portBytes s rq p true 8).updMon p (fun m => { m with freezeAsked := freeze }))) ∧
    (Arrives s rq p (.parcel p 0x8000) (BitVec.ofNat 64 (2 + b2n (s.parcel p).mon.freezeAsked)) →
      exec (.perfSnapRequest rq p) s = .next ((portBytes s rq p true 8).updMon p (fun m => { m with snapAsked := true }))) ∧
    (Arrives s rq p (.parcel p 0x8008) v → (bvb v 0 = false ∨ bvb (s.parcel p).mon.smpCfg 0 = true) →
      exec (.sampleEnable rq p v) s = .next ((portBytes s rq p true 8).updMon p (fun m => { m with smpCfg := v &&& 0xFFFFFFFFFFFFF#64 }))) ∧
    (Arrives s rq p (.parcel p 0x8008) v → bvb v 0 = true → bvb (s.parcel p).mon.smpCfg 0 = false →
      Gives (.sampleEnable rq p v) s (fun t =>
        (t.parcel p).mon = { ((portBytes s rq p true 8).parcel p).mon with
          smpCfg := v &&& 0xFFFFFFFFFFFFF#64, smpNext := 0, smpFull := false, smpWritten := 0, smpDropped := 0 } ∧
        (∀ l < 128, t.reach p l = { s.reach p l with task := { (s.reach p l).task with sampleCd := bvf v 32 20 + 1 } }) ∧
        (∀ q, q ≠ p.val → t.parcel q = s.parcel q) ∧ t.book = s.book ∧ t.hub = s.hub ∧ SameTime s t))) ∧
  (∀ (rq : Requester) (p : ParcelId) (v : Word) (s : State), Arrives s rq p (.parcel p 0x1008) v →
    Gives (.intEnWrite rq p v) s (fun t =>
      (∀ q, t.parcel q = if q = p then { s.parcel p with mon := { ((portBytes s rq p true 8).parcel p).mon with
        intEn := BitVec.ofNat 4 (bvf v 0 4) } } else s.parcel q) ∧
      (∀ n < 4, s.hub.port.linkUp = true → bvb v n = true → bvb (s.parcel p).mon.intStat n = true →
        if bvb s.hub.port.fnMask (p + 1) || SMap.get false s.hub.port.vecMask ((p + 1) * 4 + n)
        then SMap.get false t.hub.port.vecPend ((p + 1) * 4 + n) = true
        else (p.val + 1, n) ∈ t.hub.port.sent) ∧
      (s.hub.port.linkUp = false ∨ (∀ n < 4, bvb v n = true → bvb (s.parcel p).mon.intStat n = false) → t.hub = s.hub) ∧
      t.book = s.book ∧ SameTime s t ∧ SameHub s t))

/-- A write of the members of a barrier keeps the arrivals while they are fewer, and completes the round once they are
not: arrived returns to 0, round inverts, and every waiting reach resumes; only members is written (R185). A write to
DOORBELL is one arrival at the parcel barrier that it names: nothing with members 0, a counted arrival while it is not
the last, and the end of the round with the last (R185, R345). The model's own choices in it: log 70. -/
def Obligations.BarriersAreWritten : Prop :=
  (∀ (rq : Requester) (p : ParcelId) (k : Fin 16) (v : Word) (s : State),
    (∀ c : ClusterId, Arrives s rq p (.cluster p c (0x80 + 8 * k)) v →
      ((clusterBar s p c k).arrived.toNat < bvf v 0 8 →
        exec (.syncBarMembersWrite rq p (some c) k v) s = .next ((portBytes s rq p true 8).updCluster p c (fun x => { x with
          bar := SMap.put x.bar k { clusterBar s p c k with members := BitVec.ofNat 8 (bvf v 0 8) } }))) ∧
      (bvf v 0 8 ≤ (clusterBar s p c k).arrived.toNat → Waiters s p (clusterBar s p c k).waiting →
        Gives (.syncBarMembersWrite rq p (some c) k v) s (fun t =>
          clusterBar t p c k = { members := BitVec.ofNat 8 (bvf v 0 8), arrived := 0,
                                 round := !(clusterBar s p c k).round, waiting := [] } ∧
          Resumed s t p (clusterBar s p c k).waiting ∧ SameMemory s t ∧ SameTime s t ∧ SameHub s t))) ∧
    (Arrives s rq p (.parcel p (0x200 + 8 * k)) v →
      ((parcelBar s p k).arrived.toNat < bvf v 0 8 →
        exec (.syncBarMembersWrite rq p none k v) s = .next ((portBytes s rq p true 8).updParcel p (fun x => { x with
          bar := SMap.put x.bar k { parcelBar s p k with members := BitVec.ofNat 8 (bvf v 0 8) } }))) ∧
      (bvf v 0 8 ≤ (parcelBar s p k).arrived.toNat → Waiters s p (parcelBar s p k).waiting →
        Gives (.syncBarMembersWrite rq p none k v) s (fun t =>
          parcelBar t p k = { members := BitVec.ofNat 8 (bvf v 0 8), arrived := 0, round := !(parcelBar s p k).round,
                              waiting := [] } ∧
          Resumed s t p (parcelBar s p k).waiting ∧ SameMemory s t ∧ SameTime s t ∧ SameHub s t)))) ∧
  (∀ (p : ParcelId) (v : Word) (s : State), Arrives s .host p (.parcel p 0x1040) v →
    ((parcelBar s p (bvf v 0 4)).members = 0 → exec (.doorbell p v) s = .next (portBytes s .host p true 8)) ∧
    (((parcelBar s p (bvf v 0 4)).arrived + 1).toNat < (parcelBar s p (bvf v 0 4)).members.toNat →
      exec (.doorbell p v) s = .next ((portBytes s .host p true 8).updParcel p (fun x => { x with
        bar := SMap.put x.bar (bvf v 0 4) { parcelBar s p (bvf v 0 4) with
          arrived := (parcelBar s p (bvf v 0 4)).arrived + 1 } }))) ∧
    ((parcelBar s p (bvf v 0 4)).members ≠ 0 →
      (parcelBar s p (bvf v 0 4)).members.toNat ≤ ((parcelBar s p (bvf v 0 4)).arrived + 1).toNat →
      Waiters s p (parcelBar s p (bvf v 0 4)).waiting →
      Gives (.doorbell p v) s (fun t =>
        parcelBar t p (bvf v 0 4) = { members := (parcelBar s p (bvf v 0 4)).members, arrived := 0,
                                      round := !(parcelBar s p (bvf v 0 4)).round, waiting := [] } ∧
        (bvb (s.parcel p).mon.intBar (bvf v 0 4) = true → bvb (t.parcel p).mon.intStat 1 = true) ∧
        Resumed s t p (parcelBar s p (bvf v 0 4)).waiting ∧ SameMemory s t ∧ SameTime s t ∧ SameHub s t)))

/-- The hub registers that only hold what is written: DATUM_LOAD takes a count on an epoch boundary and discards any
other, TORUS_CFG takes sizes that hold its device, PWR_CFG and PWR_PARCEL wait for the next boundary, STAY_CTL takes a
discrepancy time (R265, R269, R309, R418, R431, R437). Hub registers whose writes need CONFIGURE are discarded elsewhere
with DICT_STATE, and a reserved encoding in one is discarded with ILLEGAL_ENCODING that names the register and the word
written (R19, R269, R309, R372, R418, R431, R437, R473). A write of DATUM_CFG sets the source, the root, the delay and
the tick length, which waits for the next tick boundary unless the datum is UNSET; the advertised hops follow, and
nothing else changes (R263, R266, R269). A schedule entry takes both words while it is not valid; arming it at a count
that has come raises STAKE_PAST with reason 2 and changes nothing; while it is valid only a write that clears valid
counts (R283, R284). The model's own choices in it: log 45, 71 and 72. -/
def Obligations.RegistersOfTheHubAreWritten : Prop :=
  (∀ (rq : Requester) (v : Word) (s : State), HubArrives s rq →
    exec (.datumLoadWrite rq v) s = .next (if bvf v 0 16 = 0
      then { s with datum := { s.datum with load := v, armed := true } } else s) ∧
    (s.hub.state = .configure → bvf v 32 8 ≠ 0 → (∀ d < 3, coord (bvf v 0 14) d < torusSize v d) →
      exec (.torusCfgWrite rq v) s = .next { s with hub := { s.hub with torus := v &&& 0xFF3FFF3FFF#64 } }) ∧
    (s.hub.state = .configure → bvf v 32 8 ≠ 0 → (∃ d < 3, torusSize v d ≤ coord (bvf v 0 14) d) →
      exec (.torusCfgWrite rq v) s = .next s) ∧
    (400 ≤ bvf v 0 11 → bvf v 0 11 ≤ 1800 →
      exec (.pwrCfgWrite rq v) s = .next { s with hub := { s.hub with
        pwr := { s.hub.pwr with limitNew := some (BitVec.ofNat 11 (bvf v 0 11)) } } }) ∧
    (∀ p : ParcelId, bvf v 16 4 ≤ 9 →
      exec (.pwrParcelWrite rq p v) s = .next (s.updPwr p (fun w => { w with
        weightNew := BitVec.ofNat 8 (bvf v 0 8), floorNew := BitVec.ofNat 8 (bvf v 8 8),
        fMinNew := BitVec.ofNat 4 (bvf v 16 4) }))) ∧
    (∀ dtime : BitVec 16, s.hub.state = .configure → 1 ≤ dtime.toNat → dtime.toNat ≤ 500 →
      exec (.stayDtimeWrite rq dtime) s = .next { s with stay := { s.stay with dtime := dtime } })) ∧
  (∀ (rq : Requester) (v : Word) (s : State), HubArrives s rq →
    (s.hub.state ≠ .configure →
      exec (.datumCfgWrite rq v) s = .next (raiseRegState s (.hub 0)) ∧
      exec (.torusCfgWrite rq v) s = .next (raiseRegState s (.hub 0x200)) ∧
      ∀ dtime, exec (.stayDtimeWrite rq dtime) s = .next (raiseRegState s (.hub 0x8100))) ∧
    (s.hub.state = .configure →
      (bvf v 0 2 = 3 → exec (.datumCfgWrite rq v) s = .next (raise s (srcHub 6) 0x1011
        (illegalPayload 1 0xFF 0 0xFFFFFFFF (2 ^ 63) v.toNat))) ∧
      (bvf v 0 2 ≠ 3 → 4 < bvf v 2 3 → exec (.datumCfgWrite rq v) s = .next (raise s (srcHub 6) 0x1011
        (illegalPayload 1 0xFF 2 0xFFFFFFFF (2 ^ 63) v.toNat))) ∧
      (bvf v 32 8 = 0 → exec (.torusCfgWrite rq v) s = .next (raise s (srcHub 6) 0x1011
        (illegalPayload 1 0xFF 32 0xFFFFFFFF (2 ^ 63 + 0x200) v.toNat))) ∧
      (∀ dtime : BitVec 16, dtime.toNat = 0 ∨ 500 < dtime.toNat →
        exec (.stayDtimeWrite rq dtime) s = .next (raise s (srcHub 6) 0x1011
          (illegalPayload 1 0xFF 16 0xFFFFFFFF (2 ^ 63 + 0x8100) (dtime.toNat * 2 ^ 16))))) ∧
    (bvf v 0 11 < 400 ∨ 1800 < bvf v 0 11 → exec (.pwrCfgWrite rq v) s = .next (raise s (srcHub 6) 0x1011
      (illegalPayload 1 0xFF 0 0xFFFFFFFF (2 ^ 63 + 0x1000) v.toNat))) ∧
    (∀ p : ParcelId, 9 < bvf v 16 4 → exec (.pwrParcelWrite rq p v) s = .next (raise s (srcHub 6) 0x1011
      (illegalPayload 1 0xFF 16 0xFFFFFFFF (2 ^ 63 + 0x1040 + 16 * p) v.toNat)))) ∧
  (∀ (rq : Requester) (v : Word) (s : State), HubArrives s rq → s.hub.state = .configure → bvf v 0 2 ≠ 3 → bvf v 2 3 ≤ 4 →
    Gives (.datumCfgWrite rq v) s (fun t =>
      t.datum = { s.datum with
        src := BitVec.ofNat 2 (bvf v 0 2), root := bvb v 5, delay := BitVec.ofNat 16 (bvf v 16 16)
        tick := if s.datum.state = .unset then BitVec.ofNat 3 (bvf v 2 3) else s.datum.tick
        tickNew := if s.datum.state = .unset ∨ s.datum.tick = BitVec.ofNat 3 (bvf v 2 3) then none
          else some (BitVec.ofNat 3 (bvf v 2 3))
        hops := t.datum.hops } ∧
      t.datum.hops.toNat = (if bvb v 5 ∨ s.datum.state = .cabled then 0
        else if s.datum.state = .inband then min 63 ((sourceLink s).srcHops.toNat + 1) else 63) ∧
      t.phase = (if s.datum.state = .unset ∧ s.datum.tick ≠ BitVec.ofNat 3 (bvf v 2 3) then 0 else s.phase) ∧
      t.parcels = s.parcels ∧ t.hub = s.hub ∧ t.book = s.book ∧ t.stay = s.stay ∧ t.wall = s.wall ∧ t.pending = s.pending)) ∧
  (∀ (rq : Requester) (k : Fin 16) (v : Word) (s : State), HubArrives s rq →
    (bvb (schedEntry s k) 0 = false → exec (.stakeSchedWrite rq k 1 v) s = .next (s.updHub (fun h => { h with
      sched := SMap.put h.sched k (putField (schedEntry s k) 64 64 v.toNat) }))) ∧
    (bvb (schedEntry s k) 0 = true → exec (.stakeSchedWrite rq k 1 v) s = .next s) ∧
    (bvf v 1 3 ≤ 4 → (bvf v 1 3 = 1 → bvf v 16 4 ≤ 9) → (bvf v 1 3 = 4 → 400 ≤ bvf v 16 16 ∧ bvf v 16 16 ≤ 1800) →
      (bvb v 0 = false ∨ (bvb (schedEntry s k) 0 = false ∧ s.datum.count < bvf (schedEntry s k) 64 64) →
        exec (.stakeSchedWrite rq k 0 v) s = .next (s.updHub (fun h => { h with
          sched := SMap.put h.sched k (putField (schedEntry s k) 0 64 (v &&& 0xFFFF0FFF#64).toNat) }))) ∧
      (bvb v 0 = true → bvb (schedEntry s k) 0 = true → exec (.stakeSchedWrite rq k 0 v) s = .next s) ∧
      (bvb v 0 = true → bvb (schedEntry s k) 0 = false → bvf (schedEntry s k) 64 64 ≤ s.datum.count →
        exec (.stakeSchedWrite rq k 0 v) s = .next (raise s (srcHub 0) 0x4003
          (pastPayload 0xFF { count := bvf (schedEntry s k) 64 64 } (s.now 0) 2)))))

/-- A write of word 2 of a DMA channel: its fields while the channel arms or only sets them, STAKE_PAST for a stake that
has come, ILLEGAL_ENCODING with the first reserved field for an address of the host or of the system that is no multiple
of 64 or for a length, nothing while it runs or in QUIESCE (R354, R375, R473). An armed channel starts at its stake,
once what comes before it there is done in every parcel (R32), or at once: a range outside the stacked memory of one
parcel of this device ends it with BOUND before any byte moves; else it is busy with the fields it took (R354). A
transfer that ends without an error has moved every byte of its range, in its direction, and nothing beside; the channel
is done with status 0 and raises its interrupt (R346, R354, R355). The model's own choices in it: log 15, 33, 39 and 60.
-/
def Obligations.HubDmaMoves : Prop :=
  (∀ (rq : Requester) (c : Fin 8) (v : Word) (s : State), HubArrives s rq →
    (bvb v 33 = false ∨ ((dmaOf s c).busy = false ∧ s.hub.state ≠ .quiesce ∧ bvf v 0 32 % 64 = 0 ∧ bvf v 0 32 ≠ 0 ∧
        bvf (dmaOf s c).host 0 6 = 0 ∧ bvf (dmaOf s c).sys 0 6 = 0 ∧
        ((dmaOf s c).tick = 0 ∨ s.datum.count < (dmaOf s c).tick.toNat)) →
      exec (.hubDmaArm rq c v) s = .next (s.updPort (fun h => { h with dma := SMap.put h.dma c { dmaOf s c with
        len := BitVec.ofNat 32 (bvf v 0 32), dir := bvb v 32, arm := bvb v 33, done := (dmaOf s c).done && (!bvb v 35 || s.marked (.dmaDone c))
        barEn := bvb v 39, bar := BitVec.ofNat 4 (bvf v 40 4) } }))) ∧
    (bvb v 33 = true → (dmaOf s c).busy = true → exec (.hubDmaArm rq c v) s = .next s) ∧
    (bvb v 33 = true → (dmaOf s c).busy = false → s.hub.state = .quiesce → bvf v 0 32 % 64 = 0 → bvf v 0 32 ≠ 0 →
      bvf (dmaOf s c).host 0 6 = 0 → bvf (dmaOf s c).sys 0 6 = 0 → exec (.hubDmaArm rq c v) s = .next s) ∧
    (∀ low : Nat, bvb v 33 = true → (dmaOf s c).busy = false →
      (bvf (dmaOf s c).host 0 6 ≠ 0 ∧ low = 0) ∨
      (bvf (dmaOf s c).host 0 6 = 0 ∧ bvf (dmaOf s c).sys 0 6 ≠ 0 ∧ low = 64) ∨
      (bvf (dmaOf s c).host 0 6 = 0 ∧ bvf (dmaOf s c).sys 0 6 = 0 ∧ (bvf v 0 32 % 64 ≠ 0 ∨ bvf v 0 32 = 0) ∧ low = 128) →
      exec (.hubDmaArm rq c v) s = .next (raise s (srcHub 6) 0x1011
        (illegalPayload 1 0xFF low 0xFFFFFFFF (2 ^ 63 + 0x400 + 32 * c) v.toNat))) ∧
    (bvb v 33 = true → (dmaOf s c).busy = false → s.hub.state ≠ .quiesce → bvf v 0 32 % 64 = 0 → bvf v 0 32 ≠ 0 →
      bvf (dmaOf s c).host 0 6 = 0 → bvf (dmaOf s c).sys 0 6 = 0 → (dmaOf s c).tick ≠ 0 →
      (dmaOf s c).tick.toNat ≤ s.datum.count →
      exec (.hubDmaArm rq c v) s = .next (raise s (srcHub 0) 0x4003
        (pastPayload 0xFF { count := (dmaOf s c).tick.toNat } (s.now 0) 2)))) ∧
  (∀ (c : Fin 8) (s : State),
    ((dmaOf s c).arm = true → (dmaOf s c).busy = false →
      ((dmaOf s c).tick = 0 ∨ (s.datum.state ≠ .unset ∧ s.datum.gated = none ∧ (dmaOf s c).tick.toNat ≤ s.datum.count ∧
        ∀ q < 8, stakeClear s q { count := (dmaOf s c).tick.toNat } = true)) →
      bvf (dmaOf s c).sys 38 14 = bvf s.hub.torus 0 14 →
      bvf (dmaOf s c).sys 0 35 + (dmaOf s c).len.toNat ≤ 25769803776 → hubReaches s (bvf (dmaOf s c).sys 35 3) = true →
      exec (.hubDmaStart c) s = .next (s.updPort (fun h => { h with dma := SMap.put h.dma c { dmaOf s c with
        arm := false, busy := true, taken := dmaWord (dmaOf s c) 2 } }))) ∧
    ((dmaOf s c).arm = true → (dmaOf s c).busy = false → (dmaOf s c).tick = 0 → (dmaOf s c).barEn = false →
      bvf (dmaOf s c).sys 38 14 ≠ bvf s.hub.torus 0 14 ∨
        25769803776 < bvf (dmaOf s c).sys 0 35 + (dmaOf s c).len.toNat →
      Gives (.hubDmaStart c) s (fun t =>
        dmaOf t c = { dmaOf s c with arm := false, busy := false, done := true, status := 2
                                     taken := dmaWord (dmaOf s c) 2 } ∧
        bvb t.hub.port.intStat 1 = true ∧ t.book = (raise s (srcHub 4) 0x3002 (boundPayload 0xFFFFFFFF 5 0xFF 2 0xFF
          (dmaOf s c).sys.toNat ((dmaOf s c).sys.toNat + (dmaOf s c).len.toNat - 1) 0 (srcHub 4))).book ∧
        t.parcels = s.parcels ∧ t.hub.port.hostMem = s.hub.port.hostMem ∧ SameTime s t)) ∧
    ((dmaOf s c).arm = false ∨ (dmaOf s c).busy = true ∨
      ((dmaOf s c).tick ≠ 0 ∧ (s.datum.count < (dmaOf s c).tick.toNat ∨
        ∃ q < 8, stakeClear s q { count := (dmaOf s c).tick.toNat } = false)) → exec (.hubDmaStart c) s = .next s)) ∧
  (∀ (c : Fin 8) (s : State) (p a n : Nat), (dmaOf s c).busy = true → p = bvf (dmaOf s c).sys 35 3 →
    a = bvf (dmaOf s c).sys 0 35 → n = bvf (dmaOf s c).taken 0 32 → hubReaches s p = true →
    memWf (s.parcel p).mem = true → memWf s.hub.port.hostMem = true → bvb (dmaOf s c).taken 39 = false →
    (bvb (dmaOf s c).taken 32 = true → poisonIn s (.sm p) a n = none → s.upsets = [] →
      Gives (.hubDmaDone c .ok) s (fun t =>
        dmaOf t c = { dmaOf s c with arm := false, busy := false, done := true, status := 0 } ∧
        bvb t.hub.port.intStat 1 = true ∧ (∀ i < n, memByte t.hub.port.hostMem ((dmaOf s c).host.toNat + i) =
          rdByte s (.sm p) (a + i)) ∧
        (∀ i, i < (dmaOf s c).host.toNat ∨ (dmaOf s c).host.toNat + n ≤ i →
          memByte t.hub.port.hostMem i = memByte s.hub.port.hostMem i) ∧
        SameMemory s t ∧ SameReaches s t ∧ t.book = s.book ∧ SameTime s t ∧ SameHub s t)) ∧
    (bvb (dmaOf s c).taken 32 = false →
      Gives (.hubDmaDone c .ok) s (fun t =>
        dmaOf t c = { dmaOf s c with arm := false, busy := false, done := true, status := 0 } ∧
        bvb t.hub.port.intStat 1 = true ∧ (∀ i < n, rdByte t (.sm p) (a + i) =
          memByte s.hub.port.hostMem ((dmaOf s c).host.toNat + i)) ∧
        (∀ k i, ¬ (k = .sm p ∧ a ≤ i ∧ i < a + n) → rdByte t k i = rdByte s k i) ∧
        t.hub.port.hostMem = s.hub.port.hostMem ∧ SameReaches s t ∧ t.book = s.book ∧ SameTime s t ∧ SameHub s t)))

/-- The counter snapshot of a parcel (R446) at a tick boundary, once what comes before it there is done (R32): every
live counter as it stood before the cc in its snapshot words, the request taken, and nothing else changed (R440). The
first sampling record of the queue goes into slot next with its number, and next moves on; one that finds the file full
under stop is counted as dropped; a second one in the same cc waits (R450). At the close of a window a port's bytes go
into BW_PORT with their rate and the number of closes, and its count goes on from the bytes of the boundary's cc (R448).
The close of a channel-skew window raises CHANNEL_SKEW exactly when the largest group took more than its share, and
clears the counts (R242). The close of a calibration window copies the accumulators to the snapshot, raises CALIB_DRIFT
and sets drift exactly when the limits in force are passed, and clears the accumulators; nothing else of the reach
changes (R112). The model's own choices in it: log 3, 52 and 53. -/
def Obligations.MonitorsRecord : Prop :=
  (∀ (p : ParcelId) (s : State),
    (s.phase = 0 → (s.parcel p).mon.snapDue = true → closingsDone s p = true → boundaryWaits s p = false →
      (s.parcel p).mon.snapWall ≠ some s.wall →
      Gives (.counterSnapshot p) s (fun t =>
        (∀ l, t.reach p l = { s.reach p l with snap := (s.reach p l).cntOld }) ∧
        (∀ c, t.cluster p c = { s.cluster p c with snap := (s.cluster p c).cntOld }) ∧
        (t.parcel p).mon = { (s.parcel p).mon with
          snap := (s.parcel p).mon.cntOld, snapDue := false, snapDone := true
          snapSeq := (s.parcel p).mon.snapSeq + 1, snapCount := s.datum.count, snapClock := (s.parcel p).pwr.now
          snapFrozen := (s.parcel p).mon.frozen, snapWall := some s.wall } ∧
        t.hub.dict.snaps = (if s.hub.dict.snapWall = some s.wall then s.hub.dict.snaps else s.hub.dict.snaps + 1) ∧
        (∀ q, q ≠ p.val → t.parcel q = s.parcel q) ∧ SameMemory s t ∧ t.book = s.book ∧ t.hub.port = s.hub.port ∧
        SameTime s t)) ∧
    (s.phase = 0 → (s.parcel p).mon.snapDue = true → closingsDone s p = true → boundaryWaits s p = false →
      (s.parcel p).mon.snapWall = some s.wall →
      exec (.counterSnapshot p) s = .next (s.updMon p (fun m => { m with snapDue := false }))) ∧
    (s.phase ≠ 0 ∨ closingsDone s p = false ∨ boundaryWaits s p = true → exec (.counterSnapshot p) s = .next s) ∧
    Gives .snapshotOnCommand s (fun t =>
      (∀ q < 8, t.parcel q = { s.parcel q with mon := { (s.parcel q).mon with snapAsked := true } }) ∧ t.book = s.book ∧
      t.hub = s.hub ∧ SameTime s t)) ∧
  (∀ (p : ParcelId) (r : SampleDue) (rest : List SampleDue) (m : Monitors) (s : State), m = (s.parcel p).mon →
    m.smpQueue = r :: rest → (m.smpCyc = some (s.parcel p).cyc → exec (.sampleRecordWrite p) s = .next s) ∧
    (m.smpCyc ≠ some (s.parcel p).cyc → m.smpWritten.toNat < 2 ^ 32 - 1 → m.smpDropped.toNat < 2 ^ 16 - 1 →
    (bvb m.smpCfg 1 = false ∨ m.smpFull = false →
      exec (.sampleRecordWrite p) s = .next (s.updMon p (fun _ => { m with
        smpQueue := rest
        smpBuf := SMap.put m.smpBuf m.smpNext.toNat
          (putField (BitVec.ofNat 512 (leVal r.bytes)) 416 32 (m.smpWritten.toNat + 1))
        smpNext := m.smpNext + 1, smpWritten := m.smpWritten + 1, smpCyc := some (s.parcel p).cyc
        smpFull := m.smpFull || decide (1023 ≤ m.smpWritten.toNat) }))) ∧
    (bvb m.smpCfg 1 = true → m.smpFull = true →
      exec (.sampleRecordWrite p) s = .next (s.updMon p (fun _ => { m with
        smpQueue := rest, smpDropped := m.smpDropped + 1, smpCyc := some (s.parcel p).cyc }))))) ∧
  (∀ (p : ParcelId) (s : State), closesNow s (bvf (s.parcel p).mon.bwCfg 0 20) (s.parcel p).mon.bwWall = true →
    Gives (.bwWindowClose p) s (fun t =>
      (∀ k < 24, ∀ n, n = min (SMap.get 0 (s.parcel p).mon.bwAcc k - SMap.get 0 (s.parcel p).mon.bwInc k) (2 ^ 48 - 1) →
        bvf (SMap.get 0 (t.parcel p).mon.bwPort k) 0 48 = n ∧
        bvf (SMap.get 0 (t.parcel p).mon.bwPort k) 64 32 =
          n * 1000 / (bvf (s.parcel p).mon.bwCfg 0 20 * s.tickNs) % 2 ^ 32 ∧
        bvf (SMap.get 0 (t.parcel p).mon.bwPort k) 96 32 =
          (bvf (SMap.get 0 (s.parcel p).mon.bwPort k) 96 32 + 1) % 2 ^ 32) ∧
      (t.parcel p).mon = { (s.parcel p).mon with
        bwPort := (t.parcel p).mon.bwPort, bwAcc := (s.parcel p).mon.bwInc, bwWall := some s.wall
        bwCfg := (s.parcel p).mon.bwNext.getD (s.parcel p).mon.bwCfg, bwNext := none } ∧
      SameReaches s t ∧ SameMemory s t ∧ t.book = s.book ∧ t.hub = s.hub ∧ SameTime s t)) ∧
  (∀ (p : ParcelId) (s : State) (n total : Nat) (m : Monitors), m = (s.parcel p).mon →
    closesNow s (bvf m.skewCfg 0 20) m.skewWall = true →
    total = (m.skewAcc.map (fun e => e.2)).foldl (· + ·) 0 →
    n = (List.range 32).foldl (fun b g => max b (SMap.get 0 m.skewAcc g)) 0 →
    Gives (.channelSkewWindowClose p) s (fun t =>
      (t.parcel p).mon = { m with skewAcc := [], skewWall := some s.wall, skewCfg := m.skewNext.getD m.skewCfg
                                  skewNext := none } ∧
      (if 0 < total ∧ bvf m.skewCfg 20 8 * total < 256 * n
        then ∃ g < 32, SMap.get 0 m.skewAcc g = n ∧ t.book = (raise s (srcParcel p 0) 0x6004
          (packFields [(1, g), (4, n), (4, total), (4, (s.parcel p).keys.key.toNat)] [])).book
        else t.book = s.book) ∧
      SameReaches s t ∧ SameMemory s t ∧ t.hub = s.hub ∧ SameTime s t)) ∧
  (∀ (p : ParcelId) (l : ReachId) (m : Fin 4) (s : State) (r : Reach) (a : CalAcc) (mse sat : Nat), r = s.reach p l →
    closesNow s (bvf (SMap.get 0 r.calWin m) 0 20) (SMap.find r.calWall m) = true → a = SMap.get {} r.calAcc m →
    mse = bvf (SMap.get (0, 0) r.calUse m).1 32 32 → sat = bvf (SMap.get (0, 0) r.calUse m).2 32 32 →
    (∀ d : Bool, d = (decide (0 < a.count) && (decide (sat < a.clamps) || decide (mse * a.count < a.sumSq))) →
      exec (.calWindowClose p l m) s = .next (State.updReach
        (if d then (raise s (srcReach p l) 0x1020
          (packFields [(1, m.val), (1, l.val), (4, a.count), (4, a.clamps), (4, a.sumSq / 2 ^ 32)] [])).mark (.drift p l m)
          else s) p l
        (fun r => { r with
          calSnap := SMap.put r.calSnap m a, calAcc := SMap.erase r.calAcc m, calWall := SMap.put r.calWall m s.wall
          calCfg := if d then SMap.put r.calCfg m (putBit (SMap.get 0 r.calCfg m) 1 true) else r.calCfg
          calUse := SMap.put r.calUse m (SMap.get 0 r.calCfg m, SMap.get 0 r.calWin m) }))))

/-- A rotation of the channel key: it starts once its stake has come, latches key_next and sets busy; each block moves
mark, and after the last the latched key is in force, busy clears and done is set (R244). The model's own choices in it:
log 54. -/
def Obligations.KeyRotates : Prop :=
  ∀ (p : ParcelId) (s : State) (k : ChanKeys), k = (s.parcel p).keys →
    (k.arm = true → atBoundary s = true → k.tick.toNat ≤ s.datum.count →
      exec (.rotationStart p) s = .next (s.updParcel p (fun x => { x with
        keys := { k with latched := k.keyNext, busy := true, arm := false, mark := 0 } }))) ∧
    (k.arm = false ∨ s.datum.count < k.tick.toNat → exec (.rotationStart p) s = .next s) ∧
    (k.busy = true → k.mark.toNat + 1 < 196608 →
      exec (.rotationBlockMigrated p) s = .next (s.updParcel p (fun x => { x with
        keys := { k with mark := k.mark + 1 } }))) ∧
    (k.busy = true → k.mark.toNat + 1 = 196608 →
      exec (.rotationBlockMigrated p) s = .next ((s.mark (.rotated p)).updParcel p (fun x => { x with
        keys := { k with key := k.latched, busy := false, done := true, mark := 0 } })))

/-- A write of 1 to TASK_CTL.run starts the task at TASK_PC in a parcel in RUN, with the strict bit written; elsewhere,
and for a retired or a running reach, only strict is written (R159, R162, R375, R405). A write of 0 to TASK_CTL.run
stops issue: run clears, a SYNC that waits leaves its barrier, everything in flight and the PC stay (R160). With the
last instruction in flight, a task that a stopping event or a HALT has stopped stops for good: run clears, fault or halt
is set, INT_STAT.stop rises with a bit that becomes 1, and no write of the task is left posted; one that the host
stopped only empties (R160, R164, R187, R345, R358). A write of 1 to run in the cycle of a stop starts nothing (R14,
R160). The model's own choices in it: log 2 and 40. -/
def Obligations.TasksRunAndStop : Prop :=
  (∀ (rq : Requester) (p : ParcelId) (l : ReachId) (strict : Bool) (s : State),
    Arrives s rq p (.reach p l 0) (BitVec.ofNat 64 (1 + 2 * b2n strict)) →
    ((s.reach p l).task.run = false → (s.parcel p).state = .run → (s.reach p l).task.retired = false →
      (s.reach p l).task.pc.toNat < 16384 → (∀ o, (s.reach p l).task.step = some o → o.late = false) →
      s.marked (.fault p l) = false → s.marked (.halt p l) = false →
      exec (.taskRun rq p l strict) s = .next ((portBytes s rq p true 8).updTask p l (fun t => { t with
        run := true, strict := strict, faultNo := none, headCc := 0 }))) ∧
    ((s.reach p l).task.run = true ∨ (s.parcel p).state ≠ .run ∨ (s.reach p l).task.retired = true ∨
        s.marked (.fault p l) = true ∨ s.marked (.halt p l) = true →
      exec (.taskRun rq p l strict) s = .next ((portBytes s rq p true 8).updTask p l (fun t => { t with strict := strict })))) ∧
  (∀ (rq : Requester) (p : ParcelId) (l : ReachId) (strict : Bool) (s : State),
    Arrives s rq p (.reach p l 0) (BitVec.ofNat 64 (2 * b2n strict)) →
    ((s.reach p l).task.run = false →
      exec (.taskStopRequest rq p l strict) s = .next ((portBytes s rq p true 8).updTask p l (fun t => { t with strict := strict }))) ∧
    ((s.reach p l).task.run = true → (∀ k, (s.reach p l).task.wait ≠ .clusterBar k ∧ (s.reach p l).task.wait ≠ .parcelBar k) →
      exec (.taskStopRequest rq p l strict) s = .next ((portBytes s rq p true 8).updTask p l (fun t => { t with
        strict := strict, run := false, wait := if t.wait = .fence then .fence else .none }))) ∧
    (∀ k, (s.reach p l).task.run = true → (s.reach p l).task.wait = .clusterBar k →
      l.val ∈ (clusterBar s p (clusterOf l) k).waiting →
      Gives (.taskStopRequest rq p l strict) s (fun t =>
        t.reach p l = { s.reach p l with task := { (s.reach p l).task with strict := strict, run := false, wait := .none } } ∧
        clusterBar t p (clusterOf l) k = { clusterBar s p (clusterOf l) k with
          arrived := (clusterBar s p (clusterOf l) k).arrived - 1
          waiting := (clusterBar s p (clusterOf l) k).waiting.filter (fun m => m != l.val) } ∧
        OtherReaches s t p l ∧ SameMemory s t ∧ t.book = s.book ∧ t.hub = s.hub ∧ SameTime s t)) ∧
    (∀ k, (s.reach p l).task.run = true → (s.reach p l).task.wait = .parcelBar k → l.val ∈ (parcelBar s p k).waiting →
      Gives (.taskStopRequest rq p l strict) s (fun t =>
        t.reach p l = { s.reach p l with task := { (s.reach p l).task with strict := strict, run := false, wait := .none } } ∧
        parcelBar t p k = { parcelBar s p k with
          arrived := (parcelBar s p k).arrived - 1
          waiting := (parcelBar s p k).waiting.filter (fun m => m != l.val) } ∧
        OtherReaches s t p l ∧ SameMemory s t ∧ t.book = s.book ∧ t.hub = s.hub ∧ SameTime s t))) ∧
  (∀ (p : ParcelId) (l : ReachId) (f : Flight) (s : State),
    (s.reach p l).flights = [f] → (s.reach p l).task.issuing = false → mayComplete (s.reach p l) f = true →
    s.datum.gated = none → (s.parcel p).held = [] → SMap.sorted (s.reach p l).s = true → f.rtGen = none →
    Gives (.taskStopComplete p l) s (fun t =>
      (t.reach p l).flights = [] ∧
      (t.reach p l).task = { (s.reach p l).task with
        drain := false
        run := (s.reach p l).task.run && !(s.reach p l).task.stopFault && !(s.reach p l).task.stopHalt
        fault := (s.reach p l).task.fault || (s.reach p l).task.stopFault
        halt := (s.reach p l).task.halt || (s.reach p l).task.stopHalt, stopFault := false, stopHalt := false } ∧
      (∀ n, (t.reach p l).scalar n =
        if n = wSd f.job.word ∧ n ≠ 0 then BitVec.ofNat 64 f.status else (s.reach p l).scalar n) ∧
      ((s.reach p l).task.stopFault && !(s.reach p l).task.fault || (s.reach p l).task.stopHalt && !(s.reach p l).task.halt →
        bvb (t.parcel p).mon.intStat 0 = true) ∧
      ((s.reach p l).task.stopFault || (s.reach p l).task.stopHalt → NonePosted t p l) ∧
      (NonePosted s p l → SameMemory s t) ∧
      (t.reach p l).pool = (s.reach p l).pool ∧ OtherReaches s t p l ∧ SameClusters s t ∧ SameHub s t ∧ SameTime s t))

/-- An instruction in flight that may complete writes its status into sd, raises its saturation records, and leaves the
reach; with others still in flight, or with nothing waiting at the head, nothing else of the task changes (R171, R72).
The model's own choices in it: log 1 and 2. -/
def Obligations.InstructionCompletes : Prop :=
  ∀ (p : ParcelId) (l : ReachId) (k : Nat) (f : Flight) (rest : List Flight) (s : State),
    (s.reach p l).flights[k]? = some f → mayComplete (s.reach p l) f = true → s.datum.gated = none →
    (s.parcel p).held = [] → SMap.sorted (s.reach p l).s = true → f.rtGen = none →
    rest = (s.reach p l).flights.filter (fun g => g.no != f.no) →
    (rest = [] → (s.reach p l).task.issuing = true ∧ (s.reach p l).task.drain = false ∧
      (s.reach p l).task.wait ≠ .syncLocal ∧ (s.reach p l).task.wait ≠ .scan) →
    (∀ g, rest = [g] → wOp g.job.word ≠ 11) →
    Gives (.instructionComplete p l k) s (fun t =>
      (t.reach p l).flights = rest ∧ (t.reach p l).task = (s.reach p l).task ∧
      (∀ n, (t.reach p l).scalar n =
        if n = wSd f.job.word ∧ n ≠ 0 then BitVec.ofNat 64 f.status else (s.reach p l).scalar n) ∧
      (t.reach p l).pool = (s.reach p l).pool ∧ (t.reach p l).prof = (s.reach p l).prof ∧
      (t.reach p l).trv = (s.reach p l).trv ∧
      t.book = (raiseSat s p l f.job.pc.toNat f.job.profNo f.guard f.out).book ∧
      OtherReaches s t p l ∧ SameClusters s t ∧ SameMemory s t ∧ t.hub = s.hub ∧ SameTime s t)

/-- A reset of an idle reach clears every register and memory of it, keeps what other levels hold of it, and holds the
accesses that name it until the reset completes, a write of any of its registers and an access of the window to its
scratchpad; a reset of a reach that is not idle is discarded (R161). A write waits while its lock is taken, keeps its
place, and changes nothing yet but the bytes counted at the hub port: a piecewise table that a DLTA in flight names, a
code book that an instruction in flight of the cluster reads, FUSE_CFG, which takes effect when the DLTA in flight
completes, and a write to a reach that is being reset, which takes effect when the reset does (R96, R108, R161, R214). A
read of the host waits behind an older access of the host to the same function (R359). The model's own choices in it:
log 85. -/
def Obligations.ReachResetsAndWaits : Prop :=
  (∀ (rq : Requester) (p : ParcelId) (l : ReachId) (s : State),
    (Arrives s rq p (.reach p l 0) 0x20#64 → (s.reach p l).idle = true →
      exec (.reachReset rq p l) s = .next ((portBytes s rq p true 8).updReach p l (fun r => { task := {
        failing := r.task.failing, failHard := r.task.failHard, retired := r.task.retired, ceCount := r.task.ceCount
        issueNo := r.task.issueNo, resetting := true } }))) ∧
    (Arrives s rq p (.reach p l 0) 0x20#64 → (s.reach p l).idle = false → exec (.reachReset rq p l) s = .next (portBytes s rq p true 8)) ∧
    ((s.reach p l).task.resetting = true → (s.parcel p).held = [] →
      exec (.reachResetComplete p l) s = .next (s.updTask p l (fun t => { t with resetting := false }))) ∧
    ((s.reach p l).task.resetting = false → exec (.reachResetComplete p l) s = .next s)) ∧
  (∀ (rq : Requester) (p : ParcelId) (l : ReachId) (v : Word) (s : State),
    (rqPresent s rq = true → regGate s rq true (.reach p l 0x40) = true →
      (∃ f ∈ (s.reach p l).flights, wOp f.job.word = 3) →
      exec (.fuseCfgWrite rq p l v) s =
        .next ((portBytes s rq p true 8).updParcel p (fun x => { x with held := x.held ++ [.reg rq (.reach p l 0x40) 8 v] }))) ∧
    (∀ (n : Fin 128) (w : Fin 2), rqPresent s rq = true → regGate s rq true (.reach p l (0x2000 + 16 * n + 8 * w)) = true →
      (∃ f ∈ (s.reach p l).flights, wOp f.job.word = 3 ∧ (prof f.job.prof).actEn = true ∧
        (prof f.job.prof).actSel = n.val / 16) →
      exec (.actSegWrite rq p l n w v) s = .next ((portBytes s rq p true 8).updParcel p (fun x => { x with
        held := x.held ++ [.reg rq (.reach p l (0x2000 + 16 * n + 8 * w)) 8 v] }))) ∧
    (∀ f : Flight, (s.parcel p).held = [.reg rq (.reach p l 0x40) 8 v] → (s.reach p l).flights = [f] →
      wOp f.job.word = 3 → f.unit = .delta → f.ready = true → s.datum.gated = none →
      (s.reach p l).task.resetting = false → (s.reach p l).task.issuing = true → (s.reach p l).task.drain = false →
      (s.reach p l).task.wait = .none →
      Gives (.instructionComplete p l 0) s (fun t =>
        (t.reach p l).fuse = v &&& 0xFFFF#64 ∧ (t.parcel p).held = [] ∧ (t.reach p l).flights = [])) ∧
    ((s.parcel p).held = [.reg rq (.reach p l 0x40) 8 v] → (s.reach p l).flights = [] →
      (s.reach p l).task.resetting = true →
      Gives (.reachResetComplete p l) s (fun t =>
        (t.reach p l).fuse = v &&& 0xFFFF#64 ∧ (t.parcel p).held = [] ∧ (t.reach p l).task.resetting = false ∧
        OtherReaches s t p l ∧ SameMemory s t ∧ t.book = s.book ∧ t.hub = s.hub ∧ SameTime s t))) ∧
  (∀ (rq : Requester) (p : ParcelId) (l : ReachId) (v : Word) (s : State), (s.reach p l).task.resetting = true →
    (∀ off, off % 8 = 0 → rqPresent s rq = true → regGate s rq true (.reach p l off) = true →
      exec (.registerWrite rq (.reach p l off) 8 v) s = .next ((portBytes s rq p true 8).updParcel p (fun x => { x with
        held := x.held ++ [.reg rq (.reach p l off) 8 v] }))) ∧
    (∀ (fn : Fin 9) (off : Nat) (acc : MemAccess) (err : CellError), fn.val = p.val + 1 → s.hub.port.linkUp = true →
      functionOpen s p = true → 0x650000000 + l.val * 0x80000 ≤ off → off < 0x650000000 + (l.val + 1) * 0x80000 →
      exec (.winMemAccess fn false off acc err) s = .next (s.updParcel p (fun x => { x with
        held := x.held ++ [.mem off acc err] })))) ∧
  (∀ (rq : Requester) (p : ParcelId) (c : ClusterId) (k : Fin 8) (lvl : Option (Fin 16)) (off : Nat) (v : Word) (s : State),
    off = (match lvl with
      | none => 0x100 + 8 * k.val
      | some i => 0x200 + 128 * k.val + 8 * i.val) → rqPresent s rq = true → regGate s rq true (.cluster p c off) = true →
    (∃ i < 8, ∃ f ∈ (s.reach p (8 * c + i)).flights,
      (wOp f.job.word = 1 ∧ (prof f.job.prof).wGrid = 3 ∧ (prof f.job.prof).wCb = k) ∨
      (wOp f.job.word = 3 ∧ (prof f.job.prof).outKind = 3 ∧ (prof f.job.prof).outCb = k)) →
    exec (.codebookWrite rq p c k lvl v) s = .next ((portBytes s rq p true 8).updParcel p (fun x => { x with
      held := x.held ++ [.reg rq (.cluster p c off) 8 v] }))) ∧
  (∀ (p : ParcelId) (off : Nat) (s : State), s.hub.port.linkUp = true → regGate s .host false (.parcel p off) = true →
    off % 8 = 0 → (∃ o ∈ (s.parcel p).held, hostHeld o = true) →
    exec (.latchedRead .host (.parcel p off) 8) s = .next (s.updParcel p (fun x => { x with
      held := x.held ++ [.read .host (.parcel p off) 8] })))

/-- A save of an idle reach sets TASK_IMG busy and writes every area that the mask names at its offset: the PC and the
scalar registers read there, a poisoned one as 0 (R402), and every byte of every memory outside the areas is unchanged
(R192, R193). A restore of an idle reach from an image of format 1 takes the PC, strict, the scalar registers, the
swizzle keys and the windows of the image, and leaves every area that the mask does not name; the memories do not change
(R192, R194, R258). TASK_IMG of a reach that is not idle, or that is moving an image, takes no save and no restore; the
end of a move clears busy and the operation (R193). The model's own choices in it: log 28 and 29. -/
def Obligations.TaskImagesMove : Prop :=
  (∀ (rq : Requester) (p : ParcelId) (l : ReachId) (mask : BitVec 4) (addr : BitVec 27) (a : Nat) (s : State),
    Arrives s rq p (.reach p l 0x20) (BitVec.ofNat 64 (mask.toNat + 0x10 + addr.toNat * 256)) →
    (s.reach p l).idle = true → (s.reach p l).task.imgBusy = false → a = addr.toNat * 256 →
    a + imageLen mask.toNat ≤ 25769803776 → memWf (s.parcel p).mem = true → s.upsets = [] →
    SMap.sorted (s.reach p l).s = true →
    Gives (.taskImageSave rq p l mask addr) s (fun t =>
      t.reach p l = { s.reach p l with task := { (s.reach p l).task with
        imgMask := mask, imgOp := 1, imgAddr := addr, imgBusy := true } } ∧
      (∀ x ∈ imageAreas (s.reach p l).savedWords mask.toNat, rdBytes t (.sm p) (a + x.1) x.2.length = x.2) ∧
      leVal (rdBytes t (.sm p) a 8) = (s.reach p l).task.pc.toNat ∧
      (∀ n < 32, leVal (rdBytes t (.sm p) (a + 256 + 8 * n) 8) =
        if (WordMem.regs, n) ∈ (s.reach p l).ruined then 0 else ((s.reach p l).scalar n).toNat) ∧
      (∀ k i, ¬ (k = .sm p ∧ ∃ x ∈ imageAreas (s.reach p l).savedWords mask.toNat, a + x.1 ≤ i ∧ i < a + x.1 + x.2.length) →
        rdByte t k i = rdByte s k i) ∧
      OtherReaches s t p l ∧ SameClusters s t ∧ SameTime s t)) ∧
  (∀ (rq : Requester) (p : ParcelId) (l : ReachId) (addr : BitVec 27) (a : Nat) (b : Nat → Nat → Nat) (s : State),
    Arrives s rq p (.reach p l 0x20) (BitVec.ofNat 64 (0x20 + addr.toNat * 256)) →
    (s.reach p l).idle = true → (s.reach p l).task.imgBusy = false → a = addr.toNat * 256 →
    a + 4864 ≤ 25769803776 → s.upsets = [] → poisonIn s (.sm p) a 4864 = none → b = (fun o n => leVal (rdBytes s (.sm p) (a + o) n)) →
    b 40 8 = 1 → winFits false (BitVec.ofNat 64 (b 4608 8)) = true → winFits true (BitVec.ofNat 64 (b 4616 8)) = true →
    Gives (.taskImageRestore rq p l 0 addr) s (fun t =>
      (t.reach p l).task.pc = BitVec.ofNat 32 (b 0 4 / 16 * 16) ∧ (t.reach p l).task.strict = (b 8 1).testBit 0 ∧
      (t.reach p l).task.imgBusy = true ∧ (t.reach p l).task.imgOp = 2 ∧ (t.reach p l).task.run = (s.reach p l).task.run ∧
      (t.reach p l).task.step.isSome = (b 64 1).testBit 1 ∧
      (∀ n < 32, n ≠ 0 → (t.reach p l).scalar n = BitVec.ofNat 64 (b (256 + 8 * n) 8)) ∧
      (∀ n < 16, SMap.get 0 (t.reach p l).swz n = BitVec.ofNat 64 (b (4736 + 8 * n) 8) &&& 0xFFFF#64) ∧
      (t.reach p l).spWin = BitVec.ofNat 64 (b 4608 8) &&& 0x7FFF00007FFF0#64 ∧
      (t.reach p l).cbWin = BitVec.ofNat 64 (b 4616 8) &&& 0x7FFFF0003FFFF0#64 ∧
      (t.reach p l).pool = (s.reach p l).pool ∧ (t.reach p l).prof = (s.reach p l).prof ∧
      (t.reach p l).actSeg = (s.reach p l).actSeg ∧ (t.reach p l).flights = (s.reach p l).flights ∧
      OtherReaches s t p l ∧ SameMemory s t ∧ t.book = s.book ∧ SameTime s t)) ∧
  (∀ (rq : Requester) (p : ParcelId) (l : ReachId) (mask : BitVec 4) (addr : BitVec 27) (s : State),
    ((s.reach p l).idle = false ∨ (s.reach p l).task.imgBusy = true →
      (Arrives s rq p (.reach p l 0x20) (BitVec.ofNat 64 (mask.toNat + 0x10 + addr.toNat * 256)) →
        exec (.taskImageSave rq p l mask addr) s = .next (portBytes s rq p true 8)) ∧
      (Arrives s rq p (.reach p l 0x20) (BitVec.ofNat 64 (mask.toNat + 0x20 + addr.toNat * 256)) →
        exec (.taskImageRestore rq p l mask addr) s = .next (portBytes s rq p true 8))) ∧
    ((s.reach p l).task.imgBusy = true →
      exec (.taskImageDone p l) s = .next (s.updTask p l (fun t => { t with imgBusy := false, imgOp := 0 }))))

/-- SCL writes its function of A and B into dst, then status 0 into sd, and goes on with the next instruction; the
functions are those of R186's table (R158, R186). The model's own choices in it: log 67. -/
def Obligations.ScalarFunctions : Prop :=
  ∀ (p : ParcelId) (l : ReachId) (s : State) (j : Job) (fn : Nat) (a b v : Word), j = headJob s p l →
    Issues s p l (sclPlan j) → wOp j.word = 13 → SMap.sorted (s.reach p l).s = true → fn = bvf j.word 24 5 →
    a = (s.reach p l).scalar (bvf j.word 34 5) →
    b = (if bvf j.word 44 1 = 1 then BitVec.ofNat 64 (bvf j.word 64 64) else (s.reach p l).scalar (bvf j.word 39 5)) →
    v = (if fn = 0 then a + b else if fn = 1 then a - b else if fn = 2 then a &&& b else if fn = 3 then a ||| b
      else if fn = 4 then a ^^^ b else if fn = 5 then a <<< (b.toNat % 64) else if fn = 6 then a >>> (b.toNat % 64)
      else if fn = 7 then BitVec.ofInt 64 (a.toInt / 2 ^ (b.toNat % 64)) else if fn = 8 then a * b
      else if fn = 9 then (if a.toInt < b.toInt then a else b) else if fn = 10 then (if a.toInt < b.toInt then b else a)
      else if fn = 11 then (if a.toInt < b.toInt then 1 else 0) else if fn = 12 then (if a.toNat < b.toNat then 1 else 0)
      else if fn = 13 then b else if fn = 14 then BitVec.ofNat 64 s.datum.count else BitVec.ofNat 64 (s.offset p)) →
    Gives (.scl p l) s (fun t =>
      (t.reach p l).task.pc = (s.reach p l).task.pc + 16 ∧
      (t.reach p l).task.issueNo = (s.reach p l).task.issueNo + 1 ∧ (t.reach p l).flights = (s.reach p l).flights ∧
      (∀ n, (t.reach p l).scalar n = if n = 0 then 0 else if n = wSd j.word then 0
        else if n = bvf j.word 29 5 then v else (s.reach p l).scalar n) ∧
      OtherReaches s t p l ∧ SameClusters s t ∧ SameMemory s t ∧ SameTime s t)

/-- BRC goes to its target where its condition holds and else to the next instruction, with status 0; HALT sets halt and
clears run once nothing is in flight, with every write of the task visible (R187, R345, R358). A CSR read moves the
register's word into sreg; a CSR write gives the register the scalar before the next instruction, here FUSE_CFG and
ACT_SEG while no instruction in flight reads them (R188). The model's own choices in it: log 76, 85, 90 and 92. -/
def Obligations.BranchesAndRegisterMoves : Prop :=
  (∀ (p : ParcelId) (l : ReachId) (s : State) (j : Job) (cond : Nat) (a b : Word), j = headJob s p l → wOp j.word = 14 →
    SMap.sorted (s.reach p l).s = true → cond = bvf j.word 24 3 → a = (s.reach p l).scalar (bvf j.word 27 5) →
    b = (s.reach p l).scalar (bvf j.word 32 5) →
    (Issues s p l (brcPlan p l j) → cond ≠ 7 → ∀ taken : Prop,
      (taken ↔ cond = 0 ∨ (cond = 1 ∧ a = b) ∨ (cond = 2 ∧ a ≠ b) ∨ (cond = 3 ∧ a.toInt < b.toInt) ∨
        (cond = 4 ∧ b.toInt ≤ a.toInt) ∨ (cond = 5 ∧ a.toNat < b.toNat) ∨ (cond = 6 ∧ b.toNat ≤ a.toNat)) →
      Gives (.brc p l) s (fun t =>
        (taken → ((t.reach p l).task.pc.toNat : Int) = j.pc.toNat + 16 * signed 32 (bvf j.word 64 32)) ∧
        (¬ taken → (t.reach p l).task.pc = j.pc + 16) ∧
        (t.reach p l).task.issueNo = (s.reach p l).task.issueNo + 1 ∧ (t.reach p l).flights = (s.reach p l).flights ∧
        (∀ n, (t.reach p l).scalar n = if n = wSd j.word then 0 else (s.reach p l).scalar n) ∧
        OtherReaches s t p l ∧ SameClusters s t ∧ SameMemory s t ∧ SameTime s t)) ∧
    (Issues s p l {} → cond = 7 →
      Gives (.brcHalt p l) s (fun t =>
        (t.reach p l).task.pc = j.pc + 16 ∧ (t.reach p l).task.issuing = false ∧
        (t.reach p l).flights = (s.reach p l).flights ∧
        ((s.reach p l).flights = [] → (t.reach p l).task.run = false ∧ (t.reach p l).task.halt = true ∧
          ((s.reach p l).task.halt = false → bvb (t.parcel p).mon.intStat 0 = true) ∧
          NonePosted t p l) ∧
        ((s.reach p l).flights ≠ [] ∨ NonePosted s p l → SameMemory s t ∧ t.book = s.book) ∧
        ((s.reach p l).flights ≠ [] → (t.reach p l).task.run = true ∧ (t.reach p l).task.stopHalt = true) ∧
        (∀ n, (t.reach p l).scalar n = if n = wSd j.word then 0 else (s.reach p l).scalar n) ∧
        OtherReaches s t p l ∧ SameClusters s t ∧ SameTime s t))) ∧
  (∀ (p : ParcelId) (l : ReachId) (s : State) (j : Job) (n : Nat), j = headJob s p l → wOp j.word = 15 →
    SMap.sorted (s.reach p l).s = true → n = bvf j.word 32 16 →
    (Issues s p l (csrPlan s p l j) → bvb j.word 24 = false →
      regSize (.reach p l (8 * n)) = 8 ∨ regBase (.reach p l (8 * n)) = 8 * n →
      Gives (.csrRead p l) s (fun t =>
        (t.reach p l).task.pc = (s.reach p l).task.pc + 16 ∧
        (t.reach p l).task.issueNo = (s.reach p l).task.issueNo + 1 ∧ (t.reach p l).flights = (s.reach p l).flights ∧
        (∀ i, (t.reach p l).scalar i = if i = 0 then 0 else if i = wSd j.word then 0
          else if i = bvf j.word 25 5 then (if 0x1820 ≤ n ∧ n < 0x1A00 then 0 else reachWord (s.reach p l) (8 * n))
          else (s.reach p l).scalar i) ∧
        OtherReaches s t p l ∧ SameClusters s t ∧ SameMemory s t ∧ SameTime s t)) ∧
    (Issues s p l (csrPlan s p l j) → bvb j.word 24 = true → n = 8 → (s.reach p l).flights = [] →
      Gives (.csrWrite p l) s (fun t => Completed s t p l 0 ∧
        (t.reach p l).fuse = (s.reach p l).scalar (bvf j.word 25 5) &&& 0xFFFF#64 ∧
        (t.reach p l).prof = (s.reach p l).prof ∧ (t.reach p l).actSeg = (s.reach p l).actSeg ∧
        OtherReaches s t p l ∧ SameClusters s t ∧ SameMemory s t ∧ SameTime s t)) ∧
    (Issues s p l (csrPlan s p l j) → bvb j.word 24 = true → 0x400 ≤ n → n < 0x500 → (s.reach p l).flights = [] →
      Gives (.csrWrite p l) s (fun t => Completed s t p l 0 ∧
        (∀ i < 256, SMap.get 0 (t.reach p l).actSeg i = if i = n - 0x400
          then (s.reach p l).scalar (bvf j.word 25 5) &&& (if n % 2 = 0 then 0xFFFFFFFFFFFFFFFF#64 else 0x1FFFFF#64)
          else SMap.get 0 (s.reach p l).actSeg i) ∧
        (t.reach p l).prof = (s.reach p l).prof ∧ (t.reach p l).fuse = (s.reach p l).fuse ∧
        OtherReaches s t p l ∧ SameClusters s t ∧ SameMemory s t ∧ SameTime s t)))

/-- A tally claim below the limit hands out the value and counts it up; at the limit, or where the cycles do not fit
before the closing stake, it answers all ones with status 4; a set writes value and limit; a read gives the register
(R128, R182). The model's own choices in it: log 25. -/
def Obligations.TallyClaims : Prop :=
  ∀ (p : ParcelId) (l : ReachId) (s : State) (j : Job) (k dst : Nat) (w : Word), j = headJob s p l → wOp j.word = 9 →
    SMap.sorted (s.reach p l).s = true → k = bvf j.word 24 2 → dst = bvf j.word 28 5 → w = tallyOf s p l k →
    (Issues s p l (talyPlan [bvf j.word 33 5] j) → bvf j.word 26 2 = 0 →
      bvf w 0 32 < bvf w 32 32 → claimFits s p l ((s.reach p l).scalar (bvf j.word 33 5)).toNat = true →
      Gives (.talyClaim p l) s (fun t => Entered s t p l .tally 0 .none ∧
        (∀ i, tallyOf t p l i = if i = k then putField w 0 32 (bvf w 0 32 + 1) else tallyOf s p l i) ∧
        (∀ n, (t.reach p l).scalar n = if n = dst ∧ n ≠ 0 then BitVec.ofNat 64 (bvf w 0 32) else (s.reach p l).scalar n) ∧
        OtherReaches s t p l ∧ SameMemory s t ∧ SameTime s t)) ∧
    (Issues s p l (talyPlan [bvf j.word 33 5] j) → bvf j.word 26 2 = 0 →
      bvf w 32 32 ≤ bvf w 0 32 ∨ claimFits s p l ((s.reach p l).scalar (bvf j.word 33 5)).toNat = false →
      Gives (.talyClaim p l) s (fun t => Entered s t p l .tally 4 .none ∧
        (∀ i, tallyOf t p l i = tallyOf s p l i) ∧
        (∀ n, (t.reach p l).scalar n = if n = dst ∧ n ≠ 0 then 0xFFFFFFFFFFFFFFFF#64 else (s.reach p l).scalar n) ∧
        OtherReaches s t p l ∧ SameMemory s t ∧ SameTime s t)) ∧
    (Issues s p l (talyPlan [bvf j.word 33 5, bvf j.word 38 5] j) → bvf j.word 26 2 = 1 →
      Gives (.talySet p l) s (fun t => Entered s t p l .tally 0 .none ∧
        (∀ i, tallyOf t p l i = if i = k then BitVec.ofNat 64 (((s.reach p l).scalar (bvf j.word 33 5)).toNat % 2 ^ 32 +
          ((s.reach p l).scalar (bvf j.word 38 5)).toNat % 2 ^ 32 * 2 ^ 32) else tallyOf s p l i) ∧
        (∀ n, n ≠ dst ∨ n = 0 → (t.reach p l).scalar n = (s.reach p l).scalar n) ∧
        OtherReaches s t p l ∧ SameMemory s t ∧ SameTime s t)) ∧
    (Issues s p l (talyPlan [] j) → bvf j.word 26 2 = 2 →
      Gives (.talyRead p l) s (fun t => Entered s t p l .tally 0 .none ∧ (∀ i, tallyOf t p l i = tallyOf s p l i) ∧
        (∀ n, (t.reach p l).scalar n = if n = dst ∧ n ≠ 0 then w else (s.reach p l).scalar n) ∧
        OtherReaches s t p l ∧ SameMemory s t ∧ SameTime s t))

/-- A STAK WAIT or STEP whose stake lies ahead holds issue at the head until the stake and does nothing else; a STAK ARM
completes at once and binds the next instruction to its stake, or waits for a running datum (R183, R270). A STAK whose
stake has come issues at once where R275 lets it: a WAIT completes, a STEP that the budget admits, once what comes
before it at its stake is done (R32), opens a sealed step from its stake with the closing stake, policy, allowance and
rate of its operands, and completes, unless the scoreboard, the limit of 16 or strict issue holds the STAK, which then
waits at the head (R162, R164, R167, R183, R275, R276, R426). The model's own choices in it: log 63 and 64. -/
def Obligations.StakesHoldAndPass : Prop :=
  (∀ (p : ParcelId) (l : ReachId) (s : State) (j : Job) (st : Stake), j = headJob s p l → wOp j.word = 10 →
    st = { count := ((s.reach p l).scalar (bvf j.word 27 5)).toNat
           off := field ((s.reach p l).scalar (bvf j.word 32 5)).toNat 0 13 } →
    (StakIssues s p l false [bvf j.word 27 5, bvf j.word 32 5] → bvf j.word 24 3 = 0 →
      s.datum.state = .unset ∨ (s.now p).lt st = true →
      exec (.stakWait p l) s = .next (s.updTask p l (fun t => { t with wait := .stake st false }))) ∧
    (StakIssues s p l true [bvf j.word 27 5, bvf j.word 32 5, bvf j.word 37 5, bvf j.word 42 5] → bvf j.word 24 3 = 1 →
      (s.reach p l).task.failing = false → (s.parcel p).state ≠ .quiesce →
      s.datum.state = .unset ∨ (s.now p).lt st = true →
      exec (.stakStep p l) s = .next (s.updTask p l (fun t => { t with wait := .stake st true }))) ∧
    (StakIssues s p l false [bvf j.word 27 5, bvf j.word 32 5] → bvf j.word 24 3 = 2 → s.datum.state ≠ .unset →
      held s p l j {} = false → SMap.sorted (s.reach p l).s = true → j.pc.toNat + 16 < 16384 →
      Gives (.stakArm p l) s (fun t => Completed s t p l 0 ∧ (t.reach p l).task.arm = some st ∧
        OtherReaches s t p l ∧ SameClusters s t ∧ SameMemory s t ∧ t.book = s.book ∧ SameTime s t)) ∧
    (StakIssues s p l false [bvf j.word 27 5, bvf j.word 32 5] → bvf j.word 24 3 = 2 → s.datum.state = .unset →
      exec (.stakArm p l) s = .next (s.updTask p l (fun t => { t with wait := .unset })))) ∧
  (∀ (p : ParcelId) (l : ReachId) (s : State) (j : Job) (st : Stake), j = headJob s p l → wOp j.word = 10 →
    st = { count := ((s.reach p l).scalar (bvf j.word 27 5)).toNat
           off := field ((s.reach p l).scalar (bvf j.word 32 5)).toNat 0 13 } →
    s.datum.state ≠ .unset → st.le (s.now p) = true → SMap.sorted (s.reach p l).s = true →
    (StakIssues s p l false [bvf j.word 27 5, bvf j.word 32 5] → bvf j.word 24 3 = 0 →
      (∀ o, (s.reach p l).task.step = some o → o.stretched = false) → held s p l j {} = false →
      Gives (.stakWait p l) s (fun t => Completed s t p l 0 ∧ (t.reach p l).task.step = (s.reach p l).task.step ∧
        OtherReaches s t p l ∧ SameClusters s t ∧ SameMemory s t ∧ SameTime s t)) ∧
    (StakIssues s p l false [bvf j.word 27 5, bvf j.word 32 5] → bvf j.word 24 3 = 0 → held s p l j {} = true →
      exec (.stakWait p l) s = .next (s.updTask p l (fun t => { t with wait := .stake st false }))) ∧
    (∀ alw len rate, StakIssues s p l true [bvf j.word 27 5, bvf j.word 32 5, bvf j.word 37 5, bvf j.word 42 5] →
      bvf j.word 24 3 = 1 → (s.reach p l).task.step = none → (s.reach p l).task.failing = false → stepMayOpen s p st = true →
      alw = ((s.reach p l).scalar (bvf j.word 37 5)).toNat → len = ((s.reach p l).scalar (bvf j.word 42 5)).toNat →
      rate = stepRate alw len (s.nc p) s.tickNs → denial s p rate len = none → held s p l j {} = false →
      Gives (.stakStep p l) s (fun t => Completed s t p l 0 ∧
        (t.reach p l).task.step = some { opening := st, closing := st.plus len (s.nc p), abort := bvb j.word 47
                                         alw := alw, rate := rate } ∧
        OtherReaches s t p l ∧ SameClusters s t ∧ SameMemory s t ∧ SameTime s t)))

/-- A FENC and a SYNC local hold every later instruction until nothing older is in flight, and complete at once where
nothing is; completing frees them (R184, R185). FENC.full makes every posted write of its reach visible, FENC.rel marks
them to be visible before any later write of the reach, FENC.acq leaves them (R356, R357). SYNC at a barrier: with
members 0 it completes at once; an arrival before the last waits, and the last ends the round and resumes every waiting
reach and its own (R185). The model's own choices in it: log 1, 20 and 70. -/
def Obligations.FencesAndBarriers : Prop :=
  (∀ (p : ParcelId) (l : ReachId) (s : State) (j : Job) (i : Instr), j = headJob s p l →
    SMap.sorted (s.reach p l).s = true →
    (wOp j.word = 11 → Issues s p l {} → (i = .fencAcq p l ∧ bvf j.word 24 2 = 0) ∨ (i = .fencRel p l ∧ bvf j.word 24 2 = 1) ∨
        (i = .fencFull p l ∧ bvf j.word 24 2 = 2) →
      ((s.reach p l).flights = [] → Gives i s (fun t => Completed s t p l 0 ∧ (t.reach p l).task.wait = .none ∧
        (i = .fencFull p l → MemoryDrained s t p l ∧ NonePosted t p l) ∧
        (i = .fencRel p l → t.posted = s.posted.map (fun w => { w with fenced := w.fenced || w.writer == srcReach p l })) ∧
        (i = .fencAcq p l → t.posted = s.posted) ∧ (i ≠ .fencFull p l → SameMemory s t) ∧
        OtherReaches s t p l ∧ SameClusters s t ∧ SameTime s t)) ∧
      ((s.reach p l).flights ≠ [] → Gives i s (fun t => Entered s t p l .sequencer 0 .none ∧ (t.reach p l).task.wait = .fence ∧
        (t.reach p l).s = (s.reach p l).s ∧
        OtherReaches s t p l ∧ SameClusters s t ∧ SameMemory s t ∧ (j.pc.toNat + 16 < 16384 → t.book = s.book) ∧
        SameTime s t))) ∧
    (wOp j.word = 12 → Issues s p l {} → bvf j.word 24 2 = 0 →
      ((s.reach p l).flights = [] → Gives (.syncLocal p l) s (fun t => Completed s t p l 0 ∧
        OtherReaches s t p l ∧ SameClusters s t ∧ SameMemory s t ∧ SameTime s t)) ∧
      ((s.reach p l).flights ≠ [] →
        exec (.syncLocal p l) s = .next (s.updTask p l (fun t => { t with wait := .syncLocal })))) ∧
    (∀ f g, (s.reach p l).flights = [f, g] → f.no ≠ g.no → wOp f.job.word ≠ 11 → wOp g.job.word = 11 → mayComplete (s.reach p l) f = true →
      s.datum.gated = none → (s.parcel p).held = [] → f.rtGen = none → (s.reach p l).task.issuing = true →
      (s.reach p l).task.drain = false → (s.reach p l).task.wait = .fence →
      Gives (.instructionComplete p l 0) s (fun t => (t.reach p l).flights = [] ∧ (t.reach p l).task.wait = .none ∧
        (t.reach p l).task.pc = (s.reach p l).task.pc ∧ (t.reach p l).task.issuing = true ∧
        (bvf g.job.word 24 2 = 2 → MemoryDrained s t p l ∧ NonePosted t p l) ∧
        (bvf g.job.word 24 2 ≠ 2 → SameMemory s t) ∧
        OtherReaches s t p l ∧ SameClusters s t ∧ SameTime s t))) ∧
  (∀ (p : ParcelId) (l : ReachId) (s : State) (j : Job) (k : Nat) (b : Barrier) (ls : List Nat), j = headJob s p l →
    wOp j.word = 12 → Issues s p l {} → SMap.sorted (s.reach p l).s = true → k = bvf j.word 26 4 →
    ls = setInsert b.waiting l →
    (bvf j.word 24 2 = 1 → b = clusterBar s p (clusterOf l) k →
      (b.members = 0 → Gives (.syncClusterBarrier p l) s (fun t => Completed s t p l 0 ∧
        clusterBar t p (clusterOf l) k = b ∧ OtherReaches s t p l ∧ SameMemory s t ∧ SameTime s t)) ∧
      (b.members ≠ 0 → (b.arrived + 1).toNat < b.members.toNat → Gives (.syncClusterBarrier p l) s (fun t =>
        t.reach p l = { s.reach p l with task := { (s.reach p l).task with wait := .clusterBar k } } ∧
        clusterBar t p (clusterOf l) k = { b with arrived := b.arrived + 1, waiting := ls } ∧
        OtherReaches s t p l ∧ SameMemory s t ∧ t.book = s.book ∧ t.hub = s.hub ∧ SameTime s t)) ∧
      (b.members ≠ 0 → b.members.toNat ≤ (b.arrived + 1).toNat → Waiters s p ls → Gives (.syncClusterBarrier p l) s (fun t =>
        clusterBar t p (clusterOf l) k = { members := b.members, arrived := 0, round := !b.round, waiting := [] } ∧
        Resumed s t p ls ∧ SameMemory s t ∧ SameTime s t))) ∧
    (bvf j.word 24 2 = 2 → b = parcelBar s p k →
      (b.members = 0 → Gives (.syncParcelBarrier p l) s (fun t => Completed s t p l 0 ∧ parcelBar t p k = b ∧
        OtherReaches s t p l ∧ SameClusters s t ∧ SameMemory s t ∧ SameTime s t)) ∧
      (b.members ≠ 0 → (b.arrived + 1).toNat < b.members.toNat → Gives (.syncParcelBarrier p l) s (fun t =>
        t.reach p l = { s.reach p l with task := { (s.reach p l).task with wait := .parcelBar k } } ∧
        parcelBar t p k = { b with arrived := b.arrived + 1, waiting := ls } ∧
        OtherReaches s t p l ∧ SameClusters s t ∧ SameMemory s t ∧ t.book = s.book ∧ t.hub = s.hub ∧ SameTime s t)) ∧
      (b.members ≠ 0 → b.members.toNat ≤ (b.arrived + 1).toNat → Waiters s p ls → Gives (.syncParcelBarrier p l) s (fun t =>
        parcelBar t p k = { members := b.members, arrived := 0, round := !b.round, waiting := [] } ∧
        (bvb (s.parcel p).mon.intBar k = true → bvb (t.parcel p).mon.intStat 1 = true) ∧
        Resumed s t p ls ∧ SameClusters s t ∧ SameMemory s t ∧ SameTime s t))))

/-- The chunk register of a MUL over the elements `lo` to `lo + nv - 1` of two vectors is their exact dot product: the
sum over bit planes, with the planes' weights and signs, loses nothing, whichever pairs with a plane that has no 1 among
those elements are removed as dry (R34, R36, R38, R40, R136). -/
def Obligations.ChunkIsDotProduct : Prop :=
  ∀ (q : Prof) (free : Nat → Nat) (A W : List Nat) (lanes lo nv : Nat) (dry : Dry), q.fn = 0 → q.split = false →
    q.trunc = 0 → q.shal = 0 →
    (∀ i j, dry i j = true → (planes q.a' A).getD i 0 &&& ((2 ^ nv - 1) * 2 ^ lo) = 0 ∨
      (planes q.w W).getD j 0 &&& ((2 ^ nv - 1) * 2 ^ lo) = 0) →
    lo + nv ≤ lanes → A.length ≤ lanes → W.length ≤ lanes → (∀ a ∈ A, a < 2 ^ q.a') → (∀ w ∈ W, w < 2 ^ q.w) →
    0 < q.a' → 0 < q.w →
    chunkVals q free (planes q.a' A) (planes q.w W) lanes ((2 ^ nv - 1) * 2 ^ lo) nv dry =
      [(1, ((List.range nv).map (fun i =>
        (if q.aNeg then signed q.a' (A.getD (lo + i) 0) else (A.getD (lo + i) 0 : Int)) *
        (if q.wSigned then signed q.w (W.getD (lo + i) 0) else (W.getD (lo + i) 0 : Int)))).sum)]

/-- A MATB that meets no fault enters the array, and the pool and its tags become what the visits of its nest leave of
them; nothing else of the part changes (R158, R172, R199). The model's own choices in it: log 1, 7 and 94. -/
def Obligations.MatbRuns : Prop :=
  ∀ (p : ParcelId) (l : ReachId) (s : State) (j : Job), j = headJob s p l → wOp j.word = 0 →
    Issues s p l (matPlan s p l j) → (matRun s p l j ((s.reach p l).task.issueNo + 1)).fault = none →
    Gives (.matb p l .none) s (fun t => Entered s t p l .array 0 .none ∧
      (t.reach p l).pool = (matRun s p l j ((s.reach p l).task.issueNo + 1)).pool ∧ (t.reach p l).paired = (matRun s p l j ((s.reach p l).task.issueNo + 1)).paired ∧
      (t.reach p l).s = (s.reach p l).s ∧ SameTables s t p l ∧ OtherReaches s t p l ∧ SameClusters s t ∧ SameMemory s t ∧
      SameTime s t)

/-- A dense native MATB of one visit and one chunk adds to each output of its slot the promoted dot product of its row
of activations and its column of weights, under the guard; an initialising one starts from 0 (R63, R70, R172, R206). The
model's own choices in it: log 1. -/
def Obligations.MatbMultiplies : Prop :=
  ∀ (p : ParcelId) (l : ReachId) (s : State) (j : Job) (q : Prof) (c : MatCtx), j = headJob s p l → wOp j.word = 0 →
    Issues s p l (matPlan s p l j) → q = prof j.prof → c = matCtx s p l j → walked j.trv = [] → q.fn = 0 → q.sp = 0 →
    q.gs = false → q.split = false → q.dziro = false → q.paired = false → q.trunc = 0 → q.shal = 0 →
    0 < q.a → 0 < q.w → 0 < c.K → c.K ≤ q.chunk → 0 < c.M → 0 < c.N → (s.reach p l).spPoison = [] →
    SMap.sorted (s.reach p l).pool = true →
    Gives (.matb p l .none) s (fun t => ∀ i < 256,
      poolGet (t.reach p l).pool false c.slot i =
        (guardAdd false (if c.acc then poolGet (s.reach p l).pool false c.slot i else (0, false))
          (promote q.frac none 1 (((List.range c.K).map (fun e =>
            (if q.aNeg then signed q.a' ((c.actRow {} (i / 16)).getD e 0) else ((c.actRow {} (i / 16)).getD e 0 : Int)) *
            (if q.wSigned then signed q.w ((c.wgtCol {} (i % 16)).getD e 0)
              else ((c.wgtCol {} (i % 16)).getD e 0 : Int)))).sum))).1)

/-- A MATL build takes the next generation number into s_gen and, once its bank is free, fills it with every product of
an element and a level; until then it waits, and RT_BUILD_START starts it (R119, R121). RT_BUILD_START starts the first
build of the cluster whose bank is free, and does nothing where none waits; a build that completes makes its generation
complete (R121). A MATL look of one chunk adds to each of its outputs the sum of the table's products at its weight
codes, promoted, under the guard; RT_LOOK_START issues a look that waited for its generation (R120, R121). A look of a
generation that is not complete waits at the head (R121). The model's own choices in it: log 1. -/
def Obligations.RatingTables : Prop :=
  (∀ (p : ParcelId) (l : ReachId) (s : State) (j : Job) (g a : Nat) (q : Prof) (c : Cluster),
    j = headJob s p l → wOp j.word = 1 → bvb j.word 24 = false → Issues s p l (buildPlan s p l j) →
    c = s.cluster p (clusterOf l) → g = (c.rtGen.toNat + 1) % 65536 → q = prof j.prof →
    a = (s.reach p l).cbBase + ((s.reach p l).scalar (bvf j.word 31 5)).toNat → c.poison = [] →
    SMap.sorted (s.reach p l).s = true →
    Gives (.matlBuild p l) s (fun t =>
      Entered s t p l .ratingTable 0 (if buildReady s p (clusterOf l) g then .none else .build) ∧
      (t.cluster p (clusterOf l)).rtGen.toNat = g ∧
      (∀ n, (t.reach p l).scalar n = if n = bvf j.word 51 5 ∧ n ≠ 0 then BitVec.ofNat 64 g else (s.reach p l).scalar n) ∧
      (t.cluster p (clusterOf l)).bank g = (if buildReady s p (clusterOf l) g then
        { gen := BitVec.ofNat 16 g, live := true, complete := false, failed := false, e := j.sv 41, wc := (wGrid c q).1
          grid := (wGrid c q).2
          table := (buildElems q (rdBytes s (.cb p (clusterOf l)) a (buildBytes j)) (j.sv 41)).map
            (fun e => (wGrid c q).2.map (fun lv => e * lv)) } else c.bank g) ∧
      (t.cluster p (clusterOf l)).bank (g + 1) = c.bank (g + 1) ∧
      OtherReaches s t p l ∧ SameMemory s t ∧ SameTime s t)) ∧
  (∀ (p : ParcelId) (s : State),
    (∀ (c : ClusterId) (l g : Nat) (f : Flight), waitingBuild s p c = some (l, f, g) → (s.cluster p c).poison = [] →
      clusterOf l = c.val → s.upsets = [] →
      Gives (.rtBuildStart p c) s (fun t =>
        ((t.cluster p c).bank g).live = true ∧ ((t.cluster p c).bank g).gen = BitVec.ofNat 16 g ∧
        ((t.cluster p c).bank g).complete = false ∧ ((t.cluster p c).bank g).e = f.job.sv 41 ∧
        (t.cluster p c).bank (g + 1) = (s.cluster p c).bank (g + 1) ∧
        (∀ x ∈ (t.reach p l).flights, x.no = f.no → x.wait = .none) ∧
        (t.reach p l).s = (s.reach p l).s ∧ OtherReaches s t p l ∧ SameMemory s t ∧ t.book = s.book ∧ SameTime s t)) ∧
    (∀ c : ClusterId, waitingBuild s p c = none → exec (.rtBuildStart p c) s = .next s) ∧
    (∀ (l : ReachId) (f : Flight) (g : Nat), (s.reach p l).flights = [f] → f.rtGen = some g → isBuild f = true →
      mayComplete (s.reach p l) f = true → s.datum.gated = none → (s.parcel p).held = [] →
      ((s.cluster p (clusterOf l)).bank g).live = true → ((s.cluster p (clusterOf l)).bank g).gen.toNat = g →
      ((s.cluster p (clusterOf l)).bank g).failed = false → f.status = 0 →
      Gives (.instructionComplete p l 0) s (fun t =>
        ((t.cluster p (clusterOf l)).bank g).complete = true ∧
        ((t.cluster p (clusterOf l)).bank g).table = ((s.cluster p (clusterOf l)).bank g).table))) ∧
  (∀ (p : ParcelId) (l : ReachId) (s : State) (j : Job) (q : Prof) (r : Reach) (b : RtBank) (vs : List Visit),
    j = headJob s p l → wOp j.word = 1 → bvb j.word 24 = true → q = prof j.prof → r = s.reach p l →
    b = (s.cluster p (clusterOf l)).bank (lookGen j) →
    vs = visits lookUnits ((walked j.trv).filter (fun x => x.2.dim == 2)) → lookStalls s p l j = false →
    (Issues s p l (lookPlan s p l j) → q.gs = false → 0 < j.sv 41 → j.sv 41 ≤ q.chunkLen →
      (s.cluster p (clusterOf l)).poison = [] → SMap.sorted r.pool = true →
      Gives (.matlLook p l) s (fun t => Entered s t p l .ratingTable 0 .none ∧
        (∀ n < j.sv 56, poolGet (t.reach p l).pool false (j.f 25 5) n =
          (guardAdd false (if bvb j.word 30 then poolGet r.pool false (j.f 25 5) n else (0, false))
            (promote q.frac none 1 ((List.range (j.sv 41)).map (fun e => (b.table.getD (j.sv 46 + e) []).getD
              (field (leVal (rdBytes s (.cb p (clusterOf l)) (lookAddr r j vs n e) (2 * b.wc))) (e % 16 * b.wc) b.wc)
              0)).sum)).1) ∧
        SameTables s t p l ∧ OtherReaches s t p l ∧ SameMemory s t ∧ SameTime s t)) ∧
    (r.task.wait = .look → (∃ t, exec (.rtLookStart p l) s = .next t) ∧ exec (.rtLookStart p l) s =
      exec (.matlLook p l) (s.updTask p l (fun t => { t with wait := .none })))) ∧
  (∀ (p : ParcelId) (l : ReachId) (s : State) (j : Job), j = headJob s p l → wOp j.word = 1 → bvb j.word 24 = true →
    Issues s p l (lookPlan s p l j) → lookStalls s p l j = true →
    exec (.matlLook p l) s = .next (s.updTask p l (fun t => { t with wait := .look })))

/-- Two transforms of a vector of 2^n elements multiply every element by 2^n (R113, R115). -/
def Obligations.HadamardTwice : Prop :=
  ∀ (n : Nat) (v : List Int), v.length = 2 ^ n → hadamard n 1 (hadamard n 1 v) = v.map (fun x => 2 ^ n * x)

/-- A RIFL writes each vector transformed, rounded and clamped to its width, at its own place, and no other byte; it
counts as saturated only when a clamp changed a value (R113, R174). The model's own choices in it: log 1. -/
def Obligations.RiffleRuns : Prop :=
  ∀ (p : ParcelId) (l : ReachId) (s : State) (j : Job) (q : Prof) (n src dst : Nat) (vec : Nat → List Int),
    j = headJob s p l → wOp j.word = 2 → Issues s p l (riflPlan s p l j) → q = prof j.prof → n = j.sv 34 →
    src = (s.reach p l).cbBase + j.sv 24 → dst = (s.reach p l).cbBase + j.sv 29 →
    (src + n * riflIn q ≤ dst ∨ dst + n * riflOut q ≤ src) → 2 ^ q.rfN * q.rfOut % 8 = 0 →
    vec = (fun i => riffleVector q ((List.range (2 ^ q.rfN)).map (fun e =>
      signed q.rfIn (field (leVal (rdBytes s (.cb p (clusterOf l)) (src + i * riflIn q) (riflIn q))) (e * q.rfIn) q.rfIn)))) →
    (s.cluster p (clusterOf l)).poison = [] → memWf (s.cluster p (clusterOf l)).buf = true →
    Gives (.rifl p l) s (fun t => Entered s t p l .riffle 0 .none ∧
      (∀ i < n, rdBytes t (.cb p (clusterOf l)) (dst + i * riflOut q) (riflOut q) =
        packBytes q.rfOut ((vec i).map (fun e =>
          unsignedBits q.rfOut (clampInt (signedLo q.rfOut) (signedHi q.rfOut) e)))) ∧
      (∀ k a, ¬ (k = .cb p (clusterOf l) ∧ dst ≤ a ∧ a < dst + n * riflOut q) → rdByte t k a = rdByte s k a) ∧
      ((∀ i < n, ∀ e ∈ vec i, signedLo q.rfOut ≤ e ∧ e ≤ signedHi q.rfOut) →
        ∀ f, (t.reach p l).flights.getLast? = some f → f.out = none) ∧
      (t.reach p l).pool = (s.reach p l).pool ∧ (t.reach p l).s = (s.reach p l).s ∧ SameTables s t p l ∧
      OtherReaches s t p l ∧ SameTime s t)

/-- A DLTA of one tile without statistics, group quantisation or stochastic rounding stores the converted outputs of
each row inside its extents at the row's address, and no other byte of any memory; the pool stays (R100, R175, R200,
R206). The model's own choices in it: log 1, 37, 38 and 95. -/
def Obligations.DeltaConverts : Prop :=
  ∀ (p : ParcelId) (l : ReachId) (s : State) (j : Job) (q : Prof) (v : Visit) (r : Reach) (cl : Cluster) (b : Nat)
    (addr : Nat → Nat),
    j = headJob s p l → wOp j.word = 3 → Issues s p l (dltPlan s p l j) → q = prof j.prof → v = dltTile j 0 →
    r = s.reach p l → cl = s.cluster p (clusterOf l) → b = outBits cl q → dltTiles j = 1 → dltStat j = 0 → q.gqMode = 0 →
    q.stoch = false → q.zb = false → bvb j.word 76 = false → normWidth r j = none →
    factorFault s p l j v (j.f 24 5) = none → 0 < dltRows j v → 0 < dltCols j v → dltCols j v * b % 8 = 0 → 0 < b →
    addr = (fun (row : Nat) => spAddr r (j.sv 34 + v.o + (row : Int) * trvStride j.trv 2)) →
    (∀ i < dltRows j v, ∀ k < dltRows j v, i ≠ k →
      addr i + dltCols j v * b / 8 ≤ addr k ∨ addr k + dltCols j v * b / 8 ≤ addr i) →
    r.spPoison = [] → memWf r.spad = true →
    Gives (.dlta p l) s (fun t => Entered s t p l .delta 0 .none ∧
      (∀ row < dltRows j v, ∀ c < dltCols j v, ∃ free,
        field (leVal (rdBytes t (.sp p l) (addr row) (dltCols j v * b / 8))) (c * b) b =
          (convert cl q r.actSeg (factorOf s p l j v) none 0 free
            (poolGet r.pool q.paired (j.f 24 5) (16 * row + c))).code % 2 ^ b) ∧
      (∀ k a, ¬ (k = .sp p l ∧ ∃ row < dltRows j v, addr row ≤ a ∧ a < addr row + dltCols j v * b / 8) →
        rdByte t k a = rdByte s k a) ∧
      (t.reach p l).pool = r.pool ∧ (t.reach p l).s = r.s ∧ SameTables s t p l ∧ OtherReaches s t p l ∧ SameClusters s t ∧
      SameTime s t)

/-- A dense MOVE (plain, into IMEM, a halo, a local copy) writes the bytes of its points, read as they stood (a local
copy: as the pieces of 512 B before theirs left them), and no other byte of any memory: its own queue sees them at once,
a write to stacked memory is posted for every other agent (R177, R178, R211, R224, R256, R356). An extent of 0 makes a
dense MOVE move nothing, with status 0 (R224). The model's own choices in it: log 1 and 86. -/
def Obligations.DenseMovesWrite : Prop :=
  (∀ (p : ParcelId) (l : ReachId) (s : State) (j : Job) (i : Instr) (dst : Space) (x : MvRun) (u : FuncUnit),
    j = headJob s p l → u = dmaUnitOf (mvParcel j) →
    wOp j.word = 4 → Issues s p l (mvPlan s p l j) →
    (i = .move p l ∧ mvForm s p j = .plain) ∨ (i = .moveImemLoad p l ∧ mvForm s p j = .imem) ∨
      (i = .moveHalo p l ∧ mvForm s p j = .halo) ∨ (i = .moveLocalCopy p l ∧ mvForm s p j = .localCopy) →
    mvEmpty j = false → mvBlocked s p l j = none → dst = (mvDst s p l j).space p l →
    x = moveRun s p l j → x.bad = none → poisoned s dst = [] →
    memWf (cells s dst) = true →
    Gives i s (fun t => Entered s t p l u 0 .none ∧
      (∀ k a, seenByte t p l u k a = if k = dst then (SMap.find x.ov a).getD (seenByte s p l u k a) else seenByte s p l u k a) ∧
      (∀ q, dst = .sm q → SameMemory s t ∧ t.posted = s.posted ++ (if x.ov = [] then [] else
        [{ p := q, writer := srcReach p l, unit := u, cells := x.ov }])) ∧
      ((∀ q, dst ≠ .sm q) → t.posted = s.posted ∧
        ∀ k a, rdByte t k a = if k = dst then (SMap.find x.ov a).getD (rdByte s k a) else rdByte s k a) ∧
      (t.reach p l).pool = (s.reach p l).pool ∧ (t.reach p l).s = (s.reach p l).s ∧ SameTables s t p l ∧
      (∀ q m, ¬ (q = p.val ∧ m = l.val) → t.reach q m = { s.reach q m with spad := (t.reach q m).spad }) ∧
      (j.pc.toNat + 16 < 16384 → t.book = s.book) ∧ SameTime s t)) ∧
  (∀ (p : ParcelId) (l : ReachId) (s : State) (j : Job), j = headJob s p l → wOp j.word = 4 → Issues s p l (mvPlan s p l j) →
    mvForm s p j = .plain → mvEmpty j = true →
    Gives (.move p l) s (fun t => Entered s t p l (if mvParcel j then .parcelDma else .reachDma) 0 .none ∧
      SameMemory s t ∧ OtherReaches s t p l ∧ SameTime s t))

/-- A MOVE of one run of `n` elements of whole bytes, with stride 1 on both sides, copies that many bytes from its
source to its destination as they stood before, whatever overlaps, once its posted writes are visible; a local copy does
so where one piece of 512 B holds the run or nothing overlaps (R222, R224, R256, R259). The model's own choices in it:
log 1 and 86. -/
def Obligations.MoveCopies : Prop :=
  ∀ (p : ParcelId) (l : ReachId) (s : State) (j : Job) (i : Instr) (lv : MLev) (src dst : Space) (a b w : Nat),
    j = headJob s p l → wOp j.word = 4 → Issues s p l (mvPlan s p l j) →
    (i = .move p l ∧ mvForm s p j = .plain) ∨ (i = .moveLocalCopy p l ∧ mvForm s p j = .localCopy ∧
      (lv.n * w ≤ 512 ∨ a + lv.n * w ≤ b ∨ b + lv.n * w ≤ a)) →
    mvBlocked s p l j = none → mvLs j = [lv] →
    lv.sa = 1 → lv.sw = 1 → lv.ext = lv.n → 0 < lv.n → mvOrg j.trv lv.dim = 0 → mvEw j.trv = 8 * w → 0 < w →
    (mvSrc s p l j).key = none → (mvDst s p l j).key = none →
    src = (mvSrc s p l j).space p l → dst = (mvDst s p l j).space p l →
    a = (mvSrc s p l j).base s p l + (mvSrc s p l j).addr → b = (mvDst s p l j).base s p l + (mvDst s p l j).addr →
    poisoned s src = [] → poisoned s dst = [] → memWf (cells s dst) = true → NonePosted s p l →
    Gives i s (fun t =>
      (∀ n < lv.n * w, rdByte (drainOf t (srcReach p l)) dst (b + n) = rdByte s src (a + n)) ∧
      (∀ k n, ¬ (k = dst ∧ b ≤ n ∧ n < b + lv.n * w) → rdByte (drainOf t (srcReach p l)) k n = rdByte s k n))

/-- A legal swizzle key is its own inverse, so no two offsets meet (R229, R230). -/
def Obligations.SwizzleInverts : Prop :=
  ∀ (r : Reach) (k o : Nat), bvf (SMap.get 0 r.swz k) 0 6 + (bvf (SMap.get 0 r.swz k) 6 3 + 1) ≤ bvf (SMap.get 0 r.swz k) 9 6 →
    swizzle (swzKey r k) (swizzle (swzKey r k) o) = o

/-- A CASC enters the cascade port: the first reach of a chain without a predecessor sends its entries on at once, any
other waits for its predecessor, and asks for the sum with READY over a river link (R80, R180, R325). A hop adds the own
entries to the arriving sum under the guard; the last reach of a chain that ends in its slot writes the sum there with
the mode tag, and nothing else of its pool (R70, R80). A CASC whose predecessor parcel is lost ends with status broken
and LINK_DOWN of its reach; one that waits for a chain broken on the device across its river link ends with status
broken; a tile from a river link becomes the sum of the reach that waits for it; a READY token with no CASC waiting is
kept, at most 16 (R82, R325). The model's own choices in it: log 1, 42, 44 and 102. -/
def Obligations.CascadesSend : Prop :=
  (∀ (p : ParcelId) (l : ReachId) (s : State) (j : Job), j = headJob s p l → wOp j.word = 7 → Issues s p l (cascPlan l j) →
    (l.val = caFirst j → caIn j = 0 → l.val ≠ caLast j → Gives (.casc p l) s (fun t =>
      Entered s t p l .cascadePort 0 .none ∧
      (t.parcel p).sums = (s.parcel p).sums ++ [{ dest := l + 1, first := caFirst j, last := caLast j
                                                  tag := BitVec.ofNat 16 (caTag j), paired := caPaired j, hop := 0
                                                  vals := slotVals (s.reach p l) (caPaired j) (caSlot j) }] ∧
      (t.reach p l).pool = (s.reach p l).pool ∧ OtherReaches s t p l ∧ SameMemory s t ∧ SameTime s t)) ∧
    (l.val ≠ caFirst j ∨ (caIn j ≠ 0 ∧ riverCode (caIn j) = false) → Gives (.casc p l) s (fun t =>
      Entered s t p l .cascadePort 0 .cascadeIn ∧ (t.parcel p).sums = (s.parcel p).sums ∧
      (t.reach p l).pool = (s.reach p l).pool ∧ OtherReaches s t p l ∧ SameClusters s t ∧ SameMemory s t ∧ SameTime s t)) ∧
    (∀ q, l.val = caFirst j → riverCode (caIn j) = true → portOfCode (caIn j) = some q → Gives (.casc p l) s (fun t =>
      Entered s t p l .cascadePort 0 .cascadeIn ∧
      (t.link p q).ctl = (s.link p q).ctl ++ [.ready (BitVec.ofNat 16 (caTag j))] ∧
      (t.parcel p).sums = (s.parcel p).sums ∧ (t.reach p l).pool = (s.reach p l).pool ∧ OtherReaches s t p l ∧
      SameClusters s t ∧ SameMemory s t ∧ SameTime s t))) ∧
  (∀ (p : ParcelId) (l : ReachId) (s : State) (f : Flight) (j : Job) (x : CascadeSum),
    s.datum.gated = none → cascWaiting s p l = some f → j = f.job → l.val = caLast j → caOut j = 0 →
    (s.parcel p).sums.find? (fun y => sumFor s p l j y && !y.vals.isEmpty) = some x → x.paired = caPaired j →
    tagDiffers (s.reach p l).paired x.paired (caSlot j) = false → x.vals.length = 256 →
    (∀ v ∈ x.vals, guardLo x.paired ≤ v.1 ∧ v.1 ≤ guardHi x.paired) → SMap.sorted (s.reach p l).pool = true →
    Gives (.cascadeHop p l) s (fun t =>
      (∀ i < 256, poolGet (t.reach p l).pool x.paired (caSlot j) i =
        (hopEntry x.paired (x.vals.getD i (0, false)) (poolGet (s.reach p l).pool x.paired (caSlot j) i)).1) ∧
      (∀ n, (∀ i < 256, n ≠ entryNo x.paired (caSlot j) i ∧ (x.paired = true → n ≠ entryNo x.paired (caSlot j) i + 1)) →
        SMap.find (t.reach p l).pool n = SMap.find (s.reach p l).pool n) ∧
      (t.parcel p).sums = dropSum (fun y => sumFor s p l j y && !y.vals.isEmpty) (s.parcel p).sums ∧
      (t.reach p l).s = (s.reach p l).s ∧ (t.reach p l).task = (s.reach p l).task ∧
      (∀ g ∈ (t.reach p l).flights, g.no = f.no → g.wait = .none) ∧
      OtherReaches s t p l ∧ SameMemory s t ∧ t.book = s.book ∧ SameTime s t)) ∧
  (∀ (p : ParcelId) (l : ReachId) (s : State),
    (∀ f, cascWaiting s p l = some f → predecessorLost s p l f.job = true →
      Gives (.cascadeBroken p l) s (fun t =>
        (∀ g ∈ (t.reach p l).flights, g.no = f.no → g.status = 1 ∧ g.wait = .none) ∧
        (t.reach p l).pool = (s.reach p l).pool ∧ (t.reach p l).s = (s.reach p l).s ∧
        (t.reach p l).task = (s.reach p l).task ∧
        t.book = (raise s (srcReach p l) 0x5001 (linkDownPayload s p (if caIn f.job = 1 then .ringPlus else .ringMinus) 6
          (linkCode (s.link p (if caIn f.job = 1 then .ringPlus else .ringMinus)).state))).book ∧
        OtherReaches s t p l ∧ SameMemory s t ∧ SameTime s t)) ∧
    (∀ f, cascWaiting s p l = some f → predecessorLost s p l f.job = false →
      (s.parcel p).sums.any (fun x => sumFor s p l f.job x && x.vals.isEmpty) = false →
      (l.val = caFirst f.job ∧ riverCode (caIn f.job) = true →
        Gives (.cascadeBroken p l) s (fun t =>
          (∀ g ∈ (t.reach p l).flights, g.no = f.no → g.status = 1 ∧ g.wait = .none) ∧
          (t.reach p l).pool = (s.reach p l).pool ∧ (t.reach p l).s = (s.reach p l).s ∧
          (t.reach p l).task = (s.reach p l).task ∧ t.book = s.book ∧
          OtherReaches s t p l ∧ SameMemory s t ∧ SameTime s t)) ∧
      (¬ (l.val = caFirst f.job ∧ riverCode (caIn f.job) = true) → exec (.cascadeBroken p l) s = .next s)) ∧
    (cascWaiting s p l = none → exec (.cascadeBroken p l) s = .next s) ∧
    (∀ (port : Port) (k : Packet) (m : Nat) (f : Flight), k.ptype = 4 → tooOld s k = false →
      k.pver.toNat ≤ (s.parcel p).fab.linkMax.toNat → SMap.find (s.parcel p).fab.genRec k.src.toNat = none →
      tileReach s p port k.tag.toNat = some (m, f) →
      Gives (.cascadeTileRx p port k) s (fun t =>
        (t.parcel p).sums = (s.parcel p).sums ++ [{ dest := m, first := caFirst f.job, last := caLast f.job, tag := k.tag
                                                    paired := (tileVals k.body).1, hop := 0, vals := (tileVals k.body).2 }] ∧
        SameReaches s t ∧ SameMemory s t ∧ t.book = s.book ∧ SameTime s t)) ∧
    (∀ (port : Port) (tag : BitVec 16), (s.link p port).state = .up → isRiver port = true → tokenReach s p port tag = none →
      exec (.readyTokenRx p port tag) s = .next (s.updLink p port (fun k =>
        if k.tokens.length < 16 then { k with tokens := k.tokens ++ [tag] } else k))) ∧
    (∀ (port : Port) (tag : BitVec 16), (s.link p port).state ≠ .up → exec (.readyTokenRx p port tag) s = .next s))

/-- A CONF within the parcel sends one add for each output inside its extents, in entry order, and waits for their
answers; an add joins those that wait in the order of arrival, and among the arrivals of one cycle by device, parcel and
reach (R84, R181). An add at its controller is the saturating sum of the word and the value in the lowest enabled region
that holds the word with its width, and every other byte stays; an add that finds no such region, or meets a parcel in
CONTAIN, writes nothing, raises BOUND and is answered refused (R83, R84, R85, R86, R408). A confluence row from another
device joins the controllers as one add for each column of its mask; an answer, or the time-out Q after the row was
sent, ends the wait of its CONF, refused where the mask or the time says so; an answer packet that is too old is dropped
(R314, R324). The model's own choices in it: log 1 and 18. -/
def Obligations.ConfluencesAdd : Prop :=
  (∀ (p : ParcelId) (l : ReachId) (s : State) (j : Job) (os : List (Nat × Nat × Int × Option Bool)), j = headJob s p l →
    wOp j.word = 8 → Issues s p l (confPlan s p l j) → cfRemote s j = false → os = confOuts (s.reach p l) j →
    (∀ o ∈ os, sysParcel (cfAddr j o.1 o.2.1) = p.val) →
    Gives (.conf p l) s (fun t => Entered s t p l .reachDma 0 (.adds (cfM j * cfN j)) ∧
      (t.parcel p).adds = os.foldl (fun m o => insertAdd
        { addr := sysByte (cfAddr j o.1 o.2.1), wide := cfWide j, value := o.2.2.1, dev := BitVec.ofNat 14 s.dev
          parcel := p, reach := l, flight := (s.reach p l).task.issueNo + 1, col := 16 * o.1 + o.2.1, arrived := s.wall } m)
        (s.parcel p).adds ∧
      (t.reach p l).pool = (s.reach p l).pool ∧ (t.reach p l).s = (s.reach p l).s ∧ SameTables s t p l ∧
      OtherReaches s t p l ∧ SameClusters s t ∧ SameMemory s t ∧ SameTime s t)) ∧
  (∀ (a x : ConfAdd) (l r : List ConfAdd), (∀ y ∈ l, y.arrived ≠ a.arrived ∨ y.sourceKey ≤ a.sourceKey) →
    x.arrived = a.arrived → a.sourceKey < x.sourceKey →
    insertAdd a l = l ++ [a] ∧ insertAdd a (l ++ x :: r) = l ++ a :: x :: r) ∧
  (∀ (p : ParcelId) (s : State) (a : ConfAdd) (rest : List ConfAdd) (w : Nat) (v : Int), (s.parcel p).adds = a :: rest →
    w = (if a.wide then 8 else 4) → a.rowId = none → memWf (s.parcel p).mem = true → s.upsets = [] →
    v = signed (8 * w) (leVal (rdBytes s (.sm p) a.addr w)) + a.value →
    (∀ k, (s.parcel p).state ≠ .contain → addRegion s p a = some k → (s.parcel p).poison = [] →
      Gives (.confluenceAdd p) s (fun t =>
        leVal (rdBytes t (.sm p) a.addr w) =
          unsignedBits (8 * w) (clampInt (-(2 ^ (8 * w - 1) : Nat)) ((2 ^ (8 * w - 1) : Nat) - 1) v) ∧
        (∀ m i, ¬ (m = .sm p ∧ a.addr ≤ i ∧ i < a.addr + w) → rdByte t m i = rdByte s m i) ∧
        (t.parcel p).adds = rest ∧
        ((-(2 ^ (8 * w - 1) : Nat) : Int) ≤ v → v < (2 ^ (8 * w - 1) : Nat) →
          t.book = s.book ∧ (t.parcel p).region = (s.parcel p).region) ∧
        (v < (-(2 ^ (8 * w - 1) : Nat) : Int) ∨ ((2 ^ (8 * w - 1) : Nat) : Int) ≤ v →
          bvb (SMap.get 0 (t.parcel p).region k) 2 = true ∧
          t.book = (raise s (srcParcel p 0) 0x6003
            (packFields [(1, k), (8, errAddress s (.sm p) a.addr), (2, srcReach a.parcel a.reach)] [])).book) ∧
        (∀ f ∈ (t.reach a.parcel a.reach).flights, f.no = a.flight → ∃ g ∈ (s.reach a.parcel a.reach).flights,
          g.no = a.flight ∧ f.status = g.status ∧ ∀ n, g.wait = .adds n → f.wait = .adds (n - 1)) ∧
        SameTime s t)) ∧
    ((s.parcel p).state = .contain ∨ addRegion s p a = none →
      Gives (.confluenceAdd p) s (fun t =>
        SameMemory s t ∧ (t.parcel p).adds = rest ∧ (t.parcel p).region = (s.parcel p).region ∧
        t.book = (raise s (srcParcel p 0) 0x3002 (boundPayload 0xFFFFFFFF (if (s.parcel p).state = .contain then 4 else 2) 0xFF 2
          p a.addr (a.addr + w - 1) 0 (srcReach a.parcel a.reach))).book ∧
        (∀ f ∈ (t.reach a.parcel a.reach).flights, f.no = a.flight → f.status = 2) ∧ SameTime s t))) ∧
  (∀ (p : ParcelId) (s : State),
    (∀ (k : Packet) (cols : List Nat) (wide : Bool) (w : Nat), k.ptype = 2 → tooOld s k = false →
      k.pver.toNat ≤ (s.parcel p).fab.linkMax.toNat → SMap.find (s.parcel p).fab.genRec k.src.toNat = none →
      cols = (List.range 16).filter (fun c => (leVal ((k.body.drop 8).take 2)).testBit c) → cols ≠ [] →
      wide = bit (leVal ((k.body.drop 10).take 1)) 0 → w = (if wide then 8 else 4) →
      Gives (.confluenceRowRx p k) s (fun t =>
        (t.parcel p).adds = cols.foldl (fun m c => insertAdd
          { addr := (leVal (k.body.take 8) + c * w) % 2 ^ 35, wide := wide
            value := signed (8 * w) (leVal ((k.body.drop (16 + c * w)).take w)), dev := k.src, parcel := p, reach := 0
            flight := 0, rowId := some k.id, col := c, arrived := s.wall
            via := srcParcel p ((entryPort k).elim 11 (fun q => 2 + portNo q)) } m) (s.parcel p).adds ∧
        (t.parcel p).fab.rowAnswers =
          (s.parcel p).fab.rowAnswers ++ [{ src := k.src, id := k.id, left := cols.length, mask := 0 }] ∧
        SMap.find (t.parcel p).fab.genRec k.src.toNat = some k.gen ∧
        SameReaches s t ∧ SameMemory s t ∧ t.book = s.book ∧ SameTime s t)) ∧
    (∀ (id mask : BitVec 16) (x : Outstanding), (s.parcel p).fab.rows.find? (fun y => y.id == id) = some x →
      (inInbox s p 3 id = none ∨ (∃ k, inInbox s p 3 id = some k ∧ tooOld s k = false ∧
        k.pver.toNat ≤ (s.parcel p).fab.linkMax.toNat ∧ SMap.find (s.parcel p).fab.genRec k.src.toNat = none) →
        Gives (.confluenceAnswerRx p id mask) s (fun t =>
          (t.parcel p).fab.rows = (s.parcel p).fab.rows.filter (fun y => y.id != id) ∧
          (∀ f ∈ (t.reach p x.reach).flights, f.no = x.flight → ∃ g ∈ (s.reach p x.reach).flights, g.no = x.flight ∧
            f.status = (if mask = 0 ∧ s.datum.count < x.count + 2 * bvf s.hub.torus 32 8 then g.status else 2) ∧
            ∀ n, g.wait = .adds n → f.wait = .adds (n - x.adds)) ∧
          SameMemory s t ∧ t.book = s.book ∧ t.hub = s.hub ∧ SameTime s t)) ∧
      (∀ k, inInbox s p 3 id = some k → tooOld s k = true →
        Gives (.confluenceAnswerRx p id mask) s (fun t => (t.parcel p).fab.rows = (s.parcel p).fab.rows ∧ SameReaches s t ∧
          (t.parcel p).fab.inbox = dropInbox k (s.parcel p).fab.inbox ∧ SameMemory s t ∧ t.book = s.book ∧ SameTime s t))) ∧
    (∀ (id : BitVec 16) (x : Outstanding), (s.parcel p).fab.rows.find? (fun y => y.id == id) = some x →
      (x.count + 2 * bvf s.hub.torus 32 8 ≤ s.datum.count →
        Gives (.confluenceAnswerTimeout p id) s (fun t =>
          (t.parcel p).fab.rows = (s.parcel p).fab.rows.filter (fun y => y.id != id) ∧
          (∀ f ∈ (t.reach p x.reach).flights, f.no = x.flight → f.status = 2) ∧
          SameMemory s t ∧ t.book = s.book ∧ t.hub = s.hub ∧ SameTime s t)) ∧
      (s.datum.count < x.count + 2 * bvf s.hub.torus 32 8 → exec (.confluenceAnswerTimeout p id) s = .next s)))

/-- A save writes the image of the pool (entry words, mode tags, row statistics) from its address on and no other byte,
as its queue sees it and every other agent once the write that it posts is visible (R356); a restore takes entries, tags
and statistics from an image whose tags pair, ignoring bit 36 of the upper word of a paired value, and ends with
ILLEGAL_ENCODING and status faulted where they do not (R77, R78, R178). A MOVE into the send aperture sends the bytes
that it would write as one message; a channel that does not send counts it as refused; with no free identifier it waits,
and MESSAGE_ID_AVAILABLE sends it (R317, R318, R319, R323). The model's own choices in it: log 1 and 86. -/
def Obligations.PoolsAndMessagesLeave : Prop :=
  (∀ (p : ParcelId) (l : ReachId) (s : State) (j : Job), j = headJob s p l → wOp j.word = 4 → Issues s p l (mvPlan s p l j) →
    (s.parcel p).poison = [] →
    (∀ (a : Nat) (ph : Int → Nat), mvForm s p j = .poolSave → memWf (s.parcel p).mem = true → a = (mvDst s p l j).addr →
      ph = (mvDst s p l j).phys s p l → (∀ k, (mvDst s p l j).key = some k → k.tgt + k.n ≤ k.src) →
      Gives (.movePoolSave p l) s (fun t => Entered s t p l .reachDma 0 .none ∧
        (∀ i : Nat, i < 65856 → seenByte t p l .reachDma (.sm p) (ph (a + i)) = (poolImage (s.reach p l)).getD i 0) ∧
        (∀ k b, ¬ (k = .sm p ∧ ∃ i : Nat, i < 65856 ∧ b = ph (a + i)) →
          seenByte t p l .reachDma k b = seenByte s p l .reachDma k b) ∧
        SameMemory s t ∧ (∃ w, t.posted = s.posted ++ [w] ∧ w.writer = srcReach p l ∧ w.fenced = false) ∧
        (t.reach p l).pool = (s.reach p l).pool ∧ (t.reach p l).s = (s.reach p l).s ∧ SameTables s t p l ∧
        OtherReaches s t p l ∧ SameClusters s t ∧ SameTime s t)) ∧
    (∀ (a : Nat) (b : Nat → Nat → Nat), mvForm s p j = .poolRestore → a = (mvSrc s p l j).addr →
      b = (fun (o n : Nat) => leVal ((List.range n).map (fun (i : Nat) => seenByte s p l .reachDma (.sm p) ((mvSrc s p l j).phys s p l ((a + o + i : Nat) : Int))))) →
      ((∀ i < 16, (b 65536 4).testBit (2 * i) = (b 65536 4).testBit (2 * i + 1)) →
        Gives (.movePoolRestore p l) s (fun t => Entered s t p l .reachDma 0 .none ∧
          (∀ n < 8192, (SMap.get {} (t.reach p l).pool n).v = BitVec.ofNat 36 (b (8 * n) 8) ∧
            (SMap.get {} (t.reach p l).pool n).ovf =
              ((b (8 * n) 8).testBit 36 && !((b 65536 4).testBit (n / 256) && n % 2 == 1))) ∧
          (t.reach p l).paired = BitVec.ofNat 32 (b 65536 4) ∧
          (∀ i < 16, (SMap.get {} (t.reach p l).stats i).mx = signed 64 (b (65600 + 16 * i) 8) ∧
            (SMap.get {} (t.reach p l).stats i).sum = BitVec.ofNat 64 (b (65608 + 16 * i) 8)) ∧
          (t.reach p l).s = (s.reach p l).s ∧ SameTables s t p l ∧ OtherReaches s t p l ∧ SameClusters s t ∧ SameMemory s t ∧
          SameTime s t)) ∧
      ((∃ i < 16, (b 65536 4).testBit (2 * i) ≠ (b 65536 4).testBit (2 * i + 1)) →
        Gives (.movePoolRestore p l) s (fun t => (∃ w, Entered s t p l .reachDma 3 w) ∧
          (t.reach p l).task.issuing = false ∧ (t.reach p l).pool = (s.reach p l).pool ∧
          (t.reach p l).paired = (s.reach p l).paired ∧ (t.reach p l).stats = (s.reach p l).stats ∧
          t.book = (raise s (srcReach p l) 0x1011
            (illegalPayload 4 0xFF 0xFFFF 0xFFFFFFFF (mvSrc s p l j).full 0)).book ∧
          OtherReaches s t p l ∧ SameClusters s t ∧ SameMemory s t ∧ SameTime s t)))) ∧
  (∀ (p : ParcelId) (l : ReachId) (s : State),
    (∀ (j : Job) (x : MvRun) (off : Nat) (w : BitVec 128), j = headJob s p l → wOp j.word = 4 →
      Issues s p l (mvPlan s p l j) → mvForm s p j = .message → mvEmpty j = false → mvBlocked s p l j = none →
      x = messageRun s p l j → x.bad = none → off = (x.ov.head?).elim 0 (fun c => c.1) →
      w = SMap.get 0 (s.parcel p).fab.chan (field off 24 6) →
      (messageHeld s p l j = false → bvb w 0 = true → Sendable s p (bvf w 1 14) →
        Gives (.moveMessageSend p l) s (fun t => Entered s t p l (if mvParcel j then .parcelDma else .reachDma) 0 .none ∧
          MessageSent s t p l ((s.reach p l).task.issueNo + 1) off (x.ov.map (fun c => c.2)) ∧
          OtherReaches s t p l ∧ SameClusters s t ∧ SameMemory s t ∧ SameTime s t)) ∧
      (messageHeld s p l j = false → bvb w 0 = false →
        Gives (.moveMessageSend p l) s (fun t => Entered s t p l (if mvParcel j then .parcelDma else .reachDma) 0 .none ∧
          (t.parcel p).fab = { (s.parcel p).fab with
            chan := SMap.put (s.parcel p).fab.chan (field off 24 6) (putField w 96 16 (min (bvf w 96 16 + 1) 65535)) } ∧
          OtherReaches s t p l ∧ SameClusters s t ∧ SameMemory s t ∧ SameTime s t)) ∧
      (messageHeld s p l j = true →
        Gives (.moveMessageSend p l) s (fun t => Entered s t p l (if mvParcel j then .parcelDma else .reachDma) 0 .msgId ∧
          (t.parcel p).fab = (s.parcel p).fab ∧ OtherReaches s t p l ∧ SameClusters s t ∧ SameMemory s t ∧
          SameTime s t))) ∧
    (∀ (f : Flight) (x : MvRun) (off : Nat) (w : BitVec 128),
      (s.reach p l).flights.find? (fun f => decide (f.wait = .msgId)) = some f →
      (∀ g ∈ (s.reach p l).flights, g.wait ≠ .turn) → s.upsets = [] →
      messageHeld s p l f.job = false → mvEmpty f.job = false → mvBlocked s p l f.job = none →
      x = messageRun s p l f.job → x.bad = none → off = (x.ov.head?).elim 0 (fun c => c.1) →
      w = SMap.get 0 (s.parcel p).fab.chan (field off 24 6) → bvb w 0 = true → Sendable s p (bvf w 1 14) →
      Gives (.messageIdAvailable p l) s (fun t =>
        (t.reach p l).flights = (s.reach p l).flights.map (fun g => if g.no = f.no then { g with wait := .none } else g) ∧
        (t.reach p l).task = (s.reach p l).task ∧ (t.reach p l).s = (s.reach p l).s ∧
        MessageSent s t p l f.no off (x.ov.map (fun c => c.2)) ∧
        OtherReaches s t p l ∧ SameClusters s t ∧ SameMemory s t ∧ t.book = s.book ∧ SameTime s t)) ∧
    ((s.reach p l).flights.find? (fun f => decide (f.wait = .msgId)) = none →
      (∀ g ∈ (s.reach p l).flights, g.wait ≠ .turn) →
      exec (.messageIdAvailable p l) s = .next s))

/-- A MOVE that expands or stores compressed data writes the bytes that its blocks make on the destination, the bit
vectors of an expansion into the scratchpad of its reach, and no other byte; a write to stacked memory is posted, and
its queue sees it (R235, R237, R238, R356). A GATH or SCAT moves the elements that its index tensor or its list names
and writes no other byte: through an index tensor in one walk over its points, through a list, whose entries all hold,
block by block; with a count of 0 it moves nothing (R179, R225, R233, R234). The model's own choices in it: log 1, 21
and 86. -/
def Obligations.CompressedAndListedMoves : Prop :=
  (∀ (p : ParcelId) (l : ReachId) (s : State) (j : Job) (i : Instr) (dst : Space) (x : CompRun) (u : FuncUnit),
    j = headJob s p l → u = dmaUnitOf (mvParcel j) →
    wOp j.word = 4 → Issues s p l (mvPlan s p l j) → dst = (mvDst s p l j).space p l →
    (i = .moveExpand p l ∧ mvForm s p j = .expand ∧ x = (mvVecs j).foldl (expandVec s p l j) {}) ∨
      (i = .moveStoreUnstructured p l ∧ mvForm s p j = .unstructured ∧ x = storeRun s p l j (makeUnstructured j)) ∨
      (i = .moveStore24 p l ∧ mvForm s p j = .store24 ∧ x = storeRun s p l j (make24 j)) ∨
      (i = .moveStore24Masked p l ∧ mvForm s p j = .masked24 ∧ x = storeRun s p l j (makeMasked j)) →
    mvBlocked s p l j = none → x.fail = none → poisoned s dst = [] → (s.reach p l).spPoison = [] →
    memWf (cells s dst) = true → memWf (s.reach p l).spad = true →
    Gives i s (fun t => Entered s t p l u 0 .none ∧
      (∀ k a, seenByte t p l u k a = if mvEmpty j then seenByte s p l u k a
        else (if k = .sp p l then SMap.find x.map a else none).getD
          ((if k = dst then SMap.find x.ov a else none).getD (seenByte s p l u k a))) ∧
      (∀ q, dst = .sm q → (∀ k a, k ≠ .sp p l → rdByte t k a = rdByte s k a) ∧
        t.posted = s.posted ++ (if mvEmpty j ∨ x.ov = [] then [] else
          [{ p := q, writer := srcReach p l, unit := u, cells := x.ov }])) ∧
      ((∀ q, dst ≠ .sm q) → t.posted = s.posted) ∧
      (t.reach p l).pool = (s.reach p l).pool ∧ (t.reach p l).s = (s.reach p l).s ∧ SameTables s t p l ∧
      (∀ q m, ¬ (q = p.val ∧ m = l.val) → t.reach q m = { s.reach q m with spad := (t.reach q m).spad }) ∧
      (j.pc.toNat + 16 < 16384 → t.book = s.book) ∧ SameTime s t)) ∧
  (∀ (p : ParcelId) (l : ReachId) (s : State) (j : Job) (i : Instr), j = headJob s p l →
    (i = .gath p l ∧ wOp j.word = 5) ∨ (i = .scat p l ∧ wOp j.word = 6) → Issues s p l (gsPlan s p l j) →
    (gsCnt j = 0 → Gives i s (fun t => Entered s t p l (if gsParcel j then .parcelDma else .reachDma) 0 .none ∧
      SameMemory s t ∧ OtherReaches s t p l ∧ SameTime s t)) ∧
    (∀ (x : MvRun) (dst : Space), gsCnt j ≠ 0 → gsParcel j = false → dst = (gsDst l j).space p l →
      x = ((gsCounts j).zip (gsPoints s p l j)).foldl (indexedStep s p l j (gsDense s p l j)) {} → x.bad = none →
      poisoned s dst = [] → memWf (cells s dst) = true →
      Gives i s (fun t => Entered s t p l .reachDma 0 .none ∧
        (∀ k a, seenByte t p l .reachDma k a = if k = dst then (SMap.find x.ov a).getD (seenByte s p l .reachDma k a)
          else seenByte s p l .reachDma k a) ∧
        (∀ q, dst = .sm q → SameMemory s t) ∧
        (t.reach p l).pool = (s.reach p l).pool ∧ (t.reach p l).s = (s.reach p l).s ∧ SameTables s t p l ∧
        OtherReaches s t p l ∧ (j.pc.toNat + 16 < 16384 → t.book = s.book) ∧ SameTime s t)) ∧
    (∀ (x : ListRun) (loc : Space), gsCnt j ≠ 0 → gsParcel j = true → listStop s p l j = none → x = listRun s p l j none →
      x.bad = none → loc = (gsLocSide l j).space p l → poisoned s loc = [] → memWf (cells s loc) = true →
      (∀ q, (s.parcel q).poison = [] ∧ memWf (s.parcel q).mem = true) →
      Gives i s (fun t => Entered s t p l .parcelDma 0 .none ∧
        (∀ a, rdByte t loc a = (SMap.find x.ov a).getD (rdByte s loc a)) ∧
        (∀ q a, seenByte t p l .parcelDma (.sm q) a =
          (SMap.find (SMap.get [] x.blocks q) a).getD (seenByte s p l .parcelDma (.sm q) a)) ∧
        (∀ k a, k ≠ loc → rdByte t k a = rdByte s k a) ∧
        (t.reach p l).pool = (s.reach p l).pool ∧ (t.reach p l).s = (s.reach p l).s ∧ SameTables s t p l ∧
        OtherReaches s t p l ∧ (j.pc.toNat + 16 < 16384 → t.book = s.book) ∧ SameTime s t)) ∧
    (∀ (n r : Nat) (x : ListRun), gsCnt j ≠ 0 → gsParcel j = true → listStop s p l j = some n → entryBad s p l j n = some r →
      x = listRun s p l j (some n) → x.bad = none →
      (∀ q, (s.parcel q).poison = []) → poisoned s ((gsLocSide l j).space p l) = [] →
      Gives i s (fun t => (∃ w, Entered s t p l .parcelDma 3 w) ∧ (t.reach p l).task.issuing = false ∧
        t.book = (raise s (srcParcel p 1) 0x3004 (listFail s p l j n r).payload).book ∧
        OtherReaches s t p l ∧ SameTime s t)))

/-- An unstructured block, as a store makes it, passes every check, has the length that its count gives, and expands to
the codes that it was made from (R132, R133, R145, R238). -/
def Obligations.BlocksGiveBack : Prop :=
  ∀ (e no zc first ext addr : Nat) (codes : List Nat), e ≤ 4 → codes.length ≤ 128 → (∀ c ∈ codes, c < 2 ^ 2 ^ e) →
    first + codes.length ≤ ext → ∀ bs, bs = encodeBlock (2 ^ e) no (keptOf zc codes) →
      blockBad bs first ext addr = none ∧ bs.length = blockLen (2 ^ e) (bs.getD 0 0).toNat ∧
      (denseOf zc codes.length (blockPairs (2 ^ e) bs)).1 = codes

/-- The checksum of a block makes the sum of every little-endian halfword of the padded block, the checksum included, 0
modulo 2^16; the block 7 of the spec's example, with indices 3 and 9 and 4-bit codes 5 and 12, has 0xF62F (R133). -/
def Obligations.BlockChecksum : Prop :=
  (∀ (b no : Nat) (kept : List (Nat × Nat)) (bytes : List Byte), b ≤ 16 → kept.length ≤ 128 → bytes = encodeBlock b no kept →
    (∀ x ∈ kept, x.1 < 128) → bytes.length % 2 = 0 ∧
    ((List.range (bytes.length / 2)).map (fun i => leVal ((bytes.drop (2 * i)).take 2))).foldl (· + ·) 0 % 65536 = 0) ∧
  (encodeBlock 4 7 [(3, 5), (9, 12)]).length = 16 ∧
  leVal (((encodeBlock 4 7 [(3, 5), (9, 12)]).drop 2).take 2) = 0xF62F

/-- STAKE_REACHED completes a WAIT, opens a STEP or denies it, and starts an armed instruction, once its stake has come;
it changes nothing else, and nothing at all while the datum is UNSET, while the clocks are gated, or with nothing bound
(R183, R270, R273, R276, R281, R426). At its closing stake a step whose work is finished closes; one with work left
raises STEP_OVERRUN, counts it, and is stretched or, under abort, cuts its instructions short with status aborted, each
keeping the first of its pieces (one that has not started keeps none) and the others as they stood before, and goes on
at the next STAK; a stretch ends with its work, and `last` takes its length (R277, R279, R280, R286). The model's own
choices in it: log 3, 19, 26, 27 and 103. -/
def Obligations.StakesAreReached : Prop :=
  (∀ (p : ParcelId) (l : ReachId) (s : State) (j : Job) (st : Stake), j = headJob s p l →
    (Alone s p l → SMap.sorted (s.reach p l).s = true → st.le (s.now p) = true → (s.reach p l).task.step = none →
      (s.reach p l).task.drain = false → (∀ f ∈ (s.reach p l).flights, ∀ st', f.wait ≠ .stake st') →
      held s p l j {} = false →
      (s.reach p l).task.issuing = true → j.pc.toNat + 16 < 16384 → bvf j.word 24 3 < 2 → wOp j.word = 10 →
      ((s.reach p l).task.wait = .stake st false →
        Gives (.stakeReached p) s (fun t => Completed s t p l 0 ∧ (t.reach p l).task.wait = .none ∧
          OtherReaches s t p l ∧ SameClusters s t ∧ SameMemory s t ∧ t.book = s.book ∧ t.hub = s.hub ∧ SameTime s t)) ∧
      (∀ alw len rate, (s.reach p l).task.wait = .stake st true → opensSteps s p = true →
        alw = ((s.reach p l).scalar (bvf j.word 37 5)).toNat → len = ((s.reach p l).scalar (bvf j.word 42 5)).toNat →
        rate = stepRate alw len (s.nc p) s.tickNs →
        (denial s p rate len = none → (s.now p).lt (st.plus len (s.nc p)) = true →
          Gives (.stakeReached p) s (fun t => Completed s t p l 0 ∧ (t.reach p l).task.wait = .none ∧
            (t.reach p l).task.step = some { opening := st, closing := st.plus len (s.nc p), abort := bvb j.word 47
                                             alw := alw, rate := rate } ∧
            OtherReaches s t p l ∧ SameClusters s t ∧ SameMemory s t ∧ t.book = s.book ∧ t.hub = s.hub ∧ SameTime s t)) ∧
        (∀ reason, denial s p rate len = some reason → wOp (fetchWord (s.reach p l) (j.pc.toNat + 16)) = 10 →
          bvf (fetchWord (s.reach p l) (j.pc.toNat + 16)) 24 3 = 1 →
          Gives (.stakeReached p) s (fun t => (t.reach p l).task.pc = j.pc + 16 ∧ (t.reach p l).task.step = none ∧
            (t.reach p l).task.left = some (st.plus len (s.nc p)) ∧
            (∀ n, (t.reach p l).scalar n = if n = wSd j.word ∧ n ≠ 0 then 5 else (s.reach p l).scalar n) ∧
            t.book = (raise s (srcReach p l) 0x7002 (packFields [(8, st.count), (2, st.off), (8, alw), (4, rate),
              (4, ledger s p), (4, budget s p), (1, reason)] [])).book ∧
            OtherReaches s t p l ∧ SameClusters s t ∧ SameMemory s t ∧ t.hub = s.hub ∧ SameTime s t)))) ∧
    (∀ (f : Flight) (x : MvRun) (dst : Space) (u : FuncUnit), Alone s p l → Undisturbed s p l → u = dmaUnitOf (mvParcel f.job) → (s.reach p l).task.step = none →
      (∀ st' b, (s.reach p l).task.wait ≠ .stake st' b) → (s.reach p l).flights = [f] → f.wait = .stake st →
      st.le (s.now p) = true → wOp f.job.word = 4 → mvForm s p f.job = .plain → mvEmpty f.job = false →
      mvBlocked s p l f.job = none → dst = (mvDst s p l f.job).space p l →
      x = moveRun s p l f.job → x.bad = none → poisoned s dst = [] → memWf (cells s dst) = true →
      Gives (.stakeReached p) s (fun t =>
        (∃ undo, (t.reach p l).flights = [{ f with wait := .none, undo := undo }]) ∧
        (∀ k a, seenByte t p l u k a = if k = dst then (SMap.find x.ov a).getD (seenByte s p l u k a) else seenByte s p l u k a) ∧
        (∀ q, dst = .sm q → SameMemory s t ∧ t.posted = s.posted ++ (if x.ov = [] then [] else
          [{ p := q, writer := srcReach p l, unit := u, cells := x.ov }])) ∧
        ((∀ q, dst ≠ .sm q) → t.posted = s.posted ∧
          ∀ k a, rdByte t k a = if k = dst then (SMap.find x.ov a).getD (rdByte s k a) else rdByte s k a) ∧
        (t.reach p l).task = (s.reach p l).task ∧ (t.reach p l).s = (s.reach p l).s ∧
        (t.reach p l).pool = (s.reach p l).pool ∧ OtherReaches s t p l ∧ t.book = s.book ∧ SameTime s t)) ∧
    (s.datum.state = .unset ∨ s.datum.gated ≠ none ∨ bounds s p = [] → exec (.stakeReached p) s = .next s)) ∧
  (∀ (p : ParcelId) (l : ReachId) (s : State) (o : OpenStep), (s.reach p l).task.step = some o →
    (∀ st b, (s.reach p l).task.wait ≠ .stake st b) → (∀ f ∈ (s.reach p l).flights, ∀ st, f.wait ≠ .stake st) →
    (Alone s p l → o.closing.le (s.now p) = true → o.stretched = false → o.late = false →
      (workFinished (s.reach p l) o.closing = true →
        exec (.stakeReached p) s = .next (s.updReach p l (fun r => { r with
          task := { r.task with step := none }, flights := r.flights.map (fun f => { f with inStep := false }) }))) ∧
      (workFinished (s.reach p l) o.closing = false → o.abort = false → (s.reach p l).task.overruns.toNat < 65535 →
        Gives (.stakeReached p) s (fun t =>
          (t.reach p l).task = { (s.reach p l).task with overruns := (s.reach p l).task.overruns + 1
                                                         step := some { o with stretched := true } } ∧
          (t.reach p l).flights = (s.reach p l).flights ∧
          t.book = (raise s (srcReach p l) 0x4001 (overrunPayload l o (workLeft (s.reach p l)))).book ∧
          OtherReaches s t p l ∧ SameClusters s t ∧ SameMemory s t ∧ t.hub = s.hub ∧ SameTime s t)) ∧
      (∀ f, (s.reach p l).flights = [f] → f.inStep = true → f.unit ≠ .tally → f.unit ≠ .sequencer → f.status ≠ 3 →
        NonePosted s p l → o.abort = true → (s.reach p l).task.issuing = true → (s.reach p l).task.wait = .none →
        (s.reach p l).task.pc.toNat < 16384 → wOp (headJob s p l).word = 10 → bvf (headJob s p l).word 24 3 = 1 →
        Gives (.stakeReached p) s (fun t =>
          (t.reach p l).flights.map (fun g => (g.no, g.job, g.wait, g.status, g.inStep)) = [(f.no, f.job, .none, 6, false)] ∧
          (∃ (n : Nat) (u : State), n ≤ f.undo.length ∧ (f.wait.unstarted = true → n = 0) ∧
            u = (f.undo.drop n).reverse.foldl (undoPiece p l f) s ∧ (t.reach p l).pool = (u.reach p l).pool ∧
            OtherReaches u t p l ∧ SameClusters u t ∧ SameMemory u t) ∧
          (t.reach p l).task.step = none ∧ (t.reach p l).task.pc = (s.reach p l).task.pc ∧
          (t.reach p l).task.wait = .scan ∧ (t.reach p l).task.run = true ∧ (t.reach p l).s = (s.reach p l).s ∧
          t.book = (raise s (srcReach p l) 0x4001 (overrunPayload l o [f])).book ∧ t.hub = s.hub ∧ SameTime s t))) ∧
    (o.stretched = true → workFinished (s.reach p l) o.closing = true →
      exec (.stretchEnd p l) s = .next (s.updReach p l (fun r => { r with
        task := { r.task with
          step := none
          lastStretch := BitVec.ofNat 32 (min ((s.datum.count * s.nc p + s.offset p) -
            (o.closing.count * s.nc p + o.closing.off)) (2 ^ 32 - 1))
          left := some o.closing, atOnce := true }
        flights := r.flights.map (fun f => { f with inStep := false }) }))) ∧
    (o.stretched = false ∨ workFinished (s.reach p l) o.closing = false → exec (.stretchEnd p l) s = .next s))

/-- At a tick boundary a schedule entry whose tick has come, with no due entry before it, fires its action on the
parcels of its mask and clears valid; one that is not due, one that another precedes, or whose action is another, does
nothing (R32, R283, R284, R412, R413, R430, R431, R446). At a tick boundary that no open step spans, once the closing
steps, the remaps and, for a clock, the lock are done (R32), a parcel takes the clock that schedule and caps give and
the bank that a lock switch-over named, with issue held until nothing is in flight; at any other time, before its turn,
and while a step spans the boundary, neither changes; a restart of the surveyor ends (R285, R308, R412, R413, R430). The
model's own choices in it: log 19, 50, 55 and 56. -/
def Obligations.ScheduleFires : Prop :=
  (∀ (k : Fin 16) (s : State) (e : BitVec 128) (ps : Nat), e = schedEntry s k → ps = bvf e 4 8 →
    (bvb e 0 = true → s.datum.state ≠ .unset → s.datum.gated = none → s.phase = 0 → bvf e 64 64 ≤ s.datum.count →
      (∀ a ∈ s.hub.sched, bvb a.2 0 = true → bvf a.2 64 64 ≤ s.datum.count → schBefore a (k, e) = false) →
      (bvf e 1 3 = 0 → exec (.schedNone k) s = .next (fired s k)) ∧
      (bvf e 1 3 = 1 → Gives (.schedReachClockSetting k) s (fun t =>
        (∀ q < 8, t.parcel q = if ps.testBit q then { s.parcel q with pwr := { (s.parcel q).pwr with
          sched := bvf e 16 4 } } else s.parcel q) ∧
        t.hub = (fired s k).hub ∧ t.book = s.book ∧ SameTime s t)) ∧
      (bvf e 1 3 = 4 → Gives (.schedPowerRateLimit k) s (fun t => t.parcels = s.parcels ∧
        t.hub = { (fired s k).hub with pwr := { s.hub.pwr with limitNew := some (BitVec.ofNat 11 (bvf e 16 16)) } } ∧
        t.book = s.book ∧ SameTime s t)) ∧
      (bvf e 1 3 = 3 → (∀ q < 8, ps.testBit q = true → closingsDone s q = true ∧ boundaryWaits s q = false ∧
          (s.parcel q).mon.snapWall ≠ some s.wall) →
        Gives (.schedCounterSnapshot k) s (fun t =>
          (∀ q < 8, ps.testBit q = false → t.parcel q = s.parcel q) ∧
          (∀ q < 8, ps.testBit q = true → (t.parcel q).mon.snap = (s.parcel q).mon.cntOld ∧ (t.parcel q).mon.snapDone = true ∧
            (t.parcel q).mon.snapCount = s.datum.count ∧ (t.parcel q).mon.snapSeq = (s.parcel q).mon.snapSeq + 1 ∧
            (∀ l, t.reach q l = { s.reach q l with snap := (s.reach q l).cntOld }) ∧
            (∀ c, t.cluster q c = { s.cluster q c with snap := (s.cluster q c).cntOld })) ∧
          t.hub.sched = (fired s k).hub.sched ∧ SameMemory s t ∧ t.book = s.book ∧ SameTime s t)) ∧
      (bvf e 1 3 = 2 → ∀ b, b = bvb e 16 → (if b then s.hub.fw.bank1 else s.hub.fw.bank0).verified = true →
        (ps ≠ 0 → Gives (.schedLockSwitchover k) s (fun t =>
          (∀ q < 8, t.parcel q = if ps.testBit q then { s.parcel q with bankNew := some b } else s.parcel q) ∧
          t.hub = (fired s k).hub ∧ t.book = s.book ∧ SameTime s t)) ∧
        (ps = 0 → Gives (.schedSurveyorSwitchover k) s (fun t => t.parcels = s.parcels ∧
          t.hub = { (fired s k).hub with fw := { s.hub.fw with surveyor := b, restarting := true } } ∧
          t.book = s.book ∧ SameTime s t))) ∧
      (bvf e 1 3 = 2 → (if bvb e 16 then s.hub.fw.bank1 else s.hub.fw.bank0).verified = false →
        ∀ i, i = (if ps = 0 then Instr.schedSurveyorSwitchover k else Instr.schedLockSwitchover k) →
        Gives i s (fun t => t.parcels = s.parcels ∧ t.hub = (fired s k).hub ∧ SameTime s t ∧
          t.book = (raise s (srcHub 0) 0x1011 (illegalPayload 5 0xFF 0xFFFF 0xFFFFFFFF k 0)).book))) ∧
    (bvb e 0 = false ∨ s.datum.count < bvf e 64 64 ∨ s.datum.state = .unset ∨ s.datum.gated ≠ none ∨ s.phase ≠ 0 ∨
      (∃ a ∈ s.hub.sched, bvb a.2 0 = true ∧ bvf a.2 64 64 ≤ s.datum.count ∧ schBefore a (k, e) = true) →
      exec (.schedNone k) s = .next s ∧ exec (.schedReachClockSetting k) s = .next s ∧
      exec (.schedPowerRateLimit k) s = .next s ∧ exec (.schedCounterSnapshot k) s = .next s ∧
      exec (.schedLockSwitchover k) s = .next s ∧ exec (.schedSurveyorSwitchover k) s = .next s) ∧
    (bvf e 1 3 ≠ 0 → exec (.schedNone k) s = .next s) ∧
    (bvf e 1 3 ≠ 1 → exec (.schedReachClockSetting k) s = .next s) ∧
    (bvf e 1 3 ≠ 2 → exec (.schedLockSwitchover k) s = .next s ∧ exec (.schedSurveyorSwitchover k) s = .next s) ∧
    (bvf e 1 3 ≠ 3 → exec (.schedCounterSnapshot k) s = .next s) ∧
    (bvf e 1 3 ≠ 4 → exec (.schedPowerRateLimit k) s = .next s)) ∧
  (∀ (p : ParcelId) (s : State) (w : Power), w = (s.parcel p).pwr →
    (s.phase = 0 → s.datum.gated = none → closingsDone s p = true → remapDue s p = false → (s.parcel p).bankNew = none →
      s.hub.pwr.limitNew = none → stepSpans s p s.datum.count = false →
      w.target ≠ w.now ∨ w.capWait = true →
      exec (.clockChangeApply p) s = .next (s.updPwr p (fun _ => { w with
        now := min w.sched (min w.pwrCap w.thermCap), capWait := false
        sinceCap := if w.capWait then some 0 else w.sinceCap }))) ∧
    (s.phase = 0 → s.datum.gated = none → w.target = w.now → w.capWait = false →
      closingsDone s p = true → (∀ q < 8, stepSpans s q s.datum.count = false ∧ remapDue s q = false ∧
        (s.parcel q).bankNew = none) → ∀ v, s.hub.pwr.limitNew = some v →
      exec (.clockChangeApply p) s = .next (s.updPkgPwr (fun x => { x with limit := v, limitNew := none }))) ∧
    (s.phase ≠ 0 ∨ s.datum.gated ≠ none ∨ closingsDone s p = false ∨ remapDue s p = true ∨ lockDue s p = true ∨
      (s.hub.pwr.limitNew = none ∧ stepSpans s p s.datum.count = true) →
      exec (.clockChangeApply p) s = .next s) ∧
    (∀ b v, s.phase = 0 → s.datum.gated = none → (s.parcel p).bankNew = some b → stepSpans s p s.datum.count = false →
      closingsDone s p = true → remapDue s p = false → v = (if b then s.hub.fw.bank1 else s.hub.fw.bank0) →
      Gives (.lockSwitchoverApply p) s (fun t => (t.parcel p).bank = b ∧ (t.parcel p).bankNew = none ∧
        (t.parcel p).fab = { (s.parcel p).fab with linkMax := v.vmax, linkMin := v.vmin } ∧
        (∀ m, t.reach p m = { s.reach p m with task := { (s.reach p m).task with drain := !(s.reach p m).flights.isEmpty } }) ∧
        (∀ q : Port, isRiver q = true → (s.link p q).state = .up → (t.link p q).verSent = true) ∧
        (∀ q : Port, (s.link p q).state ≠ .up → t.link p q = s.link p q) ∧
        (∀ q, q ≠ p.val → t.parcel q = s.parcel q) ∧ SameMemory s t ∧ t.book = s.book ∧ t.hub = s.hub ∧ SameTime s t)) ∧
    ((s.parcel p).bankNew = none ∨ s.phase ≠ 0 ∨ s.datum.gated ≠ none ∨ closingsDone s p = false ∨ remapDue s p = true ∨
      stepSpans s p s.datum.count = true →
      exec (.lockSwitchoverApply p) s = .next s) ∧
    (s.hub.fw.restarting = true → s.hub.dict.held = [] → s.book.unsent = [] → s.book.lgUnsent = [] → Gives .surveyorRestartDone s (fun t =>
      t = { s with hub := { s.hub with fw := { s.hub.fw with restarting := false } } })) ∧
    (s.hub.fw.restarting = false → exec .surveyorRestartDone s = .next s))

/-- The stay monitor follows R416's table: one channel starts the discrepancy timer with the time of the register, both
order a stay quiesce with STAY_ASSERTED and HUB_INT_STAT.stay, both released clear it, a latched monitor only shows the
levels; a discrepancy that lasts latches it with STAY_DISCREPANCY; a re-arm clears a latched monitor whose channels are
released (R415, R416, R419, R346); it runs only while the auxiliary supply is good (R461). At its stay stake a stay
quiesce ends every open step, stops every reach, ends the order, and takes package and parcels from RUN to QUIESCE; a
running reach without an open step in a parcel under quiesce stops at a tick boundary (R375, R417). The model's own
choices in it: log 62. -/
def Obligations.StayInterlockMoves : Prop :=
  (∀ (s : State) (y : Stay) (a b : Bool) (stake : Nat), y = s.stay → s.hub.lands.auxGood = true →
    stake = (if s.datum.state = .unset then 0 else match s.datum.jump with
      | some (.ahead target) => target
      | _ => s.datum.count + 1) →
    ((a, b) ≠ (y.a, y.b) →
      (y.state = 0 → a ≠ b → exec (.stayInputChange a b) s = .next { s with stay := { y with
        a := a, b := b, state := 1, timer := true, inUse := y.dtime, since := s.wall, firstB := b } }) ∧
      (y.state = 1 → a = false → b = false → y.shorts.toNat < 2 ^ 32 - 1 →
        exec (.stayInputChange a b) s = .next { s with stay := { y with
          a := false, b := false, state := 0, timer := false, shorts := y.shorts + 1 } }) ∧
      (y.state = 0 ∨ y.state = 1 → a = true → b = true → y.shorts.toNat < 2 ^ 32 - 1 →
        Gives (.stayInputChange a b) s (fun t =>
          t.stay = { y with
            a := true, b := true, state := 2, timer := false, quiesce := true
            shorts := if y.state = 1 then y.shorts + 1 else y.shorts
            firstB := y.state = 1 && y.firstB } ∧
          bvb t.hub.port.intStat 3 = true ∧
          t.book = (raise s (srcHub 1) 0x9004 (placeFields [(0, 1, 3), (1, 1, y.state.toNat),
            (8, 8, stake), (16, 2, 0)] [])).book ∧
          t.parcels = s.parcels ∧ t.datum = s.datum ∧ t.hub.state = s.hub.state ∧ t.pending = s.pending)) ∧
      (y.state = 2 → a = false → b = false → y.timer = false → exec (.stayInputChange a b) s = .next { s with stay := { y with
        a := false, b := false, state := 0 } }) ∧
      (y.state = 2 → a ≠ b → y.timer = false → exec (.stayInputChange a b) s = .next { s with stay := { y with
        a := a, b := b, timer := true, inUse := y.dtime, since := s.wall } }) ∧
      (y.state = 3 → exec (.stayInputChange a b) s = .next { s with stay := { y with a := a, b := b } })) ∧
    ((a, b) = (y.a, y.b) → exec (.stayInputChange a b) s = .next s) ∧
    (y.timer = true → y.since + y.inUse.toNat * 1500000 ≤ s.wall → Gives .discrepancyTimeReached s (fun t =>
      t.stay = { y with state := 3, timer := false, quiesce := y.quiesce || decide (y.state = 1) } ∧
      bvb t.hub.port.intStat 3 = true ∧
      t.book = (raise s (srcHub 1) 0x9003 (placeFields [(0, 1, b2n y.a + 2 * b2n y.b), (1, 1, y.state.toNat),
        (8, 8, stake), (16, 2, 0), (20, 1, b2n y.firstB),
        (22, 2, y.inUse.toNat)] [])).book ∧
      t.parcels = s.parcels ∧ t.datum = s.datum ∧ t.hub.state = s.hub.state ∧ t.pending = s.pending)) ∧
    (y.timer = false ∨ s.wall < y.since + y.inUse.toNat * 1500000 → exec .discrepancyTimeReached s = .next s) ∧
    (∀ rq, HubArrives s rq → (y.state = 3 → y.a = false → y.b = false →
        exec (.stayRearm rq) s = .next { s with stay := { y with state := 0 } }) ∧
      (y.state ≠ 3 ∨ y.a = true ∨ y.b = true → exec (.stayRearm rq) s = .next s))) ∧
  (∀ (s : State),
    (∀ a b, s.hub.lands.auxGood = false →
      exec (.stayInputChange a b) s = .next s ∧ exec .discrepancyTimeReached s = .next s) ∧
    (s.stay.due = true → (∀ c < 8, (dmaOf s c).busy = false ∧ (dmaOf s c).arm = false) → Gives .stayQuiesce s (fun t =>
      (∀ p < 8, ∀ l < 128, (t.reach p l).task.run = false ∧ (t.reach p l).task.step = none) ∧
      t.stay = { s.stay with quiesce := false, due := false } ∧
      t.hub.state = (if s.hub.state = .run then .quiesce else s.hub.state) ∧
      (∀ p < 8, (t.parcel p).state = if s.hub.state = .run ∧ (s.parcel p).state = .run then .quiesce else (s.parcel p).state) ∧
      (s.posted = [] → (∀ p l, ∀ f ∈ (s.reach p l).flights, f.undo = []) → SameMemory s t) ∧ t.datum = s.datum ∧ t.pending = s.pending ∧ t.hub.dict = s.hub.dict)) ∧
    (s.stay.due = false → exec .stayQuiesce s = .next s) ∧
    (∀ (p : ParcelId) (l : ReachId),
      ((s.parcel p).state = .quiesce → (s.reach p l).task.run = true → (s.reach p l).task.step = none → s.phase = 0 →
        (∀ k, (s.reach p l).task.wait ≠ .clusterBar k ∧ (s.reach p l).task.wait ≠ .parcelBar k) →
        exec (.quiesceReachStop p l) s = .next (s.updTask p l (fun t => { t with
          run := false, wait := if t.wait = .fence then .fence else .none }))) ∧
      ((s.parcel p).state ≠ .quiesce ∨ (s.reach p l).task.step ≠ none ∨ s.phase ≠ 0 ∨ (s.reach p l).task.run = false →
        exec (.quiesceReachStop p l) s = .next s)))

/-- A request moves the package to the state asked for where R374's table has the move, and with it the parcels in the
state left; a state that it is in stays; any other request, RUN without a datum or with the stay asserted or latched,
and READY before quiesce is complete, change nothing; going back from READY to CONFIGURE takes every river link to OFF,
and a link that was UP raises LINK_DOWN with reason 4 (R304, R374, R375, R376, R417). A request for the state of one
parcel moves it where R376 has the move, never beyond the package's state, and changes nothing of any other parcel or of
the hub (R376). The model's own choices in it: log 84. -/
def Obligations.StateRequestsMove : Prop :=
  (∀ (s : State),
    (s.hub.state = .configure → Gives .requestReady s (fun t => t.hub = { s.hub with state := .ready } ∧
      (∀ p < 8, (t.parcel p).state = if (s.parcel p).state = .configure then .ready else (s.parcel p).state) ∧
      (∀ p < 8, (s.parcel p).state = .configure → (t.parcel p).wasReady = true ∧ ∀ q : Port, t.link p q =
        if isRiver q = true ∧ (s.link p q).en = true ∧ (s.link p q).state = .off then { s.link p q with state := .detect }
        else s.link p q) ∧
      SameReaches s t ∧ SameMemory s t ∧ t.book = s.book ∧ SameTime s t)) ∧
    (s.hub.state = .ready → Gives .requestConfigure s (fun t => t.hub = { s.hub with state := .configure } ∧
      (∀ p < 8, (t.parcel p).state = (if (s.parcel p).state = .ready then .configure else (s.parcel p).state) ∧
        (t.parcel p).wasReady = false ∧
        ∀ q : Port, (isRiver q = true → (t.link p q).state = .off) ∧ (isRiver q = false → t.link p q = s.link p q)) ∧
      ((∀ p < 8, ∀ q : Port, isRiver q = true → (s.link p q).state ≠ .up) → SameReaches s t ∧ t.book = s.book) ∧
      (∀ p < 8, ∀ q : Port, isRiver q = true → (s.link p q).state = .up → NoCascade s p q →
        (∀ p' < 8, ∀ q' : Port, isRiver q' = true → (s.link p' q').state = .up → p' = p ∧ q' = q) →
        SameReaches s t ∧ t.book = (raise s (srcParcel p (portUnit q)) 0x5001 (linkDownPayload s p q 4 5)).book ∧
        t.link p q = { (s.link p q).cleared .off with
          reason := 4, downs := BitVec.ofNat 8 (min ((s.link p q).downs.toNat + 1) 255) }) ∧
      SameMemory s t ∧ SameTime s t)) ∧
    (s.hub.state = .ready → s.datum.state ≠ .unset → s.stay.state.toNat < 2 → Gives .requestRun s (fun t =>
      t.hub = { s.hub with state := .run } ∧
      (∀ p < 8, t.parcel p = { s.parcel p with
        state := if (s.parcel p).state = .ready then .run else (s.parcel p).state }) ∧ t.book = s.book ∧ SameTime s t)) ∧
    (s.hub.state = .ready → s.datum.state = .unset ∨ 2 ≤ s.stay.state.toNat → exec .requestRun s = .next s) ∧
    (s.hub.state = .run → Gives .requestQuiesce s (fun t => t.hub = { s.hub with state := .quiesce } ∧
      (∀ p < 8, t.parcel p = { s.parcel p with
        state := if (s.parcel p).state = .run then .quiesce else (s.parcel p).state }) ∧ t.book = s.book ∧ SameTime s t)) ∧
    (s.hub.state = .quiesce → s.stay.state = 0 → s.stay.quiesce = false →
      ((∀ p < 8, (s.parcel p).state = .quiesce → ∀ x ∈ (s.parcel p).reaches, x.2.idle = true) →
        Gives .requestReady s (fun t => t.hub = { s.hub with state := .ready } ∧
          (∀ p < 8, (t.parcel p).state = if (s.parcel p).state = .quiesce then .ready else (s.parcel p).state) ∧
          SameReaches s t ∧ SameMemory s t ∧ t.book = s.book ∧ SameTime s t)) ∧
      (∀ p < 8, (s.parcel p).state = .quiesce → (∃ x ∈ (s.parcel p).reaches, x.2.idle = false) →
        exec .requestReady s = .next s)) ∧
    (s.hub.state ≠ .ready → s.hub.state ≠ .configure → exec .requestConfigure s = .next s) ∧
    (s.hub.state ≠ .configure → s.hub.state ≠ .quiesce → s.hub.state ≠ .ready → exec .requestReady s = .next s) ∧
    (s.hub.state ≠ .ready → s.hub.state ≠ .run → exec .requestRun s = .next s) ∧
    (s.hub.state ≠ .run → s.hub.state ≠ .quiesce → exec .requestQuiesce s = .next s)) ∧
  (∀ (p : ParcelId) (v : Byte) (s : State),
    ((v.toNat = 4 → (s.parcel p).state = .configure → s.hub.state = .ready ∨ s.hub.state = .run ∨ s.hub.state = .quiesce →
        Gives (.parcelStateRequest p v) s (fun t => (t.parcel p).state = .ready ∧ (t.parcel p).wasReady = true ∧
          (∀ q : Port, t.link p q =
            if isRiver q = true ∧ (s.link p q).en = true ∧ (s.link p q).state = .off then { s.link p q with state := .detect }
            else s.link p q) ∧
          (∀ q, q ≠ p.val → t.parcel q = s.parcel q) ∧ SameReaches s t ∧ SameClusters s t ∧ SameMemory s t ∧
          t.book = s.book ∧ t.hub = s.hub ∧ SameTime s t)) ∧
      (v.toNat = 5 → (s.parcel p).state = .ready → s.hub.state = .run → s.datum.state ≠ .unset → s.stay.state.toNat < 2 →
        exec (.parcelStateRequest p v) s = .next (s.updParcel p (fun x => { x with state := .run }))) ∧
      (v.toNat = 6 → (s.parcel p).state = .run →
        exec (.parcelStateRequest p v) s = .next (s.updParcel p (fun x => { x with state := .quiesce }))) ∧
      (v.toNat = 4 → (s.parcel p).state = .quiesce → (∀ x ∈ (s.parcel p).reaches, x.2.idle = true) → s.stay.state = 0 →
        s.stay.quiesce = false → Gives (.parcelStateRequest p v) s (fun t =>
          (t.parcel p).state = .ready ∧ (t.parcel p).wasReady = true ∧ (∀ q : Port, (s.link p q).state ≠ .off → t.link p q = s.link p q) ∧
          (∀ q, q ≠ p.val → t.parcel q = s.parcel q) ∧ SameReaches s t ∧ SameClusters s t ∧ SameMemory s t ∧
          t.book = s.book ∧ t.hub = s.hub ∧ SameTime s t)) ∧
      (v.toNat = 3 → (s.parcel p).state = .ready → Gives (.parcelStateRequest p v) s (fun t =>
        (t.parcel p).state = .configure ∧ (t.parcel p).wasReady = false ∧ (∀ q, q ≠ p.val → t.parcel q = s.parcel q) ∧
        (∀ q : Port, (isRiver q = true → (t.link p q).state = .off) ∧ (isRiver q = false → t.link p q = s.link p q)) ∧
        ((∀ q : Port, isRiver q = true → (s.link p q).state ≠ .up) → SameReaches s t ∧ t.book = s.book) ∧
        SameMemory s t ∧ t.hub = s.hub ∧ SameTime s t)) ∧
      (v.toNat = 5 → 2 ≤ s.stay.state.toNat → exec (.parcelStateRequest p v) s = .next s) ∧
      (v.toNat < 3 ∨ 6 < v.toNat ∨ (s.parcel p).state = .contain ∨ (s.parcel p).state = .off ∨
        (v.toNat = 5 ∧ s.hub.state ≠ .run) ∨ (v.toNat = 4 ∧ (s.parcel p).state = .run) →
        exec (.parcelStateRequest p v) s = .next s)))

/-- A link trains as R299's table says: each event moves it from one state to the next or to HOLD, and does nothing in
any other state; a river link of a dimension of size 1 stays in DETECT, and a UCIe port has no frame search (R299, R310,
R328). A NEG whose wiring is right and whose versions overlap brings the link UP at the highest common version, with the
partner, half the round trip less the hold time as its latency, and the partner's buffers as credits; before a NEG that
echoes the own one the link waits; one without a common version leads to HOLD with PEER_VERSION, one with the wrong
wiring to HOLD with LINK_DOWN of reason 5, once; outside NEGOTIATE a NEG does nothing (R299, R300, R301, R306). A link
in UP is lost by loss of signal (0), two ticks without an idle flit (1), retry exhaustion (2), its own enable or a
retrain (4) and, for a UCIe port, its port (6); these do nothing to a link that is not UP, but that a disabled link goes
to OFF and a retrained one to DETECT (R297, R298, R299, R303, R304, R327). The model's own choices in it: log 66. -/
def Obligations.LinksTrainAndFall : Prop :=
  (∀ (p : ParcelId) (q : Port) (s : State) (moves : Instr → LinkState → LinkState → Prop),
    (∀ i a b, moves i a b ↔
      (i = .signalDetected p q ∧ a = .detect ∧ b = .train ∧ portUsed s q = true) ∨
      (i = .trainingConverged p q ∧ a = .train ∧ b = .align ∧ isRiver q = true) ∨
      (i = .trainingTimeout p q ∧ a = .train ∧ b = .hold) ∨ (i = .frameSearchTimeout p q ∧ a = .align ∧ b = .hold) ∨
      (i = .holdExpiry p q ∧ a = .hold ∧ b = .detect)) →
    (∀ i a b, moves i a b →
      ((s.link p q).state = a → exec i s = .next (s.updLink p q (fun k => { k with state := b }))) ∧
      ((s.link p q).state ≠ a → exec i s = .next s)) ∧
    ((s.link p q).state = .negotiate → exec (.negTimeout p q) s = .next (s.updLink p q (fun k => k.cleared .hold))) ∧
    ((s.link p q).state ≠ .negotiate → exec (.negTimeout p q) s = .next s) ∧
    (portUsed s q = false → exec (.signalDetected p q) s = .next s) ∧
    (∀ i a, (i = .frameLock p q ∧ a = .align) ∨ (i = .trainingConverged p q ∧ a = .train ∧ isRiver q = false) →
      ((s.link p q).state = a →
        exec i s = .next (s.updLink p q (fun k => { k with state := .negotiate, ctl := [.neg], negDue := s.wall }))) ∧
      ((s.link p q).state ≠ a → exec i s = .next s))) ∧
  (∀ (p : ParcelId) (q : Port) (n : Neg) (s : State) (f : Fabric) (v lat : Nat), f = (s.parcel p).fab →
    lat = (s.wall * 20 / 3 - n.echo.getD 0 - n.hold) / 2 → v = min f.linkMax.toNat n.vmax.toNat →
    ((s.link p q).state ≠ .negotiate → exec (.negRx p q n) s = .next s) ∧
    ((s.link p q).state = .negotiate →
      (max f.linkMin.toNat n.vmin.toNat ≤ v → n.echo.isSome = true → wiringOk s p q n lat = true →
        Gives (.negRx p q n) s (fun t => (t.link p q).state = .up ∧ (t.link p q).ver.toNat = v ∧
          (isRiver q = true → (t.link p q).peer = n.dev ∧ (t.link p q).pport = n.link) ∧
          (isRiver q = false → (t.link p q).peer = BitVec.ofNat 14 s.dev ∧ (t.link p q).pport = 0) ∧ (t.link p q).lat = BitVec.ofNat 16 lat ∧
          (∀ c < 8, SMap.get 0 (t.link p q).credits c = (n.buffers.getD c 0).toNat) ∧
          t.book = (if v < f.linkMax.toNat then (raise s (srcParcel p (portUnit q)) 0x5004 (peerVersionPayload p (portNo q)
            f.linkMax.toNat f.linkMin.toNat n.vmax.toNat n.vmin.toNat v)).book else s.book) ∧
          (isRiver q = true → (hopMark s.hub.torus s.dev (portDim q) (portMinus q)) ∉ (t.parcel p).fab.down) ∧
          SameReaches s t ∧ SameMemory s t ∧ t.hub = s.hub ∧ SameTime s t)) ∧
      (max f.linkMin.toNat n.vmin.toNat ≤ v → n.echo = none → wiringOk s p q n 0 = true →
        exec (.negRx p q n) s = .next (s.updLink p q (fun k => { k with negGot := some (n.stamp, s.wall * 20 / 3) }))) ∧
      (v < max f.linkMin.toNat n.vmin.toNat → Gives (.negRx p q n) s (fun t =>
        t.parcels = (s.updLink p q (fun k => k.cleared .hold)).parcels ∧
        t.book = (raise s (srcParcel p (portUnit q)) 0x5004 (peerVersionPayload p (portNo q) f.linkMax.toNat f.linkMin.toNat
          n.vmax.toNat n.vmin.toNat 0)).book ∧ t.hub = s.hub ∧ SameTime s t)) ∧
      (max f.linkMin.toNat n.vmin.toNat ≤ v →
        wiringOk s p q n 0 = false ∨ (n.echo.isSome = true ∧ wiringOk s p q n lat = false) → Gives (.negRx p q n) s (fun t =>
        (t.link p q).state = .hold ∧ (t.link p q).peer = n.dev ∧ (t.link p q).pport = n.link ∧
        (t.link p q).downs = (s.link p q).downs ∧
        ((s.link p q).wiringSaid = true → t.book = s.book) ∧
        ((s.link p q).wiringSaid = false → (t.link p q).wiringSaid = true ∧ (t.link p q).reason = 5 ∧
          t.book = (raise s (srcParcel p (portUnit q)) 0x5001 (packFields [(1, p.val), (1, portNo q), (2, n.dev.toNat),
            (1, n.link.toNat), (1, 5), (1, 4), (8, s.datum.count)] [])).book) ∧
        SameReaches s t ∧ SameMemory s t ∧ t.hub = s.hub ∧ SameTime s t)))) ∧
  (∀ (p : ParcelId) (q : Port) (rq : Requester) (s : State), NoCascade s p q →
    ((s.link p q).state = .up →
      (isRiver q = true → Gives (.lossOfSignal p q) s (fun t => LinkLost s t p q 0 .hold) ∧
        (2 ≤ (s.link p q).missed → Gives (.missingIdleFlits p q) s (fun t => LinkLost s t p q 1 .hold)) ∧
        ((s.link p q).missed < 2 → exec (.missingIdleFlits p q) s = .next s) ∧
        (Arrives s rq p (.parcel p (linkCtlOff q)) 0 → Gives (.linkEnWrite rq p q false) s (fun t =>
          LinkLost (s.updLink p q (fun k => { k with en := false })) t p q 4 .off))) ∧
      (isRiver q = false → Gives (.uciePortDown p q) s (fun t => LinkLost s t p q 6 .hold)) ∧
      (∀ f r, isRiver q = true → (s.link p q).retry = f :: r → ∀ u, u = raise s (srcParcel p (portUnit q)) 0x5002
          (packFields [(1, p.val), (1, portNo q), (2, f.seq.toNat), (4, (s.link p q).resends)] []) →
        Gives (.linkRetryExhaust p q) s (fun t => LinkLost u t p q 2 .hold)) ∧
      (Arrives s rq p (.parcel p (linkCtlOff q)) 3 → (s.link p q).en = true →
        (∀ r : Port, (s.link p r).state = .off → (s.link p r).en = false) →
        Gives (.linkRetrain rq p q) s (fun t => LinkLost s t p q 4 .hold))) ∧
    (Arrives s rq p (.parcel p (linkCtlOff q)) 3 → (s.link p q).en = true →
      (∀ r : Port, (s.link p r).state = .off → (s.link p r).en = false) → (s.link p q).state ≠ .up → (s.link p q).state ≠ .off →
      Gives (.linkRetrain rq p q) s (fun t => t.link p q = (s.link p q).cleared .detect ∧
        (∀ r : Port, portNo r ≠ portNo q → t.link p r = s.link p r) ∧ SameReaches s t ∧ SameMemory s t ∧ t.book = s.book ∧
        t.hub = s.hub ∧ SameTime s t)) ∧
    ((s.link p q).state ≠ .up → exec (.lossOfSignal p q) s = .next s ∧ exec (.missingIdleFlits p q) s = .next s ∧
      exec (.uciePortDown p q) s = .next s ∧ exec (.linkRetryExhaust p q) s = .next s ∧
      (isRiver q = true → Arrives s rq p (.parcel p (linkCtlOff q)) 0 →
        exec (.linkEnWrite rq p q false) s = .next (s.updLink p q (fun k => { k.cleared .off with en := false })))) ∧
    (isRiver q = true → Arrives s rq p (.parcel p (linkCtlOff q)) 1 → (s.link p q).state = .off → linksAllowed s p = true →
      Gives (.linkEnWrite rq p q true) s (fun t => (t.link p q).state = .detect ∧ (t.link p q).en = true ∧
        SameReaches s t ∧ SameMemory s t ∧ t.book = s.book ∧ t.hub = s.hub ∧ SameTime s t)))

/-- A sequenced flit in order is accepted, acknowledges and returns credits, and its data joins its channel, a whole
packet the inbox; one ahead of its turn asks once for a resend, one already seen does nothing, one that cannot be
decoded counts as a gap, and an unsequenced one that cannot be decoded is discarded; a NAK, or a time-out, sends the
whole retry buffer again; a payload of another length is no flit (R290, R295, R296). A flit slot of a link in NEGOTIATE
or UP, one of the five of its frame, whose word alternates (R288), sends, in this order: a NAK that is owed, an idle
flit that is due, a flit of the resend, a control record, a flit of a channel with a credit, else an idle flit; a new
sequenced flit takes the next number and waits in the retry buffer; in NEGOTIATE the control record is NEG, once each
µs, with what R300 lists (R294, R295, R296, R299, R300). The model's own choices in it: log 31 and 66. -/
def Obligations.FlitsMove : Prop :=
  (∀ (p : ParcelId) (q : Port) (f : Flit) (dec : Bool) (s : State) (k : Link), k = s.link p q →
    (f.payload.length ≠ 244 → exec (.dataFlitRx p q f dec) s = .fault (.illFormed "a payload of 244 bytes") ∧
      exec (.idleFlitRx p q f) s = .fault (.illFormed "a payload of 244 bytes")) ∧
    (isRiver q = true → k.state = .up ∨ k.state = .negotiate → f.payload.length = 244 →
      (f.crc = flitCrc f → dec = true → f.ftype = 1 → f.seq = k.rxNext →
        (packetOf (SMap.get [] k.rx f.vc.toNat ++ f.payload)).ptype.toNat ≤ 4 →
        Gives (.dataFlitRx p q f dec) s (fun t => (t.link p q).rxNext = k.rxNext + 1 ∧ (t.link p q).gapSeen = false ∧
          (t.link p q).retry = (k.acked f.ack).retry ∧
          (t.link p q).credits = k.credits.map (fun c => (c.1, c.2 + bvf f.crd (4 * c.1) 4)) ∧
          SMap.get 0 (t.link p q).owed f.vc.toNat = SMap.get 0 k.owed f.vc.toNat + 1 ∧
          (f.last = false → SMap.get [] (t.link p q).rx f.vc.toNat = SMap.get [] k.rx f.vc.toNat ++ f.payload ∧
            (t.parcel p).fab = (s.parcel p).fab) ∧
          (f.last = true → (t.parcel p).fab.inbox = (s.parcel p).fab.inbox ++
            [(f.vc, packetOf (SMap.get [] k.rx f.vc.toNat ++ f.payload))]) ∧
          SameReaches s t ∧ SameMemory s t ∧ t.book = s.book ∧ t.hub = s.hub ∧ SameTime s t)) ∧
      (f.crc = flitCrc f → dec = true → f.ftype = 3 → f.seq = k.rxNext →
        1 ≤ (f.payload.getD 0 0).toNat → (f.payload.getD 0 0).toNat ≤ 5 → exec (.dataFlitRx p q f dec) s =
          .next (s.updLink p q (fun k => { (k.acked f.ack).credited f.crd with rxNext := k.rxNext + 1, gapSeen := false }))) ∧
      (dec = false ∨ f.crc ≠ flitCrc f → f.ftype ≠ 1 → f.ftype ≠ 3 → exec (.dataFlitRx p q f dec) s = .next s) ∧
      (dec = false ∨ f.crc ≠ flitCrc f → f.ftype = 1 ∨ f.ftype = 3 → exec (.dataFlitRx p q f dec) s =
        .next (s.updLink p q (fun k => { k with nakOwed := k.nakOwed || !k.gapSeen, gapSeen := true }))) ∧
      (f.crc = flitCrc f → dec = true → f.ftype = 1 ∨ f.ftype = 3 → f.seq ≠ k.rxNext → ∀ x, x = (k.acked f.ack).credited f.crd →
        exec (.dataFlitRx p q f dec) s = .next (s.updLink p q (fun _ => if 2048 ≤ (f.seq - k.rxNext).toNat then x
          else { x with nakOwed := x.nakOwed || !x.gapSeen, gapSeen := true }))) ∧
      (f.crc = flitCrc f → dec = true → f.ftype = 2 → exec (.dataFlitRx p q f dec) s = exec (.nakRx p q f.ack) s) ∧
      (f.crc = flitCrc f → dec = true → f.ftype = 0 →
        exec (.dataFlitRx p q f dec) s = .next (s.updLink p q (fun k => (k.acked f.ack).credited f.crd)))) ∧
    (isRiver q = true → k.state = .up ∨ k.state = .negotiate →
      (∀ ack x, x = k.acked ack → x.retry ≠ [] → Gives (.nakRx p q ack) s (fun t =>
        t.link p q = { x with resend := x.retry, resends := x.resends + 1 } ∧
        (∀ r : Port, portNo r ≠ portNo q → t.link p r = s.link p r) ∧ t.book = s.book ∧ t.hub = s.hub ∧ SameTime s t)) ∧
      (k.retry ≠ [] → exec (.retryTimeout p q) s =
        .next (s.updLink p q (fun k => { k with resend := k.retry, resends := k.resends + 1 })))) ∧
    (k.state ≠ .up → k.state ≠ .negotiate → (∀ ack, exec (.nakRx p q ack) s = .next s) ∧ exec (.retryTimeout p q) s = .next s)) ∧
  (∀ (p : ParcelId) (q : Port) (s : State) (k : Link), k = s.link p q → isRiver q = true →
    k.state = .up ∨ k.state = .negotiate →
    Gives (.flitSlot p q) s (fun t => (t.link p q).inFrame = (k.inFrame + 1) % 5 ∧
      (t.link p q).frame = (if k.inFrame = 4 then k.frame + 1 else k.frame) ∧
      (k.inFrame = 0 → (t.link p q).frameWord = if k.frame % 2 = 0 then 0xA55A0FF0C3#40 else 0x5AA5F00F3C#40)) ∧
    (k.nakOwed = true → Gives (.flitSlot p q) s (fun t => (t.link p q).nakOwed = false ∧ (t.link p q).idleDue = false ∧
      (∃ f, (t.link p q).sent = some f ∧ f.ftype = 2 ∧ f.ack = k.rxNext - 1) ∧ (t.link p q).retry = k.retry ∧
      (t.link p q).txSeq = k.txSeq ∧ SameReaches s t ∧ t.book = s.book ∧ t.hub = s.hub)) ∧
    (k.nakOwed = false → k.idleDue = true → Gives (.flitSlot p q) s (fun t => (t.link p q).idleDue = false ∧
      (∃ f, (t.link p q).sent = some f ∧ f.ftype = 0 ∧ leVal (f.payload.take 8) = s.datum.count % 2 ^ 64 ∧
        f.ack = k.rxNext - 1) ∧ (t.link p q).retry = k.retry ∧ (t.link p q).txSeq = k.txSeq ∧ SameReaches s t ∧
      t.book = s.book ∧ t.hub = s.hub)) ∧
    (∀ g r, k.nakOwed = false → k.idleDue = false → k.resend = g :: r → Gives (.flitSlot p q) s (fun t =>
      (t.link p q).resend = r ∧ (∃ f, (t.link p q).sent = some f ∧ f.seq = g.seq ∧ f.payload = g.payload ∧
        f.ftype = g.ftype) ∧ (t.link p q).retry = k.retry ∧ (t.link p q).txSeq = k.txSeq ∧ SameReaches s t ∧
      t.book = s.book ∧ t.hub = s.hub)) ∧
    (k.nakOwed = false → k.idleDue = false → k.resend = [] → k.retry.length < 512 →
      (∀ c r, k.ctl = c :: r → c ≠ .neg → Gives (.flitSlot p q) s (fun t => (t.link p q).ctl = r ∧
        (t.link p q).txSeq = k.txSeq + 1 ∧ (∃ f, (t.link p q).sent = some f ∧ f.ftype = 3 ∧ f.seq = k.txSeq ∧
          f.payload.head? = some (BitVec.ofNat 8 (ctlType c)) ∧ f.payload.length = 244) ∧
        (∀ a b, c = .ver a b → (t.link p q).verOut = true ∧
          (t.link p q).verTicks = if k.verGot = true then some 2 else k.verTicks) ∧
        (t.link p q).retry.length = k.retry.length + 1 ∧ SameReaches s t ∧ t.book = s.book ∧ t.hub = s.hub)) ∧
      (∀ r, k.ctl = .neg :: r → k.negDue ≤ s.wall → Gives (.flitSlot p q) s (fun t =>
        (t.link p q).ctl = (if k.state = .negotiate then k.ctl else r) ∧ (t.link p q).negDue = s.wall + 1500 ∧
        (∃ n, (t.link p q).negSent = some n ∧ n.dev = BitVec.ofNat 14 s.dev ∧ n.parcel = p ∧ n.link = BitVec.ofNat 3 (portNo q) ∧
          n.vmax = (s.parcel p).fab.linkMax ∧ n.vmin = (s.parcel p).fab.linkMin ∧ n.tick = s.datum.tick ∧
          n.buffers = List.replicate 8 32 ∧ n.count = BitVec.ofNat 64 s.datum.count ∧ n.stamp = s.wall * 20 / 3 ∧
          n.echo = k.negGot.map (fun g => g.1)) ∧
        (∃ f, (t.link p q).sent = some f ∧ f.ftype = 3 ∧ f.seq = k.txSeq ∧ f.payload.head? = some 1) ∧
        (t.link p q).txSeq = k.txSeq + 1 ∧ (t.link p q).retry.length = k.retry.length + 1 ∧
        SameReaches s t ∧ t.book = s.book ∧ t.hub = s.hub)) ∧
      (k.ctl = [.neg] → s.wall < k.negDue → k.state = .negotiate → Gives (.flitSlot p q) s (fun t =>
        (∃ f, (t.link p q).sent = some f ∧ f.ftype = 0) ∧ (t.link p q).ctl = k.ctl ∧ (t.link p q).txSeq = k.txSeq ∧
        SameReaches s t ∧ t.book = s.book ∧ t.hub = s.hub)) ∧
      (∀ v g r, k.state = .up → SMap.sorted k.data = true → k.ctl = [] → chooseVc k = some v → SMap.get [] k.data v = g :: r → Gives (.flitSlot p q) s (fun t =>
        SMap.get [] (t.link p q).data v = r ∧ SMap.get 0 (t.link p q).credits v = SMap.get 0 k.credits v - 1 ∧
        (t.link p q).txSeq = k.txSeq + 1 ∧ (t.link p q).retry = k.retry ++ [{ g with seq := k.txSeq }] ∧
        (t.link p q).midVc = (if g.last then none else some v) ∧
        (∃ f, (t.link p q).sent = some f ∧ f.seq = k.txSeq ∧ f.payload = g.payload) ∧
        SameReaches s t ∧ t.book = s.book ∧ t.hub = s.hub)) ∧
      (k.state = .up → k.ctl = [] → chooseVc k = none → Gives (.flitSlot p q) s (fun t =>
        (∃ f, (t.link p q).sent = some f ∧ f.ftype = 0) ∧ (t.link p q).data = k.data ∧ (t.link p q).credits = k.credits ∧
        (t.link p q).txSeq = k.txSeq ∧ SameReaches s t ∧ t.book = s.book ∧ t.hub = s.hub))))

/-- A FAULT newer than the last of its origin sets or clears its mark, clears the route cache where the map changes, and
goes on over every other river link in UP; an older one does nothing; a map is adopted by a parcel whose other river
links are all down, for the devices that its record covers; the versions of a VER are taken, answered once, and switched
at the second tick boundary after the later of the two VER flits, and no common version loses the link with reason 3
(R308, R312, R313). A message lands in its window, whose count and interrupt follow, and its answer leaves; one that the
window does not admit writes nothing, and its answer says why; one older than W is dropped and counted; an answer within
Q counts its message as delivered or refused, and Q without one counts it as lost; a packet for another device goes on
unchanged, or is dropped and counted once it is older than W (R314, R318, R322, R323). The model's own choices in it:
log 30 and 89. -/
def Obligations.RecordsAndMessagesLand : Prop :=
  (∀ (p : ParcelId) (q : Port) (s : State) (f : Fabric), f = (s.parcel p).fab → isRiver q = true → (s.link p q).state = .up →
    (∀ (r : FaultRec) (d : Nat), d = (SMap.find f.lastFault r.origin.toNat).elim 1
        (fun l => (r.seq.toNat + 256 - l.toNat) % 256) →
      (1 ≤ d ∧ d ≤ 127 → Gives (.faultRecordRx p q r) s (fun t =>
        (∀ m, m ∈ (t.parcel p).fab.down ↔ if m = (r.origin.toNat, r.dim.val) then r.down = true else m ∈ f.down) ∧
        ((t.parcel p).fab.routes = if (r.origin.toNat, r.dim.val) ∈ f.down ↔ r.down = true then f.routes else []) ∧
        SMap.find (t.parcel p).fab.lastFault r.origin.toNat = some r.seq ∧
        (∀ x : Port, (t.link p x).ctl = if isRiver x = true ∧ portNo x ≠ portNo q ∧ (s.link p x).state = .up
          then (s.link p x).ctl ++ [.fault r] else (s.link p x).ctl) ∧
        SameReaches s t ∧ SameMemory s t ∧ t.book = s.book ∧ t.hub = s.hub ∧ SameTime s t)) ∧
      (d = 0 ∨ 127 < d → exec (.faultRecordRx p q r) s = .next s)) ∧
    (∀ m : MapRec, (∀ x : Port, isRiver x = true → portNo x ≠ portNo q → (s.link p x).state ≠ .up) →
      Gives (.mapRecordRx p q m) s (fun t =>
        (∀ d n, (d, n) ∈ (t.parcel p).fab.down ↔ if m.first.toNat ≤ d ∧ d ≤ m.last.toNat
          then ∃ x ∈ m.marks, (d, n) = (x.1.toNat, x.2.val) else (d, n) ∈ f.down) ∧
        (t.parcel p).fab.routes = [] ∧ (∀ x : Port, t.link p x = s.link p x) ∧
        SameReaches s t ∧ SameMemory s t ∧ t.book = s.book ∧ t.hub = s.hub ∧ SameTime s t)) ∧
    (∀ (m : MapRec) (x : Port), isRiver x = true → portNo x ≠ portNo q → (s.link p x).state = .up →
      exec (.mapRecordRx p q m) s = .next s) ∧
    (∀ (vmax vmin : BitVec 4) (v : Nat), v = min f.linkMax.toNat vmax.toNat →
      (max f.linkMin.toNat vmin.toNat ≤ v → Gives (.verRx p q vmax vmin) s (fun t =>
        t.link p q = { s.link p q with
          peerMax := vmax, peerMin := vmin, verNew := BitVec.ofNat 4 v, verSent := true, verGot := true
          verTicks := if (s.link p q).verOut then some 2 else (s.link p q).verTicks
          ctl := if (s.link p q).verSent then (s.link p q).ctl else (s.link p q).ctl ++ [.ver f.linkMax f.linkMin] } ∧
        SameReaches s t ∧ SameMemory s t ∧ t.book = s.book ∧ t.hub = s.hub ∧ SameTime s t)) ∧
      (v < max f.linkMin.toNat vmin.toNat → NoCascade s p q → ∀ u, u = raise s (srcParcel p (portUnit q)) 0x5004
          (peerVersionPayload p (portNo q) f.linkMax.toNat f.linkMin.toNat vmax.toNat vmin.toNat 0) →
        Gives (.verRx p q vmax vmin) s (fun t => LinkLost u t p q 3 .hold))) ∧
    ((s.link p q).verTicks = some 0 → exec (.versionSwitch p q) s = .next (s.updLink p q (fun k => { k with
      ver := k.verNew, verTicks := none, verSent := false, verOut := false, verGot := false }))) ∧
    ((s.link p q).verTicks ≠ some 0 → exec (.versionSwitch p q) s = .next s)) ∧
  (∀ (p : ParcelId) (k : Packet) (s : State) (f : Fabric) (w : BitVec 128) (a : Nat), f = (s.parcel p).fab →
    w = SMap.get 0 f.rxWin k.win.toNat → a = bvf w 32 23 * 4096 + k.off.toNat →
    (k.ptype = 0 → (s.parcel p).state ≠ .contain → tooOld s k = false → k.pver.toNat ≤ f.linkMax.toNat →
      SMap.find f.genRec k.src.toNat = some k.gen → (s.parcel p).poison = [] → memWf (s.parcel p).mem = true → bvb w 16 = false →
      (bvb w 0 = true → bvb w 1 = true ∨ bvf w 2 14 = k.src.toNat → k.off.toNat + k.body.length ≤ 4096 * bvf w 64 24 →
        Gives (.messagePacketRx p k) s (fun t =>
          (∀ m i, rdByte t m i = if m = .sm p ∧ a ≤ i ∧ i < a + k.body.length then k.body.getD (i - a) 0 else rdByte s m i) ∧
          SMap.get 0 (t.parcel p).fab.rxWin k.win.toNat = putField w 96 32 (min (bvf w 96 32 + 1) (2 ^ 32 - 1)) ∧
          (bvb (s.parcel p).mon.intWin k.win.toNat = true → bvb (t.parcel p).mon.intStat 2 = true) ∧
          AnswerLeft s t p k 0 ∧ SameReaches s t ∧ SameClusters s t ∧ t.book = s.book ∧ SameTime s t)) ∧
      (bvb w 0 = false ∨ (bvb w 1 = false ∧ bvf w 2 14 ≠ k.src.toNat) ∨ 4096 * bvf w 64 24 < k.off.toNat + k.body.length →
        Gives (.messagePacketRx p k) s (fun t => SameMemory s t ∧ (t.parcel p).fab.rxWin = f.rxWin ∧
          AnswerLeft s t p k (if bvb w 0 = false then 1 else if bvb w 1 = false ∧ bvf w 2 14 ≠ k.src.toNat then 2 else 3) ∧
          SameReaches s t ∧ SameClusters s t ∧ t.book = s.book ∧ t.hub = s.hub ∧ SameTime s t))) ∧
    (k.ptype = 0 → (s.parcel p).state ≠ .contain → tooOld s k = true → (s.parcel p).mon.frozen = false →
      Gives (.messagePacketRx p k) s (fun t => (t.parcel p).fab = { f with inbox := dropInbox k f.inbox } ∧
        (t.parcel p).links = (s.parcel p).links ∧ (t.parcel p).mon.cnt = cntBump (s.parcel p).mon.cnt 10 1 ∧
        SameReaches s t ∧ SameClusters s t ∧ SameMemory s t ∧ t.book = s.book ∧ t.hub = s.hub ∧ SameTime s t)) ∧
    (∀ (id : BitVec 16) (result : Byte) (m : Outstanding) (c : BitVec 128), 
      (∀ a, answerInInbox s p id = some a → tooOld s a = false ∧ a.pver.toNat ≤ f.linkMax.toNat ∧
        SMap.find f.genRec a.src.toNat = some a.gen) →
      f.msgs.find? (fun x => x.id == id) = some m → c = SMap.get 0 f.chan m.chan →
      (s.datum.count < m.count + s.qTicks → exec (.messageAnswerRx p id result) s = .next (s.updFab p (fun f => { f with
        msgs := f.msgs.filter (fun x => x.id != id)
        inbox := (answerInInbox s p id).elim f.inbox (fun a => dropInbox a f.inbox)
        chan := SMap.put f.chan m.chan (if result = 0 then putField c 64 32 (min (bvf c 64 32 + 1) (2 ^ 32 - 1))
          else putField c 96 16 (min (bvf c 96 16 + 1) (2 ^ 16 - 1))) }))) ∧
      (m.count + s.qTicks ≤ s.datum.count → (answerInInbox s p id = none → exec (.messageAnswerRx p id result) s = .next s) ∧
        exec (.messageLost p id) s = .next (s.updFab p (fun f => { f with
          msgs := f.msgs.filter (fun x => x.id != id)
          chan := SMap.put f.chan m.chan (putField c 112 16 (min (bvf c 112 16 + 1) (2 ^ 16 - 1))) }))) ∧
      (s.datum.count < m.count + s.qTicks → exec (.messageLost p id) s = .next s)) ∧
    (∀ (id : BitVec 16) (result : Byte) (a : Packet), answerInInbox s p id = some a → tooOld s a = true →
      Gives (.messageAnswerRx p id result) s (fun t => (t.parcel p).fab = { f with inbox := dropInbox a f.inbox } ∧
        SameReaches s t ∧ SameMemory s t ∧ t.book = s.book ∧ t.hub = s.hub ∧ SameTime s t)) ∧
    (k.dst.toNat ≠ s.dev →
      (tooOld s k = true → Gives (.packetForward p k) s (fun t => (t.parcel p).fab.inbox = dropInbox k f.inbox ∧
        ((s.parcel p).mon.frozen = false → (t.parcel p).mon.cnt = cntBump (s.parcel p).mon.cnt 10 1) ∧
        (t.parcel p).links = (s.parcel p).links ∧ SameReaches s t ∧ SameMemory s t ∧ t.book = s.book ∧ t.hub = s.hub)) ∧
      (∀ (q : Port) (n leg : Nat) (dl : Bool), tooOld s k = false → (s.parcel p).mon.frozen = false →
        nextHop s.hub.torus s.dev k (arrivedLeg s p k) = some (q, n, leg, dl) → (s.link p q).state ≠ .up →
        Gives (.packetForward p k) s (fun t => (t.parcel p).fab.inbox = dropInbox k f.inbox ∧
          (t.parcel p).mon.cnt = cntBump (s.parcel p).mon.cnt 10 1 ∧ (t.parcel p).links = (s.parcel p).links ∧
          SameReaches s t ∧ SameMemory s t ∧ t.book = s.book ∧ t.hub = s.hub ∧ SameTime s t)) ∧
      (∀ (q : Port) (n leg : Nat) (dl : Bool), tooOld s k = false →
        nextHop s.hub.torus s.dev k (arrivedLeg s p k) = some (q, n, leg, dl) → (s.link p q).state = .up →
        Gives (.packetForward p k) s (fun t => (t.parcel p).fab.inbox = dropInbox k f.inbox ∧
          SMap.get [] (t.link p q).data (vcOf k leg dl) =
            SMap.get [] (s.link p q).data (vcOf k leg dl) ++ packetFlits k (vcOf k leg dl) ∧
          SameReaches s t ∧ SameMemory s t ∧ t.book = s.book ∧ t.hub = s.hub ∧ SameTime s t))))

/-- A tick boundary: a running datum counts up, and cc 0 of the tick follows; in UNSET the count stays 0 until a root
that is armed loads its count and runs as ROOT; a written tick length, limits, an ordered stay quiesce and an asked
snapshot reach their boundary; nothing of a reach changes but its cycle counts and, at an epoch, its count of errors; of
the memories only what the time brings changes: posted writes become visible, and errors come to stand in cells (R261,
R263, R270, R350, R356, R403, R417, R437, R446). In CABLED the second epoch boundary in a row without a pulse loses the
reference (R271). A correction of the count: forward, the boundary takes the target and the ticks between are skipped;
backward, the clocks are gated at the last cc of the tick and nothing is reached until CLOCK_GATING_END, whose tick
begins at offset 0; with none due they do nothing, and a tick boundary waits for them (R273). The model's own choices in
it: log 3, 17, 46, 100, 101 and 104. -/
def Obligations.DatumTicks : Prop :=
  (∀ (s : State), s.datum.jump = none → s.datum.gated = none →
    (s.datum.state ≠ .unset → s.datum.state ≠ .cabled → Gives .datumTick s (fun t =>
      t.datum = { s.datum with count := s.datum.count + 1, tick := s.datum.tickNew.getD s.datum.tick, tickNew := none } ∧
      t.phase = 0 ∧ t.stay = { s.stay with due := s.stay.quiesce } ∧ TimePassed s t s.nMax ∧
      t.hub = (passed s s.nMax).hub ∧ (s.posted = [] → t.hub = s.hub) ∧ t.hwSet = [] ∧ t.pending = s.pending ∧
      (∀ p l, (t.reach p l).s = (s.reach p l).s ∧ (t.reach p l).pool = (s.reach p l).pool ∧
        (t.reach p l).flights = (s.reach p l).flights ∧ (t.reach p l).task.pc = (s.reach p l).task.pc ∧
        (t.reach p l).task.run = (s.reach p l).task.run ∧
        (t.reach p l).task.ceCount = (if s.datum.count / 65536 = (s.datum.count + 1) / 65536 then (s.reach p l).task.ceCount
          else 0)) ∧
      (∀ p, (t.parcel p).mon.frozen = (s.parcel p).mon.freezeAsked ∧ (t.parcel p).mon.snapDue = ((s.parcel p).mon.snapDue || (s.parcel p).mon.snapAsked) ∧
        (t.parcel p).pwr.weight = (s.parcel p).pwr.weightNew ∧ (t.parcel p).pwr.floor = (s.parcel p).pwr.floorNew ∧
        (t.parcel p).pwr.fMin = (s.parcel p).pwr.fMinNew))) ∧
    (s.datum.state = .cabled → Gives .datumTick s (fun t => t.datum.count = s.datum.count + 1 ∧
      t.datum.miss.toNat = (if s.datum.count % 65536 = 0 ∧ s.datum.seen = false then min (s.datum.miss.toNat + 1) 255
        else s.datum.miss.toNat) ∧
      (s.datum.count % 65536 = 0 ∧ s.datum.seen = false ∧ s.datum.missedLast = true → t.datum.state = .holdover ∧
        t.datum.qualified = false ∧ t.datum.lostSrc = 255 ∧ t.datum.lostAt = s.datum.count + 1 ∧
        bvb t.hub.port.intStat 2 = true) ∧
      (¬ (s.datum.count % 65536 = 0 ∧ s.datum.seen = false ∧ s.datum.missedLast = true) → t.datum.state = .cabled ∧
        t.datum.missedLast = (if s.datum.count % 65536 = 0 then !s.datum.seen else s.datum.missedLast)) ∧
      t.phase = 0 ∧ TimePassed s t s.nMax)) ∧
    (s.datum.state = .unset → rootDue s.datum = false → Gives .datumTick s (fun t => t.datum.count = 0 ∧
      t.datum.state = .unset ∧ t.phase = 0 ∧ TimePassed s t s.nMax)) ∧
    (s.datum.state = .unset → s.datum.root = true → s.datum.armed = true → s.datum.src = 1 → Gives .datumTick s (fun t =>
      t.datum.count = s.datum.load.toNat ∧ t.datum.state = .root ∧ t.datum.armed = false ∧ t.datum.hops = 0 ∧ t.phase = 0 ∧
      bvb t.hub.port.intStat 2 = true ∧ TimePassed s t s.nMax ∧
      (∀ p < 8, ∀ l, (s.reach p l).task.wait = .unset → (t.reach p l).task.wait = .none)))) ∧
  (∀ (s : State),
    (∀ target, s.datum.jump = some (.ahead target) → s.datum.state ≠ .cabled → Gives .datumJumpCorrection s (fun t =>
      t.datum = { s.datum with
        count := target, tick := s.datum.tickNew.getD s.datum.tick, tickNew := none, jump := none
        skipped := s.datum.skipped ++ [(s.datum.count + 1, target)] } ∧
      t.phase = 0 ∧ TimePassed s t s.nMax)) ∧
    (∀ n, s.datum.jump = some (.behind n) → s.phase < s.nMax → Gives .datumJumpCorrection s (fun t =>
      t.datum = { s.datum with jump := none, gated := some n } ∧ t.phase = s.nMax - 1 ∧
      TimePassed s t (s.nMax - 1) ∧ (∀ p, exec (.stakeReached p) t = .next t) ∧ exec .datumTick t = .next t)) ∧
    (∀ n, s.datum.gated = some n → s.datum.state ≠ .cabled → Gives .clockGatingEnd s (fun t =>
      t.datum = { s.datum with
        count := s.datum.count + 1, tick := s.datum.tickNew.getD s.datum.tick, tickNew := none, gated := none } ∧
      t.phase = 0 ∧ TimePassed s t s.nMax)) ∧
    (s.datum.jump = none → exec .datumJumpCorrection s = .next s) ∧
    (s.datum.gated = none → exec .clockGatingEnd s = .next s) ∧
    (s.datum.jump ≠ none → exec .datumTick s = .next s))

/-- The cabled reference: a pulse in UNSET loads the armed count, cable delay included, and locks; later one within a
tick changes nothing but the measured phase, and one further off raises DATUM_JUMP and orders its correction, once, and
not while the clocks are gated; a pulse that is not qualified, or not used, does nothing; losing the reference in CABLED
is HOLDOVER (R265, R270, R271, R273, R286). The in-band datum: an idle flit's record enters its link; in UNSET the
package takes the best source's position, in FREERUN it adopts it, and with no source left INBAND becomes HOLDOVER; a
root, a cabled datum and holdover follow none (R266, R267, R270, R271, R292). An in-band source whose link is lost leads
to the next best source or to HOLDOVER; holdover lasts 10 ms and then goes on with a source, or as FREERUN, with
DATUM_LOSS (R267, R270, R271, R286). The model's own choices in it: log 45, 46, 47, 48, 49 and 104. -/
def Obligations.DatumFollowsItsReference : Prop :=
  (∀ (s : State),
    (s.datum.qualified = false ∨ s.datum.src = 1 → exec .datumSyncPulse s = .next s) ∧
    (s.datum.qualified = true → s.datum.src ≠ 1 →
      (s.datum.state = .unset → s.datum.armed = false → exec .datumSyncPulse s = .next s) ∧
      (s.datum.state = .unset → s.datum.armed = true → s.datum.delay.toNat < s.tick10 → Gives .datumSyncPulse s (fun t =>
        t.datum.count = s.datum.load.toNat ∧ t.datum.state = .cabled ∧ t.datum.hops = 0 ∧ t.datum.armed = false ∧
        t.phase = min (s.datum.delay.toNat * 3 / 20) (s.nMax - 1) ∧ bvb t.hub.port.intStat 2 = true ∧ t.book = s.book ∧
        SameMemory s t)) ∧
      (∀ (ref : Nat) (d : Int), s.datum.state ≠ .unset → s.datum.state ≠ .inband → s.datum.state ≠ .root →
        ref = (if s.datum.armed then s.datum.load.toNat else nearestEpoch s ((ownPos s : Int) - s.datum.delay.toNat)) →
        d = ((ref * s.tick10 + s.datum.delay.toNat : Nat) : Int) - (ownPos s : Int) →
        Gives .datumSyncPulse s (fun t => t.datum.state = .cabled ∧ t.datum.hops = 0 ∧ t.datum.armed = false ∧
          t.datum.seen = true ∧ t.datum.count = s.datum.count ∧ t.phase = s.phase ∧
          (s.datum.gated ≠ none → t.datum.jump = s.datum.jump ∧ t.book = s.book) ∧
          (s.datum.gated = none → d.natAbs < s.tick10 → t.datum.jump = none ∧ t.book = s.book) ∧
          (∀ jump, s.datum.gated = none → s.tick10 ≤ d.natAbs →
            jump = (if d < 0 then Jump.behind (d.natAbs / s.tick10) else .ahead (s.datum.count + 1 + d.natAbs / s.tick10)) →
            t.datum.jump = some jump ∧ (s.datum.jump = some jump → t.book = s.book) ∧
            (s.datum.jump ≠ some jump → t.book = (raise s (srcHub 0) 0x4004 (packFields [(8, s.datum.count), (2, s.offset 0), (8, ref),
              (1, b2n (decide (d < 0))), (4, d.natAbs / s.tick10)] [])).book)) ∧
          SameReaches s t ∧ SameMemory s t))) ∧
    (s.datum.state = .cabled → Gives .referenceLost s (fun t => t.datum.state = .holdover ∧ t.datum.qualified = false ∧
      t.datum.count = s.datum.count ∧ t.datum.lostAt = s.datum.count ∧ t.datum.lostSrc = 255 ∧
      bvb t.hub.port.intStat 2 = true ∧ SameReaches s t ∧ SameMemory s t ∧ t.book = s.book)) ∧
    (s.datum.state ≠ .cabled → exec .referenceLost s =
      .next { s with datum := { s.datum with qualified := false, missedLast := false } }) ∧
    exec .referenceQualified s = .next { s with datum := { s.datum with qualified := true } }) ∧
  (∀ (s : State) (p : ParcelId) (q : Port) (f : Flit) (u : State), isRiver q = true → (s.link p q).state = .up → f.ftype = 0 →
    f.crc = flitCrc f → f.payload.length = 244 → u = recordIn (flitCommon s p q f) p q f.payload →
    ((u.link p q).srcCount = leVal (f.payload.take 8) ∧ (u.link p q).srcRoot.toNat = leVal ((f.payload.drop 10).take 2) % 2 ^ 14 ∧
      (u.link p q).srcHops.toNat = leVal ((f.payload.drop 12).take 1) % 64 ∧ (u.link p q).idleSeen = true ∧
      (u.link p q).srcWall = s.wall) ∧
    (s.datum.root = true ∨ s.datum.src = 0 ∨ s.datum.state = .cabled ∨ s.datum.state = .root ∨ s.datum.state = .holdover →
      exec (.idleFlitRx p q f) s = .next u) ∧
    (s.datum.root = false → s.datum.src ≠ 0 → s.datum.state = .unset → bestSource u = none →
      exec (.idleFlitRx p q f) s = .next u) ∧
    (∀ x : Nat × Port, s.datum.root = false → s.datum.src ≠ 0 → s.datum.state = .unset → bestSource u = some x →
      Gives (.idleFlitRx p q f) s (fun t => t.datum.state = .inband ∧ t.datum.count = partnerPos u x.1 x.2 / s.tick10 ∧
        t.datum.srcport = BitVec.ofNat 6 (x.1 * 8 + portNo x.2) ∧ t.datum.armed = s.datum.armed ∧
        bvb t.hub.port.intStat 2 = true ∧ SameMemory s t ∧ t.book = s.book)) ∧
    (∀ x : Nat × Port, s.datum.root = false → s.datum.src ≠ 0 → s.datum.state = .freerun → bestSource u = some x →
      Gives (.idleFlitRx p q f) s (fun t => t.datum.state = .inband ∧ t.datum.count = s.datum.count ∧
        t.datum.srcport = BitVec.ofNat 6 (x.1 * 8 + portNo x.2) ∧ bvb t.hub.port.intStat 2 = true ∧ SameReaches s t ∧
        SameMemory s t)) ∧
    (s.datum.state = .inband → s.datum.root = false → s.datum.src ≠ 0 → bestSource u = none →
      Gives (.idleFlitRx p q f) s (fun t => t.datum.state = .holdover ∧ t.datum.lostAt = s.datum.count ∧
        t.datum.lostSrc = s.datum.srcport.toNat ∧ t.datum.count = s.datum.count ∧ SameMemory s t ∧ t.book = s.book))) ∧
  (∀ (s : State),
    (s.datum.state = .inband → (sourceLink s).state ≠ .up →
      (bestSource s = none → Gives .sourceLinkLost s (fun t => t.datum.state = .holdover ∧ t.datum.lostAt = s.datum.count ∧
        t.datum.lostSrc = s.datum.srcport.toNat ∧ t.datum.count = s.datum.count ∧ t.datum.hops = (if s.datum.root then 0 else 63) ∧
        bvb t.hub.port.intStat 2 = true ∧ SameReaches s t ∧ SameMemory s t ∧ t.book = s.book)) ∧
      (∀ x : Nat × Port, bestSource s = some x → s.datum.root = false → s.datum.src ≠ 0 →
        Gives .sourceLinkLost s (fun t => t.datum.state = .inband ∧
          t.datum.srcport = BitVec.ofNat 6 (x.1 * 8 + portNo x.2) ∧ t.datum.count = s.datum.count ∧ SameReaches s t ∧
          SameMemory s t))) ∧
    (s.datum.state ≠ .inband ∨ (sourceLink s).state = .up → exec .sourceLinkLost s = .next s) ∧
    (s.datum.state = .holdover → s.datum.lostAt + s.ticksUp 10 ≤ s.datum.count → bestSource s = none →
      Gives .holdoverExpiry s (fun t => t.datum.state = .freerun ∧ t.datum.count = s.datum.count ∧
        t.book = (raise s (srcHub 0) 0x4002 (packFields [(1, s.datum.lostSrc), (8, s.datum.lostAt), (1, 5)] [])).book ∧
        bvb t.hub.port.intStat 2 = true ∧ SameReaches s t ∧ SameMemory s t)) ∧
    (s.datum.state ≠ .holdover ∨ s.datum.count < s.datum.lostAt + s.ticksUp 10 → exec .holdoverExpiry s = .next s))

/-- The governor stores the powers of the tick, opens a spate when the average passes P_lim, starts 400 ms of recovery
when it no longer does, and raises SPATE_EXPIRED of reason 3 above 2,400 W; a list of other than eight powers is no
event of the part (R423, R427, R438). A drop request at 32 ms lowers the cap of each parcel over its budget to the
largest setting at or below f·B/(1,000·P), one lower if that is f, and not below its f_min, or, with none over its
budget, every cap by one, once in a spate; the cut-short at 40 ms ends the open steps of the parcels whose cap still
waits, their instructions cut short, and applies it; none of them acts but at a tick boundary (R31); the end of recovery
lifts the caps (R427, R428, R429, R430, R438). The model's own choices in it: log 11, 50 and 51. -/
def Obligations.PowerIsGoverned : Prop :=
  (∀ (s : State) (pkg : Nat) (ws : List Nat) (m : Nat), m = s.ticksUp 1 → s.hub.state ≠ .off → s.phase = 0 → s.datum.gated = none →
    (ws.length ≠ 8 → exec (.governorTick pkg ws) s = .fault (.illFormed "powers of eight parcels")) ∧
    (ws.length = 8 → pkg ≤ 2400 → ∀ h, h = (pkg :: s.hub.pwr.hist).take 3907 →
      Gives (.governorTick pkg ws) s (fun t => t.hub.pwr.hist = h ∧
        (∀ p < 8, (t.parcel p).pwr.ticks = (ws.getD p 0 :: (s.parcel p).pwr.ticks).take 3907 ∧
          (t.parcel p).pwr.now = (s.parcel p).pwr.now ∧ (t.parcel p).pwr.sched = (s.parcel p).pwr.sched) ∧
        (s.hub.pwr.state = 0 → s.hub.pwr.limit.toNat * m < (h.take m).foldl (· + ·) 0 →
          t.hub.pwr.state = 1 ∧ t.hub.pwr.ticks = 0 ∧ t.hub.pwr.start = s.datum.count ∧ t.hub.pwr.peak = pkg ∧
          t.hub.pwr.asked = false ∧ t.book = s.book) ∧
        (s.hub.pwr.state = 0 → (h.take m).foldl (· + ·) 0 ≤ s.hub.pwr.limit.toNat * m → t.hub.pwr.state = 0 ∧ t.book = s.book) ∧
        (s.hub.pwr.state = 1 → (h.take m).foldl (· + ·) 0 ≤ s.hub.pwr.limit.toNat * m →
          t.hub.pwr.state = 2 ∧ t.hub.pwr.ticks = s.ticksUp 400 ∧ t.book = s.book) ∧
        (s.hub.pwr.state = 1 → s.hub.pwr.limit.toNat * m < (h.take m).foldl (· + ·) 0 →
          t.hub.pwr.state = 1 ∧ t.hub.pwr.ticks = s.hub.pwr.ticks + 1 ∧ t.hub.pwr.peak = max s.hub.pwr.peak pkg) ∧
        SameReaches s t ∧ SameClusters s t ∧ SameMemory s t ∧ SameTime s t)) ∧
    (ws.length = 8 → 2400 < pkg → Gives (.governorTick pkg ws) s (fun t =>
      t.hub.pwr.hist = (pkg :: s.hub.pwr.hist).take 3907 ∧ t.hub.pwr.asked = true ∧
      (∀ p < 8, (t.parcel p).pwr.pwrCap ≤ (s.parcel p).pwr.pwrCap) ∧
      (s.hub.pwr.state.toNat < 2 → ∃ x, t.book = (raise s (srcHub 2) 0x7001 (3 :: x)).book) ∧
      SameReaches s t ∧ SameClusters s t ∧ SameMemory s t ∧ SameTime s t))) ∧
  (∀ (pkg : Nat) (ws : List Nat) (s : State), ws.length = 8 → s.hub.state = .off ∨ s.phase ≠ 0 ∨ s.datum.gated ≠ none →
    exec (.governorTick pkg ws) s = .next s) ∧
  (∀ (s : State) (w : PkgPower), w = s.hub.pwr → s.phase ≠ 0 ∨ s.datum.gated ≠ none →
    exec .spateDropRequest s = .next s ∧ exec .spateCutShort s = .next s ∧ exec .recoveryEnd s = .next s) ∧
  (∀ (s : State) (w : PkgPower), w = s.hub.pwr → s.phase = 0 → s.datum.gated = none →
    (∀ m, m = s.ticksUp 1 → w.state = 1 → w.drop32 = false → s.ticksDown 32 ≤ w.ticks → (∃ p < 8, overBudget s p = true) →
      Gives .spateDropRequest s (fun t =>
        (∀ p < 8, ∀ x top c, x = (s.parcel p).pwr →
          top = (6 + x.now) * budget s p * m / ((x.ticks.take m).foldl (· + ·) 0 * 1000) - 6 →
          c = max x.fMin.toNat (if top = x.now then top - 1 else top) →
          (t.parcel p).pwr = if overBudget s p = true ∧ capFree s p = true ∧ c < x.pwrCap
            then { x with pwrCap := c, capWait := true } else x) ∧
        t.hub.pwr = { w with drop32 := true, asked := true } ∧
        (∃ x, t.book = (raise s (srcHub 2) 0x7001 (0 :: x)).book) ∧ SameReaches s t ∧ SameMemory s t ∧ SameTime s t)) ∧
    (w.state = 1 → w.cut40 = false → s.ticksDown 40 ≤ w.ticks → (∃ p < 8, (s.parcel p).pwr.capWait = true) →
      Gives .spateCutShort s (fun t =>
        (∀ p < 8, (t.parcel p).pwr = if (s.parcel p).pwr.capWait = true
          then { (s.parcel p).pwr with now := (s.parcel p).pwr.target, capWait := false, sinceCap := some 0 }
          else (s.parcel p).pwr) ∧
        (∀ p < 8, (s.parcel p).pwr.capWait = true → ∀ l < 128, (t.reach p l).task.step = none ∧
          ((s.reach p l).task.step ≠ none → ∀ f ∈ (t.reach p l).flights, f.unit ≠ .tally → f.unit ≠ .sequencer →
            f.status = 3 ∨ f.status = 6)) ∧
        (∀ p < 8, (s.parcel p).pwr.capWait = false → ∀ l, (t.reach p l).task = (s.reach p l).task ∧
          (t.reach p l).flights = (s.reach p l).flights) ∧
        t.hub.pwr = { w with cut40 := true })) ∧
    (w.state = 1 → w.drop32 = false → s.ticksDown 32 ≤ w.ticks → (∀ p < 8, overBudget s p = false ∧ capFree s p = true) →
      Gives .spateDropRequest s (fun t =>
        (∀ p < 8, (t.parcel p).pwr = { (s.parcel p).pwr with
          pwrCap := min (s.parcel p).pwr.pwrCap (max (s.parcel p).pwr.fMin.toNat ((s.parcel p).pwr.pwrCap - 1))
          capWait := (s.parcel p).pwr.capWait || decide (max (s.parcel p).pwr.fMin.toNat ((s.parcel p).pwr.pwrCap - 1) <
            (s.parcel p).pwr.pwrCap) }) ∧
        t.hub.pwr = { w with drop32 := true, asked := true } ∧
        (∃ x, t.book = (raise s (srcHub 2) 0x7001 (0 :: x)).book) ∧ SameReaches s t ∧ SameMemory s t ∧ SameTime s t)) ∧
    (w.state ≠ 1 ∨ w.drop32 = true ∨ w.ticks < s.ticksDown 32 → exec .spateDropRequest s = .next s) ∧
    (∀ p : ParcelId, w.state = 1 → w.cut40 = false → s.ticksDown 40 ≤ w.ticks → (s.parcel p).pwr.capWait = true →
      (∀ q, q ≠ p.val → (s.parcel q).pwr.capWait = false) → (∀ l, (s.reach p l).task.step = none) →
      ∀ u, u = s.updPwr p (fun x => { x with now := x.target, capWait := false, sinceCap := some 0 }) →
      Gives .spateCutShort s (fun t => (∀ q, t.parcel q = u.parcel q) ∧ t.hub.pwr = { w with cut40 := true } ∧
        t.book = (raise u (srcHub 2) 0x7001 (packFields [(1, 1), (8, w.start), (2, avgW s w.hist), (4, w.peak),
          (1, 2 ^ p.val), (4, ((List.range 8).map (fun q => (s.parcel q).pwr.pwrCap * 16 ^ q)).foldl (· + ·) 0)] [])).book ∧
        SameReaches s t ∧ SameMemory s t ∧ SameTime s t)) ∧
    (w.state ≠ 1 ∨ w.cut40 = true ∨ w.ticks < s.ticksDown 40 ∨ (∀ p < 8, (s.parcel p).pwr.capWait = false) →
      exec .spateCutShort s = .next s) ∧
    (w.state = 2 → w.ticks = 0 → Gives .recoveryEnd s (fun t => t.hub.pwr = { w with state := 0, asked := false } ∧
      (∀ p < 8, (t.parcel p).pwr = { (s.parcel p).pwr with pwrCap := 9, capWait := false, sinceCap := none }) ∧
      SameReaches s t ∧ SameMemory s t ∧ t.book = s.book ∧ SameTime s t)) ∧
    (w.state ≠ 2 ∨ w.ticks ≠ 0 → exec .recoveryEnd s = .next s))

/-- A sample below 115.0 degrees is stored and does no more; at 115.0 the parcel, whatever its state but OFF and
IDENTIFY, or for a sensor of the hub every parcel, is fenced, and THERMTRIP_N is driven whatever the state, until the
package has been below 105.0 degrees for 10 ms; the thermal cap rises after 10 ms below 100.0 degrees; a group's
throttle rises at 100.0 degrees, to 3 at most, with CHANNEL_HOT at its first rise, and falls after 10 ms below 95.0
(R433, R435, R436, R469). The model's own choices in it: log 11. -/
def Obligations.TemperatureLimits : Prop :=
  (∀ (p : ParcelId) (n : Fin 52) (temp : Int) (s : State), s.hub.lands.auxGood = false →
    exec (.sensorSample p n temp) s = .next s) ∧
  ∀ (p : ParcelId) (s : State) (w : Power), w = (s.parcel p).pwr → s.hub.lands.auxGood = true →
    (∀ (n : Fin 52) (temp : Int), temp < 1050 → n.val < 48 →
      exec (.sensorSample p n temp) s = .next (s.updPwr p (fun w => { w with sensors := SMap.put w.sensors n temp }))) ∧
    (∀ (n : Fin 52) (temp : Int), 1050 ≤ temp → temp < 1150 → n.val < 48 → Gives (.sensorSample p n temp) s (fun t =>
      (t.parcel p).pwr = { w with sensors := SMap.put w.sensors n temp } ∧ t.hub.pwr = { s.hub.pwr with hotAt := s.wall } ∧
      SameReaches s t ∧ SameMemory s t ∧ t.book = s.book ∧ SameTime s t)) ∧
    (∀ (n : Fin 52) (temp : Int), 1150 ≤ temp → n.val < 48 → (s.parcel p).state ≠ .off →
      (s.parcel p).state ≠ .identify → (s.parcel p).state ≠ .contain → Gives (.sensorSample p n temp) s (fun t =>
        t.hub.pwr.thermtrip = true ∧ (t.parcel p).state = .contain ∧ (t.parcel p).containCause = 0x7003 ∧
        (∀ l < 128, (t.reach p l).task.run = false ∧ (t.reach p l).flights = []) ∧
        ((∀ q : Port, isRiver q = true → (s.link p q).state ≠ .up) → (s.parcel p).state ≠ .train → s.posted = [] →
          t.book = (raise s (srcHub 2) 0x7003 (packFields [(1, p.val), (4, n.val), (2, unsignedBits 16 temp)] [])).book ∧
          ∀ q, q ≠ p.val → t.parcel q = s.parcel q) ∧
        SameMemory (drainParcel s p) t)) ∧
    (∀ (n : Fin 52) (temp : Int), 1150 ≤ temp → n.val < 48 →
      (s.parcel p).state = .off ∨ (s.parcel p).state = .identify ∨ (s.parcel p).state = .contain →
      Gives (.sensorSample p n temp) s (fun t => t.hub.pwr.thermtrip = true ∧
        (t.parcel p).state = (s.parcel p).state ∧ t.book = s.book ∧ SameReaches s t ∧ SameMemory s t ∧ SameTime s t)) ∧
    (∀ (n : Fin 52) (temp : Int), 1150 ≤ temp → 48 ≤ n.val → Gives (.sensorSample p n temp) s (fun t =>
      t.hub.pwr.thermtrip = true ∧ (s.posted = [] → SameMemory s t) ∧
      (∀ q < 8, (t.parcel q).state = if (s.parcel q).state = .off ∨ (s.parcel q).state = .identify
        then (s.parcel q).state else .contain))) ∧
    (packageCool s = true → s.hub.pwr.hotAt + 15000000 ≤ s.wall →
      exec .thermtripRelease s = .next (s.updPkgPwr (fun w => { w with thermtrip := false }))) ∧
    (packageCool s = false ∨ s.wall < s.hub.pwr.hotAt + 15000000 → exec .thermtripRelease s = .next s) ∧
    (s.phase = 0 → s.datum.gated = none → s.ticksUp 10 ≤ w.coolTicks → exec (.thermalCapRaise p) s =
      .next (s.updPwr p (fun w => { w with thermCap := min 9 (w.thermCap + 1), coolTicks := 0 }))) ∧
    (w.coolTicks < s.ticksUp 10 ∨ s.phase ≠ 0 ∨ s.datum.gated ≠ none → exec (.thermalCapRaise p) s = .next s) ∧
    (∀ (g : Fin 32) (temp : Int) (level : Nat), temp = SMap.get 0 w.sensors (16 + g) → level = SMap.get 0 w.thrLevel g →
      (1000 ≤ temp → level < 3 → (∀ n, SMap.find w.thrSince g = some n → s.ticksUp 1 ≤ n) →
        Gives (.channelThrottleRise p g) s (fun t =>
          (t.parcel p).pwr = { w with
            thrLevel := SMap.put w.thrLevel g (level + 1), thrSince := SMap.put w.thrSince g 0
            thrCool := SMap.put w.thrCool g 0 } ∧
          t.book = (if level = 0 then (raise s (srcParcel p 0) 0x7004
            (packFields [(1, g.val), (2, unsignedBits 16 temp), (1, 1)] [])).book else s.book) ∧
          SameReaches s t ∧ SameMemory s t ∧ t.hub = s.hub ∧ SameTime s t)) ∧
      (temp < 1000 ∨ 3 ≤ level ∨ (∃ n, SMap.find w.thrSince g = some n ∧ n < s.ticksUp 1) →
        exec (.channelThrottleRise p g) s = .next s) ∧
      (0 < level → s.ticksUp 10 ≤ SMap.get 0 w.thrCool g → exec (.channelThrottleFall p g) s =
        .next (s.updPwr p (fun w => { w with
          thrLevel := SMap.put w.thrLevel g (level - 1), thrCool := SMap.put w.thrCool g 0 }))) ∧
      (level = 0 ∨ SMap.get 0 w.thrCool g < s.ticksUp 10 → exec (.channelThrottleFall p g) s = .next s))

/-- An event waits in the pending slot of its source, or counts as a flood where the slot is taken; an arbiter that
writes nothing starts the record of the next source in rotation at once, with mark 0x00 in its slot; a record that
completes stands in the slot of its number in every copy that has not failed, with mark, sequence number and CRC, sets
HUB_INT_STAT.fb, frees its pending slot, which a flood record takes, and lets the next one start; in last-gasp mode it
goes into the ring of eight, where one whose notice has still to leave is lost and counted; a copy whose read-back fails
is marked and raises LOG_MEMORY_FAIL; while no record is being written, or without the auxiliary supply, nothing is
written (R390, R392, R393, R394, R395, R396, R397). The model's own choices in it: log 61. -/
def Obligations.BookRecords : Prop :=
  ∀ (s : State) (b : Book) (n : Nat), b = s.book → n = b.seq.toNat % 4096 →
    (∀ src e, b.writing = some src → SMap.find b.slots src = some e → s.hub.lands.auxGood = true → SMap.sorted b.slots = true →
      (b.lgMode = false → Gives (.fieldBookWrite true true) s (fun t =>
        (b.failA = false → SMap.find t.book.copyA n = some (recordWord e b.seq.toNat 0xA5)) ∧
        (b.failB = false → SMap.find t.book.copyB n = some (recordWord e b.seq.toNat 0xA5)) ∧
        (∀ m, m ≠ n → m ≠ (b.seq.toNat + 1) % 4096 →
          SMap.find t.book.copyA m = SMap.find b.copyA m ∧ SMap.find t.book.copyB m = SMap.find b.copyB m) ∧
        t.book.writing = (nextSource t.book).map (fun x => x.1) ∧
        (∀ m, m = (b.seq.toNat + 1) % 4096 →
          (t.book.writing = none → SMap.find t.book.copyA m = SMap.find b.copyA m ∧
            SMap.find t.book.copyB m = SMap.find b.copyB m) ∧
          (t.book.writing ≠ none → (b.failA = false → SMap.get 0 t.book.copyA m = putField (SMap.get 0 b.copyA m) 120 8 0) ∧
            (b.failB = false → SMap.get 0 t.book.copyB m = putField (SMap.get 0 b.copyB m) 120 8 0))) ∧
        t.book.seq = b.seq + 1 ∧ t.book.lastSrc = src ∧ t.book.failA = b.failA ∧ t.book.failB = b.failB ∧
        (SMap.find b.floods src = none → SMap.find t.book.slots src = none) ∧
        (∀ f, SMap.find b.floods src = some f → SMap.find t.book.slots src = some { count := s.datum.count
                                                                                    off := s.offset (srcParcelOf src)
                                                                                    code := 0x9001, source := src
                                                                                    payload := floodPayload f }) ∧
        bvb t.hub.port.intStat 0 = true ∧ SameReaches s t ∧ SameMemory s t ∧ SameTime s t)) ∧
      (b.lgMode = false → b.failA = false → b.failB = false → src ≠ srcHub 3 → SMap.find b.slots (srcHub 3) = none →
        Gives (.fieldBookWrite false true) s (fun t => t.book.failA = true ∧ t.book.failB = false ∧
          SMap.find t.book.copyA n = some (recordWord e b.seq.toNat 0) ∧
          SMap.find t.book.copyB n = some (recordWord e b.seq.toNat 0xA5) ∧ t.book.lgMode = false ∧
          SMap.find t.book.slots (srcHub 3) = some { count := s.datum.count, off := s.offset 0, code := 0x9002
                                                     source := srcHub 3
                                                     payload := placeFields [(0, 1, 0), (2, 2, n), (4, 4, b.seq.toNat)] [] })) ∧
      (b.lgMode = false → b.failA = false → b.failB = false → Gives (.fieldBookWrite false false) s (fun t =>
        t.book.failA = true ∧ t.book.failB = true ∧ t.book.lgMode = true)) ∧
      (b.lgMode = true → Gives (.fieldBookWrite true true) s (fun t => t.book.copyA = b.copyA ∧ t.book.copyB = b.copyB ∧
        t.book.lastGasp = (recordWord e b.seq.toNat 0xA5 :: b.lastGasp).take 8 ∧ t.book.seq = b.seq + 1 ∧
        t.book.lgLost.toNat = min (b.lgLost.toNat + (if 8 ≤ b.lgUnsent.length then 1 else 0)) 65535 ∧
        t.book.unsent = b.unsent))) ∧
    (∀ src code pl, SMap.find b.slots src = none →
      (SMap.find (raise s src code pl).book.slots src).map (fun x => (x.count, x.off, x.code, x.source, x.payload)) =
        some (s.datum.count, s.offset (srcParcelOf src), code, src, pl)) ∧
    (∀ src code pl, b.writing = none → b.slots = [] → (raise s src code pl).book.writing = some src ∧
      (b.failA = false → b.lgMode = false →
        SMap.get 0 (raise s src code pl).book.copyA n = putField (SMap.get 0 b.copyA n) 120 8 0)) ∧
    (∀ src code pl x, b.writing = some x → (raise s src code pl).book.writing = some x) ∧
    (∀ src code pl x, SMap.find b.slots src = some x → (raise s src code pl).book.slots = b.slots ∧
      ∃ f, SMap.find (raise s src code pl).book.floods src = some f ∧ f.lastCount = s.datum.count ∧
        f.held = (SMap.find b.floods src).elim 1 (fun g => g.held + 1)) ∧
    (∀ okA okB, b.writing = none ∨ s.hub.lands.auxGood = false → exec (.fieldBookWrite okA okB) s = .next s)

/-- The scrub writes a corrected sector back with MEM_CE and MEM_ERR.ce, poisons an uncorrectable one with MEM_UE and
MEM_ERR.ue, whether the error stood there or is met now, takes for good what the code takes for good, and does nothing
to a clean one (R349, R350, R351, R352, R353). A failing reach that has stopped, with its fault cleared and its cluster
quiet, moves at a tick boundary onto the spare, with registers and memories at their reset values, and REACH_SPARED;
without a spare it retires; neither happens while the conditions do not hold (R403, R404, R405, R406). Each cause of
R407 takes a parcel into CONTAIN: every reach stops with nothing in flight and no open step, what waits is dropped, the
river links go to OFF, registers and memories stay but that its posted writes become visible, and entry 0x9p10:02 holds
the cause; a parcel that is contained, or in OFF or IDENTIFY, is not fenced (R407, R408). Training that ends well takes
a parcel into the state that the package's state allows, its hard-faulted units replaced by spare rows; one that ends
badly, or that has too few spare rows, is fenced with cause MEM_UE; its UCIe ports come up with their partners in both
cases, at the highest common version (R300, R328); a parcel too hot, not in TRAIN, or trained with its package, is not
concerned (R376, R409). The model's own choices in it: log 57, 77, 88, 101, 106 and 107. -/
def Obligations.FailuresAreContained : Prop :=
  (∀ (p : ParcelId) (n a : Nat) (s : State), relays s p = true → a = 64 * n → a < 25769803776 →
    (s.upsets = [] → exec (.scrubSector p n .none) s = .next s ∧
      (∀ i x h bs y, i / 64 ≠ n → exec (.scrubSector p n (.corrected i x)) s = .next s ∧
        exec (.scrubSector p n (.uncorrectable i h)) s = .next s ∧ exec (.scrubSector p n (.wrong i bs y)) s = .next s)) ∧
    (∀ i x err, i / 64 = n → (err = CellError.corrected i x ∧ s.upsets = []) ∨
        (err = .none ∧ s.upsets = [{ site := .cells (.sm p), unit := n, symbol := x }]) →
      Gives (.scrubSector p n err) s (fun t => t.upsets = [] ∧
      (t.parcel p).mon = { (s.parcel p).mon with
        ce := BitVec.ofNat 32 (min ((s.parcel p).mon.ce.toNat + 1) (2 ^ 32 - 1)) } ∧
      t.book = (raise s (srcParcel p 0) 0x6001 (packFields [(1, p.val), (8, s.dev * 2 ^ 38 + p * 2 ^ 35 + a),
        (2, pseudoChannel ((s.parcel p).keys.keyFor a) a), (4, x), (2, 0xFFFF)] [])).book ∧
      (t.parcel p).poison = (s.parcel p).poison ∧ SameReaches s t ∧ SameMemory s t ∧ t.hub = s.hub ∧ SameTime s t)) ∧
    (∀ i h err, i / 64 = n → (err = CellError.uncorrectable i h ∧ s.upsets = []) ∨
        (err = .none ∧ s.upsets = [{ site := .cells (.sm p), unit := n, fatal := true, hard := h }]) →
      (n ∉ (s.parcel p).poison → Gives (.scrubSector p n err) s (fun t => t.upsets = [] ∧
        (t.parcel p).mon = { (s.parcel p).mon with
          ue := BitVec.ofNat 16 (min ((s.parcel p).mon.ue.toNat + 1) (2 ^ 16 - 1)) } ∧
        (∀ m, m ∈ (t.parcel p).poison ↔ m = n ∨ m ∈ (s.parcel p).poison) ∧
        t.book = (raise s (srcParcel p 0) 0x6002 (packFields [(1, p.val), (8, s.dev * 2 ^ 38 + p * 2 ^ 35 + a),
          (2, pseudoChannel ((s.parcel p).keys.keyFor a) a), (2, 0xFFFF)] [])).book ∧
        SameReaches s t ∧ SameMemory s t ∧ t.hub = s.hub ∧ SameTime s t)) ∧
      (n ∈ (s.parcel p).poison → exec (.scrubSector p n err) s = .next { s with upsets := [] })) ∧
    (∀ i bs y, i / 64 = n → s.upsets = [] → memWf (s.parcel p).mem = true →
      Gives (.scrubSector p n (.wrong i bs y)) s (fun t => t.upsets = [] ∧
        (∀ k b, rdByte t k b = if k = .sm p ∧ a ≤ b ∧ b < a + min 64 bs.length then bs.getD (b - a) 0 else rdByte s k b) ∧
        t.book = (match y with
          | some x => (raise s (srcParcel p 0) 0x6001 (packFields [(1, p.val), (8, s.dev * 2 ^ 38 + p * 2 ^ 35 + a),
              (2, pseudoChannel ((s.parcel p).keys.keyFor a) a), (4, x), (2, 0xFFFF)] [])).book
          | none => s.book) ∧
        SameReaches s t ∧ t.hub = s.hub ∧ SameTime s t))) ∧
  (∀ (p : ParcelId) (l : ReachId) (s : State) (c : Nat), c = clusterOf l →
    (mapMayChange s p l = true → closingsDone s p = true → (s.cluster p c).spare < 9 → Gives (.reachRemap p l) s (fun t =>
      t.reach p l = { task := { issueNo := (s.reach p l).task.issueNo } } ∧
      t.cluster p c = { s.cluster p c with
        reachMap := SMap.put (s.cluster p c).reachMap (l % 8) (s.cluster p c).spare, spare := 255 } ∧
      t.book = (raise s (srcParcel p 11) 0x9005 (placeFields [(0, 1, c), (1, 1, l.val), (2, 1, physReach s p l),
        (3, 1, c * 9 + (s.cluster p c).spare), (4, 2, if (s.reach p l).task.failHard then 0x6002 else 0x6001),
        (8, 8, s.datum.count)] [])).book ∧
      SMap.get 0 t.hub.dict.sparings p = SMap.get 0 s.hub.dict.sparings p + 1 ∧ OtherReaches s t p l ∧
      (∀ q d, ¬ (q = p.val ∧ d = c) → t.cluster q d = s.cluster q d) ∧ SameTime s t)) ∧
    (mapMayChange s p l = true → closingsDone s p = true → 9 ≤ (s.cluster p c).spare → Gives (.reachRetire p l) s (fun t =>
      t.reach p l = { s.reach p l with cnt := [], cntOld := [], cntInc := [], task := { (s.reach p l).task with failing := false, retired := true } } ∧
      t.book = (raise s (srcParcel p 11) 0x9005 (placeFields [(0, 1, c), (1, 1, l.val), (2, 1, physReach s p l), (3, 1, 255),
        (4, 2, if (s.reach p l).task.failHard then 0x6002 else 0x6001), (8, 8, s.datum.count)] [])).book ∧
      bvb (t.parcel p).mon.intStat 0 = true ∧ OtherReaches s t p l ∧ SameClusters s t ∧ SameHub s t ∧ SameTime s t)) ∧
    (mapMayChange s p l = false ∨ closingsDone s p = false ∨ 9 ≤ (s.cluster p c).spare → exec (.reachRemap p l) s = .next s) ∧
    (mapMayChange s p l = false ∨ closingsDone s p = false ∨ (s.cluster p c).spare < 9 → exec (.reachRetire p l) s = .next s)) ∧
  (∀ (p : ParcelId) (cause : ContainCause) (s : State),
    (powered s p = true → (s.parcel p).state ≠ .contain →
      (cause = .thermalTrip → ∃ n < 52, 1150 ≤ sensorOf s p n) → (cause = .hubPortDown → (s.link p .hubPort).state ≠ .up) →
      (cause = .clusterBufferHard → ∃ x ∈ (s.parcel p).clusters, x.2.hardUnits ≠ []) →
      Gives (.parcelContain p cause) s (fun t => (t.parcel p).state = .contain ∧
        (t.parcel p).containCause = (if cause = .thermalTrip then 0x7003 else if cause = .hubPortDown then 0x5001 else 0x6002) ∧
        (∀ l, (t.reach p l).flights = [] ∧ (t.reach p l).s = (s.reach p l).s ∧ (t.reach p l).pool = (s.reach p l).pool ∧
          SameTables s t p l ∧ (t.reach p l).task.run = false ∧ (t.reach p l).task.step = none ∧
          (t.reach p l).task.wait = .none ∧ (t.reach p l).task.pc = (s.reach p l).task.pc ∧
          (t.reach p l).task.fault = ((s.reach p l).task.fault || (s.reach p l).task.stopFault) ∧
          (t.reach p l).task.halt = ((s.reach p l).task.halt || (s.reach p l).task.stopHalt)) ∧
        (∀ l < 128, ((s.reach p l).task.stopFault = true ∧ (s.reach p l).task.fault = false) ∨
          ((s.reach p l).task.stopHalt = true ∧ (s.reach p l).task.halt = false) → bvb (t.parcel p).mon.intStat 0 = true) ∧
        (t.parcel p).sums = [] ∧ (t.parcel p).held = [] ∧ (t.parcel p).adds = (s.parcel p).adds ∧
        (∀ k, (parcelBar t p k).waiting = []) ∧
        (∀ q : Port, isRiver q = true → (t.link p q).state = .off) ∧
        ((∀ q : Port, isRiver q = true → (s.link p q).state ≠ .up) → (s.parcel p).state ≠ .train →
          (∀ w ∈ s.posted, w.writer / 1024 ≠ p) → (∀ q, q ≠ p.val → t.parcel q = s.parcel q) ∧
          (cause = .clusterBufferHard ∨ cause = .hubPortDown → t.book = s.book) ∧
          ∀ l, t.reach p l = { s.reach p l with
            flights := []
            task := { (s.reach p l).task with
              run := false, fault := (s.reach p l).task.fault || (s.reach p l).task.stopFault
              halt := (s.reach p l).task.halt || (s.reach p l).task.stopHalt, stopFault := false, stopHalt := false
              step := none, wait := .none, arm := none } }) ∧
        SameMemory (drainParcel s p) t ∧ SameHub s t ∧ t.datum = s.datum ∧ t.pending = s.pending)) ∧
    (cause = .clusterBufferHard → (∀ x ∈ (s.parcel p).clusters, x.2.hardUnits = []) →
      exec (.parcelContain p cause) s = .next s) ∧
    (powered s p = false ∨ (s.parcel p).state = .contain → exec (.parcelContain p cause) s = .next s)) ∧
  (∀ (p : ParcelId) (ok : Bool) (s : State),
    ((s.parcel p).state = .train → s.hub.state ≠ .train →
      (ok = true → trainingWaits s p = false → (∀ x ∈ (s.parcel p).clusters, x.2.hardUnits.length ≤ x.2.spareRows) →
        Gives (.parcelTrainingEnd p ok) s (fun t =>
        (t.parcel p).state = (if s.hub.state = .run ∨ s.hub.state = .quiesce then .ready else s.hub.state) ∧
        (∀ c, (t.cluster p c).hardUnits = [] ∧
          (t.cluster p c).spareRows = (s.cluster p c).spareRows - (s.cluster p c).hardUnits.length) ∧
        UciePortsStarted s t p ∧ SameReaches s t ∧ SameMemory s t ∧ t.hub = s.hub ∧ SameTime s t)) ∧
      (ok = true → trainingWaits s p = true → exec (.parcelTrainingEnd p ok) s = .next s) ∧
      (ok = false ∨ (trainingWaits s p = false ∧ ∃ x ∈ (s.parcel p).clusters, x.2.spareRows < x.2.hardUnits.length) →
        Gives (.parcelTrainingEnd p ok) s (fun t => (t.parcel p).state = .contain ∧ (t.parcel p).containCause = 0x6002 ∧
          UciePortsStarted s t p ∧ SameReaches s t ∧ SameClusters s t ∧ SameMemory s t ∧ t.hub = s.hub ∧ SameTime s t))) ∧
    ((s.parcel p).state ≠ .train ∨ s.hub.state = .train → exec (.parcelTrainingEnd p ok) s = .next s))

/-- Without the link no access changes the part; with it, an access to a parcel in CONTAIN, or that its port does not
reach, is aborted if it reads and dropped if it writes; an access that crosses 4 KiB, or that meets no memory, is
refused with BOUND naming the host and the place: a read completes with Unsupported Request, a write is dropped and no
memory changes; a read returns the bytes of the stacked memory, a cluster buffer or a scratchpad at its physical offset,
a write sets exactly its bytes; CXL.mem reaches the stacked memory alone; an access that must wait is kept (R332 to
R336, R348). The model's own choices in it: log 34, 73, 74, 75 and 88. -/
def Obligations.WindowsReach : Prop :=
  ∀ (p : ParcelId) (fn : Fin 9) (cxl : Bool) (off n : Nat) (bs : List Byte) (s : State), fn.val = p.val + 1 → s.memOk = true →
    (∀ (f : Fin 9) (acc : MemAccess), s.hub.port.linkUp = false → exec (.winMemAccess f cxl off acc .none) s = .next s ∧
      exec (.winDbgAccess p off acc) s = .next s) ∧
    (s.hub.port.linkUp = true → functionOpen s p = false →
      exec (.winMemAccess fn cxl off (.read n) .none) s = .next (s.updPort (fun h => { h with reply := .abort })) ∧
      exec (.winMemAccess fn cxl off (.write bs) .none) s = .next s) ∧
    (∀ mem w, mem = (if cxl = true ∨ off < 0x600000000 then 2 else if 0x640000000 ≤ off ∧ off < 0x650000000 then 1
        else if 0x650000000 ≤ off ∧ off < 0x654000000 then 0 else if 0x654000000 ≤ off ∧ off < 0x654A00000 then 4 else 0xFF) →
      w = raise s (srcParcel p 11) 0x3002 (boundPayload 0xFFFFFFFF 3 0xFF mem p off (off + n - 1) 0 0xFFFF) → bs.length = n →
      s.hub.port.linkUp = true → functionOpen s p = true →
      (n = 0 ∨ 4096 < off % 4096 + n ∨ (cxl = true ∧ 0x600000000 ≤ off) ∨ (0x600000000 ≤ off ∧ off < 0x640000000) ∨
        (0x640000000 ≤ off ∧ off < 0x650000000 ∧ 4194304 < (off - 0x640000000) % 0x1000000 + n) ∨
        (0x650000000 ≤ off ∧ off < 0x654000000 ∧ 393216 < (off - 0x650000000) % 0x80000 + n) ∨ 0x654000000 ≤ off) →
      (cxl = true ∨ mustWait s p (s.parcel p).held (.mem off (.read n) .none) = false →
        exec (.winMemAccess fn cxl off (.read n) .none) s = .next (w.updPort (fun h => { h with reply := .unsupported }))) ∧
      (cxl = true ∨ mustWait s p (s.parcel p).held (.mem off (.write bs) .none) = false →
        exec (.winMemAccess fn cxl off (.write bs) .none) s = .next w ∧ SameMemory s w)) ∧
    (∀ (k : Space) (a : Nat), s.hub.port.linkUp = true → functionOpen s p = true → 0 < n → off % 4096 + n ≤ 4096 →
      ((k = .sm p ∧ off = a ∧ a + n ≤ 0x600000000) ∨
        (cxl = false ∧ ∃ c < 16, k = .cb p c ∧ off = 0x640000000 + c * 0x1000000 + a ∧ a + n ≤ 4194304) ∨
        (cxl = false ∧ ∃ l < 128, k = .sp p l ∧ off = 0x650000000 + l * 0x80000 + a ∧ a + n ≤ 393216)) →
      poisoned s k = [] → s.upsets = [] →
      (cxl = true ∨ mustWait s p (s.parcel p).held (.mem off (.read n) .none) = false →
        Gives (.winMemAccess fn cxl off (.read n) .none) s (fun t =>
          t.hub.port.reply = .data ((List.range n).map (fun i => rdByte s k (a + i))) false ∧
          SameMemory s t ∧ SameReaches s t ∧ t.book = s.book ∧ SameTime s t)) ∧
      (bs.length = n → (cxl = true ∨ mustWait s p (s.parcel p).held (.mem off (.write bs) .none) = false) →
        Gives (.winMemAccess fn cxl off (.write bs) .none) s (fun t => t.hub.port.reply = s.hub.port.reply ∧
          (∀ x, rdByte t k x = if a ≤ x ∧ x < a + n then bs.getD (x - a) 0 else rdByte s k x) ∧
          (∀ j x, j ≠ k → rdByte t j x = rdByte s j x) ∧ t.book = s.book ∧ SameTime s t))) ∧
    (s.hub.port.linkUp = true → functionOpen s p = true →
      mustWait s p (s.parcel p).held (.mem off (.read n) .none) = true →
      exec (.winMemAccess fn false off (.read n) .none) s = .next (s.updParcel p (fun x => { x with
        held := x.held ++ [.mem off (.read n) .none] })))

/-- WIN_DBG of logical reach l stands at l·0x2_0000: at 0 the pool image, at 0x1_8000 s0 to s31, 8 B each; both are read
while the reach is idle, the scalars are written while it is idle and does not run, and s0 ignores the write; any other
access is refused: a read completes with Unsupported Request, a write is dropped, and the parcel raises BOUND naming the
host; an access waits behind an older one of the host to the same function that waits (R344, R359). -/
def Obligations.DebugWindow : Prop :=
  ∀ (p : ParcelId) (l : ReachId) (o n : Nat) (bs : List Byte) (s : State) (r : Reach) (byte : Reach → Nat → Byte),
    r = s.reach p l → byte = (fun x i => BitVec.ofNat 8 (bvf (x.scalar (i / 8)) (8 * (i % 8)) 8)) →
    s.hub.port.linkUp = true → functionOpen s p = true →
    ((∃ h ∈ (s.parcel p).held, hostHeld h = true) → ∀ acc, exec (.winDbgAccess p (l * 0x20000 + o) acc) s =
      .next (s.updParcel p (fun x => { x with held := x.held ++ [.dbg (l * 0x20000 + o) acc] }))) ∧
    ((∀ h ∈ (s.parcel p).held, hostHeld h = false) → 0 < n → o % 4096 + n ≤ 4096 → o + n ≤ 0x20000 → bs.length = n →
    SMap.sorted r.s = true →
    (r.idle = true → o + n ≤ 65856 →
      exec (.winDbgAccess p (l * 0x20000 + o) (.read n)) s = .next ((portCount s p false n).updPort (fun h => { h with
        reply := .data (((poolImage r).drop o).take n) false }))) ∧
    (r.idle = true → 0x18000 ≤ o → o + n ≤ 0x18100 →
      exec (.winDbgAccess p (l * 0x20000 + o) (.read n)) s = .next ((portCount s p false n).updPort (fun h => { h with
        reply := .data ((List.range n).map (fun i => byte r (o - 0x18000 + i))) false }))) ∧
    (r.idle = true → r.task.run = false → 0x18000 ≤ o → o + n ≤ 0x18100 →
      Gives (.winDbgAccess p (l * 0x20000 + o) (.write bs)) s (fun t =>
        (∀ i < 256, byte (t.reach p l) i = if 8 ≤ i ∧ o ≤ 0x18000 + i ∧ 0x18000 + i < o + n then bs.getD (0x18000 + i - o) 0
          else byte r i) ∧
        (t.reach p l).pool = r.pool ∧ (t.reach p l).task = r.task ∧ (t.reach p l).flights = r.flights ∧
        OtherReaches s t p l ∧ SameTables s t p l ∧ SameClusters s t ∧ SameMemory s t ∧ t.hub = s.hub ∧ t.book = s.book ∧
        SameTime s t)) ∧
    (∀ w, w = raise s (srcParcel p 11) 0x3002
        (boundPayload 0xFFFFFFFF 3 0xFF 0xFF p (l * 0x20000 + o) (l * 0x20000 + o + n - 1) 0 0xFFFF) →
      (r.idle = false ∨ (65856 < o + n ∧ o < 0x18000) ∨ 0x18100 < o + n →
        exec (.winDbgAccess p (l * 0x20000 + o) (.read n)) s = .next (w.updPort (fun h => { h with reply := .unsupported }))) ∧
      (r.idle = false ∨ r.task.run = true ∨ o < 0x18000 ∨ 0x18100 < o + n →
        exec (.winDbgAccess p (l * 0x20000 + o) (.write bs)) s = .next w)))

/-- The hub function's WIN_MEM is copy A of the field book at 0, copy B at 0x4_0000, the last-gasp file at 0x8_0000,
newest first, and zeros from 0x8_0200 on; it is read-only, and a write is refused: it is dropped and BOUND names the
host (R399). -/
def Obligations.HubWindow : Prop :=
  ∀ (off n : Nat) (bs : List Byte) (s : State) (byte : Nat → Byte), s.hub.port.linkUp = true → 0 < n → off % 4096 + n ≤ 4096 →
    byte = (fun i => BitVec.ofNat 8 (bvf (
      if i < 0x40000 then SMap.get 0 s.book.copyA (i / 64)
      else if i < 0x80000 then SMap.get 0 s.book.copyB ((i - 0x40000) / 64)
      else if i < 0x80200 then (lastGaspFile s.book).getD ((i - 0x80000) / 64) 0 else 0) (8 * (i % 64)) 8)) →
    (off + n ≤ 0x100000 → exec (.winMemAccess 0 false off (.read n) .none) s = .next (s.updPort (fun h => { h with
      reply := .data ((List.range n).map (fun i => byte (off + i))) false }))) ∧
    ∃ src q : Nat, exec (.winMemAccess 0 false off (.write bs) .none) s = .next (raise s src 0x3002
      (boundPayload 0xFFFFFFFF 3 0xFF 0xFF q off (off + bs.length - 1) 0 0xFFFF))

/-- A write of 8 bytes at a register's address is the write of that register; one of 4 bytes leaves the other half of
the word; one of another size or alignment is refused; a read takes the register's word, a wide register's first word
latches the rest for the requester, and a later word comes from that latch; it waits behind an older access of the host
to the same function that waits (R13, R17, R333, R334, R359). A configuration request before the link is up is answered
with Configuration Request Retry Status (R466); a vector of MSI-X that is no longer masked is sent if it is pending
(R347). The reset of a parcel's function takes that parcel to TRAIN with its registers at their reset values, its links
down, its stacked memory kept with its posted writes in it, the adds that wait in it refused, and the BARs and MSI-X
bits of its function clear; that of the hub function clears HUB_INT_EN, its BARs and MSI-X bits, and the latches of
HUB_DMA, and ends every transfer of the hub DMA with status aborted; without the link neither changes the part (R24,
R335). The model's own choices in it: log 14, 59, 68 and 105. -/
def Obligations.RegisterAccessAndFunctionReset : Prop :=
  (∀ (rq : Requester) (p : ParcelId) (l : ReachId) (v : Word) (s : State),
    exec (.registerWrite rq (.reach p l 0x40) 8 v) s = exec (.fuseCfgWrite rq p l v) s ∧
    (∀ k : Fin 16, exec (.registerWrite rq (.reach p l (0x80 + 8 * k)) 8 v) s = exec (.swzKeyWrite rq p l k v) s) ∧
    (∀ n : Fin 128, rqPresent s rq = true → regGate s rq true (.reach p l (0x2000 + 16 * n)) = true →
      mustWait s p (s.parcel p).held (.reg rq (.reach p l (0x2000 + 16 * n)) 4 v) = false →
      exec (.registerWrite rq (.reach p l (0x2000 + 16 * n)) 4 v) s = .next ((portBytes s rq p true 4).updReach p l (fun r =>
        Reach.cleanWord { r with
          actSeg := SMap.put r.actSeg (2 * n) ((SMap.get 0 r.actSeg (2 * n) &&& 0xFFFFFFFF00000000#64) ||| (v &&& 0xFFFFFFFF#64))
        } .seg (2 * n) 1))) ∧
    (∀ (off size : Nat), off < 0x10000 → size ≠ 4 ∧ size ≠ 8 ∨ off % size ≠ 0 → rqPresent s rq = true →
      regGate s rq true (.reach p l off) = true → ∀ src, src = (if rq = .host then 0xFFFF else if rq = .surveyor then 0xFFFE
        else srcReach p l) →
      exec (.registerWrite rq (.reach p l off) size v) s = .next (raise s (srcParcel p 11) 0x3002
        (boundPayload 0xFFFFFFFF 3 0xFF 4 p (0x654000000 + l * 0x10000 + off) (0x654000000 + l * 0x10000 + off + size - 1) 0
          src))) ∧
    (s.hub.port.linkUp = true → functionOpen s p = true → (∃ h ∈ (s.parcel p).held, hostHeld h = true) →
      exec (.latchedRead .host (.reach p l 0x40) 8) s = .next (s.updParcel p (fun x => { x with
        held := x.held ++ [.read .host (.reach p l 0x40) 8] }))) ∧
    (s.hub.port.linkUp = true → functionOpen s p = true → (∀ h ∈ (s.parcel p).held, hostHeld h = false) →
      exec (.latchedRead .host (.reach p l 0x40) 8) s = .next ((portBytes s .host p false 8).updPort (fun h => { h with
        reply := .data (leBytes 8 ((s.reach p l).fuse).toNat) false })) ∧
      (∀ n : Fin 128, Gives (.latchedRead .host (.reach p l (0x2000 + 16 * n)) 8) s (fun t =>
        t.hub.port.reply = .data (leBytes 8 (SMap.get 0 (s.reach p l).actSeg (2 * n)).toNat) false ∧
        (∀ w : Word, ∀ x, x = (s.updReach p l (fun r => { r with
            latch := (t.reach p l).latch
            actSeg := SMap.put r.actSeg (2 * n + 1) w })) →
          Gives (.latchedRead .host (.reach p l (0x2000 + 16 * n + 8)) 8) x (fun y =>
            y.hub.port.reply = .data (leBytes 8 (SMap.get 0 (s.reach p l).actSeg (2 * n + 1)).toNat) false)) ∧
        SameMemory s t ∧ OtherReaches s t p l ∧ SameClusters s t ∧ SameTime s t))) ∧
    (s.hub.port.linkUp = true → functionOpen s p = false →
      exec (.latchedRead .host (.reach p l 0x40) 8) s = .next (s.updPort (fun h => { h with reply := .abort })) ∧
      exec (.registerWrite .host (.reach p l 0x40) 8 v) s = .next s)) ∧
  (∀ (fn : Fin 9) (k : Fin 4) (r : ConfigReg) (size : Nat) (v : Word) (s : State),
    (s.hub.port.linkUp = false → s.hub.state ≠ .off → s.hub.state ≠ .identify → s.hub.lands.perstN = false →
      s.hub.lands.resetN = false →
      exec (.latchedRead .host (.config fn r) size) s = .next (s.updPort (fun h => { h with reply := .retry })) ∧
      exec (.registerWrite .host (.config fn r) size v) s = .next (s.updPort (fun h => { h with reply := .retry }))) ∧
    (s.hub.port.linkUp = true → (∀ j < 4, j ≠ k.val → SMap.get false s.hub.port.vecPend (fn * 4 + j) = false) →
      Gives (.registerWrite .host (.config fn (.msixMask k)) 4 v) s (fun t =>
        SMap.get false t.hub.port.vecMask (fn * 4 + k) = bvb v 0 ∧
        (bvb v 0 = false → bvb s.hub.port.fnMask fn = false → SMap.get false t.hub.port.vecPend (fn * 4 + k) = false ∧
          t.hub.port.sent = if SMap.get false s.hub.port.vecPend (fn * 4 + k) = true
            then (fn.val, k.val) :: s.hub.port.sent else s.hub.port.sent) ∧
        (bvb v 0 = true ∨ bvb s.hub.port.fnMask fn = true → t.hub.port.sent = s.hub.port.sent) ∧
        SameReaches s t ∧ SameMemory s t ∧ t.book = s.book ∧ SameTime s t))) ∧
  (∀ (p : ParcelId) (s : State),
    (s.hub.port.linkUp = false → exec (.functionLevelResetParcel p) s = .next s ∧ exec .functionLevelResetHub s = .next s) ∧
    (s.hub.port.linkUp = true → (relays s p = true ∨ (s.parcel p).state = .train) →
      Gives (.functionLevelResetParcel p) s (fun t => (t.parcel p).state = .train ∧
        (∀ l < 128, ∀ n, (t.reach p l).scalar n = 0 ∧ (t.reach p l).task.run = false ∧ (t.reach p l).flights = [] ∧
          (t.reach p l).pool = [] ∧ (t.reach p l).prof = [] ∧ (t.reach p l).trv = []) ∧
        (∀ q, (t.link p q).state = .off) ∧ (∀ q, (t.parcel q).mem = ((drainParcel s p).parcel q).mem) ∧ (t.parcel p).adds = [] ∧
        (t.parcel p).gen = (s.parcel p).gen + 1 ∧ bvb t.hub.port.fnMask (p + 1) = false ∧
        (∀ e ∈ t.hub.port.vecPend, e.1 / 4 ≠ p.val + 1) ∧
        (∀ e ∈ t.hub.port.bars, e.1 / 3 ≠ p.val + 1) ∧
        ((s.parcel p).adds = [] → ∀ q, q ≠ p.val → ∀ l, t.reach q l = s.reach q l) ∧
        (∀ a f k, (s.parcel p).adds = [a] → a.rowId = none → a.parcel ≠ p.val →
          f ∈ (s.reach a.parcel a.reach).flights → f.no = a.flight → f.wait = .adds k →
          ∃ g ∈ (t.reach a.parcel a.reach).flights, g.no = a.flight ∧ g.wait = .adds (k - 1) ∧ g.status = 2) ∧
        t.hub.port.linkUp = true ∧ t.hub.port.intEn = s.hub.port.intEn ∧ t.datum = s.datum ∧ t.hub.dict = s.hub.dict)) ∧
    (s.hub.port.linkUp = true → Gives .functionLevelResetHub s (fun t => t.hub.port.intEn = 0 ∧
      (∀ c < 8, (dmaOf t c).busy = false ∧ (dmaOf t c).arm = false ∧
        ((dmaOf s c).busy = true → (dmaOf t c).status = 4 ∧ (dmaOf t c).done = true)) ∧
      bvb t.hub.port.fnMask 0 = false ∧ (∀ e ∈ t.hub.port.vecPend, e.1 / 4 ≠ 0) ∧
      (∀ e ∈ t.hub.port.bars, 3 ≤ e.1) ∧ (∀ e ∈ t.hub.port.latch, dmaLatch e.1 = false) ∧
      ((∀ c < 8, (dmaOf s c).busy = false) → SameReaches s t ∧ SameMemory s t ∧ t.book = s.book) ∧
      t.datum = s.datum ∧ t.hub.dict = s.hub.dict ∧ t.hub.port.linkUp = true)))

/-- A frame with another destination than the port's own address or broadcast, with another EtherType or a wrong FCS, a
message of another version, and any in OFF, changes nothing else; one that a port takes shows that its PHY's link is up,
and its answer leaves on the same segment to the address that sent it (R362, R379). During a restart of the surveyor it
waits; a reserved kind or role is answered with 0x05, an entry that is not there with 0x01, a failing tag, key or
sequence number with 0x07 and DICT_ACCESS; a copy of the last accepted request is answered from the cache and not
executed, and one of a discover that waits for its answer waits with it; a read that its role may make returns the value
of a number or of a string, and one that it may not is answered with 0x02 and DICT_ACCESS (R363, R364, R366, R368 to
R372). Entries of the dictionary by index and subindex: their size, their right, and the register field, counter or
state that they read as (R379 to R387). The model's own choices in it: log 8, 79 and 83. -/
def Obligations.DictionaryReads : Prop :=
  (∀ (path : Path) (m : Msg) (s0 s : State) (r : Nat) (d : Dict) (u : State), s = phySeen s0 path → r = m.role.toNat → d = tookSeq s.hub.dict m →
    u = { s with hub := { s.hub with dict := d } } →
    (∀ f, path = .chainA f → s.hub.dict.phyA = true ∧ (frameAccepted s0.hub.dict path = true ↔
      (f.dst = s.hub.dict.macA ∨ f.dst = 0xFFFFFFFFFFFF) ∧ f.etype = 0x88B5 ∧ f.fcs = true)) ∧
    (∀ f, path = .chainB f → s.hub.dict.phyB = true ∧ (frameAccepted s0.hub.dict path = true ↔
      (f.dst = s.hub.dict.macB ∨ f.dst = 0xFFFFFFFFFFFF) ∧ f.etype = 0x88B5 ∧ f.fcs = true)) ∧
    (s0.hub.state = .off ∨ frameAccepted s0.hub.dict path = false → exec (.dictRead path m) s0 = .next s0) ∧
    (frameAccepted s0.hub.dict path = true →
    (m.ver ≠ 1 → s.hub.state ≠ .off → exec (.dictRead path m) s0 = .next s) ∧
    (m.ver = 1 → s.hub.state ≠ .off → s.hub.fw.restarting = true → exec (.dictRead path m) s0 = .next
      (s.updDict (fun x => { x with held := x.held ++ [(path, m)] }))) ∧
    (m.ver = 1 → s.hub.state ≠ .off → s.hub.fw.restarting = false → r ≤ 3 → m.kind ≠ 1 → m.kind ≠ 2 → m.kind ≠ 5 →
      Gives (.dictRead path m) s0 (fun t => Answered t s.hub.dict false path m 3 5 0 [] ∧ SameBut s t ∧
        t.book = (raise s (srcHub 5) 0x1011 (illegalPayload 2 0xFF 0xFFFF 0xFFFFFFFF (m.index.toNat * 256 + m.sub.toNat)
          (leVal (m.data.take 8)))).book)) ∧
    (m.ver = 1 → s.hub.state ≠ .off → s.hub.fw.restarting = false → r ≤ 3 → m.kind = 1 →
      (findObj m.index.toNat m.sub.toNat = none → Gives (.dictRead path m) s0 (fun t =>
        Answered t s.hub.dict false path m 3 1 0 [] ∧ SameBut s t ∧ t.book = s.book)) ∧
      (∀ o, findObj m.index.toNat m.sub.toNat = some o → r ≠ 0 →
        (roleKey s.hub.dict r = 0 ∨ Config.cmac (roleKey s.hub.dict r) (msgBytes m) ≠ m.tag ∨ m.seq < roleSeq s.hub.dict r) →
        Gives (.dictRead path m) s0 (fun t => Answered t s.hub.dict false path m 3 7 0 [] ∧ SameBut s t ∧
          ∃ x, t.book = (raise s (srcHub 5) 0x8001 x).book)) ∧
      (∀ o b, findObj m.index.toNat m.sub.toNat = some o → r ≠ 0 → roleKey s.hub.dict r ≠ 0 →
        Config.cmac (roleKey s.hub.dict r) (msgBytes m) = m.tag → roleSeq s.hub.dict r = m.seq →
        discoverWaits s.hub.dict m = false → roleCache s.hub.dict r = some b → path ≠ .i3c →
        exec (.dictRead path m) s0 = .next (s.updDict (fun x => { x with
          chainOut := (answerPath s.hub.dict path, b) :: x.chainOut }))) ∧
      (∀ o, findObj m.index.toNat m.sub.toNat = some o → r ≠ 0 → roleKey s.hub.dict r ≠ 0 →
        Config.cmac (roleKey s.hub.dict r) (msgBytes m) = m.tag → roleSeq s.hub.dict r = m.seq →
        discoverWaits s.hub.dict m = true →
        exec (.dictRead path m) s0 = .next (s.updDict (fun x => { x with discover := x.discover ++ [(path, m)] })))) ∧
    (m.ver = 1 → s.hub.state ≠ .off → s.hub.fw.restarting = false → 3 < r → path ≠ .i3c →
      Gives (.dictRead path m) s0 (fun t => (∃ b : Msg, b.kind = 3 ∧ b.status = 5 ∧ b.role = m.role ∧ b.seq = m.seq ∧
          b.data = [] ∧ t.hub.dict = { s.hub.dict with chainOut := (answerPath s.hub.dict path, b) :: s.hub.dict.chainOut }) ∧
        t.book = (raise s (srcHub 5) 0x1011 (illegalPayload 2 0xFF 0xFFFF 0xFFFFFFFF (m.index.toNat * 256 + m.sub.toNat)
          (leVal (m.data.take 8)))).book ∧ SameReaches s t ∧ SameMemory s t ∧ SameTime s t)) ∧
    (Accepted s m → m.kind = 1 → ∀ o, findObj m.index.toNat m.sub.toNat = some o →
      (r = 0 → path ≠ .i3c → ¬ within m.index.toNat 0x1000 0x100 = true →
        Gives (.dictRead path m) s0 (fun t => Answered t d true path m 3 2 0 [] ∧ SameBut s t ∧
          ∃ x, t.book = (raise s (srcHub 5) 0x8001 x).book)) ∧
      ((r = 1 ∨ r = 2 ∨ (r = 0 ∧ path = .i3c) ∨ (r ≤ 3 ∧ within m.index.toNat 0x1000 0x100 = true) ∨
          (r = 3 ∧ s.hub.dict.grant = true ∧ within m.index.toNat 0x8000 0x1000 = true)) →
        ((o.spec s).classB = false ∨ (∃ p, (o.spec s).parcel = some p ∧ (inService (s.parcel p).state = true ∨
          (s.parcel p).state = .contain)) ∨ ((o.spec s).parcel = none ∧ inService s.hub.state = true)) →
        m.offset = 0 → m.data = [] →
        ((o.spec s).ty = .num → (o.spec s).right ≠ .wo → Gives (.dictRead path m) s0 (fun t =>
          Answered t d true path m 3 0 0 (leBytes (o.spec s).size (o.num u)) ∧ t.book = s.book ∧ SameBut s t)) ∧
        ((o.spec s).ty = .num → (o.spec s).right = .wo → Gives (.dictRead path m) s0 (fun t =>
          Answered t d true path m 3 0 0 (List.replicate (o.spec s).size 0) ∧ t.book = s.book ∧ SameBut s t)) ∧
        ((o.spec s).ty = .str → (o.spec s).size ≤ 1024 → Gives (.dictRead path m) s0 (fun t =>
          Answered t d true path m 3 0 0 ((o.str u).take (o.spec s).size) ∧ t.book = s.book ∧ SameBut s t)))))) ∧
  (∀ (s : State) (entry : Nat → Nat → Nat → Right → Nat → Prop), entry = (fun i j n r v =>
      ∃ o, findObj i j = some o ∧ (o.spec s).ty = .num ∧ (o.spec s).size = n ∧ (o.spec s).right = r ∧ o.num s = v) →
    entry 0x1000 0 4 .const 0x00018016 ∧ entry 0x1001 1 1 .ro (stateNo s.hub.state) ∧
    entry 0x1001 2 1 .ro s.hub.dict.boot.toNat ∧ entry 0x1018 1 4 .const 0x00414457 ∧ entry 0x1018 2 4 .const 0x8016 ∧
    entry 0x1018 4 8 .const s.hub.dict.serial.toNat ∧ entry 0x1020 4 1 .ro (b2n s.hub.dict.phyA) ∧
    entry 0x1021 4 1 .ro (b2n s.hub.dict.phyB) ∧ entry 0x1040 4 4 .ro s.hub.dict.seq1.toNat ∧
    entry 0x1050 7 1 .ro s.hub.fw.result.toNat ∧ entry 0x2010 1 2 .rwc (bvf s.hub.torus 0 14) ∧
    (∀ p < 8, entry (0x3000 + 0x100 * p) 1 1 .ro (stateNo (s.parcel p).state) ∧
      entry (0x3020 + 0x100 * p) 1 4 .ro (s.parcel p).mon.ce.toNat ∧
      entry (0x3020 + 0x100 * p) 3 4 .ro (s.parcel p).keys.key.toNat ∧
      (∀ c < 16, entry (0x3010 + 0x100 * p) (c + 1) 1 .ro (s.cluster p c).spare) ∧
      entry (0x9010 + 0x100 * p) 3 1 .ro (s.parcel p).gen.toNat ∧ entry (0x60F0 + 0x100 * p) 1 1 .ro (s.parcel p).fab.linkMax.toNat) ∧
    entry 0x4000 6 8 .ro s.datum.count ∧
    (∀ k < 16, entry (0x4010 + k) 1 1 .rw (bvf (schedEntry s k) 0 1) ∧
      entry (0x4010 + k) 5 8 .rw (bvf (schedEntry s k) 64 64)) ∧
    entry 0x5000 1 4 .ro s.book.written.toNat ∧ entry 0x7000 1 4 .ro s.hub.pwr.vinMv ∧
    entry 0x7000 5 1 .ro s.hub.pwr.state.toNat ∧ entry 0x8000 1 1 .rw (b2n s.hub.dict.grant) ∧
    entry 0x9000 1 1 .ro s.stay.state.toNat ∧ entry 0x9000 2 2 .rwc s.stay.dtime.toNat)

/-- A write of a number entry that its role, the state, the length and the range allow sets the value, with the role's
record and its response; one that they do not allow is answered with 0x02, 0x03, 0x04 or 0x05 in that order, raises the
event of its status, and leaves every entry as it was (R368, R370 to R373, R379 to R387). The service role writes the
key of a role, which clears the role's record, and no other role does; a firmware image arrives in segments that are
staged for their requester, are answered with 0x06 while another's are open or no bank is free, are dropped after 1 s of
silence, and go with the last one into the bank that nothing runs, with its result, version and measurement (R365, R369,
R370, R411). An accepted discover waits for its answer, which carries the vendor, the product, the stepping, the serial
number and the package's state; a private write at the I3C target is a message, served with the operator's rights when
it has role 0; a copy of it that waits too takes the same answer; a private read takes the oldest output, or is not
acknowledged; enabling the In-Band Interrupt with an output pending raises one, with its mandatory byte 0x5A; ENTDAA
gives the target its address (R364, R367). The model's own choices in it: log 8, 12, 72, 79, 80 and 83. -/
def Obligations.DictionaryWrites : Prop :=
  (∀ (path : Path) (m : Msg) (s0 s : State) (r v : Nat) (d : Dict) (o : Obj), s = phySeen s0 path →
    frameAccepted s0.hub.dict path = true → Accepted s m → m.kind = 2 → r = m.role.toNat →
    d = tookSeq s.hub.dict m → v = leVal m.data → findObj m.index.toNat m.sub.toNat = some o →
    ((r = 0 ∧ path ≠ .i3c) ∨ r = 3 ∨ (o.spec s).right = .ro ∨ (o.spec s).right = .const ∨
        ((o.spec s).right = .rws ∧ r ≠ 2) →
      Gives (.dictWrite path m) s0 (fun t => Answered t d true path m 3 2 0 [] ∧ SameBut s t ∧
        ∃ x, t.book = (raise s (srcHub 5) 0x8001 x).book)) ∧
    ((r = 1 ∨ r = 2 ∨ (r = 0 ∧ path = .i3c)) →
      ((o.spec s).right = .rw ∨ (o.spec s).right = .rwc ∨ (o.spec s).right = .wo) →
      (((o.spec s).right = .rwc ∧ s.hub.state ≠ .configure) ∨
          ((o.spec s).classB = true ∧ (o.spec s).parcel = none ∧ inService s.hub.state = false) →
        Gives (.dictWrite path m) s0 (fun t => Answered t d true path m 3 3 0 [] ∧ SameBut s t ∧
          ∃ x, t.book = (raise s (srcHub 5) 0x8002 x).book)) ∧
      ((o.spec s).right = .rw → (o.spec s).parcel = none → (o.spec s).ty = .num →
        ((o.spec s).classB = false ∨ inService s.hub.state = true) →
        (m.data.length ≠ (o.spec s).size → Gives (.dictWrite path m) s0 (fun t =>
          Answered t d true path m 3 4 0 [] ∧ SameBut s t ∧ t.book = s.book)) ∧
        (m.data.length = (o.spec s).size → m.offset = 0 → outOfRange s o v = true →
          Gives (.dictWrite path m) s0 (fun t => Answered t d true path m 3 5 0 [] ∧ SameBut s t ∧
            t.book = (raise s (srcHub 5) 0x1011 (illegalPayload 2 0xFF 0 0xFFFFFFFF (m.index.toNat * 256 + m.sub.toNat)
              (leVal (m.data.take 8)))).book)) ∧
        (m.data.length = 1 → m.offset = 0 →
          (m.index = 0x1020 → m.sub = 2 → v = 0xFF ∨ v < s.hub.dict.nodesA.toNat → Gives (.dictWrite path m) s0 (fun t =>
            Answered t { d with plcaA := BitVec.ofNat 8 v } true path m 3 0 0 [] ∧ SameBut s t ∧ t.book = s.book)) ∧
          (m.index = 0x1030 → m.sub = 3 → v ≤ 1 → Gives (.dictWrite path m) s0 (fun t =>
            Answered t { d with
              ibiEn := v == 1, ibis := if v = 1 ∧ d.i3cOut ≠ [] then 0x5A :: d.ibis else d.ibis } true path m 3 0 0 [] ∧ SameBut s t ∧ t.book = s.book)) ∧
          (m.index = 0x8000 → m.sub = 1 → v ≤ 1 → Gives (.dictWrite path m) s0 (fun t =>
            Answered t { d with grant := v == 1 } true path m 3 0 0 [] ∧ SameBut s t ∧ t.book = s.book))) ∧
        (m.data.length = 2 → m.offset = 0 → m.index = 0x5000 → m.sub = 3 → Gives (.dictWrite path m) s0 (fun t =>
          Answered t d true path m 3 0 0 [] ∧ t.book = { s.book with notice := BitVec.ofNat 16 v } ∧ SameBut s t)))) ∧
    (r = 2 → m.index = 0x1050 → m.sub = 1 → m.data.length = 1 → m.offset = 0 → v ≤ 1 → Gives (.dictWrite path m) s0 (fun t =>
      Answered t d true path m 3 0 0 [] ∧ t.book = s.book ∧ t.hub.fw = { s.hub.fw with prefer := v == 1 } ∧
      SameReaches s t ∧ SameMemory s t ∧ SameTime s t))) ∧
  (∀ (path : Path) (m : Msg) (s0 s : State) (d : Dict) (off : Nat), s = phySeen s0 path →
    frameAccepted s0.hub.dict path = true → Accepted s m → m.kind = 2 → d = tookSeq s.hub.dict m →
    off = m.offset.toNat →
    (∀ k, (k = 1 ∧ m.sub = 2 ∨ k = 2 ∧ m.sub = 1 ∨ k = 3 ∧ m.sub = 3) → m.index = 0x1040 → m.data.length = 16 →
      m.offset = 0 →
      (m.role = 2 → Gives (.keyWrite path m) s0 (fun t =>
        Answered t (setKey d k (BitVec.ofNat 128 (leVal m.data))) true path m 3 0 0 [] ∧ SameBut s t ∧ t.book = s.book ∧
        roleSeq t.hub.dict k = 0 ∧ roleKey t.hub.dict k = BitVec.ofNat 128 (leVal m.data))) ∧
      (m.role ≠ 2 → Gives (.keyWrite path m) s0 (fun t => Answered t d true path m 3 2 0 [] ∧ SameBut s t ∧
        ∃ x, t.book = (raise s (srcHub 5) 0x8001 x).book))) ∧
    (m.role = 2 → m.index = 0x1050 → m.sub = 6 → m.data.length ≤ 1024 → off + m.data.length ≤ 4194304 →
      (loadBank s = none → Gives (.firmwareImageLoad path m) s0 (fun t =>
        Answered t d true path m 3 6 0 [] ∧ SameBut s t ∧ t.book = s.book)) ∧
      (∀ e, stagedOf s 0x1050 6 = some e → e.who ≠ 2 → Gives (.domainSegmentWrite path m) s0 (fun t =>
        Answered t d true path m 3 6 0 [] ∧ SameBut s t ∧ t.book = s.book)) ∧
      (∀ (b : Bool) (bs : List Byte) (keep : List Staged), loadBank s = some b →
        ((stagedOf s 0x1050 6 = none ∧ bs = []) ∨ (∃ e, stagedOf s 0x1050 6 = some e ∧ e.who = 2 ∧ e.bytes = bs)) →
        off ≤ bs.length → keep = d.staged.filter (fun e => !(e.index == 0x1050 && e.sub == 6)) →
        (m.flags = 1 → Gives (.domainSegmentWrite path m) s0 (fun t => SameBut s t ∧ t.book = s.book ∧
          Answered t { d with staged := { who := 2, index := 0x1050, sub := 6, seen := s.wall
                                          bytes := bs.take off ++ m.data ++ bs.drop (off + m.data.length) } :: keep }
            true path m 3 0 0 [])) ∧
        (∀ img, m.flags = 3 → img = bs.take off ++ m.data ++ bs.drop (off + m.data.length) →
          Gives (.firmwareImageLoad path m) s0 (fun t =>
            Answered t { d with staged := keep } true path m 3 0 0 [] ∧ t.book = s.book ∧
            bankOf t (!b) = bankOf s (!b) ∧ (bankOf t b).image = img ∧ (bankOf t b).version = (img.drop 16).take 64 ∧
            (bankOf t b).measure = Config.sha384 (img.take (img.length - 96)) ∧
            (bankOf t b).verified = (t.hub.fw.result == 0) ∧ t.hub.fw.surveyor = s.hub.fw.surveyor ∧
            (t.hub.fw.result = 2 ↔ (leVal ((img.drop 8).take 4) ≠ img.length ∨ img.length < 1120)) ∧
            (t.hub.fw.result = 0 ↔ (leVal ((img.drop 8).take 4) = img.length ∧ 1120 ≤ img.length ∧
              Config.sha384 ((img.drop 80).take 96) = Config.fusedKeyHash ∧
              Config.ecdsaOk ((img.drop 80).take 96) (Config.sha384 (img.take (img.length - 96)))
                (img.drop (img.length - 96)) = true ∧ Config.fusedMinVersion ≤ leVal ((img.drop 12).take 2))) ∧
            SameReaches s t ∧ SameMemory s t ∧ SameTime s t)))) ∧
    (∀ (index : BitVec 16) (sub : Byte) (e : Staged), stagedOf s index sub = some e →
      (e.seen + 1500000000 ≤ s.wall → Gives (.stagedWriteTimeout index sub) s (fun t =>
        stagedOf t index sub = none ∧ (∀ i j, ¬ (i = index ∧ j = sub) → stagedOf t i j = stagedOf s i j) ∧ SameBut s t ∧
        t.book = s.book)) ∧
      (s.wall < e.seen + 1500000000 → exec (.stagedWriteTimeout index sub) s = .next s))) ∧
  (∀ (path : Path) (m : Msg) (s0 s : State) (d : Dict), s = phySeen s0 path → d = tookSeq s.hub.dict m →
    (frameAccepted s0.hub.dict path = true → Accepted s m → m.kind = 5 → exec (.discover path m) s0 = .next { s with
      hub := { s.hub with dict := { d with discover := d.discover ++ [(path, m)] } } }) ∧
    (∀ rest, s.hub.state ≠ .off → s.hub.fw.restarting = false → s.hub.dict.discover = (path, m) :: rest → m.role.toNat ≤ 3 →
      (∀ b, roleCache s.hub.dict m.role.toNat = some b → m.role = 0 ∨ b.kind ≠ 6 ∨ b.seq ≠ m.seq) →
      Gives .discoverAnswer s (fun t => SameBut s t ∧ t.book = s.book ∧
        Answered t { s.hub.dict with discover := rest } true path m 6 0 0
          (leBytes 4 0x414457 ++ leBytes 4 0x8016 ++ leBytes 4 s.hub.dict.stepping.toNat ++
            leBytes 8 s.hub.dict.serial.toNat ++ [BitVec.ofNat 8 (stateNo s.hub.state)]))) ∧
    (∀ rest b, s.hub.state ≠ .off → s.hub.fw.restarting = false → s.hub.dict.discover = (path, m) :: rest → m.role ≠ 0 →
      roleCache s.hub.dict m.role.toNat = some b → b.kind = 6 → b.seq = m.seq → path ≠ .i3c →
      exec .discoverAnswer s = .next (s.updDict (fun x => { x with
        discover := rest, chainOut := (answerPath s.hub.dict path, b) :: x.chainOut }))) ∧
    (s.hub.dict.discover = [] → exec .discoverAnswer s = .next s) ∧
    (Accepted s m → m.kind = 2 → m.role = 0 → m.index = 0x1030 → m.sub = 3 → m.offset = 0 → m.data = [0] →
      Gives (.i3cPrivateWrite m) s (fun t => SameBut s t ∧ t.book = s.book ∧
        Answered t { s.hub.dict with ibiEn := false } true .i3c m 3 0 0 [])) ∧
    (∀ b rest, s.hub.dict.i3cOut = b :: rest → Gives .i3cPrivateRead s (fun t => t = s.updDict (fun x => { x with
      i3cOut := rest, i3cLast := .data b }))) ∧
    (s.hub.dict.i3cOut = [] → Gives .i3cPrivateRead s (fun t => t = s.updDict (fun x => { x with i3cLast := .nack }))) ∧
    (∀ addr, s.hub.state ≠ .off → exec (.entdaa addr) s = .next (s.updDict (fun x => { x with i3cAddr := addr }))) ∧
    (∀ addr, s.hub.state = .off → exec (.entdaa addr) s = .next s))

/-- AUX_GOOD samples HOSTRST_SCOPE and starts the stay monitor; the surveyor boots the preferred verified bank, else the
other one, else the recovery loader; with 48 V qualified, the resets released and a bank booted the package trains,
every parcel with the booted bank's link versions; the parcels that have trained, with spare rows for their hard-faulted
units, enter CONFIGURE and the others CONTAIN, and their UCIe ports run in both cases (R328, R409); the host's link is
up from then on (R374, R465, R466). In IDENTIFY under the package reset the six instructions of the boundary scan act:
EXTEST and its two AC forms, which need 48 V, drive the lands from the cells shifted in, SAMPLE/PRELOAD captures and
preloads, HIGHZ releases the lands, CLAMP drives the cells as they stand; at any other time, and for BYPASS, the
instruction loaded drives nothing (R468). The model's own choices in it: log 10, 11, 106, 107 and 110. -/
def Obligations.PackagePowersUp : Prop :=
  (∀ (s : State) (scope : Bool),
    (s.hub.lands.auxGood = false → exec (.auxGood scope) s = .next { s with
      stay := {}, hub := { s.hub with lands := { s.hub.lands with auxGood := true, scope := scope } } }) ∧
    (s.hub.lands.auxGood = true → exec (.auxGood scope) s = .next s) ∧
    (∀ mv, 41000 ≤ mv → mv ≤ 59000 → exec (.vin48Qualified mv) s = .next (s.updHub (fun h => { h with
      lands := { h.lands with vinOk := true }, pwr := { h.pwr with vinMv := mv } }))) ∧
    (∀ mv, mv < 41000 ∨ 59000 < mv → exec (.vin48Qualified mv) s = .next s) ∧
    (s.hub.state = .off → s.hub.lands.auxGood = true →
      Gives .surveyorBoot s (fun t => t.hub.state = .identify ∧ (∀ p < 8, (t.parcel p).state = .identify) ∧
        ((bankOf s s.hub.fw.prefer).verified = true → t.hub.fw.surveyor = s.hub.fw.prefer ∧ t.hub.dict.boot = 0) ∧
        ((bankOf s s.hub.fw.prefer).verified = false → (bankOf s (!s.hub.fw.prefer)).verified = true →
          t.hub.fw.surveyor = (!s.hub.fw.prefer) ∧ t.hub.dict.boot = 0) ∧
        ((bankOf s false).verified = false → (bankOf s true).verified = false → t.hub.dict.boot = 2) ∧
        (t.hub.dict.boot = 0 → (bankOf t t.hub.fw.surveyor).measure =
          Config.sha384 ((bankOf s t.hub.fw.surveyor).image.take ((bankOf s t.hub.fw.surveyor).image.length - 96))) ∧
        SameReaches s t ∧ SameMemory s t ∧ t.book = s.book ∧ SameTime s t)) ∧
    (s.hub.state ≠ .off ∨ s.hub.lands.auxGood = false → exec .surveyorBoot s = .next s) ∧
    (s.hub.state = .identify → s.hub.dict.boot = 0 → s.hub.lands.vinOk = true → s.hub.lands.resetN = false →
      (s.hub.lands.scope = true ∨ s.hub.lands.perstN = false) →
      Gives .identifyToTrain s (fun t => t.hub.state = .train ∧
        (∀ p < 8, (t.parcel p).state = .train ∧ (t.parcel p).bank = s.hub.fw.surveyor ∧
          (t.parcel p).fab.linkMax = (bankOf s s.hub.fw.surveyor).vmax ∧
          (t.parcel p).fab.linkMin = (bankOf s s.hub.fw.surveyor).vmin) ∧
        SameReaches s t ∧ SameMemory s t ∧ t.book = s.book ∧ SameTime s t)) ∧
    (s.hub.state ≠ .identify ∨ s.hub.dict.boot ≠ 0 ∨ s.hub.lands.vinOk = false ∨ inReset s = true →
      exec .identifyToTrain s = .next s) ∧
    (∀ trained : BitVec 8, s.hub.state = .train → (∀ p < 8, (s.parcel p).state = .train ∧ trainingWaits s p = false) →
      Gives (.trainingComplete trained) s (fun t => t.hub.state = .configure ∧
        (∀ p < 8, (t.link p .hubPort).state = .up ∧
          (bvb trained p = true → (∀ x ∈ (s.parcel p).clusters, x.2.hardUnits.length ≤ x.2.spareRows) →
            (t.parcel p).state = .configure ∧ ∀ c, (t.cluster p c).hardUnits = [] ∧
              (t.cluster p c).spareRows = (s.cluster p c).spareRows - (s.cluster p c).hardUnits.length) ∧
          (bvb trained p = false ∨ (∃ x ∈ (s.parcel p).clusters, x.2.spareRows < x.2.hardUnits.length) →
            (t.parcel p).state = .contain ∧ (t.parcel p).containCause = 0x6002)) ∧
        ((∀ p < 8, ∀ q < 8, (s.parcel p).fab.linkMax = (s.parcel q).fab.linkMax ∧
            (s.parcel p).fab.linkMin.toNat ≤ (s.parcel q).fab.linkMax.toNat) →
          t.book = s.book ∧ ∀ p < 8, (t.link p .ringPlus).state = .up ∧ (t.link p .ringMinus).state = .up) ∧
        SameReaches s t ∧ SameMemory s t ∧ SameTime s t)) ∧
    (∀ trained : BitVec 8, s.hub.state ≠ .train → exec (.trainingComplete trained) s = .next s) ∧
    (s.hub.state ≠ .off → s.hub.state ≠ .identify → s.hub.lands.perstN = false → s.hub.lands.resetN = false →
      exec .hostLinkTrained s = .next (s.updPort (fun h => { h with linkUp := true, success := true }))) ∧
    (s.hub.state = .off ∨ s.hub.state = .identify ∨ s.hub.lands.perstN = true ∨ s.hub.lands.resetN = true →
      exec .hostLinkTrained s = .next s)) ∧
  (∀ (cells captured : List Bool) (s : State) (idle act : Tap → State), s.hub.lands.auxGood = true →
    act = (fun t => s.updHub (fun h => { h with tap := t })) →
    idle = (fun t => act { t with driven := false, highz := false, pulse := false, train := false }) →
    (s.hub.state = .identify → inReset s = true →
      exec (.extest cells) s = .next (act { ir := 0, cells := scanFit cells, captured := s.hub.tap.captured, driven := true }) ∧
      exec (.samplePreload captured cells) s = .next (act { ir := 1, cells := scanFit cells, captured := scanFit captured }) ∧
      exec .highz s = .next (act { ir := 4, cells := s.hub.tap.cells, captured := s.hub.tap.captured, highz := true }) ∧
      exec .clamp s = .next (act { ir := 5, cells := s.hub.tap.cells, captured := s.hub.tap.captured, driven := true }) ∧
      (s.hub.lands.vinOk = true →
        exec (.extestPulse cells) s = .next (act
          { ir := 2, cells := scanFit cells, captured := s.hub.tap.captured, driven := true, pulse := true }) ∧
        exec (.extestTrain cells) s = .next (act
          { ir := 3, cells := scanFit cells, captured := s.hub.tap.captured, driven := true, train := true }))) ∧
    (s.hub.state ≠ .identify ∨ inReset s = false →
      exec (.extest cells) s = .next (idle { s.hub.tap with ir := 0 }) ∧
      exec (.samplePreload captured cells) s = .next (idle { s.hub.tap with ir := 1 }) ∧
      exec .highz s = .next (idle { s.hub.tap with ir := 4 }) ∧ exec .clamp s = .next (idle { s.hub.tap with ir := 5 })) ∧
    (s.hub.state ≠ .identify ∨ inReset s = false ∨ s.hub.lands.vinOk = false →
      exec (.extestPulse cells) s = .next (idle { s.hub.tap with ir := 2 }) ∧
      exec (.extestTrain cells) s = .next (idle { s.hub.tap with ir := 3 })) ∧
    exec .bypass s = .next (idle { s.hub.tap with ir := 15 }))

/-- RESET_N, and PERST_N under scope 0, reset the package each time they are asserted: every parcel is reset and waits
in IDENTIFY (in OFF, which a package without its 48 V boot is in, it stays there), the datum count, the generations and
the schedule clear, the keys, the qualified reference, the stay state and the records are kept, a record that is being
written is completed first, and new records start at slot 0; a package that ran the recovery loader boots again; under
scope 1 PERST_N resets the host port alone; 48 V out of range resets the parcels, and in IDENTIFY ends the AC forms of
the boundary scan; without the auxiliary supply the package is OFF, with its keys, its firmware and its spare map, and a
reset is none (R374, R392, R462 to R465, R467, R468). The model's own choices in it: log 4, 61, 78 and 105. -/
def Obligations.PackageResets : Prop :=
  ∀ (s : State) (gone : PState → State → Prop) (kept : State → Prop),
    gone = (fun st t => t.hub.state = st ∧ t.posted = [] ∧ t.upsets = [] ∧ (∀ p < 8, (t.parcel p).state = st ∧ (t.parcel p).mem = [] ∧ (∀ q, (t.link p q).state = .off) ∧
      ∀ l < 128, (t.reach p l).task.run = false ∧ (t.reach p l).flights = [] ∧ ∀ n, (t.reach p l).scalar n = 0)) →
    kept = (fun t => t.hub.dict.key1 = s.hub.dict.key1 ∧ t.hub.dict.key2 = s.hub.dict.key2 ∧
      t.hub.dict.key3 = s.hub.dict.key3 ∧ t.hub.dict.seq1 = s.hub.dict.seq1 ∧ t.hub.dict.seq2 = s.hub.dict.seq2 ∧
      t.hub.dict.seq3 = s.hub.dict.seq3 ∧ t.hub.fw.prefer = s.hub.fw.prefer ∧
      (∀ b, (bankOf t b).image = (bankOf s b).image ∧ (bankOf t b).verified = (bankOf s b).verified) ∧
      (∀ p < 8, ∀ l < 128, (t.reach p l).task.retired = (s.reach p l).task.retired) ∧
      (∀ p < 8, ∀ c < 16, (t.cluster p c).spare = (s.cluster p c).spare ∧ (t.cluster p c).reachMap = (s.cluster p c).reachMap ∧
        (t.cluster p c).hardUnits = (s.cluster p c).hardUnits ∧ (t.cluster p c).spareRows = (s.cluster p c).spareRows)) →
    (∀ (i : Instr) (perst : Bool), i = (if perst then .perstNAsserted else .resetNAsserted) →
      (perst = true → s.hub.lands.scope = false) →
      (s.hub.lands.auxGood = true → (if perst then s.hub.lands.perstN else s.hub.lands.resetN) = false →
        Gives i s (fun t => gone (if s.hub.state = .off then .off else .identify) t ∧ kept t ∧ (∀ p < 8, (t.parcel p).gen = 0) ∧
          t.datum.count = 0 ∧ t.datum.state = .unset ∧ t.datum.qualified = s.datum.qualified ∧ t.hub.sched = [] ∧
          t.hub.dict.grant = false ∧ t.hub.pwr.limit = 0x708 ∧ t.stay.state = s.stay.state ∧ t.book.seq = 0 ∧ t.book.written = 0 ∧
          ((∀ p < 8, ∀ q, isRiver q = true → (s.link p q).state ≠ .up) → (∀ c < 8, (dmaOf s c).busy = false) →
            s.posted = [] → (∀ p < 8, (s.parcel p).adds = []) →
            (s.book.writing = none → t.book.slots = s.book.slots ∧ t.book.writing = (nextSource s.book).map (fun x => x.1)) ∧
            (∀ src e, s.book.writing = some src → SMap.find s.book.slots src = some e → s.book.lgMode = false →
              (SMap.find s.book.floods src = none → t.book.slots = SMap.erase s.book.slots src) ∧
              ∀ n, n = s.book.seq.toNat % 4096 → n ≠ 0 →
                (s.book.failA = false → SMap.find t.book.copyA n = some (recordWord e s.book.seq.toNat 0xA5)) ∧
                (s.book.failB = false → SMap.find t.book.copyB n = some (recordWord e s.book.seq.toNat 0xA5)))) ∧
          t.hub.port.linkUp = false ∧ t.hub.port.intEn = 0 ∧ t.hub.port.intStat = 0 ∧ t.hub.port.latch = [] ∧
          t.hub.port.bars = [] ∧ t.hub.fw.result = s.hub.fw.result ∧
          (s.hub.state = .off ∨ s.hub.dict.boot ≠ 2 → t.hub.dict.boot = s.hub.dict.boot ∧ t.hub.fw = s.hub.fw) ∧
          (s.hub.state ≠ .off → s.hub.dict.boot = 2 →
            (∀ b, (bankOf s b).verified = true → (b = s.hub.fw.prefer ∨ (bankOf s (!b)).verified = false) →
              t.hub.fw.surveyor = b ∧ t.hub.dict.boot = 0) ∧
            ((∀ b, (bankOf s b).verified = false) → t.hub.dict.boot = 2)) ∧
          t.hub.lands = { s.hub.lands with resetN := s.hub.lands.resetN || !perst, perstN := s.hub.lands.perstN || perst })) ∧
      (s.hub.lands.auxGood = false ∨ (if perst then s.hub.lands.perstN else s.hub.lands.resetN) = true →
        exec i s = .next (s.updHub (fun h => { h with lands := { h.lands with
          resetN := h.lands.resetN || !perst, perstN := h.lands.perstN || perst } })))) ∧
    (s.hub.lands.scope = true → s.hub.lands.perstN = true → exec .perstNAsserted s = .next s) ∧
    (s.hub.lands.scope = true → s.hub.lands.perstN = false → (∀ c < 8, (dmaOf s c).busy = false) →
      Gives .perstNAsserted s (fun t => t.hub.port.linkUp = false ∧ t.hub.port.intEn = 0 ∧ t.hub.port.fnMask = 0 ∧
        t.hub.port.bars = [] ∧ (∀ e ∈ t.hub.port.latch, dmaLatch e.1 = false) ∧
        t.hub.port.vecMask.filter (fun e => decide (e.1 / 4 < 9)) = [] ∧ (∀ c < 8, dmaOf t c = {}) ∧
        t.hub.lands.perstN = true ∧ t.hub.state = s.hub.state ∧ t.book = s.book ∧ t.hub.dict = s.hub.dict ∧
        t.stay = s.stay ∧ (∀ p, t.parcel p = s.parcel p) ∧ SameTime s t)) ∧
    (inReset s = false → exec .resetNReleased s = .next (s.updHub (fun h => { h with lands := { h.lands with
      resetN := false } })) ∧
      exec .perstNReleased s = .next (s.updHub (fun h => { h with lands := { h.lands with perstN := false } }))) ∧
    (inReset s = true → (s.hub.lands.scope = true ∨ s.hub.lands.perstN = false) →
      Gives .resetNReleased s (fun t => inReset t = false ∧ t.hub.lands = { s.hub.lands with resetN := false } ∧
        t.hub.tap.driven = false ∧ t.hub.tap.highz = false ∧ t.hub.state = s.hub.state ∧ (∀ p, t.parcel p = s.parcel p) ∧
        t.book = s.book ∧ SameTime s t)) ∧
    (inReset s = true → s.hub.lands.scope = false → s.hub.lands.resetN = false →
      Gives .perstNReleased s (fun t => inReset t = false ∧ t.hub.lands = { s.hub.lands with perstN := false } ∧
        t.hub.tap.driven = false ∧ t.hub.tap.highz = false ∧ t.hub.state = s.hub.state ∧ (∀ p, t.parcel p = s.parcel p) ∧
        t.book = s.book ∧ SameTime s t)) ∧
    (∀ mv, mv < 40000 ∨ 60000 < mv →
      (s.hub.state ≠ .off → s.hub.state ≠ .identify → Gives (.vin48OutOfRange mv) s (fun t => gone .identify t ∧ kept t ∧
        t.hub.lands.vinOk = false ∧ t.hub.pwr.vinMv = mv ∧ t.datum = s.datum ∧
        t.hub.port.linkUp = false ∧ t.stay = s.stay)) ∧
      (s.hub.state = .off ∨ s.hub.state = .identify → exec (.vin48OutOfRange mv) s = .next (s.updHub (fun h => { h with
        lands := { h.lands with vinOk := false }, pwr := { h.pwr with vinMv := mv }
        tap := if h.tap.pulse = true ∨ h.tap.train = true
          then { h.tap with driven := false, highz := false, pulse := false, train := false } else h.tap })))) ∧
    (∀ mv, 40000 ≤ mv → mv ≤ 60000 → exec (.vin48OutOfRange mv) s = .next s) ∧
    (s.hub.lands.auxGood = true → Gives .auxLost s (fun t => kept t ∧ t.hub.state = .off ∧ t.datum = {} ∧
      (∀ p, (t.parcel p).state = .off ∧ (t.parcel p).mem = []) ∧ t.hub.lands.auxGood = false ∧
      t.book.lastGaspNv = lastGaspFile s.book ∧ t.hub.port.hostMem = s.hub.port.hostMem)) ∧
    (s.hub.lands.auxGood = false → exec .auxLost s = .next s)

/-- An instruction whose check fails does not issue: the task stops with both PCs of TASK_FAULT naming it, the event of
the first check that fails is raised, and no other reach, cluster or byte of memory changes; one of a unit that a STAK
ARM binds enters its queue and waits for the stake, and one behind it in the queue of the reach DMA waits for its turn
(R162, R163, R183, R189). The model's own choices in it: log 2 and 63. -/
def Obligations.FailedChecksStop : Prop :=
  ∀ (p : ParcelId) (l : ReachId) (s : State) (j : Job) (f : Fail) (i : Instr), j = headJob s p l →
    ((i = .matb p l .none ∧ wOp j.word = 0 ∧ Fails s p l (matPlan s p l j) f) ∨
      (i = .matlBuild p l ∧ wOp j.word = 1 ∧ bvb j.word 24 = false ∧ Fails s p l (buildPlan s p l j) f) ∨
      (i = .matlLook p l ∧ wOp j.word = 1 ∧ bvb j.word 24 = true ∧ Fails s p l (lookPlan s p l j) f) ∨
      (i = .rifl p l ∧ wOp j.word = 2 ∧ Fails s p l (riflPlan s p l j) f) ∨
      (i = .dlta p l ∧ wOp j.word = 3 ∧ Fails s p l (dltPlan s p l j) f) ∨
      (i = .move p l ∧ wOp j.word = 4 ∧ mvForm s p j = .plain ∧ Fails s p l (mvPlan s p l j) f) ∨
      (i = .moveMessageSend p l ∧ wOp j.word = 4 ∧ mvForm s p j = .message ∧ Fails s p l (mvPlan s p l j) f) ∨
      (i = .gath p l ∧ wOp j.word = 5 ∧ Fails s p l (gsPlan s p l j) f) ∨
      (i = .scat p l ∧ wOp j.word = 6 ∧ Fails s p l (gsPlan s p l j) f) ∨
      (i = .casc p l ∧ wOp j.word = 7 ∧ Fails s p l (cascPlan l j) f) ∨
      (i = .conf p l ∧ wOp j.word = 8 ∧ Fails s p l (confPlan s p l j) f) ∨
      (i = .scl p l ∧ wOp j.word = 13 ∧ Fails s p l (sclPlan j) f) ∨
      (i = .brc p l ∧ wOp j.word = 14 ∧ bvf j.word 24 3 ≠ 7 ∧ Fails s p l (brcPlan p l j) f) ∨
      (i = .csrRead p l ∧ wOp j.word = 15 ∧ bvb j.word 24 = false ∧ Fails s p l (csrPlan s p l j) f) ∨
      (i = .csrWrite p l ∧ wOp j.word = 15 ∧ bvb j.word 24 = true ∧ Fails s p l (csrPlan s p l j) f) →
      Gives i s (fun t => StoppedOn s t p l f)) ∧
    (∀ st pl, (s.reach p l).task.arm = some st → canIssue s p l = true → scalarsReady (s.reach p l) pl.reads = true →
      pl.armable = true → firstFail pl.checks = none → held s p l j pl = false → Undisturbed s p l →
      j.pc.toNat + 16 < 16384 →
      ((i = .matb p l .none ∧ wOp j.word = 0 ∧ pl = matPlan s p l j) ∨
        (i = .dlta p l ∧ wOp j.word = 3 ∧ pl = dltPlan s p l j) ∨
        (i = .move p l ∧ wOp j.word = 4 ∧ mvForm s p j = .plain ∧ pl = mvPlan s p l j) ∨
        (i = .casc p l ∧ wOp j.word = 7 ∧ pl = cascPlan l j)) →
      Gives i s (fun t => Entered s t p l pl.unit 0 (.stake st) ∧ (t.reach p l).task.arm = none ∧
        (t.reach p l).pool = (s.reach p l).pool ∧ (t.reach p l).s = (s.reach p l).s ∧ SameMemory s t ∧ OtherReaches s t p l ∧
        t.book = s.book ∧ SameTime s t)) ∧
    (∀ pl, (s.reach p l).task.arm = none → canIssue s p l = true → scalarsReady (s.reach p l) pl.reads = true →
      firstFail pl.checks = none → held s p l j pl = false → Undisturbed s p l → j.pc.toNat + 16 < 16384 →
      queueWaits (s.reach p l) pl.unit ((s.reach p l).task.issueNo + 1) = true →
      ((i = .move p l ∧ wOp j.word = 4 ∧ mvForm s p j = .plain ∧ pl = mvPlan s p l j) ∨
        (i = .gath p l ∧ wOp j.word = 5 ∧ pl = gsPlan s p l j) ∨ (i = .scat p l ∧ wOp j.word = 6 ∧ pl = gsPlan s p l j)) →
      Gives i s (fun t => Entered s t p l pl.unit 0 .turn ∧ (t.reach p l).pool = (s.reach p l).pool ∧
        (t.reach p l).s = (s.reach p l).s ∧ SameMemory s t ∧ OtherReaches s t p l ∧ t.book = s.book ∧ SameTime s t))

/-- With command c at the front of its queue the block does what c does, on the state with the rest of the queue; with
an empty queue a cycle of the nominal clock passes (the model's choice, log 3): the posted writes become visible and
errors come to stand in memory cells, and apart from them no byte of memory changes; of a reach or a cluster it changes
the counters alone, and it changes neither the datum nor the stay monitor, nor, where nothing was posted, the hub or the
field book. The model's own choices in it: log 3, 101 and 105. -/
def Obligations.StepTakesTheFront : Prop :=
  ∀ (c : Instr) (s : State) (rest : List Instr),
    (s.pending = c :: rest → step s = exec c { s with pending := rest }) ∧
    (s.pending = [] → ∃ t, step s = .next t ∧ t.wall = s.wall + 1 ∧ t.pending = [] ∧ t.posted = [] ∧ t.datum = s.datum ∧
      t.stay = s.stay ∧ (s.posted = [] → t.book = s.book ∧ t.hub = s.hub) ∧
      (s.phase + 1 < s.nMax → t.phase = s.phase + 1 ∧ t.hwSet = [] ∧ SameMemory (passed s (s.phase + 1)) t) ∧
      (s.nMax ≤ s.phase + 1 → t.phase = s.phase ∧ SameMemory (drainIf s (fun _ => true)) t ∧ SameReaches s t) ∧
      (∀ p l, ∃ cnt old inc cc, t.reach p l = { s.reach p l with
        cnt := cnt, cntOld := old, cntInc := inc, task := { (s.reach p l).task with headCc := cc } }) ∧
      (∀ p c, ∃ cnt old inc, t.cluster p c = { s.cluster p c with cnt := cnt, cntOld := old, cntInc := inc }))

/-- No command changes the commands that wait behind it, and none turns the time back. The model's own choices in it:
log 3. -/
def Obligations.CommandsKeepTheQueue : Prop :=
  ∀ (i : Instr) (s t : State), exec i s = .next t → t.pending = s.pending ∧ s.wall ≤ t.wall

/-- The datum count never decreases, except that a package reset, or the loss of the auxiliary supply, clears it; in
UNSET it is 0, and a correction never goes back (R261, R265, R273, R464). The model's own choices in it: log 78. -/
def Obligations.DatumNeverDecreases : Prop :=
  ∀ (i : Instr) (s t : State), s.datumOk → exec i s = .next t → t.datumOk ∧
    (s.datum.count ≤ t.datum.count ∨
      (t.datum.count = 0 ∧ t.datum.state = .unset ∧ (i = .resetNAsserted ∨ i = .perstNAsserted ∨ i = .auxLost)))

/-- At reset the package is OFF and in its resets, no parcel has power, the registers whose reset value the spec gives
have it, and every memory and register file is in its canonical form (R13, R248, R309, R374, R423). The model's own
choices in it: log 4, 5, 10, 11 and 12. -/
def Obligations.ResetState : Prop :=
  State.reset.hub.state = .off ∧ State.reset.hub.lands.auxGood = false ∧ (∀ p < 8, (State.reset.parcel p).state = .off) ∧
  State.reset.hub.torus = 0x800000000#64 ∧ State.reset.hub.pwr.limit = 0x708 ∧ State.reset.datum.count = 0 ∧
  State.reset.datum.state = .unset ∧ State.reset.pending = [] ∧ State.reset.posted = [] ∧
  State.reset.upsets = [] ∧ State.reset.memOk = true ∧ State.reset.registersOk = true ∧
  ∀ p < 8, ∀ l < 128, (State.reset.reach p l).task.run = false ∧ (State.reset.reach p l).flights = [] ∧
    (State.reset.reach p l).pool = [] ∧ ∀ n, (State.reset.reach p l).scalar n = 0

/-- The byte memories of the package stay in their canonical form through every step. The scalar registers and the pools
of the reaches stay held as sorted maps through every step. -/
def Obligations.StorageStaysCanonical : Prop :=
  (∀ s t : State, s.memOk = true → step s = .next t → t.memOk = true) ∧
  (∀ s t : State, s.registersOk = true → step s = .next t → t.registersOk = true)
end

