-- ==== Sys2Proof/Laws/Sparse.lean ====
section
/-!
SUPPORT. The laws of sparse maps and of byte memories: what a put leaves, and that every memory operation keeps the
canonical form.
-/

namespace Sys2Proof.Machine

/-! ### Reading after a put, for any list -/

theorem SMap.find_put_same {α : Type} (m : SMap α) (k : Nat) (a : α) : SMap.find (SMap.put m k a) k = some a := by
  induction m with
  | nil => simp [SMap.put, SMap.find]
  | cons e m ih =>
    obtain ⟨j, v⟩ := e
    simp only [SMap.put]
    split
    · simp [SMap.find]
    · split
      · simp [SMap.find]
      · simp only [SMap.find]
        rw [if_neg ‹_›, if_neg ‹_›, ih]

theorem SMap.find_put_other {α : Type} (m : SMap α) (k i : Nat) (a : α) (h : i ≠ k) :
    SMap.find (SMap.put m k a) i = SMap.find m i := by
  induction m with
  | nil => simp [SMap.put, SMap.find, Ne.symm h]
  | cons e m ih =>
    obtain ⟨j, v⟩ := e
    simp only [SMap.put]
    split
    · rename_i hj; subst hj; simp [SMap.find, Ne.symm h]
    · split
      · rename_i hj hk
        simp only [SMap.find]
        rw [if_neg (Ne.symm h)]
        split
        · split <;> [omega; split <;> [rfl; omega]]
        · rfl
      · simp only [SMap.find, ih]

@[simp] theorem SMap.get_put_same {α : Type} (d : α) (m : SMap α) (k : Nat) (a : α) : SMap.get d (SMap.put m k a) k = a := by
  simp [SMap.get, SMap.find_put_same]

theorem SMap.get_put_other {α : Type} (d : α) (m : SMap α) (k i : Nat) (a : α) (h : i ≠ k) :
    SMap.get d (SMap.put m k a) i = SMap.get d m i := by
  simp [SMap.get, SMap.find_put_other m k i a h]

theorem SMap.get_put {α : Type} (d : α) (m : SMap α) (k i : Nat) (a : α) :
    SMap.get d (SMap.put m k a) i = if i = k then a else SMap.get d m i := by
  split
  · subst i; simp
  · exact SMap.get_put_other d m k i a ‹_›

/-! ### Sorted maps: reading after an erase or a store -/

/-- Every key of a sorted map lies above the first one. -/
theorem SMap.find_none_of_lt {α : Type} (m : SMap α) (j : Nat) (v : α) (h : SMap.sorted ((j, v) :: m) = true) :
    ∀ i, i ≤ j → SMap.find m i = none := by
  cases m with
  | nil => intro i _; rfl
  | cons e m =>
    obtain ⟨k, w⟩ := e
    simp only [SMap.sorted, Bool.and_eq_true, decide_eq_true_eq] at h
    intro i hi
    simp only [SMap.find]
    rw [if_neg (by omega), if_pos (by omega)]

theorem SMap.sorted_tail {α : Type} {e : Nat × α} {m : SMap α} (h : SMap.sorted (e :: m) = true) :
    SMap.sorted m = true := by
  obtain ⟨j, v⟩ := e
  cases m with
  | nil => rfl
  | cons e m => simp only [SMap.sorted, Bool.and_eq_true] at h; exact h.2

theorem SMap.find_erase {α : Type} (m : SMap α) (k i : Nat) (h : SMap.sorted m = true) :
    SMap.find (SMap.erase m k) i = if i = k then none else SMap.find m i := by
  induction m with
  | nil => simp [SMap.erase, SMap.find]
  | cons e m ih =>
    obtain ⟨j, v⟩ := e
    simp only [SMap.erase]
    split
    · rename_i hj; subst hj
      split
      · rename_i hi; subst hi; exact SMap.find_none_of_lt m i v h i (Nat.le_refl _)
      · rename_i hi
        simp only [SMap.find]
        rw [if_neg (Ne.symm hi)]
        split
        · exact SMap.find_none_of_lt m j v h i (by omega)
        · rfl
    · split
      · split
        · rename_i hi; subst hi; simp only [SMap.find]; rw [if_neg ‹_›, if_pos ‹_›]
        · rfl
      · simp only [SMap.find, ih (SMap.sorted_tail h)]
        by_cases hi : i = k
        · subst hi; simp_all
        · simp [hi]

/-- A store is read back at its key and leaves every other key, in a sorted map. -/
theorem SMap.get_store {α : Type} [DecidableEq α] (d : α) (m : SMap α) (k i : Nat) (a : α) (h : SMap.sorted m = true) :
    SMap.get d (SMap.store d m k a) i = if i = k then a else SMap.get d m i := by
  unfold SMap.store
  split
  · subst a
    simp only [SMap.get, SMap.find_erase m k i h]
    split <;> rfl
  · exact SMap.get_put d m k i a

/-! ### Byte memories -/

theorem memWf_cons {c : Nat × BitVec 8} {m : List (Nat × BitVec 8)} :
    memWf (c :: m) = true ↔ c.2 ≠ 0 ∧ (∀ d ∈ m.head?, c.1 < d.1) ∧ memWf m = true := by
  cases m with
  | nil => simp [memWf]
  | cons d m => simp [memWf, and_assoc]

theorem memWf_sorted {m : List (Nat × BitVec 8)} (h : memWf m = true) : SMap.sorted m = true := by
  induction m with
  | nil => rfl
  | cons c m ih =>
    rw [memWf_cons] at h
    cases m with
    | nil => rfl
    | cons d m =>
      obtain ⟨j, v⟩ := c
      obtain ⟨k, w⟩ := d
      simp only [SMap.sorted, Bool.and_eq_true, decide_eq_true_eq]
      exact ⟨h.2.1 (k, w) rfl, ih h.2.2⟩

/-- Every address of a canonical memory lies above its first one. -/
theorem memWf_lt {c : Nat × BitVec 8} {m : List (Nat × BitVec 8)} (h : memWf (c :: m) = true) : ∀ d ∈ m, c.1 < d.1 := by
  induction m generalizing c with
  | nil => simp
  | cons e m ih =>
    rw [memWf_cons] at h
    intro d hd
    rcases List.mem_cons.mp hd with rfl | hd
    · exact h.2.1 _ rfl
    · exact Nat.lt_trans (h.2.1 e rfl) (ih h.2.2 d hd)

/-- A memory is canonical exactly when its addresses rise and no byte is 0. -/
theorem memWf_iff {m : List (Nat × BitVec 8)} :
    memWf m = true ↔ m.Pairwise (fun c d => c.1 < d.1) ∧ ∀ c ∈ m, c.2 ≠ 0 := by
  induction m with
  | nil => simp [memWf]
  | cons c m ih =>
    constructor
    · intro h
      have hl := memWf_lt h
      rw [memWf_cons] at h
      obtain ⟨h0, _, hm⟩ := h
      rw [ih] at hm
      refine ⟨List.pairwise_cons.mpr ⟨hl, hm.1⟩, ?_⟩
      intro d hd
      rcases List.mem_cons.mp hd with rfl | hd
      · exact h0
      · exact hm.2 d hd
    · intro ⟨hp, h0⟩
      rw [List.pairwise_cons] at hp
      rw [memWf_cons]
      refine ⟨h0 c (List.mem_cons_self ..), ?_, ih.mpr ⟨hp.2, fun d hd => h0 d (List.mem_cons_of_mem _ hd)⟩⟩
      intro d hd
      exact hp.1 d (List.mem_of_mem_head? hd)

/-- A selection of cells keeps the canonical form. -/
theorem memWf_filter {m : List (Nat × BitVec 8)} (f : Nat × BitVec 8 → Bool) (h : memWf m = true) :
    memWf (m.filter f) = true := by
  rw [memWf_iff] at h ⊢
  exact ⟨h.1.filter f, fun c hc => h.2 c (List.mem_of_mem_filter hc)⟩

theorem memWf_clear {m : List (Nat × BitVec 8)} (a n : Nat) (h : memWf m = true) : memWf (memClear m a n) = true :=
  memWf_filter _ h

theorem mem_put {α : Type} {m : SMap α} {k : Nat} {a : α} {e : Nat × α} (h : e ∈ SMap.put m k a) :
    e = (k, a) ∨ e ∈ m := by
  induction m with
  | nil => simp [SMap.put] at h; exact .inl h
  | cons c m ih =>
    obtain ⟨j, v⟩ := c
    simp only [SMap.put] at h
    split at h
    · rcases List.mem_cons.mp h with h | h
      · exact .inl h
      · exact .inr (List.mem_cons_of_mem _ h)
    · split at h
      · rcases List.mem_cons.mp h with h | h
        · exact .inl h
        · exact .inr h
      · rcases List.mem_cons.mp h with h | h
        · exact .inr (h ▸ List.mem_cons_self ..)
        · rcases ih h with h | h
          · exact .inl h
          · exact .inr (List.mem_cons_of_mem _ h)

theorem mem_erase {α : Type} {m : SMap α} {k : Nat} {e : Nat × α} (h : e ∈ SMap.erase m k) : e ∈ m := by
  induction m with
  | nil => exact h
  | cons c m ih =>
    obtain ⟨j, v⟩ := c
    simp only [SMap.erase] at h
    split at h
    · exact List.mem_cons_of_mem _ h
    · split at h
      · exact h
      · rcases List.mem_cons.mp h with h | h
        · exact h ▸ List.mem_cons_self ..
        · exact List.mem_cons_of_mem _ (ih h)

theorem pairwise_put {α : Type} {m : SMap α} (k : Nat) (a : α) (h : m.Pairwise (fun c d => c.1 < d.1)) :
    (SMap.put m k a).Pairwise (fun c d => c.1 < d.1) := by
  induction m with
  | nil => simp [SMap.put]
  | cons c m ih =>
    obtain ⟨j, v⟩ := c
    rw [List.pairwise_cons] at h
    simp only [SMap.put]
    split
    · rename_i hj; subst hj; exact List.pairwise_cons.mpr ⟨h.1, h.2⟩
    · split
      · refine List.pairwise_cons.mpr ⟨?_, List.pairwise_cons.mpr h⟩
        intro d hd
        rcases List.mem_cons.mp hd with rfl | hd
        · assumption
        · exact Nat.lt_trans ‹_› (h.1 d hd)
      · refine List.pairwise_cons.mpr ⟨?_, ih h.2⟩
        intro d hd
        rcases mem_put hd with rfl | hd
        · show j < k; omega
        · exact h.1 d hd

theorem pairwise_erase {α : Type} {m : SMap α} (k : Nat) (h : m.Pairwise (fun c d => c.1 < d.1)) :
    (SMap.erase m k).Pairwise (fun c d => c.1 < d.1) := by
  induction m with
  | nil => simp [SMap.erase]
  | cons c m ih =>
    obtain ⟨j, v⟩ := c
    have h' := List.pairwise_cons.mp h
    simp only [SMap.erase]
    split
    · exact h'.2
    · split
      · exact h
      · exact List.pairwise_cons.mpr ⟨fun d hd => h'.1 d (mem_erase hd), ih h'.2⟩

/-- Writing one byte keeps the canonical form. -/
theorem memWf_set {m : List (Nat × BitVec 8)} (a : Nat) (b : Byte) (h : memWf m = true) : memWf (memSet m a b) = true := by
  rw [memWf_iff] at h ⊢
  unfold memSet SMap.store
  split
  · exact ⟨pairwise_erase a h.1, fun c hc => h.2 c (mem_erase hc)⟩
  · refine ⟨pairwise_put a b h.1, ?_⟩
    intro c hc
    rcases mem_put hc with rfl | hc
    · assumption
    · exact h.2 c hc

/-- A byte written is read back, and every other byte stays. -/
theorem memByte_set {m : List (Nat × BitVec 8)} (a i : Nat) (b : Byte) (h : memWf m = true) :
    memByte (memSet m a b) i = if i = a then b else memByte m i :=
  SMap.get_store 0 m a i b (memWf_sorted h)

theorem memWf_write {m : List (Nat × BitVec 8)} (a : Nat) (bs : List Byte) (h : memWf m = true) :
    memWf (memWrite m a bs) = true := by
  induction bs generalizing m a with
  | nil => exact h
  | cons b bs ih => exact ih (a + 1) (memWf_set a b h)

/-- Writing cells one after another keeps the canonical form. -/
theorem memWf_foldl {m : List (Nat × BitVec 8)} (ws : List (Nat × BitVec 8)) (h : memWf m = true) :
    memWf (ws.foldl (fun m c => memSet m c.1 c.2) m) = true := by
  induction ws generalizing m with
  | nil => exact h
  | cons c ws ih => exact ih (memWf_set c.1 c.2 h)

/-- After a write of consecutive bytes, an address outside them reads as before. -/
theorem memByte_write_outside {m : List (Nat × BitVec 8)} (a i : Nat) (bs : List Byte) (h : memWf m = true)
    (hi : i < a ∨ a + bs.length ≤ i) : memByte (memWrite m a bs) i = memByte m i := by
  induction bs generalizing m a with
  | nil => rfl
  | cons b bs ih =>
    simp only [List.length_cons] at hi
    rw [memWrite, ih (a + 1) (memWf_set a b h) (by omega), memByte_set a i b h, if_neg (by omega)]

theorem memRead_length (m : List (Nat × BitVec 8)) (a n : Nat) : (memRead m a n).length = n := by
  induction n generalizing a with
  | zero => rfl
  | succ n ih => simp [memRead, ih]

end Sys2Proof.Machine
end

