-- ==== Sys2Proof/Laws/State.lean ====
section
/-!
SUPPORT. The fields of the state after each update, one lemma per field per update, so that no later proof unfolds an
update of a record.
-/

namespace Sys2Proof.Machine

variable (s : State)

@[simp] theorem State.setParcel_datum (p : Nat) (x : Parcel) : (s.setParcel p x).datum = s.datum := rfl
@[simp] theorem State.setParcel_book (p : Nat) (x : Parcel) : (s.setParcel p x).book = s.book := rfl
@[simp] theorem State.setParcel_stay (p : Nat) (x : Parcel) : (s.setParcel p x).stay = s.stay := rfl
@[simp] theorem State.setParcel_hub (p : Nat) (x : Parcel) : (s.setParcel p x).hub = s.hub := rfl
@[simp] theorem State.setParcel_phase (p : Nat) (x : Parcel) : (s.setParcel p x).phase = s.phase := rfl
@[simp] theorem State.setParcel_wall (p : Nat) (x : Parcel) : (s.setParcel p x).wall = s.wall := rfl
@[simp] theorem State.setParcel_free (p : Nat) (x : Parcel) : (s.setParcel p x).free = s.free := rfl
@[simp] theorem State.setParcel_pending (p : Nat) (x : Parcel) : (s.setParcel p x).pending = s.pending := rfl
@[simp] theorem State.setParcel_hwSet (p : Nat) (x : Parcel) : (s.setParcel p x).hwSet = s.hwSet := rfl
@[simp] theorem State.setParcel_upsets (p : Nat) (x : Parcel) : (s.setParcel p x).upsets = s.upsets := rfl
@[simp] theorem State.setParcel_posted (p : Nat) (x : Parcel) : (s.setParcel p x).posted = s.posted := rfl
@[simp] theorem State.updParcel_datum (p : Nat) (f : Parcel → Parcel) : (s.updParcel p f).datum = s.datum := rfl
@[simp] theorem State.updParcel_book (p : Nat) (f : Parcel → Parcel) : (s.updParcel p f).book = s.book := rfl
@[simp] theorem State.updParcel_stay (p : Nat) (f : Parcel → Parcel) : (s.updParcel p f).stay = s.stay := rfl
@[simp] theorem State.updParcel_hub (p : Nat) (f : Parcel → Parcel) : (s.updParcel p f).hub = s.hub := rfl
@[simp] theorem State.updParcel_phase (p : Nat) (f : Parcel → Parcel) : (s.updParcel p f).phase = s.phase := rfl
@[simp] theorem State.updParcel_wall (p : Nat) (f : Parcel → Parcel) : (s.updParcel p f).wall = s.wall := rfl
@[simp] theorem State.updParcel_free (p : Nat) (f : Parcel → Parcel) : (s.updParcel p f).free = s.free := rfl
@[simp] theorem State.updParcel_pending (p : Nat) (f : Parcel → Parcel) : (s.updParcel p f).pending = s.pending := rfl
@[simp] theorem State.updParcel_hwSet (p : Nat) (f : Parcel → Parcel) : (s.updParcel p f).hwSet = s.hwSet := rfl
@[simp] theorem State.updParcel_upsets (p : Nat) (f : Parcel → Parcel) : (s.updParcel p f).upsets = s.upsets := rfl
@[simp] theorem State.updParcel_posted (p : Nat) (f : Parcel → Parcel) : (s.updParcel p f).posted = s.posted := rfl
@[simp] theorem State.setReach_datum (p l : Nat) (r : Reach) : (s.setReach p l r).datum = s.datum := rfl
@[simp] theorem State.setReach_book (p l : Nat) (r : Reach) : (s.setReach p l r).book = s.book := rfl
@[simp] theorem State.setReach_stay (p l : Nat) (r : Reach) : (s.setReach p l r).stay = s.stay := rfl
@[simp] theorem State.setReach_hub (p l : Nat) (r : Reach) : (s.setReach p l r).hub = s.hub := rfl
@[simp] theorem State.setReach_phase (p l : Nat) (r : Reach) : (s.setReach p l r).phase = s.phase := rfl
@[simp] theorem State.setReach_wall (p l : Nat) (r : Reach) : (s.setReach p l r).wall = s.wall := rfl
@[simp] theorem State.setReach_free (p l : Nat) (r : Reach) : (s.setReach p l r).free = s.free := rfl
@[simp] theorem State.setReach_pending (p l : Nat) (r : Reach) : (s.setReach p l r).pending = s.pending := rfl
@[simp] theorem State.setReach_hwSet (p l : Nat) (r : Reach) : (s.setReach p l r).hwSet = s.hwSet := rfl
@[simp] theorem State.setReach_upsets (p l : Nat) (r : Reach) : (s.setReach p l r).upsets = s.upsets := rfl
@[simp] theorem State.setReach_posted (p l : Nat) (r : Reach) : (s.setReach p l r).posted = s.posted := rfl
@[simp] theorem State.updReach_datum (p l : Nat) (f : Reach → Reach) : (s.updReach p l f).datum = s.datum := rfl
@[simp] theorem State.updReach_book (p l : Nat) (f : Reach → Reach) : (s.updReach p l f).book = s.book := rfl
@[simp] theorem State.updReach_stay (p l : Nat) (f : Reach → Reach) : (s.updReach p l f).stay = s.stay := rfl
@[simp] theorem State.updReach_hub (p l : Nat) (f : Reach → Reach) : (s.updReach p l f).hub = s.hub := rfl
@[simp] theorem State.updReach_phase (p l : Nat) (f : Reach → Reach) : (s.updReach p l f).phase = s.phase := rfl
@[simp] theorem State.updReach_wall (p l : Nat) (f : Reach → Reach) : (s.updReach p l f).wall = s.wall := rfl
@[simp] theorem State.updReach_free (p l : Nat) (f : Reach → Reach) : (s.updReach p l f).free = s.free := rfl
@[simp] theorem State.updReach_pending (p l : Nat) (f : Reach → Reach) : (s.updReach p l f).pending = s.pending := rfl
@[simp] theorem State.updReach_hwSet (p l : Nat) (f : Reach → Reach) : (s.updReach p l f).hwSet = s.hwSet := rfl
@[simp] theorem State.updReach_upsets (p l : Nat) (f : Reach → Reach) : (s.updReach p l f).upsets = s.upsets := rfl
@[simp] theorem State.updReach_posted (p l : Nat) (f : Reach → Reach) : (s.updReach p l f).posted = s.posted := rfl
@[simp] theorem State.updTask_datum (p l : Nat) (f : Task → Task) : (s.updTask p l f).datum = s.datum := rfl
@[simp] theorem State.updTask_book (p l : Nat) (f : Task → Task) : (s.updTask p l f).book = s.book := rfl
@[simp] theorem State.updTask_stay (p l : Nat) (f : Task → Task) : (s.updTask p l f).stay = s.stay := rfl
@[simp] theorem State.updTask_hub (p l : Nat) (f : Task → Task) : (s.updTask p l f).hub = s.hub := rfl
@[simp] theorem State.updTask_phase (p l : Nat) (f : Task → Task) : (s.updTask p l f).phase = s.phase := rfl
@[simp] theorem State.updTask_wall (p l : Nat) (f : Task → Task) : (s.updTask p l f).wall = s.wall := rfl
@[simp] theorem State.updTask_free (p l : Nat) (f : Task → Task) : (s.updTask p l f).free = s.free := rfl
@[simp] theorem State.updTask_pending (p l : Nat) (f : Task → Task) : (s.updTask p l f).pending = s.pending := rfl
@[simp] theorem State.updTask_hwSet (p l : Nat) (f : Task → Task) : (s.updTask p l f).hwSet = s.hwSet := rfl
@[simp] theorem State.updTask_upsets (p l : Nat) (f : Task → Task) : (s.updTask p l f).upsets = s.upsets := rfl
@[simp] theorem State.updTask_posted (p l : Nat) (f : Task → Task) : (s.updTask p l f).posted = s.posted := rfl
@[simp] theorem State.setCluster_datum (p c : Nat) (x : Cluster) : (s.setCluster p c x).datum = s.datum := rfl
@[simp] theorem State.setCluster_book (p c : Nat) (x : Cluster) : (s.setCluster p c x).book = s.book := rfl
@[simp] theorem State.setCluster_stay (p c : Nat) (x : Cluster) : (s.setCluster p c x).stay = s.stay := rfl
@[simp] theorem State.setCluster_hub (p c : Nat) (x : Cluster) : (s.setCluster p c x).hub = s.hub := rfl
@[simp] theorem State.setCluster_phase (p c : Nat) (x : Cluster) : (s.setCluster p c x).phase = s.phase := rfl
@[simp] theorem State.setCluster_wall (p c : Nat) (x : Cluster) : (s.setCluster p c x).wall = s.wall := rfl
@[simp] theorem State.setCluster_free (p c : Nat) (x : Cluster) : (s.setCluster p c x).free = s.free := rfl
@[simp] theorem State.setCluster_pending (p c : Nat) (x : Cluster) : (s.setCluster p c x).pending = s.pending := rfl
@[simp] theorem State.setCluster_hwSet (p c : Nat) (x : Cluster) : (s.setCluster p c x).hwSet = s.hwSet := rfl
@[simp] theorem State.setCluster_upsets (p c : Nat) (x : Cluster) : (s.setCluster p c x).upsets = s.upsets := rfl
@[simp] theorem State.setCluster_posted (p c : Nat) (x : Cluster) : (s.setCluster p c x).posted = s.posted := rfl
@[simp] theorem State.updCluster_datum (p c : Nat) (f : Cluster → Cluster) : (s.updCluster p c f).datum = s.datum := rfl
@[simp] theorem State.updCluster_book (p c : Nat) (f : Cluster → Cluster) : (s.updCluster p c f).book = s.book := rfl
@[simp] theorem State.updCluster_stay (p c : Nat) (f : Cluster → Cluster) : (s.updCluster p c f).stay = s.stay := rfl
@[simp] theorem State.updCluster_hub (p c : Nat) (f : Cluster → Cluster) : (s.updCluster p c f).hub = s.hub := rfl
@[simp] theorem State.updCluster_phase (p c : Nat) (f : Cluster → Cluster) : (s.updCluster p c f).phase = s.phase := rfl
@[simp] theorem State.updCluster_wall (p c : Nat) (f : Cluster → Cluster) : (s.updCluster p c f).wall = s.wall := rfl
@[simp] theorem State.updCluster_free (p c : Nat) (f : Cluster → Cluster) : (s.updCluster p c f).free = s.free := rfl
@[simp] theorem State.updCluster_pending (p c : Nat) (f : Cluster → Cluster) : (s.updCluster p c f).pending = s.pending := rfl
@[simp] theorem State.updCluster_hwSet (p c : Nat) (f : Cluster → Cluster) : (s.updCluster p c f).hwSet = s.hwSet := rfl
@[simp] theorem State.updCluster_upsets (p c : Nat) (f : Cluster → Cluster) : (s.updCluster p c f).upsets = s.upsets := rfl
@[simp] theorem State.updCluster_posted (p c : Nat) (f : Cluster → Cluster) : (s.updCluster p c f).posted = s.posted := rfl
@[simp] theorem State.updLink_datum (p : Nat) (q : Port) (f : Link → Link) : (s.updLink p q f).datum = s.datum := rfl
@[simp] theorem State.updLink_book (p : Nat) (q : Port) (f : Link → Link) : (s.updLink p q f).book = s.book := rfl
@[simp] theorem State.updLink_stay (p : Nat) (q : Port) (f : Link → Link) : (s.updLink p q f).stay = s.stay := rfl
@[simp] theorem State.updLink_hub (p : Nat) (q : Port) (f : Link → Link) : (s.updLink p q f).hub = s.hub := rfl
@[simp] theorem State.updLink_phase (p : Nat) (q : Port) (f : Link → Link) : (s.updLink p q f).phase = s.phase := rfl
@[simp] theorem State.updLink_wall (p : Nat) (q : Port) (f : Link → Link) : (s.updLink p q f).wall = s.wall := rfl
@[simp] theorem State.updLink_free (p : Nat) (q : Port) (f : Link → Link) : (s.updLink p q f).free = s.free := rfl
@[simp] theorem State.updLink_pending (p : Nat) (q : Port) (f : Link → Link) : (s.updLink p q f).pending = s.pending := rfl
@[simp] theorem State.updLink_hwSet (p : Nat) (q : Port) (f : Link → Link) : (s.updLink p q f).hwSet = s.hwSet := rfl
@[simp] theorem State.updLink_upsets (p : Nat) (q : Port) (f : Link → Link) : (s.updLink p q f).upsets = s.upsets := rfl
@[simp] theorem State.updLink_posted (p : Nat) (q : Port) (f : Link → Link) : (s.updLink p q f).posted = s.posted := rfl
@[simp] theorem State.updMon_datum (p : Nat) (f : Monitors → Monitors) : (s.updMon p f).datum = s.datum := rfl
@[simp] theorem State.updMon_book (p : Nat) (f : Monitors → Monitors) : (s.updMon p f).book = s.book := rfl
@[simp] theorem State.updMon_stay (p : Nat) (f : Monitors → Monitors) : (s.updMon p f).stay = s.stay := rfl
@[simp] theorem State.updMon_hub (p : Nat) (f : Monitors → Monitors) : (s.updMon p f).hub = s.hub := rfl
@[simp] theorem State.updMon_phase (p : Nat) (f : Monitors → Monitors) : (s.updMon p f).phase = s.phase := rfl
@[simp] theorem State.updMon_wall (p : Nat) (f : Monitors → Monitors) : (s.updMon p f).wall = s.wall := rfl
@[simp] theorem State.updMon_free (p : Nat) (f : Monitors → Monitors) : (s.updMon p f).free = s.free := rfl
@[simp] theorem State.updMon_pending (p : Nat) (f : Monitors → Monitors) : (s.updMon p f).pending = s.pending := rfl
@[simp] theorem State.updMon_hwSet (p : Nat) (f : Monitors → Monitors) : (s.updMon p f).hwSet = s.hwSet := rfl
@[simp] theorem State.updMon_upsets (p : Nat) (f : Monitors → Monitors) : (s.updMon p f).upsets = s.upsets := rfl
@[simp] theorem State.updMon_posted (p : Nat) (f : Monitors → Monitors) : (s.updMon p f).posted = s.posted := rfl
@[simp] theorem State.updFab_datum (p : Nat) (f : Fabric → Fabric) : (s.updFab p f).datum = s.datum := rfl
@[simp] theorem State.updFab_book (p : Nat) (f : Fabric → Fabric) : (s.updFab p f).book = s.book := rfl
@[simp] theorem State.updFab_stay (p : Nat) (f : Fabric → Fabric) : (s.updFab p f).stay = s.stay := rfl
@[simp] theorem State.updFab_hub (p : Nat) (f : Fabric → Fabric) : (s.updFab p f).hub = s.hub := rfl
@[simp] theorem State.updFab_phase (p : Nat) (f : Fabric → Fabric) : (s.updFab p f).phase = s.phase := rfl
@[simp] theorem State.updFab_wall (p : Nat) (f : Fabric → Fabric) : (s.updFab p f).wall = s.wall := rfl
@[simp] theorem State.updFab_free (p : Nat) (f : Fabric → Fabric) : (s.updFab p f).free = s.free := rfl
@[simp] theorem State.updFab_pending (p : Nat) (f : Fabric → Fabric) : (s.updFab p f).pending = s.pending := rfl
@[simp] theorem State.updFab_hwSet (p : Nat) (f : Fabric → Fabric) : (s.updFab p f).hwSet = s.hwSet := rfl
@[simp] theorem State.updFab_upsets (p : Nat) (f : Fabric → Fabric) : (s.updFab p f).upsets = s.upsets := rfl
@[simp] theorem State.updFab_posted (p : Nat) (f : Fabric → Fabric) : (s.updFab p f).posted = s.posted := rfl
@[simp] theorem State.updPwr_datum (p : Nat) (f : Power → Power) : (s.updPwr p f).datum = s.datum := rfl
@[simp] theorem State.updPwr_book (p : Nat) (f : Power → Power) : (s.updPwr p f).book = s.book := rfl
@[simp] theorem State.updPwr_stay (p : Nat) (f : Power → Power) : (s.updPwr p f).stay = s.stay := rfl
@[simp] theorem State.updPwr_hub (p : Nat) (f : Power → Power) : (s.updPwr p f).hub = s.hub := rfl
@[simp] theorem State.updPwr_phase (p : Nat) (f : Power → Power) : (s.updPwr p f).phase = s.phase := rfl
@[simp] theorem State.updPwr_wall (p : Nat) (f : Power → Power) : (s.updPwr p f).wall = s.wall := rfl
@[simp] theorem State.updPwr_free (p : Nat) (f : Power → Power) : (s.updPwr p f).free = s.free := rfl
@[simp] theorem State.updPwr_pending (p : Nat) (f : Power → Power) : (s.updPwr p f).pending = s.pending := rfl
@[simp] theorem State.updPwr_hwSet (p : Nat) (f : Power → Power) : (s.updPwr p f).hwSet = s.hwSet := rfl
@[simp] theorem State.updPwr_upsets (p : Nat) (f : Power → Power) : (s.updPwr p f).upsets = s.upsets := rfl
@[simp] theorem State.updPwr_posted (p : Nat) (f : Power → Power) : (s.updPwr p f).posted = s.posted := rfl
@[simp] theorem State.updDatum_parcels (f : Datum → Datum) : (s.updDatum f).parcels = s.parcels := rfl
@[simp] theorem State.updDatum_book (f : Datum → Datum) : (s.updDatum f).book = s.book := rfl
@[simp] theorem State.updDatum_stay (f : Datum → Datum) : (s.updDatum f).stay = s.stay := rfl
@[simp] theorem State.updDatum_hub (f : Datum → Datum) : (s.updDatum f).hub = s.hub := rfl
@[simp] theorem State.updDatum_phase (f : Datum → Datum) : (s.updDatum f).phase = s.phase := rfl
@[simp] theorem State.updDatum_wall (f : Datum → Datum) : (s.updDatum f).wall = s.wall := rfl
@[simp] theorem State.updDatum_free (f : Datum → Datum) : (s.updDatum f).free = s.free := rfl
@[simp] theorem State.updDatum_pending (f : Datum → Datum) : (s.updDatum f).pending = s.pending := rfl
@[simp] theorem State.updDatum_hwSet (f : Datum → Datum) : (s.updDatum f).hwSet = s.hwSet := rfl
@[simp] theorem State.updDatum_upsets (f : Datum → Datum) : (s.updDatum f).upsets = s.upsets := rfl
@[simp] theorem State.updDatum_posted (f : Datum → Datum) : (s.updDatum f).posted = s.posted := rfl
@[simp] theorem State.updDatum_parcel (f : Datum → Datum) (q : Nat) : (s.updDatum f).parcel q = s.parcel q := rfl
@[simp] theorem State.updDatum_reach (f : Datum → Datum) (q m : Nat) : (s.updDatum f).reach q m = s.reach q m := rfl
@[simp] theorem State.updDatum_cluster (f : Datum → Datum) (q m : Nat) : (s.updDatum f).cluster q m = s.cluster q m := rfl
@[simp] theorem State.updDatum_link (f : Datum → Datum) (q : Nat) (m : Port) : (s.updDatum f).link q m = s.link q m := rfl
@[simp] theorem State.updHub_parcels (f : Hub → Hub) : (s.updHub f).parcels = s.parcels := rfl
@[simp] theorem State.updHub_datum (f : Hub → Hub) : (s.updHub f).datum = s.datum := rfl
@[simp] theorem State.updHub_book (f : Hub → Hub) : (s.updHub f).book = s.book := rfl
@[simp] theorem State.updHub_stay (f : Hub → Hub) : (s.updHub f).stay = s.stay := rfl
@[simp] theorem State.updHub_phase (f : Hub → Hub) : (s.updHub f).phase = s.phase := rfl
@[simp] theorem State.updHub_wall (f : Hub → Hub) : (s.updHub f).wall = s.wall := rfl
@[simp] theorem State.updHub_free (f : Hub → Hub) : (s.updHub f).free = s.free := rfl
@[simp] theorem State.updHub_pending (f : Hub → Hub) : (s.updHub f).pending = s.pending := rfl
@[simp] theorem State.updHub_hwSet (f : Hub → Hub) : (s.updHub f).hwSet = s.hwSet := rfl
@[simp] theorem State.updHub_upsets (f : Hub → Hub) : (s.updHub f).upsets = s.upsets := rfl
@[simp] theorem State.updHub_posted (f : Hub → Hub) : (s.updHub f).posted = s.posted := rfl
@[simp] theorem State.updHub_parcel (f : Hub → Hub) (q : Nat) : (s.updHub f).parcel q = s.parcel q := rfl
@[simp] theorem State.updHub_reach (f : Hub → Hub) (q m : Nat) : (s.updHub f).reach q m = s.reach q m := rfl
@[simp] theorem State.updHub_cluster (f : Hub → Hub) (q m : Nat) : (s.updHub f).cluster q m = s.cluster q m := rfl
@[simp] theorem State.updHub_link (f : Hub → Hub) (q : Nat) (m : Port) : (s.updHub f).link q m = s.link q m := rfl
@[simp] theorem State.updPort_parcels (f : HostPort → HostPort) : (s.updPort f).parcels = s.parcels := rfl
@[simp] theorem State.updPort_datum (f : HostPort → HostPort) : (s.updPort f).datum = s.datum := rfl
@[simp] theorem State.updPort_book (f : HostPort → HostPort) : (s.updPort f).book = s.book := rfl
@[simp] theorem State.updPort_stay (f : HostPort → HostPort) : (s.updPort f).stay = s.stay := rfl
@[simp] theorem State.updPort_phase (f : HostPort → HostPort) : (s.updPort f).phase = s.phase := rfl
@[simp] theorem State.updPort_wall (f : HostPort → HostPort) : (s.updPort f).wall = s.wall := rfl
@[simp] theorem State.updPort_free (f : HostPort → HostPort) : (s.updPort f).free = s.free := rfl
@[simp] theorem State.updPort_pending (f : HostPort → HostPort) : (s.updPort f).pending = s.pending := rfl
@[simp] theorem State.updPort_hwSet (f : HostPort → HostPort) : (s.updPort f).hwSet = s.hwSet := rfl
@[simp] theorem State.updPort_upsets (f : HostPort → HostPort) : (s.updPort f).upsets = s.upsets := rfl
@[simp] theorem State.updPort_posted (f : HostPort → HostPort) : (s.updPort f).posted = s.posted := rfl
@[simp] theorem State.updPort_parcel (f : HostPort → HostPort) (q : Nat) : (s.updPort f).parcel q = s.parcel q := rfl
@[simp] theorem State.updPort_reach (f : HostPort → HostPort) (q m : Nat) : (s.updPort f).reach q m = s.reach q m := rfl
@[simp] theorem State.updPort_cluster (f : HostPort → HostPort) (q m : Nat) : (s.updPort f).cluster q m = s.cluster q m := rfl
@[simp] theorem State.updPort_link (f : HostPort → HostPort) (q : Nat) (m : Port) : (s.updPort f).link q m = s.link q m := rfl
@[simp] theorem State.updDict_parcels (f : Dict → Dict) : (s.updDict f).parcels = s.parcels := rfl
@[simp] theorem State.updDict_datum (f : Dict → Dict) : (s.updDict f).datum = s.datum := rfl
@[simp] theorem State.updDict_book (f : Dict → Dict) : (s.updDict f).book = s.book := rfl
@[simp] theorem State.updDict_stay (f : Dict → Dict) : (s.updDict f).stay = s.stay := rfl
@[simp] theorem State.updDict_phase (f : Dict → Dict) : (s.updDict f).phase = s.phase := rfl
@[simp] theorem State.updDict_wall (f : Dict → Dict) : (s.updDict f).wall = s.wall := rfl
@[simp] theorem State.updDict_free (f : Dict → Dict) : (s.updDict f).free = s.free := rfl
@[simp] theorem State.updDict_pending (f : Dict → Dict) : (s.updDict f).pending = s.pending := rfl
@[simp] theorem State.updDict_hwSet (f : Dict → Dict) : (s.updDict f).hwSet = s.hwSet := rfl
@[simp] theorem State.updDict_upsets (f : Dict → Dict) : (s.updDict f).upsets = s.upsets := rfl
@[simp] theorem State.updDict_posted (f : Dict → Dict) : (s.updDict f).posted = s.posted := rfl
@[simp] theorem State.updDict_parcel (f : Dict → Dict) (q : Nat) : (s.updDict f).parcel q = s.parcel q := rfl
@[simp] theorem State.updDict_reach (f : Dict → Dict) (q m : Nat) : (s.updDict f).reach q m = s.reach q m := rfl
@[simp] theorem State.updDict_cluster (f : Dict → Dict) (q m : Nat) : (s.updDict f).cluster q m = s.cluster q m := rfl
@[simp] theorem State.updDict_link (f : Dict → Dict) (q : Nat) (m : Port) : (s.updDict f).link q m = s.link q m := rfl
@[simp] theorem State.updPkgPwr_parcels (f : PkgPower → PkgPower) : (s.updPkgPwr f).parcels = s.parcels := rfl
@[simp] theorem State.updPkgPwr_datum (f : PkgPower → PkgPower) : (s.updPkgPwr f).datum = s.datum := rfl
@[simp] theorem State.updPkgPwr_book (f : PkgPower → PkgPower) : (s.updPkgPwr f).book = s.book := rfl
@[simp] theorem State.updPkgPwr_stay (f : PkgPower → PkgPower) : (s.updPkgPwr f).stay = s.stay := rfl
@[simp] theorem State.updPkgPwr_phase (f : PkgPower → PkgPower) : (s.updPkgPwr f).phase = s.phase := rfl
@[simp] theorem State.updPkgPwr_wall (f : PkgPower → PkgPower) : (s.updPkgPwr f).wall = s.wall := rfl
@[simp] theorem State.updPkgPwr_free (f : PkgPower → PkgPower) : (s.updPkgPwr f).free = s.free := rfl
@[simp] theorem State.updPkgPwr_pending (f : PkgPower → PkgPower) : (s.updPkgPwr f).pending = s.pending := rfl
@[simp] theorem State.updPkgPwr_hwSet (f : PkgPower → PkgPower) : (s.updPkgPwr f).hwSet = s.hwSet := rfl
@[simp] theorem State.updPkgPwr_upsets (f : PkgPower → PkgPower) : (s.updPkgPwr f).upsets = s.upsets := rfl
@[simp] theorem State.updPkgPwr_posted (f : PkgPower → PkgPower) : (s.updPkgPwr f).posted = s.posted := rfl
@[simp] theorem State.updPkgPwr_parcel (f : PkgPower → PkgPower) (q : Nat) : (s.updPkgPwr f).parcel q = s.parcel q := rfl
@[simp] theorem State.updPkgPwr_reach (f : PkgPower → PkgPower) (q m : Nat) : (s.updPkgPwr f).reach q m = s.reach q m := rfl
@[simp] theorem State.updPkgPwr_cluster (f : PkgPower → PkgPower) (q m : Nat) : (s.updPkgPwr f).cluster q m = s.cluster q m := rfl
@[simp] theorem State.updPkgPwr_link (f : PkgPower → PkgPower) (q : Nat) (m : Port) : (s.updPkgPwr f).link q m = s.link q m := rfl
@[simp] theorem State.useFree_parcels : (s.useFree ).parcels = s.parcels := rfl
@[simp] theorem State.useFree_datum : (s.useFree ).datum = s.datum := rfl
@[simp] theorem State.useFree_book : (s.useFree ).book = s.book := rfl
@[simp] theorem State.useFree_stay : (s.useFree ).stay = s.stay := rfl
@[simp] theorem State.useFree_hub : (s.useFree ).hub = s.hub := rfl
@[simp] theorem State.useFree_phase : (s.useFree ).phase = s.phase := rfl
@[simp] theorem State.useFree_wall : (s.useFree ).wall = s.wall := rfl
@[simp] theorem State.useFree_pending : (s.useFree ).pending = s.pending := rfl
@[simp] theorem State.useFree_hwSet : (s.useFree ).hwSet = s.hwSet := rfl
@[simp] theorem State.useFree_upsets : (s.useFree ).upsets = s.upsets := rfl
@[simp] theorem State.useFree_posted : (s.useFree ).posted = s.posted := rfl
@[simp] theorem State.useFree_parcel (q : Nat) : (s.useFree ).parcel q = s.parcel q := rfl
@[simp] theorem State.useFree_reach (q m : Nat) : (s.useFree ).reach q m = s.reach q m := rfl
@[simp] theorem State.useFree_cluster (q m : Nat) : (s.useFree ).cluster q m = s.cluster q m := rfl
@[simp] theorem State.useFree_link (q : Nat) (m : Port) : (s.useFree ).link q m = s.link q m := rfl
@[simp] theorem raise_parcels (src code : Nat) (b : List Byte) : (raise s src code b).parcels = s.parcels := rfl
@[simp] theorem raise_datum (src code : Nat) (b : List Byte) : (raise s src code b).datum = s.datum := rfl
@[simp] theorem raise_stay (src code : Nat) (b : List Byte) : (raise s src code b).stay = s.stay := rfl
@[simp] theorem raise_hub (src code : Nat) (b : List Byte) : (raise s src code b).hub = s.hub := rfl
@[simp] theorem raise_phase (src code : Nat) (b : List Byte) : (raise s src code b).phase = s.phase := rfl
@[simp] theorem raise_wall (src code : Nat) (b : List Byte) : (raise s src code b).wall = s.wall := rfl
@[simp] theorem raise_free (src code : Nat) (b : List Byte) : (raise s src code b).free = s.free := rfl
@[simp] theorem raise_pending (src code : Nat) (b : List Byte) : (raise s src code b).pending = s.pending := rfl
@[simp] theorem raise_hwSet (src code : Nat) (b : List Byte) : (raise s src code b).hwSet = s.hwSet := rfl
@[simp] theorem raise_upsets (src code : Nat) (b : List Byte) : (raise s src code b).upsets = s.upsets := rfl
@[simp] theorem raise_posted (src code : Nat) (b : List Byte) : (raise s src code b).posted = s.posted := rfl
@[simp] theorem raise_parcel (src code : Nat) (b : List Byte) (q : Nat) : (raise s src code b).parcel q = s.parcel q := rfl
@[simp] theorem raise_reach (src code : Nat) (b : List Byte) (q m : Nat) : (raise s src code b).reach q m = s.reach q m := rfl
@[simp] theorem raise_cluster (src code : Nat) (b : List Byte) (q m : Nat) : (raise s src code b).cluster q m = s.cluster q m := rfl
@[simp] theorem raise_link (src code : Nat) (b : List Byte) (q : Nat) (m : Port) : (raise s src code b).link q m = s.link q m := rfl
@[simp] theorem State.updPort_hub_state (f : HostPort → HostPort) : (s.updPort f).hub.state = s.hub.state := rfl
@[simp] theorem State.updPort_hub_sched (f : HostPort → HostPort) : (s.updPort f).hub.sched = s.hub.sched := rfl
@[simp] theorem State.updPort_hub_torus (f : HostPort → HostPort) : (s.updPort f).hub.torus = s.hub.torus := rfl
@[simp] theorem State.updPort_hub_pwr (f : HostPort → HostPort) : (s.updPort f).hub.pwr = s.hub.pwr := rfl
@[simp] theorem State.updPort_hub_port (f : HostPort → HostPort) : (s.updPort f).hub.port = f s.hub.port := rfl
@[simp] theorem State.updPort_hub_dict (f : HostPort → HostPort) : (s.updPort f).hub.dict = s.hub.dict := rfl
@[simp] theorem State.updPort_hub_fw (f : HostPort → HostPort) : (s.updPort f).hub.fw = s.hub.fw := rfl
@[simp] theorem State.updPort_hub_tap (f : HostPort → HostPort) : (s.updPort f).hub.tap = s.hub.tap := rfl
@[simp] theorem State.updPort_hub_lands (f : HostPort → HostPort) : (s.updPort f).hub.lands = s.hub.lands := rfl
@[simp] theorem State.updDict_hub_state (f : Dict → Dict) : (s.updDict f).hub.state = s.hub.state := rfl
@[simp] theorem State.updDict_hub_sched (f : Dict → Dict) : (s.updDict f).hub.sched = s.hub.sched := rfl
@[simp] theorem State.updDict_hub_torus (f : Dict → Dict) : (s.updDict f).hub.torus = s.hub.torus := rfl
@[simp] theorem State.updDict_hub_pwr (f : Dict → Dict) : (s.updDict f).hub.pwr = s.hub.pwr := rfl
@[simp] theorem State.updDict_hub_port (f : Dict → Dict) : (s.updDict f).hub.port = s.hub.port := rfl
@[simp] theorem State.updDict_hub_dict (f : Dict → Dict) : (s.updDict f).hub.dict = f s.hub.dict := rfl
@[simp] theorem State.updDict_hub_fw (f : Dict → Dict) : (s.updDict f).hub.fw = s.hub.fw := rfl
@[simp] theorem State.updDict_hub_tap (f : Dict → Dict) : (s.updDict f).hub.tap = s.hub.tap := rfl
@[simp] theorem State.updDict_hub_lands (f : Dict → Dict) : (s.updDict f).hub.lands = s.hub.lands := rfl
@[simp] theorem State.updPkgPwr_hub_state (f : PkgPower → PkgPower) : (s.updPkgPwr f).hub.state = s.hub.state := rfl
@[simp] theorem State.updPkgPwr_hub_sched (f : PkgPower → PkgPower) : (s.updPkgPwr f).hub.sched = s.hub.sched := rfl
@[simp] theorem State.updPkgPwr_hub_torus (f : PkgPower → PkgPower) : (s.updPkgPwr f).hub.torus = s.hub.torus := rfl
@[simp] theorem State.updPkgPwr_hub_pwr (f : PkgPower → PkgPower) : (s.updPkgPwr f).hub.pwr = f s.hub.pwr := rfl
@[simp] theorem State.updPkgPwr_hub_port (f : PkgPower → PkgPower) : (s.updPkgPwr f).hub.port = s.hub.port := rfl
@[simp] theorem State.updPkgPwr_hub_dict (f : PkgPower → PkgPower) : (s.updPkgPwr f).hub.dict = s.hub.dict := rfl
@[simp] theorem State.updPkgPwr_hub_fw (f : PkgPower → PkgPower) : (s.updPkgPwr f).hub.fw = s.hub.fw := rfl
@[simp] theorem State.updPkgPwr_hub_tap (f : PkgPower → PkgPower) : (s.updPkgPwr f).hub.tap = s.hub.tap := rfl
@[simp] theorem State.updPkgPwr_hub_lands (f : PkgPower → PkgPower) : (s.updPkgPwr f).hub.lands = s.hub.lands := rfl
@[simp] theorem State.updDatum_datum (f : Datum → Datum) : (s.updDatum f).datum = f s.datum := rfl
@[simp] theorem State.updHub_hub (f : Hub → Hub) : (s.updHub f).hub = f s.hub := rfl
@[simp] theorem State.useFree_free : s.useFree.free = s.free + 1 := rfl
@[simp] theorem State.mark_parcels (b : HwBit) : (s.mark b).parcels = s.parcels := rfl
@[simp] theorem State.mark_datum (b : HwBit) : (s.mark b).datum = s.datum := rfl
@[simp] theorem State.mark_book (b : HwBit) : (s.mark b).book = s.book := rfl
@[simp] theorem State.mark_stay (b : HwBit) : (s.mark b).stay = s.stay := rfl
@[simp] theorem State.mark_hub (b : HwBit) : (s.mark b).hub = s.hub := rfl
@[simp] theorem State.mark_phase (b : HwBit) : (s.mark b).phase = s.phase := rfl
@[simp] theorem State.mark_wall (b : HwBit) : (s.mark b).wall = s.wall := rfl
@[simp] theorem State.mark_free (b : HwBit) : (s.mark b).free = s.free := rfl
@[simp] theorem State.mark_pending (b : HwBit) : (s.mark b).pending = s.pending := rfl
@[simp] theorem State.mark_upsets (b : HwBit) : (s.mark b).upsets = s.upsets := rfl
@[simp] theorem State.mark_posted (b : HwBit) : (s.mark b).posted = s.posted := rfl
@[simp] theorem State.mark_hwSet (b : HwBit) : (s.mark b).hwSet = b :: s.hwSet := rfl
@[simp] theorem State.mark_parcel (b : HwBit) (q : Nat) : (s.mark b).parcel q = s.parcel q := rfl
@[simp] theorem State.mark_reach (b : HwBit) (q m : Nat) : (s.mark b).reach q m = s.reach q m := rfl
@[simp] theorem State.mark_cluster (b : HwBit) (q m : Nat) : (s.mark b).cluster q m = s.cluster q m := rfl
@[simp] theorem State.mark_link (b : HwBit) (q : Nat) (m : Port) : (s.mark b).link q m = s.link q m := rfl

/-! ### The parts of a parcel -/

theorem State.updParcel_parcel (p : Nat) (f : Parcel → Parcel) (q : Nat) :
    (s.updParcel p f).parcel q = if q = p then f (s.parcel p) else s.parcel q := by
  simp [State.updParcel, State.setParcel, State.parcel, SMap.get_put]

@[simp] theorem State.updParcel_parcel_same (p : Nat) (f : Parcel → Parcel) :
    (s.updParcel p f).parcel p = f (s.parcel p) := by simp [State.updParcel_parcel]

theorem State.updParcel_parcel_other (p : Nat) (f : Parcel → Parcel) (q : Nat) (h : q ≠ p) :
    (s.updParcel p f).parcel q = s.parcel q := by simp [State.updParcel_parcel, h]

theorem State.updReach_parcel (p l : Nat) (f : Reach → Reach) (q : Nat) :
    (s.updReach p l f).parcel q = if q = p then { s.parcel p with
      reaches := SMap.put (s.parcel p).reaches l (f (s.reach p l)) } else s.parcel q := by
  simp [State.updReach, State.setReach, State.updParcel_parcel]

theorem State.updReach_reach (p l : Nat) (f : Reach → Reach) (q m : Nat) :
    (s.updReach p l f).reach q m = if q = p ∧ m = l then f (s.reach p l) else s.reach q m := by
  unfold State.reach
  rw [State.updReach_parcel]
  by_cases hq : q = p
  · subst hq; simp [State.reach, SMap.get_put]
  · simp [hq]

@[simp] theorem State.updReach_reach_same (p l : Nat) (f : Reach → Reach) :
    (s.updReach p l f).reach p l = f (s.reach p l) := by simp [State.updReach_reach]

theorem State.updReach_reach_other (p l : Nat) (f : Reach → Reach) (q m : Nat) (h : ¬ (q = p ∧ m = l)) :
    (s.updReach p l f).reach q m = s.reach q m := by simp [State.updReach_reach, h]

@[simp] theorem State.updTask_reach_same (p l : Nat) (f : Task → Task) :
    (s.updTask p l f).reach p l = { s.reach p l with task := f (s.reach p l).task } := by simp [State.updTask]

theorem State.updTask_reach_other (p l : Nat) (f : Task → Task) (q m : Nat) (h : ¬ (q = p ∧ m = l)) :
    (s.updTask p l f).reach q m = s.reach q m := by simp [State.updTask, State.updReach_reach, h]

theorem State.updCluster_parcel (p c : Nat) (f : Cluster → Cluster) (q : Nat) :
    (s.updCluster p c f).parcel q = if q = p then { s.parcel p with
      clusters := SMap.put (s.parcel p).clusters c (f (s.cluster p c)) } else s.parcel q := by
  simp [State.updCluster, State.setCluster, State.updParcel_parcel]

theorem State.updCluster_cluster (p c : Nat) (f : Cluster → Cluster) (q d : Nat) :
    (s.updCluster p c f).cluster q d = if q = p ∧ d = c then f (s.cluster p c) else s.cluster q d := by
  unfold State.cluster
  rw [State.updCluster_parcel]
  by_cases hq : q = p
  · subst hq; simp [State.cluster, SMap.get_put]
  · simp [hq]

@[simp] theorem State.updCluster_cluster_same (p c : Nat) (f : Cluster → Cluster) :
    (s.updCluster p c f).cluster p c = f (s.cluster p c) := by simp [State.updCluster_cluster]

theorem portNo_inj {q r : Port} (h : portNo q = portNo r) : q = r := by cases q <;> cases r <;> simp_all [portNo]

theorem State.updLink_link (p : Nat) (q : Port) (f : Link → Link) (p' : Nat) (r : Port) :
    (s.updLink p q f).link p' r = if p' = p ∧ r = q then f (s.link p q) else s.link p' r := by
  unfold State.link State.updLink
  rw [State.updParcel_parcel]
  by_cases hp : p' = p
  · subst hp
    by_cases hr : r = q
    · subst hr; simp
    · have : portNo r ≠ portNo q := fun h => hr (portNo_inj h)
      simp [hr, SMap.get_put, this]
  · simp [hp]

@[simp] theorem State.updLink_link_same (p : Nat) (q : Port) (f : Link → Link) :
    (s.updLink p q f).link p q = f (s.link p q) := by simp [State.updLink_link]

@[simp] theorem State.updReach_parcel_state (p l : Nat) (f : Reach → Reach) (q : Nat) :
    ((s.updReach p l f).parcel q).state = (s.parcel q).state := by simp only [State.updReach_parcel]; split <;> simp_all
@[simp] theorem State.updReach_parcel_containCause (p l : Nat) (f : Reach → Reach) (q : Nat) :
    ((s.updReach p l f).parcel q).containCause = (s.parcel q).containCause := by simp only [State.updReach_parcel]; split <;> simp_all
@[simp] theorem State.updReach_parcel_gen (p l : Nat) (f : Reach → Reach) (q : Nat) :
    ((s.updReach p l f).parcel q).gen = (s.parcel q).gen := by simp only [State.updReach_parcel]; split <;> simp_all
@[simp] theorem State.updReach_parcel_mem (p l : Nat) (f : Reach → Reach) (q : Nat) :
    ((s.updReach p l f).parcel q).mem = (s.parcel q).mem := by simp only [State.updReach_parcel]; split <;> simp_all
@[simp] theorem State.updReach_parcel_poison (p l : Nat) (f : Reach → Reach) (q : Nat) :
    ((s.updReach p l f).parcel q).poison = (s.parcel q).poison := by simp only [State.updReach_parcel]; split <;> simp_all
@[simp] theorem State.updReach_parcel_clusters (p l : Nat) (f : Reach → Reach) (q : Nat) :
    ((s.updReach p l f).parcel q).clusters = (s.parcel q).clusters := by simp only [State.updReach_parcel]; split <;> simp_all
@[simp] theorem State.updReach_parcel_region (p l : Nat) (f : Reach → Reach) (q : Nat) :
    ((s.updReach p l f).parcel q).region = (s.parcel q).region := by simp only [State.updReach_parcel]; split <;> simp_all
@[simp] theorem State.updReach_parcel_adds (p l : Nat) (f : Reach → Reach) (q : Nat) :
    ((s.updReach p l f).parcel q).adds = (s.parcel q).adds := by simp only [State.updReach_parcel]; split <;> simp_all
@[simp] theorem State.updReach_parcel_sums (p l : Nat) (f : Reach → Reach) (q : Nat) :
    ((s.updReach p l f).parcel q).sums = (s.parcel q).sums := by simp only [State.updReach_parcel]; split <;> simp_all
@[simp] theorem State.updReach_parcel_bar (p l : Nat) (f : Reach → Reach) (q : Nat) :
    ((s.updReach p l f).parcel q).bar = (s.parcel q).bar := by simp only [State.updReach_parcel]; split <;> simp_all
@[simp] theorem State.updReach_parcel_keys (p l : Nat) (f : Reach → Reach) (q : Nat) :
    ((s.updReach p l f).parcel q).keys = (s.parcel q).keys := by simp only [State.updReach_parcel]; split <;> simp_all
@[simp] theorem State.updReach_parcel_links (p l : Nat) (f : Reach → Reach) (q : Nat) :
    ((s.updReach p l f).parcel q).links = (s.parcel q).links := by simp only [State.updReach_parcel]; split <;> simp_all
@[simp] theorem State.updReach_parcel_wasReady (p l : Nat) (f : Reach → Reach) (q : Nat) :
    ((s.updReach p l f).parcel q).wasReady = (s.parcel q).wasReady := by simp only [State.updReach_parcel]; split <;> simp_all
@[simp] theorem State.updReach_parcel_fab (p l : Nat) (f : Reach → Reach) (q : Nat) :
    ((s.updReach p l f).parcel q).fab = (s.parcel q).fab := by simp only [State.updReach_parcel]; split <;> simp_all
@[simp] theorem State.updReach_parcel_mon (p l : Nat) (f : Reach → Reach) (q : Nat) :
    ((s.updReach p l f).parcel q).mon = (s.parcel q).mon := by simp only [State.updReach_parcel]; split <;> simp_all
@[simp] theorem State.updReach_parcel_pwr (p l : Nat) (f : Reach → Reach) (q : Nat) :
    ((s.updReach p l f).parcel q).pwr = (s.parcel q).pwr := by simp only [State.updReach_parcel]; split <;> simp_all
@[simp] theorem State.updReach_parcel_bank (p l : Nat) (f : Reach → Reach) (q : Nat) :
    ((s.updReach p l f).parcel q).bank = (s.parcel q).bank := by simp only [State.updReach_parcel]; split <;> simp_all
@[simp] theorem State.updReach_parcel_bankNew (p l : Nat) (f : Reach → Reach) (q : Nat) :
    ((s.updReach p l f).parcel q).bankNew = (s.parcel q).bankNew := by simp only [State.updReach_parcel]; split <;> simp_all
@[simp] theorem State.updReach_parcel_held (p l : Nat) (f : Reach → Reach) (q : Nat) :
    ((s.updReach p l f).parcel q).held = (s.parcel q).held := by simp only [State.updReach_parcel]; split <;> simp_all
@[simp] theorem State.updReach_parcel_latch (p l : Nat) (f : Reach → Reach) (q : Nat) :
    ((s.updReach p l f).parcel q).latch = (s.parcel q).latch := by simp only [State.updReach_parcel]; split <;> simp_all
@[simp] theorem State.updReach_parcel_cyc (p l : Nat) (f : Reach → Reach) (q : Nat) :
    ((s.updReach p l f).parcel q).cyc = (s.parcel q).cyc := by simp only [State.updReach_parcel]; split <;> simp_all
@[simp] theorem State.updTask_parcel_state (p l : Nat) (f : Task → Task) (q : Nat) :
    ((s.updTask p l f).parcel q).state = (s.parcel q).state := by simp only [State.updTask, State.updReach_parcel]; split <;> simp_all
@[simp] theorem State.updTask_parcel_containCause (p l : Nat) (f : Task → Task) (q : Nat) :
    ((s.updTask p l f).parcel q).containCause = (s.parcel q).containCause := by simp only [State.updTask, State.updReach_parcel]; split <;> simp_all
@[simp] theorem State.updTask_parcel_gen (p l : Nat) (f : Task → Task) (q : Nat) :
    ((s.updTask p l f).parcel q).gen = (s.parcel q).gen := by simp only [State.updTask, State.updReach_parcel]; split <;> simp_all
@[simp] theorem State.updTask_parcel_mem (p l : Nat) (f : Task → Task) (q : Nat) :
    ((s.updTask p l f).parcel q).mem = (s.parcel q).mem := by simp only [State.updTask, State.updReach_parcel]; split <;> simp_all
@[simp] theorem State.updTask_parcel_poison (p l : Nat) (f : Task → Task) (q : Nat) :
    ((s.updTask p l f).parcel q).poison = (s.parcel q).poison := by simp only [State.updTask, State.updReach_parcel]; split <;> simp_all
@[simp] theorem State.updTask_parcel_clusters (p l : Nat) (f : Task → Task) (q : Nat) :
    ((s.updTask p l f).parcel q).clusters = (s.parcel q).clusters := by simp only [State.updTask, State.updReach_parcel]; split <;> simp_all
@[simp] theorem State.updTask_parcel_region (p l : Nat) (f : Task → Task) (q : Nat) :
    ((s.updTask p l f).parcel q).region = (s.parcel q).region := by simp only [State.updTask, State.updReach_parcel]; split <;> simp_all
@[simp] theorem State.updTask_parcel_adds (p l : Nat) (f : Task → Task) (q : Nat) :
    ((s.updTask p l f).parcel q).adds = (s.parcel q).adds := by simp only [State.updTask, State.updReach_parcel]; split <;> simp_all
@[simp] theorem State.updTask_parcel_sums (p l : Nat) (f : Task → Task) (q : Nat) :
    ((s.updTask p l f).parcel q).sums = (s.parcel q).sums := by simp only [State.updTask, State.updReach_parcel]; split <;> simp_all
@[simp] theorem State.updTask_parcel_bar (p l : Nat) (f : Task → Task) (q : Nat) :
    ((s.updTask p l f).parcel q).bar = (s.parcel q).bar := by simp only [State.updTask, State.updReach_parcel]; split <;> simp_all
@[simp] theorem State.updTask_parcel_keys (p l : Nat) (f : Task → Task) (q : Nat) :
    ((s.updTask p l f).parcel q).keys = (s.parcel q).keys := by simp only [State.updTask, State.updReach_parcel]; split <;> simp_all
@[simp] theorem State.updTask_parcel_links (p l : Nat) (f : Task → Task) (q : Nat) :
    ((s.updTask p l f).parcel q).links = (s.parcel q).links := by simp only [State.updTask, State.updReach_parcel]; split <;> simp_all
@[simp] theorem State.updTask_parcel_wasReady (p l : Nat) (f : Task → Task) (q : Nat) :
    ((s.updTask p l f).parcel q).wasReady = (s.parcel q).wasReady := by simp only [State.updTask, State.updReach_parcel]; split <;> simp_all
@[simp] theorem State.updTask_parcel_fab (p l : Nat) (f : Task → Task) (q : Nat) :
    ((s.updTask p l f).parcel q).fab = (s.parcel q).fab := by simp only [State.updTask, State.updReach_parcel]; split <;> simp_all
@[simp] theorem State.updTask_parcel_mon (p l : Nat) (f : Task → Task) (q : Nat) :
    ((s.updTask p l f).parcel q).mon = (s.parcel q).mon := by simp only [State.updTask, State.updReach_parcel]; split <;> simp_all
@[simp] theorem State.updTask_parcel_pwr (p l : Nat) (f : Task → Task) (q : Nat) :
    ((s.updTask p l f).parcel q).pwr = (s.parcel q).pwr := by simp only [State.updTask, State.updReach_parcel]; split <;> simp_all
@[simp] theorem State.updTask_parcel_bank (p l : Nat) (f : Task → Task) (q : Nat) :
    ((s.updTask p l f).parcel q).bank = (s.parcel q).bank := by simp only [State.updTask, State.updReach_parcel]; split <;> simp_all
@[simp] theorem State.updTask_parcel_bankNew (p l : Nat) (f : Task → Task) (q : Nat) :
    ((s.updTask p l f).parcel q).bankNew = (s.parcel q).bankNew := by simp only [State.updTask, State.updReach_parcel]; split <;> simp_all
@[simp] theorem State.updTask_parcel_held (p l : Nat) (f : Task → Task) (q : Nat) :
    ((s.updTask p l f).parcel q).held = (s.parcel q).held := by simp only [State.updTask, State.updReach_parcel]; split <;> simp_all
@[simp] theorem State.updTask_parcel_latch (p l : Nat) (f : Task → Task) (q : Nat) :
    ((s.updTask p l f).parcel q).latch = (s.parcel q).latch := by simp only [State.updTask, State.updReach_parcel]; split <;> simp_all
@[simp] theorem State.updTask_parcel_cyc (p l : Nat) (f : Task → Task) (q : Nat) :
    ((s.updTask p l f).parcel q).cyc = (s.parcel q).cyc := by simp only [State.updTask, State.updReach_parcel]; split <;> simp_all
@[simp] theorem State.updCluster_parcel_state (p c : Nat) (f : Cluster → Cluster) (q : Nat) :
    ((s.updCluster p c f).parcel q).state = (s.parcel q).state := by simp only [State.updCluster_parcel]; split <;> simp_all
@[simp] theorem State.updCluster_parcel_containCause (p c : Nat) (f : Cluster → Cluster) (q : Nat) :
    ((s.updCluster p c f).parcel q).containCause = (s.parcel q).containCause := by simp only [State.updCluster_parcel]; split <;> simp_all
@[simp] theorem State.updCluster_parcel_gen (p c : Nat) (f : Cluster → Cluster) (q : Nat) :
    ((s.updCluster p c f).parcel q).gen = (s.parcel q).gen := by simp only [State.updCluster_parcel]; split <;> simp_all
@[simp] theorem State.updCluster_parcel_mem (p c : Nat) (f : Cluster → Cluster) (q : Nat) :
    ((s.updCluster p c f).parcel q).mem = (s.parcel q).mem := by simp only [State.updCluster_parcel]; split <;> simp_all
@[simp] theorem State.updCluster_parcel_poison (p c : Nat) (f : Cluster → Cluster) (q : Nat) :
    ((s.updCluster p c f).parcel q).poison = (s.parcel q).poison := by simp only [State.updCluster_parcel]; split <;> simp_all
@[simp] theorem State.updCluster_parcel_reaches (p c : Nat) (f : Cluster → Cluster) (q : Nat) :
    ((s.updCluster p c f).parcel q).reaches = (s.parcel q).reaches := by simp only [State.updCluster_parcel]; split <;> simp_all
@[simp] theorem State.updCluster_parcel_region (p c : Nat) (f : Cluster → Cluster) (q : Nat) :
    ((s.updCluster p c f).parcel q).region = (s.parcel q).region := by simp only [State.updCluster_parcel]; split <;> simp_all
@[simp] theorem State.updCluster_parcel_adds (p c : Nat) (f : Cluster → Cluster) (q : Nat) :
    ((s.updCluster p c f).parcel q).adds = (s.parcel q).adds := by simp only [State.updCluster_parcel]; split <;> simp_all
@[simp] theorem State.updCluster_parcel_sums (p c : Nat) (f : Cluster → Cluster) (q : Nat) :
    ((s.updCluster p c f).parcel q).sums = (s.parcel q).sums := by simp only [State.updCluster_parcel]; split <;> simp_all
@[simp] theorem State.updCluster_parcel_bar (p c : Nat) (f : Cluster → Cluster) (q : Nat) :
    ((s.updCluster p c f).parcel q).bar = (s.parcel q).bar := by simp only [State.updCluster_parcel]; split <;> simp_all
@[simp] theorem State.updCluster_parcel_keys (p c : Nat) (f : Cluster → Cluster) (q : Nat) :
    ((s.updCluster p c f).parcel q).keys = (s.parcel q).keys := by simp only [State.updCluster_parcel]; split <;> simp_all
@[simp] theorem State.updCluster_parcel_links (p c : Nat) (f : Cluster → Cluster) (q : Nat) :
    ((s.updCluster p c f).parcel q).links = (s.parcel q).links := by simp only [State.updCluster_parcel]; split <;> simp_all
@[simp] theorem State.updCluster_parcel_wasReady (p c : Nat) (f : Cluster → Cluster) (q : Nat) :
    ((s.updCluster p c f).parcel q).wasReady = (s.parcel q).wasReady := by simp only [State.updCluster_parcel]; split <;> simp_all
@[simp] theorem State.updCluster_parcel_fab (p c : Nat) (f : Cluster → Cluster) (q : Nat) :
    ((s.updCluster p c f).parcel q).fab = (s.parcel q).fab := by simp only [State.updCluster_parcel]; split <;> simp_all
@[simp] theorem State.updCluster_parcel_mon (p c : Nat) (f : Cluster → Cluster) (q : Nat) :
    ((s.updCluster p c f).parcel q).mon = (s.parcel q).mon := by simp only [State.updCluster_parcel]; split <;> simp_all
@[simp] theorem State.updCluster_parcel_pwr (p c : Nat) (f : Cluster → Cluster) (q : Nat) :
    ((s.updCluster p c f).parcel q).pwr = (s.parcel q).pwr := by simp only [State.updCluster_parcel]; split <;> simp_all
@[simp] theorem State.updCluster_parcel_bank (p c : Nat) (f : Cluster → Cluster) (q : Nat) :
    ((s.updCluster p c f).parcel q).bank = (s.parcel q).bank := by simp only [State.updCluster_parcel]; split <;> simp_all
@[simp] theorem State.updCluster_parcel_bankNew (p c : Nat) (f : Cluster → Cluster) (q : Nat) :
    ((s.updCluster p c f).parcel q).bankNew = (s.parcel q).bankNew := by simp only [State.updCluster_parcel]; split <;> simp_all
@[simp] theorem State.updCluster_parcel_held (p c : Nat) (f : Cluster → Cluster) (q : Nat) :
    ((s.updCluster p c f).parcel q).held = (s.parcel q).held := by simp only [State.updCluster_parcel]; split <;> simp_all
@[simp] theorem State.updCluster_parcel_latch (p c : Nat) (f : Cluster → Cluster) (q : Nat) :
    ((s.updCluster p c f).parcel q).latch = (s.parcel q).latch := by simp only [State.updCluster_parcel]; split <;> simp_all
@[simp] theorem State.updCluster_parcel_cyc (p c : Nat) (f : Cluster → Cluster) (q : Nat) :
    ((s.updCluster p c f).parcel q).cyc = (s.parcel q).cyc := by simp only [State.updCluster_parcel]; split <;> simp_all
@[simp] theorem State.updLink_parcel_state (p : Nat) (r : Port) (f : Link → Link) (q : Nat) :
    ((s.updLink p r f).parcel q).state = (s.parcel q).state := by simp only [State.updLink, State.updParcel_parcel]; split <;> simp_all
@[simp] theorem State.updLink_parcel_containCause (p : Nat) (r : Port) (f : Link → Link) (q : Nat) :
    ((s.updLink p r f).parcel q).containCause = (s.parcel q).containCause := by simp only [State.updLink, State.updParcel_parcel]; split <;> simp_all
@[simp] theorem State.updLink_parcel_gen (p : Nat) (r : Port) (f : Link → Link) (q : Nat) :
    ((s.updLink p r f).parcel q).gen = (s.parcel q).gen := by simp only [State.updLink, State.updParcel_parcel]; split <;> simp_all
@[simp] theorem State.updLink_parcel_mem (p : Nat) (r : Port) (f : Link → Link) (q : Nat) :
    ((s.updLink p r f).parcel q).mem = (s.parcel q).mem := by simp only [State.updLink, State.updParcel_parcel]; split <;> simp_all
@[simp] theorem State.updLink_parcel_poison (p : Nat) (r : Port) (f : Link → Link) (q : Nat) :
    ((s.updLink p r f).parcel q).poison = (s.parcel q).poison := by simp only [State.updLink, State.updParcel_parcel]; split <;> simp_all
@[simp] theorem State.updLink_parcel_reaches (p : Nat) (r : Port) (f : Link → Link) (q : Nat) :
    ((s.updLink p r f).parcel q).reaches = (s.parcel q).reaches := by simp only [State.updLink, State.updParcel_parcel]; split <;> simp_all
@[simp] theorem State.updLink_parcel_clusters (p : Nat) (r : Port) (f : Link → Link) (q : Nat) :
    ((s.updLink p r f).parcel q).clusters = (s.parcel q).clusters := by simp only [State.updLink, State.updParcel_parcel]; split <;> simp_all
@[simp] theorem State.updLink_parcel_region (p : Nat) (r : Port) (f : Link → Link) (q : Nat) :
    ((s.updLink p r f).parcel q).region = (s.parcel q).region := by simp only [State.updLink, State.updParcel_parcel]; split <;> simp_all
@[simp] theorem State.updLink_parcel_adds (p : Nat) (r : Port) (f : Link → Link) (q : Nat) :
    ((s.updLink p r f).parcel q).adds = (s.parcel q).adds := by simp only [State.updLink, State.updParcel_parcel]; split <;> simp_all
@[simp] theorem State.updLink_parcel_sums (p : Nat) (r : Port) (f : Link → Link) (q : Nat) :
    ((s.updLink p r f).parcel q).sums = (s.parcel q).sums := by simp only [State.updLink, State.updParcel_parcel]; split <;> simp_all
@[simp] theorem State.updLink_parcel_bar (p : Nat) (r : Port) (f : Link → Link) (q : Nat) :
    ((s.updLink p r f).parcel q).bar = (s.parcel q).bar := by simp only [State.updLink, State.updParcel_parcel]; split <;> simp_all
@[simp] theorem State.updLink_parcel_keys (p : Nat) (r : Port) (f : Link → Link) (q : Nat) :
    ((s.updLink p r f).parcel q).keys = (s.parcel q).keys := by simp only [State.updLink, State.updParcel_parcel]; split <;> simp_all
@[simp] theorem State.updLink_parcel_wasReady (p : Nat) (r : Port) (f : Link → Link) (q : Nat) :
    ((s.updLink p r f).parcel q).wasReady = (s.parcel q).wasReady := by simp only [State.updLink, State.updParcel_parcel]; split <;> simp_all
@[simp] theorem State.updLink_parcel_fab (p : Nat) (r : Port) (f : Link → Link) (q : Nat) :
    ((s.updLink p r f).parcel q).fab = (s.parcel q).fab := by simp only [State.updLink, State.updParcel_parcel]; split <;> simp_all
@[simp] theorem State.updLink_parcel_mon (p : Nat) (r : Port) (f : Link → Link) (q : Nat) :
    ((s.updLink p r f).parcel q).mon = (s.parcel q).mon := by simp only [State.updLink, State.updParcel_parcel]; split <;> simp_all
@[simp] theorem State.updLink_parcel_pwr (p : Nat) (r : Port) (f : Link → Link) (q : Nat) :
    ((s.updLink p r f).parcel q).pwr = (s.parcel q).pwr := by simp only [State.updLink, State.updParcel_parcel]; split <;> simp_all
@[simp] theorem State.updLink_parcel_bank (p : Nat) (r : Port) (f : Link → Link) (q : Nat) :
    ((s.updLink p r f).parcel q).bank = (s.parcel q).bank := by simp only [State.updLink, State.updParcel_parcel]; split <;> simp_all
@[simp] theorem State.updLink_parcel_bankNew (p : Nat) (r : Port) (f : Link → Link) (q : Nat) :
    ((s.updLink p r f).parcel q).bankNew = (s.parcel q).bankNew := by simp only [State.updLink, State.updParcel_parcel]; split <;> simp_all
@[simp] theorem State.updLink_parcel_held (p : Nat) (r : Port) (f : Link → Link) (q : Nat) :
    ((s.updLink p r f).parcel q).held = (s.parcel q).held := by simp only [State.updLink, State.updParcel_parcel]; split <;> simp_all
@[simp] theorem State.updLink_parcel_latch (p : Nat) (r : Port) (f : Link → Link) (q : Nat) :
    ((s.updLink p r f).parcel q).latch = (s.parcel q).latch := by simp only [State.updLink, State.updParcel_parcel]; split <;> simp_all
@[simp] theorem State.updLink_parcel_cyc (p : Nat) (r : Port) (f : Link → Link) (q : Nat) :
    ((s.updLink p r f).parcel q).cyc = (s.parcel q).cyc := by simp only [State.updLink, State.updParcel_parcel]; split <;> simp_all
@[simp] theorem State.updMon_parcel_state (p : Nat) (f : Monitors → Monitors) (q : Nat) :
    ((s.updMon p f).parcel q).state = (s.parcel q).state := by simp only [State.updMon, State.updParcel_parcel]; split <;> simp_all
@[simp] theorem State.updMon_parcel_containCause (p : Nat) (f : Monitors → Monitors) (q : Nat) :
    ((s.updMon p f).parcel q).containCause = (s.parcel q).containCause := by simp only [State.updMon, State.updParcel_parcel]; split <;> simp_all
@[simp] theorem State.updMon_parcel_gen (p : Nat) (f : Monitors → Monitors) (q : Nat) :
    ((s.updMon p f).parcel q).gen = (s.parcel q).gen := by simp only [State.updMon, State.updParcel_parcel]; split <;> simp_all
@[simp] theorem State.updMon_parcel_mem (p : Nat) (f : Monitors → Monitors) (q : Nat) :
    ((s.updMon p f).parcel q).mem = (s.parcel q).mem := by simp only [State.updMon, State.updParcel_parcel]; split <;> simp_all
@[simp] theorem State.updMon_parcel_poison (p : Nat) (f : Monitors → Monitors) (q : Nat) :
    ((s.updMon p f).parcel q).poison = (s.parcel q).poison := by simp only [State.updMon, State.updParcel_parcel]; split <;> simp_all
@[simp] theorem State.updMon_parcel_reaches (p : Nat) (f : Monitors → Monitors) (q : Nat) :
    ((s.updMon p f).parcel q).reaches = (s.parcel q).reaches := by simp only [State.updMon, State.updParcel_parcel]; split <;> simp_all
@[simp] theorem State.updMon_parcel_clusters (p : Nat) (f : Monitors → Monitors) (q : Nat) :
    ((s.updMon p f).parcel q).clusters = (s.parcel q).clusters := by simp only [State.updMon, State.updParcel_parcel]; split <;> simp_all
@[simp] theorem State.updMon_parcel_region (p : Nat) (f : Monitors → Monitors) (q : Nat) :
    ((s.updMon p f).parcel q).region = (s.parcel q).region := by simp only [State.updMon, State.updParcel_parcel]; split <;> simp_all
@[simp] theorem State.updMon_parcel_adds (p : Nat) (f : Monitors → Monitors) (q : Nat) :
    ((s.updMon p f).parcel q).adds = (s.parcel q).adds := by simp only [State.updMon, State.updParcel_parcel]; split <;> simp_all
@[simp] theorem State.updMon_parcel_sums (p : Nat) (f : Monitors → Monitors) (q : Nat) :
    ((s.updMon p f).parcel q).sums = (s.parcel q).sums := by simp only [State.updMon, State.updParcel_parcel]; split <;> simp_all
@[simp] theorem State.updMon_parcel_bar (p : Nat) (f : Monitors → Monitors) (q : Nat) :
    ((s.updMon p f).parcel q).bar = (s.parcel q).bar := by simp only [State.updMon, State.updParcel_parcel]; split <;> simp_all
@[simp] theorem State.updMon_parcel_keys (p : Nat) (f : Monitors → Monitors) (q : Nat) :
    ((s.updMon p f).parcel q).keys = (s.parcel q).keys := by simp only [State.updMon, State.updParcel_parcel]; split <;> simp_all
@[simp] theorem State.updMon_parcel_links (p : Nat) (f : Monitors → Monitors) (q : Nat) :
    ((s.updMon p f).parcel q).links = (s.parcel q).links := by simp only [State.updMon, State.updParcel_parcel]; split <;> simp_all
@[simp] theorem State.updMon_parcel_wasReady (p : Nat) (f : Monitors → Monitors) (q : Nat) :
    ((s.updMon p f).parcel q).wasReady = (s.parcel q).wasReady := by simp only [State.updMon, State.updParcel_parcel]; split <;> simp_all
@[simp] theorem State.updMon_parcel_fab (p : Nat) (f : Monitors → Monitors) (q : Nat) :
    ((s.updMon p f).parcel q).fab = (s.parcel q).fab := by simp only [State.updMon, State.updParcel_parcel]; split <;> simp_all
@[simp] theorem State.updMon_parcel_pwr (p : Nat) (f : Monitors → Monitors) (q : Nat) :
    ((s.updMon p f).parcel q).pwr = (s.parcel q).pwr := by simp only [State.updMon, State.updParcel_parcel]; split <;> simp_all
@[simp] theorem State.updMon_parcel_bank (p : Nat) (f : Monitors → Monitors) (q : Nat) :
    ((s.updMon p f).parcel q).bank = (s.parcel q).bank := by simp only [State.updMon, State.updParcel_parcel]; split <;> simp_all
@[simp] theorem State.updMon_parcel_bankNew (p : Nat) (f : Monitors → Monitors) (q : Nat) :
    ((s.updMon p f).parcel q).bankNew = (s.parcel q).bankNew := by simp only [State.updMon, State.updParcel_parcel]; split <;> simp_all
@[simp] theorem State.updMon_parcel_held (p : Nat) (f : Monitors → Monitors) (q : Nat) :
    ((s.updMon p f).parcel q).held = (s.parcel q).held := by simp only [State.updMon, State.updParcel_parcel]; split <;> simp_all
@[simp] theorem State.updMon_parcel_latch (p : Nat) (f : Monitors → Monitors) (q : Nat) :
    ((s.updMon p f).parcel q).latch = (s.parcel q).latch := by simp only [State.updMon, State.updParcel_parcel]; split <;> simp_all
@[simp] theorem State.updMon_parcel_cyc (p : Nat) (f : Monitors → Monitors) (q : Nat) :
    ((s.updMon p f).parcel q).cyc = (s.parcel q).cyc := by simp only [State.updMon, State.updParcel_parcel]; split <;> simp_all
@[simp] theorem State.updFab_parcel_state (p : Nat) (f : Fabric → Fabric) (q : Nat) :
    ((s.updFab p f).parcel q).state = (s.parcel q).state := by simp only [State.updFab, State.updParcel_parcel]; split <;> simp_all
@[simp] theorem State.updFab_parcel_containCause (p : Nat) (f : Fabric → Fabric) (q : Nat) :
    ((s.updFab p f).parcel q).containCause = (s.parcel q).containCause := by simp only [State.updFab, State.updParcel_parcel]; split <;> simp_all
@[simp] theorem State.updFab_parcel_gen (p : Nat) (f : Fabric → Fabric) (q : Nat) :
    ((s.updFab p f).parcel q).gen = (s.parcel q).gen := by simp only [State.updFab, State.updParcel_parcel]; split <;> simp_all
@[simp] theorem State.updFab_parcel_mem (p : Nat) (f : Fabric → Fabric) (q : Nat) :
    ((s.updFab p f).parcel q).mem = (s.parcel q).mem := by simp only [State.updFab, State.updParcel_parcel]; split <;> simp_all
@[simp] theorem State.updFab_parcel_poison (p : Nat) (f : Fabric → Fabric) (q : Nat) :
    ((s.updFab p f).parcel q).poison = (s.parcel q).poison := by simp only [State.updFab, State.updParcel_parcel]; split <;> simp_all
@[simp] theorem State.updFab_parcel_reaches (p : Nat) (f : Fabric → Fabric) (q : Nat) :
    ((s.updFab p f).parcel q).reaches = (s.parcel q).reaches := by simp only [State.updFab, State.updParcel_parcel]; split <;> simp_all
@[simp] theorem State.updFab_parcel_clusters (p : Nat) (f : Fabric → Fabric) (q : Nat) :
    ((s.updFab p f).parcel q).clusters = (s.parcel q).clusters := by simp only [State.updFab, State.updParcel_parcel]; split <;> simp_all
@[simp] theorem State.updFab_parcel_region (p : Nat) (f : Fabric → Fabric) (q : Nat) :
    ((s.updFab p f).parcel q).region = (s.parcel q).region := by simp only [State.updFab, State.updParcel_parcel]; split <;> simp_all
@[simp] theorem State.updFab_parcel_adds (p : Nat) (f : Fabric → Fabric) (q : Nat) :
    ((s.updFab p f).parcel q).adds = (s.parcel q).adds := by simp only [State.updFab, State.updParcel_parcel]; split <;> simp_all
@[simp] theorem State.updFab_parcel_sums (p : Nat) (f : Fabric → Fabric) (q : Nat) :
    ((s.updFab p f).parcel q).sums = (s.parcel q).sums := by simp only [State.updFab, State.updParcel_parcel]; split <;> simp_all
@[simp] theorem State.updFab_parcel_bar (p : Nat) (f : Fabric → Fabric) (q : Nat) :
    ((s.updFab p f).parcel q).bar = (s.parcel q).bar := by simp only [State.updFab, State.updParcel_parcel]; split <;> simp_all
@[simp] theorem State.updFab_parcel_keys (p : Nat) (f : Fabric → Fabric) (q : Nat) :
    ((s.updFab p f).parcel q).keys = (s.parcel q).keys := by simp only [State.updFab, State.updParcel_parcel]; split <;> simp_all
@[simp] theorem State.updFab_parcel_links (p : Nat) (f : Fabric → Fabric) (q : Nat) :
    ((s.updFab p f).parcel q).links = (s.parcel q).links := by simp only [State.updFab, State.updParcel_parcel]; split <;> simp_all
@[simp] theorem State.updFab_parcel_wasReady (p : Nat) (f : Fabric → Fabric) (q : Nat) :
    ((s.updFab p f).parcel q).wasReady = (s.parcel q).wasReady := by simp only [State.updFab, State.updParcel_parcel]; split <;> simp_all
@[simp] theorem State.updFab_parcel_mon (p : Nat) (f : Fabric → Fabric) (q : Nat) :
    ((s.updFab p f).parcel q).mon = (s.parcel q).mon := by simp only [State.updFab, State.updParcel_parcel]; split <;> simp_all
@[simp] theorem State.updFab_parcel_pwr (p : Nat) (f : Fabric → Fabric) (q : Nat) :
    ((s.updFab p f).parcel q).pwr = (s.parcel q).pwr := by simp only [State.updFab, State.updParcel_parcel]; split <;> simp_all
@[simp] theorem State.updFab_parcel_bank (p : Nat) (f : Fabric → Fabric) (q : Nat) :
    ((s.updFab p f).parcel q).bank = (s.parcel q).bank := by simp only [State.updFab, State.updParcel_parcel]; split <;> simp_all
@[simp] theorem State.updFab_parcel_bankNew (p : Nat) (f : Fabric → Fabric) (q : Nat) :
    ((s.updFab p f).parcel q).bankNew = (s.parcel q).bankNew := by simp only [State.updFab, State.updParcel_parcel]; split <;> simp_all
@[simp] theorem State.updFab_parcel_held (p : Nat) (f : Fabric → Fabric) (q : Nat) :
    ((s.updFab p f).parcel q).held = (s.parcel q).held := by simp only [State.updFab, State.updParcel_parcel]; split <;> simp_all
@[simp] theorem State.updFab_parcel_latch (p : Nat) (f : Fabric → Fabric) (q : Nat) :
    ((s.updFab p f).parcel q).latch = (s.parcel q).latch := by simp only [State.updFab, State.updParcel_parcel]; split <;> simp_all
@[simp] theorem State.updFab_parcel_cyc (p : Nat) (f : Fabric → Fabric) (q : Nat) :
    ((s.updFab p f).parcel q).cyc = (s.parcel q).cyc := by simp only [State.updFab, State.updParcel_parcel]; split <;> simp_all
@[simp] theorem State.updPwr_parcel_state (p : Nat) (f : Power → Power) (q : Nat) :
    ((s.updPwr p f).parcel q).state = (s.parcel q).state := by simp only [State.updPwr, State.updParcel_parcel]; split <;> simp_all
@[simp] theorem State.updPwr_parcel_containCause (p : Nat) (f : Power → Power) (q : Nat) :
    ((s.updPwr p f).parcel q).containCause = (s.parcel q).containCause := by simp only [State.updPwr, State.updParcel_parcel]; split <;> simp_all
@[simp] theorem State.updPwr_parcel_gen (p : Nat) (f : Power → Power) (q : Nat) :
    ((s.updPwr p f).parcel q).gen = (s.parcel q).gen := by simp only [State.updPwr, State.updParcel_parcel]; split <;> simp_all
@[simp] theorem State.updPwr_parcel_mem (p : Nat) (f : Power → Power) (q : Nat) :
    ((s.updPwr p f).parcel q).mem = (s.parcel q).mem := by simp only [State.updPwr, State.updParcel_parcel]; split <;> simp_all
@[simp] theorem State.updPwr_parcel_poison (p : Nat) (f : Power → Power) (q : Nat) :
    ((s.updPwr p f).parcel q).poison = (s.parcel q).poison := by simp only [State.updPwr, State.updParcel_parcel]; split <;> simp_all
@[simp] theorem State.updPwr_parcel_reaches (p : Nat) (f : Power → Power) (q : Nat) :
    ((s.updPwr p f).parcel q).reaches = (s.parcel q).reaches := by simp only [State.updPwr, State.updParcel_parcel]; split <;> simp_all
@[simp] theorem State.updPwr_parcel_clusters (p : Nat) (f : Power → Power) (q : Nat) :
    ((s.updPwr p f).parcel q).clusters = (s.parcel q).clusters := by simp only [State.updPwr, State.updParcel_parcel]; split <;> simp_all
@[simp] theorem State.updPwr_parcel_region (p : Nat) (f : Power → Power) (q : Nat) :
    ((s.updPwr p f).parcel q).region = (s.parcel q).region := by simp only [State.updPwr, State.updParcel_parcel]; split <;> simp_all
@[simp] theorem State.updPwr_parcel_adds (p : Nat) (f : Power → Power) (q : Nat) :
    ((s.updPwr p f).parcel q).adds = (s.parcel q).adds := by simp only [State.updPwr, State.updParcel_parcel]; split <;> simp_all
@[simp] theorem State.updPwr_parcel_sums (p : Nat) (f : Power → Power) (q : Nat) :
    ((s.updPwr p f).parcel q).sums = (s.parcel q).sums := by simp only [State.updPwr, State.updParcel_parcel]; split <;> simp_all
@[simp] theorem State.updPwr_parcel_bar (p : Nat) (f : Power → Power) (q : Nat) :
    ((s.updPwr p f).parcel q).bar = (s.parcel q).bar := by simp only [State.updPwr, State.updParcel_parcel]; split <;> simp_all
@[simp] theorem State.updPwr_parcel_keys (p : Nat) (f : Power → Power) (q : Nat) :
    ((s.updPwr p f).parcel q).keys = (s.parcel q).keys := by simp only [State.updPwr, State.updParcel_parcel]; split <;> simp_all
@[simp] theorem State.updPwr_parcel_links (p : Nat) (f : Power → Power) (q : Nat) :
    ((s.updPwr p f).parcel q).links = (s.parcel q).links := by simp only [State.updPwr, State.updParcel_parcel]; split <;> simp_all
@[simp] theorem State.updPwr_parcel_wasReady (p : Nat) (f : Power → Power) (q : Nat) :
    ((s.updPwr p f).parcel q).wasReady = (s.parcel q).wasReady := by simp only [State.updPwr, State.updParcel_parcel]; split <;> simp_all
@[simp] theorem State.updPwr_parcel_fab (p : Nat) (f : Power → Power) (q : Nat) :
    ((s.updPwr p f).parcel q).fab = (s.parcel q).fab := by simp only [State.updPwr, State.updParcel_parcel]; split <;> simp_all
@[simp] theorem State.updPwr_parcel_mon (p : Nat) (f : Power → Power) (q : Nat) :
    ((s.updPwr p f).parcel q).mon = (s.parcel q).mon := by simp only [State.updPwr, State.updParcel_parcel]; split <;> simp_all
@[simp] theorem State.updPwr_parcel_bank (p : Nat) (f : Power → Power) (q : Nat) :
    ((s.updPwr p f).parcel q).bank = (s.parcel q).bank := by simp only [State.updPwr, State.updParcel_parcel]; split <;> simp_all
@[simp] theorem State.updPwr_parcel_bankNew (p : Nat) (f : Power → Power) (q : Nat) :
    ((s.updPwr p f).parcel q).bankNew = (s.parcel q).bankNew := by simp only [State.updPwr, State.updParcel_parcel]; split <;> simp_all
@[simp] theorem State.updPwr_parcel_held (p : Nat) (f : Power → Power) (q : Nat) :
    ((s.updPwr p f).parcel q).held = (s.parcel q).held := by simp only [State.updPwr, State.updParcel_parcel]; split <;> simp_all
@[simp] theorem State.updPwr_parcel_latch (p : Nat) (f : Power → Power) (q : Nat) :
    ((s.updPwr p f).parcel q).latch = (s.parcel q).latch := by simp only [State.updPwr, State.updParcel_parcel]; split <;> simp_all
@[simp] theorem State.updPwr_parcel_cyc (p : Nat) (f : Power → Power) (q : Nat) :
    ((s.updPwr p f).parcel q).cyc = (s.parcel q).cyc := by simp only [State.updPwr, State.updParcel_parcel]; split <;> simp_all
@[simp] theorem State.updReach_cluster (p l : Nat) (f : Reach → Reach) (q m : Nat) : (s.updReach p l f).cluster q m = s.cluster q m := by
  simp [State.cluster]
@[simp] theorem State.updReach_link (p l : Nat) (f : Reach → Reach) (q : Nat) (m : Port) : (s.updReach p l f).link q m = s.link q m := by
  simp [State.link]
@[simp] theorem State.updTask_cluster (p l : Nat) (f : Task → Task) (q m : Nat) : (s.updTask p l f).cluster q m = s.cluster q m := by
  simp [State.cluster]
@[simp] theorem State.updTask_link (p l : Nat) (f : Task → Task) (q : Nat) (m : Port) : (s.updTask p l f).link q m = s.link q m := by
  simp [State.link]
@[simp] theorem State.updCluster_reach (p c : Nat) (f : Cluster → Cluster) (q m : Nat) : (s.updCluster p c f).reach q m = s.reach q m := by
  simp [State.reach]
@[simp] theorem State.updCluster_link (p c : Nat) (f : Cluster → Cluster) (q : Nat) (m : Port) : (s.updCluster p c f).link q m = s.link q m := by
  simp [State.link]
@[simp] theorem State.updLink_reach (p : Nat) (r : Port) (f : Link → Link) (q m : Nat) : (s.updLink p r f).reach q m = s.reach q m := by
  simp [State.reach]
@[simp] theorem State.updLink_cluster (p : Nat) (r : Port) (f : Link → Link) (q m : Nat) : (s.updLink p r f).cluster q m = s.cluster q m := by
  simp [State.cluster]
@[simp] theorem State.updMon_reach (p : Nat) (f : Monitors → Monitors) (q m : Nat) : (s.updMon p f).reach q m = s.reach q m := by
  simp [State.reach]
@[simp] theorem State.updMon_cluster (p : Nat) (f : Monitors → Monitors) (q m : Nat) : (s.updMon p f).cluster q m = s.cluster q m := by
  simp [State.cluster]
@[simp] theorem State.updMon_link (p : Nat) (f : Monitors → Monitors) (q : Nat) (m : Port) : (s.updMon p f).link q m = s.link q m := by
  simp [State.link]
@[simp] theorem State.updFab_reach (p : Nat) (f : Fabric → Fabric) (q m : Nat) : (s.updFab p f).reach q m = s.reach q m := by
  simp [State.reach]
@[simp] theorem State.updFab_cluster (p : Nat) (f : Fabric → Fabric) (q m : Nat) : (s.updFab p f).cluster q m = s.cluster q m := by
  simp [State.cluster]
@[simp] theorem State.updFab_link (p : Nat) (f : Fabric → Fabric) (q : Nat) (m : Port) : (s.updFab p f).link q m = s.link q m := by
  simp [State.link]
@[simp] theorem State.updPwr_reach (p : Nat) (f : Power → Power) (q m : Nat) : (s.updPwr p f).reach q m = s.reach q m := by
  simp [State.reach]
@[simp] theorem State.updPwr_cluster (p : Nat) (f : Power → Power) (q m : Nat) : (s.updPwr p f).cluster q m = s.cluster q m := by
  simp [State.cluster]
@[simp] theorem State.updPwr_link (p : Nat) (f : Power → Power) (q : Nat) (m : Port) : (s.updPwr p f).link q m = s.link q m := by
  simp [State.link]
@[simp] theorem State.updMon_mon_same (p : Nat) (f : Monitors → Monitors) : ((s.updMon p f).parcel p).mon = f (s.parcel p).mon := by
  simp [State.updMon]
@[simp] theorem State.updFab_fab_same (p : Nat) (f : Fabric → Fabric) : ((s.updFab p f).parcel p).fab = f (s.parcel p).fab := by
  simp [State.updFab]
@[simp] theorem State.updPwr_pwr_same (p : Nat) (f : Power → Power) : ((s.updPwr p f).parcel p).pwr = f (s.parcel p).pwr := by
  simp [State.updPwr]

end Sys2Proof.Machine
end

