-- ==== Sys2Proof/Laws/Ops.lean ====
section
/-!
SUPPORT. What the shared operations can do, said once: interrupts, counters, scalar registers, and the byte memories with
their poison.
-/

namespace Sys2Proof.Machine

/-! ### Interrupts -/

/-- An MSI-X message changes the host port alone. -/
theorem msix_eq (s : State) (fn v : Nat) : ∃ f, msix s fn v = s.updPort f := ⟨_, rfl⟩

@[simp] theorem msix_reach (s : State) (fn v p l : Nat) : (msix s fn v).reach p l = s.reach p l := rfl
@[simp] theorem msix_cluster (s : State) (fn v p c : Nat) : (msix s fn v).cluster p c = s.cluster p c := rfl
@[simp] theorem msix_parcels (s : State) (fn v : Nat) : (msix s fn v).parcels = s.parcels := rfl
@[simp] theorem msix_book (s : State) (fn v : Nat) : (msix s fn v).book = s.book := rfl
@[simp] theorem msix_datum (s : State) (fn v : Nat) : (msix s fn v).datum = s.datum := rfl
@[simp] theorem msix_stay (s : State) (fn v : Nat) : (msix s fn v).stay = s.stay := rfl
@[simp] theorem msix_pending (s : State) (fn v : Nat) : (msix s fn v).pending = s.pending := rfl
@[simp] theorem msix_phase (s : State) (fn v : Nat) : (msix s fn v).phase = s.phase := rfl
@[simp] theorem msix_wall (s : State) (fn v : Nat) : (msix s fn v).wall = s.wall := rfl

/-- An interrupt of a parcel sets its status bit and, by the host port, sends at most a message. -/
theorem setInt_cases (s : State) (p n : Nat) :
    (∃ b, setInt s p n = (s.updMon p (fun m => { m with intStat := putBit m.intStat n true })).mark b) ∨
    ∃ b, setInt s p n = msix ((s.updMon p (fun m => { m with intStat := putBit m.intStat n true })).mark b) (p + 1) n := by
  by_cases h : (bvb (s.parcel p).mon.intEn n && !bvb (s.parcel p).mon.intStat n) = true
  · exact .inr ⟨_, if_pos h⟩
  · exact .inl ⟨_, if_neg h⟩

/-- An interrupt of the hub sets its status bit and sends at most a message. -/
theorem setHubInt_cases (s : State) (n : Nat) :
    (∃ b, setHubInt s n = (s.updPort (fun h => { h with intStat := putBit h.intStat n true })).mark b) ∨
    ∃ b, setHubInt s n = msix ((s.updPort (fun h => { h with intStat := putBit h.intStat n true })).mark b) 0 n := by
  by_cases h : (bvb s.hub.port.intEn n && !bvb s.hub.port.intStat n) = true
  · exact .inr ⟨_, if_pos h⟩
  · exact .inl ⟨_, if_neg h⟩

@[simp] theorem setInt_reach (s : State) (p n q l : Nat) : (setInt s p n).reach q l = s.reach q l := by
  rcases setInt_cases s p n with ⟨_, h⟩ | ⟨_, h⟩ <;> rw [h] <;> simp
@[simp] theorem setInt_cluster (s : State) (p n q c : Nat) : (setInt s p n).cluster q c = s.cluster q c := by
  rcases setInt_cases s p n with ⟨_, h⟩ | ⟨_, h⟩ <;> rw [h] <;> simp
@[simp] theorem setInt_book (s : State) (p n : Nat) : (setInt s p n).book = s.book := by
  rcases setInt_cases s p n with ⟨_, h⟩ | ⟨_, h⟩ <;> (rw [h]; rfl)
@[simp] theorem setInt_datum (s : State) (p n : Nat) : (setInt s p n).datum = s.datum := by
  rcases setInt_cases s p n with ⟨_, h⟩ | ⟨_, h⟩ <;> (rw [h]; rfl)
@[simp] theorem setInt_stay (s : State) (p n : Nat) : (setInt s p n).stay = s.stay := by
  rcases setInt_cases s p n with ⟨_, h⟩ | ⟨_, h⟩ <;> (rw [h]; rfl)
@[simp] theorem setInt_pending (s : State) (p n : Nat) : (setInt s p n).pending = s.pending := by
  rcases setInt_cases s p n with ⟨_, h⟩ | ⟨_, h⟩ <;> (rw [h]; rfl)
@[simp] theorem setInt_phase (s : State) (p n : Nat) : (setInt s p n).phase = s.phase := by
  rcases setInt_cases s p n with ⟨_, h⟩ | ⟨_, h⟩ <;> (rw [h]; rfl)
@[simp] theorem setInt_wall (s : State) (p n : Nat) : (setInt s p n).wall = s.wall := by
  rcases setInt_cases s p n with ⟨_, h⟩ | ⟨_, h⟩ <;> (rw [h]; rfl)
@[simp] theorem setHubInt_parcels (s : State) (n : Nat) : (setHubInt s n).parcels = s.parcels := by
  rcases setHubInt_cases s n with ⟨_, h⟩ | ⟨_, h⟩ <;> (rw [h]; rfl)
@[simp] theorem setHubInt_book (s : State) (n : Nat) : (setHubInt s n).book = s.book := by
  rcases setHubInt_cases s n with ⟨_, h⟩ | ⟨_, h⟩ <;> (rw [h]; rfl)
@[simp] theorem setHubInt_datum (s : State) (n : Nat) : (setHubInt s n).datum = s.datum := by
  rcases setHubInt_cases s n with ⟨_, h⟩ | ⟨_, h⟩ <;> (rw [h]; rfl)
@[simp] theorem setHubInt_pending (s : State) (n : Nat) : (setHubInt s n).pending = s.pending := by
  rcases setHubInt_cases s n with ⟨_, h⟩ | ⟨_, h⟩ <;> (rw [h]; rfl)

/-! ### Counters -/

/-- Counting in a reach changes its counters alone, and nothing else of the package. -/
theorem bumpCnt_cases (s : State) (p l k n : Nat) :
    bumpCnt s p l k n = s ∨
    bumpCnt s p l k n = s.updReach p l (fun r => { r with cnt := cntBump r.cnt k n, cntInc := incBump r.cntInc k n }) := by
  unfold bumpCnt
  split
  · exact .inl rfl
  · exact .inr rfl

/-- Every field of a reach but its counters survives a count. -/
theorem bumpCnt_reach (s : State) (p l k n q m : Nat) :
    (bumpCnt s p l k n).reach q m = { s.reach q m with
      cnt := ((bumpCnt s p l k n).reach q m).cnt, cntInc := ((bumpCnt s p l k n).reach q m).cntInc } := by
  rcases bumpCnt_cases s p l k n with h | h
  · rw [h]
  · rw [h, State.updReach_reach]
    split
    · next h => obtain ⟨rfl, rfl⟩ := h; rfl
    · rfl

/-- A count changes no other reach. -/
theorem bumpCnt_reach_other (s : State) (p l k n q m : Nat) (h : ¬ (q = p ∧ m = l)) :
    (bumpCnt s p l k n).reach q m = s.reach q m := by
  rcases bumpCnt_cases s p l k n with e | e
  · rw [e]
  · rw [e, State.updReach_reach, if_neg h]

@[simp] theorem bumpCnt_book (s : State) (p l k n : Nat) : (bumpCnt s p l k n).book = s.book := by
  rcases bumpCnt_cases s p l k n with h | h
  · rw [h]
  · rw [h]; rfl
@[simp] theorem bumpCnt_datum (s : State) (p l k n : Nat) : (bumpCnt s p l k n).datum = s.datum := by
  rcases bumpCnt_cases s p l k n with h | h
  · rw [h]
  · rw [h]; rfl
@[simp] theorem bumpCnt_hub (s : State) (p l k n : Nat) : (bumpCnt s p l k n).hub = s.hub := by
  rcases bumpCnt_cases s p l k n with h | h
  · rw [h]
  · rw [h]; rfl
@[simp] theorem bumpCnt_pending (s : State) (p l k n : Nat) : (bumpCnt s p l k n).pending = s.pending := by
  rcases bumpCnt_cases s p l k n with h | h
  · rw [h]
  · rw [h]; rfl
@[simp] theorem bumpCnt_cluster (s : State) (p l k n q c : Nat) : (bumpCnt s p l k n).cluster q c = s.cluster q c := by
  rcases bumpCnt_cases s p l k n with h | h <;> rw [h] <;> simp

@[simp] theorem bumpCnt_upsets (s : State) (p l k n : Nat) : (bumpCnt s p l k n).upsets = s.upsets := by
  rcases bumpCnt_cases s p l k n with h | h
  · rw [h]
  · rw [h]; rfl
@[simp] theorem bumpCnt_posted (s : State) (p l k n : Nat) : (bumpCnt s p l k n).posted = s.posted := by
  rcases bumpCnt_cases s p l k n with h | h
  · rw [h]
  · rw [h]; rfl

@[simp] theorem bumpPcnt_datum (s : State) (p k n : Nat) : (bumpPcnt s p k n).datum = s.datum := by
  unfold bumpPcnt; split <;> rfl
@[simp] theorem bumpPcnt_book (s : State) (p k n : Nat) : (bumpPcnt s p k n).book = s.book := by
  unfold bumpPcnt; split <;> rfl
@[simp] theorem bumpPcnt_stay (s : State) (p k n : Nat) : (bumpPcnt s p k n).stay = s.stay := by
  unfold bumpPcnt; split <;> rfl
@[simp] theorem bumpPcnt_hub (s : State) (p k n : Nat) : (bumpPcnt s p k n).hub = s.hub := by
  unfold bumpPcnt; split <;> rfl
@[simp] theorem bumpPcnt_pending (s : State) (p k n : Nat) : (bumpPcnt s p k n).pending = s.pending := by
  unfold bumpPcnt; split <;> rfl
@[simp] theorem bumpPcnt_phase (s : State) (p k n : Nat) : (bumpPcnt s p k n).phase = s.phase := by
  unfold bumpPcnt; split <;> rfl
@[simp] theorem bumpPcnt_wall (s : State) (p k n : Nat) : (bumpPcnt s p k n).wall = s.wall := by
  unfold bumpPcnt; split <;> rfl
@[simp] theorem bumpPcnt_free (s : State) (p k n : Nat) : (bumpPcnt s p k n).free = s.free := by
  unfold bumpPcnt; split <;> rfl
@[simp] theorem bumpPcnt_upsets (s : State) (p k n : Nat) : (bumpPcnt s p k n).upsets = s.upsets := by
  unfold bumpPcnt; split <;> rfl
@[simp] theorem bumpPcnt_posted (s : State) (p k n : Nat) : (bumpPcnt s p k n).posted = s.posted := by
  unfold bumpPcnt; split <;> rfl
@[simp] theorem bumpPcnt_hwSet (s : State) (p k n : Nat) : (bumpPcnt s p k n).hwSet = s.hwSet := by
  unfold bumpPcnt; split <;> rfl
@[simp] theorem bumpPcnt_reach (s : State) (p k n q m : Nat) : (bumpPcnt s p k n).reach q m = s.reach q m := by
  unfold bumpPcnt; split <;> simp
@[simp] theorem bumpPcnt_cluster (s : State) (p k n q m : Nat) : (bumpPcnt s p k n).cluster q m = s.cluster q m := by
  unfold bumpPcnt; split <;> simp
@[simp] theorem bumpPcnt_link (s : State) (p k n q : Nat) (m : Port) : (bumpPcnt s p k n).link q m = s.link q m := by
  unfold bumpPcnt; split <;> simp
@[simp] theorem bumpPcnt_parcel_state (s : State) (p k n q : Nat) :
    ((bumpPcnt s p k n).parcel q).state = (s.parcel q).state := by
  unfold bumpPcnt; split <;> simp
@[simp] theorem bumpPcnt_parcel_mem (s : State) (p k n q : Nat) :
    ((bumpPcnt s p k n).parcel q).mem = (s.parcel q).mem := by
  unfold bumpPcnt; split <;> simp
@[simp] theorem bumpPcnt_parcel_poison (s : State) (p k n q : Nat) :
    ((bumpPcnt s p k n).parcel q).poison = (s.parcel q).poison := by
  unfold bumpPcnt; split <;> simp
@[simp] theorem bumpPcnt_parcel_region (s : State) (p k n q : Nat) :
    ((bumpPcnt s p k n).parcel q).region = (s.parcel q).region := by
  unfold bumpPcnt; split <;> simp
@[simp] theorem bumpPcnt_parcel_adds (s : State) (p k n q : Nat) :
    ((bumpPcnt s p k n).parcel q).adds = (s.parcel q).adds := by
  unfold bumpPcnt; split <;> simp
@[simp] theorem bumpPcnt_parcel_bar (s : State) (p k n q : Nat) :
    ((bumpPcnt s p k n).parcel q).bar = (s.parcel q).bar := by
  unfold bumpPcnt; split <;> simp
@[simp] theorem bumpPcnt_parcel_keys (s : State) (p k n q : Nat) :
    ((bumpPcnt s p k n).parcel q).keys = (s.parcel q).keys := by
  unfold bumpPcnt; split <;> simp
@[simp] theorem bumpPcnt_parcel_fab (s : State) (p k n q : Nat) :
    ((bumpPcnt s p k n).parcel q).fab = (s.parcel q).fab := by
  unfold bumpPcnt; split <;> simp
@[simp] theorem bumpPcnt_parcel_pwr (s : State) (p k n q : Nat) :
    ((bumpPcnt s p k n).parcel q).pwr = (s.parcel q).pwr := by
  unfold bumpPcnt; split <;> simp
@[simp] theorem bumpPcnt_parcel_held (s : State) (p k n q : Nat) :
    ((bumpPcnt s p k n).parcel q).held = (s.parcel q).held := by
  unfold bumpPcnt; split <;> simp
@[simp] theorem bumpPcnt_parcel_latch (s : State) (p k n q : Nat) :
    ((bumpPcnt s p k n).parcel q).latch = (s.parcel q).latch := by
  unfold bumpPcnt; split <;> simp
@[simp] theorem bumpBw_datum (s : State) (p k n : Nat) : (bumpBw s p k n).datum = s.datum := by
  unfold bumpBw; split <;> rfl
@[simp] theorem bumpBw_book (s : State) (p k n : Nat) : (bumpBw s p k n).book = s.book := by
  unfold bumpBw; split <;> rfl
@[simp] theorem bumpBw_stay (s : State) (p k n : Nat) : (bumpBw s p k n).stay = s.stay := by
  unfold bumpBw; split <;> rfl
@[simp] theorem bumpBw_hub (s : State) (p k n : Nat) : (bumpBw s p k n).hub = s.hub := by
  unfold bumpBw; split <;> rfl
@[simp] theorem bumpBw_pending (s : State) (p k n : Nat) : (bumpBw s p k n).pending = s.pending := by
  unfold bumpBw; split <;> rfl
@[simp] theorem bumpBw_phase (s : State) (p k n : Nat) : (bumpBw s p k n).phase = s.phase := by
  unfold bumpBw; split <;> rfl
@[simp] theorem bumpBw_wall (s : State) (p k n : Nat) : (bumpBw s p k n).wall = s.wall := by
  unfold bumpBw; split <;> rfl
@[simp] theorem bumpBw_free (s : State) (p k n : Nat) : (bumpBw s p k n).free = s.free := by
  unfold bumpBw; split <;> rfl
@[simp] theorem bumpBw_upsets (s : State) (p k n : Nat) : (bumpBw s p k n).upsets = s.upsets := by
  unfold bumpBw; split <;> rfl
@[simp] theorem bumpBw_posted (s : State) (p k n : Nat) : (bumpBw s p k n).posted = s.posted := by
  unfold bumpBw; split <;> rfl
@[simp] theorem bumpBw_hwSet (s : State) (p k n : Nat) : (bumpBw s p k n).hwSet = s.hwSet := by
  unfold bumpBw; split <;> rfl
@[simp] theorem bumpBw_reach (s : State) (p k n q m : Nat) : (bumpBw s p k n).reach q m = s.reach q m := by
  unfold bumpBw; split <;> simp
@[simp] theorem bumpBw_cluster (s : State) (p k n q m : Nat) : (bumpBw s p k n).cluster q m = s.cluster q m := by
  unfold bumpBw; split <;> simp
@[simp] theorem bumpBw_link (s : State) (p k n q : Nat) (m : Port) : (bumpBw s p k n).link q m = s.link q m := by
  unfold bumpBw; split <;> simp
@[simp] theorem bumpBw_parcel_state (s : State) (p k n q : Nat) :
    ((bumpBw s p k n).parcel q).state = (s.parcel q).state := by
  unfold bumpBw; split <;> simp
@[simp] theorem bumpBw_parcel_mem (s : State) (p k n q : Nat) :
    ((bumpBw s p k n).parcel q).mem = (s.parcel q).mem := by
  unfold bumpBw; split <;> simp
@[simp] theorem bumpBw_parcel_poison (s : State) (p k n q : Nat) :
    ((bumpBw s p k n).parcel q).poison = (s.parcel q).poison := by
  unfold bumpBw; split <;> simp
@[simp] theorem bumpBw_parcel_region (s : State) (p k n q : Nat) :
    ((bumpBw s p k n).parcel q).region = (s.parcel q).region := by
  unfold bumpBw; split <;> simp
@[simp] theorem bumpBw_parcel_adds (s : State) (p k n q : Nat) :
    ((bumpBw s p k n).parcel q).adds = (s.parcel q).adds := by
  unfold bumpBw; split <;> simp
@[simp] theorem bumpBw_parcel_bar (s : State) (p k n q : Nat) :
    ((bumpBw s p k n).parcel q).bar = (s.parcel q).bar := by
  unfold bumpBw; split <;> simp
@[simp] theorem bumpBw_parcel_keys (s : State) (p k n q : Nat) :
    ((bumpBw s p k n).parcel q).keys = (s.parcel q).keys := by
  unfold bumpBw; split <;> simp
@[simp] theorem bumpBw_parcel_fab (s : State) (p k n q : Nat) :
    ((bumpBw s p k n).parcel q).fab = (s.parcel q).fab := by
  unfold bumpBw; split <;> simp
@[simp] theorem bumpBw_parcel_pwr (s : State) (p k n q : Nat) :
    ((bumpBw s p k n).parcel q).pwr = (s.parcel q).pwr := by
  unfold bumpBw; split <;> simp
@[simp] theorem bumpBw_parcel_held (s : State) (p k n q : Nat) :
    ((bumpBw s p k n).parcel q).held = (s.parcel q).held := by
  unfold bumpBw; split <;> simp
@[simp] theorem bumpBw_parcel_latch (s : State) (p k n q : Nat) :
    ((bumpBw s p k n).parcel q).latch = (s.parcel q).latch := by
  unfold bumpBw; split <;> simp

/-! ### Scalar registers -/

/-- A write of a scalar register is read back, s0 stays 0, and every other register keeps its value (R158). -/
theorem scalar_setScalar (r : Reach) (n i : Nat) (v : Word) (h : SMap.sorted r.s = true) :
    (r.setScalar n v).scalar i = if i = n ∧ i ≠ 0 then v else r.scalar i := by
  unfold Reach.setScalar Reach.scalar
  by_cases hi : i = 0
  · simp [hi]
  · by_cases hn : n = 0
    · simp [hn, hi]
    · simp only [hn, hi, if_false, SMap.get_store _ _ _ _ _ h]
      split <;> simp_all

/-! ### The byte memories -/

/-- A memory that is replaced reads as its new cells, every other one as before. -/
theorem cells_setCells (s : State) (k j : Space) (m : Mem) : cells (setCells s k m) j = if j = k then m else cells s j := by
  by_cases h : j = k
  · subst h
    cases j <;> simp [cells, setCells]
  · rw [if_neg h]
    cases k <;> cases j <;>
      simp only [cells, setCells, State.cluster, State.reach, State.updReach, State.setReach, State.updCluster,
        State.setCluster, State.updParcel_parcel] <;>
      repeat' split
    all_goals first
      | rfl
      | (simp_all [SMap.get_put]; done)
      | (simp_all [SMap.get_put]; split <;> simp_all)

/-- What a write of cells to a memory without poison does (R352). -/
theorem writeCells_clean (s : State) (k : Space) (ws : List Host.Cell) (h : poisoned s k = []) :
    (writeCells s k ws).1 = { setCells s k (ws.foldl (fun m c => memSet m c.1 c.2) (cells s k)) with
      upsets := s.upsets.filter (fun u => !(decide (u.site = .cells k) && covers k ws u.unit)) } ∧ (writeCells s k ws).2 = 0 := by
  simp [writeCells, h]

/-- The errors that stand in cells are no part of a memory. -/
@[simp] theorem cells_upsets (s : State) (us : List Upset) (k : Space) : cells { s with upsets := us } k = cells s k := by
  cases k <;> rfl

/-- A byte after a list of cells has been written: the last cell at its address, else what it was. -/
theorem memByte_foldl (ws : List Host.Cell) (m : Mem) (a : Nat) (h : memWf m = true) :
    memByte (ws.foldl (fun m c => memSet m c.1 c.2) m) a =
      ((ws.reverse.find? (fun c => c.1 == a)).map (fun c => c.2)).getD (memByte m a) := by
  induction ws generalizing m with
  | nil => rfl
  | cons c cs ih =>
    rw [List.foldl_cons, ih _ (memWf_set _ _ h), List.reverse_cons, List.find?_append, memByte_set _ _ _ h]
    cases hf : cs.reverse.find? (fun c => c.1 == a) with
    | some d => simp
    | none =>
      by_cases hc : c.1 = a
      · subst hc; simp
      · simp [hc, Ne.symm hc]

/-- Every byte after a write of cells to a memory without poison: the written ones in that memory, all others as before. -/
theorem rdByte_writeCells (s : State) (k j : Space) (ws : List Host.Cell) (a : Nat) (hp : poisoned s k = [])
    (hw : memWf (cells s k) = true) :
    rdByte (writeCells s k ws).1 j a =
      if j = k then ((ws.reverse.find? (fun c => c.1 == a)).map (fun c => c.2)).getD (rdByte s k a) else rdByte s j a := by
  rw [(writeCells_clean s k ws hp).1]
  unfold rdByte
  rw [cells_upsets, cells_setCells]
  split
  · exact memByte_foldl ws _ a hw
  · rfl

end Sys2Proof.Machine
end

