-- ==== Sys2Proof/Laws/Access.lean ====
section
/-!
SUPPORT. What a register access can do, said once: a write that arrives at an aligned address and waits for nothing has
the effect of the register, or only raises what its verdict names (R17, R333 to R335, R408).
-/

namespace Sys2Proof.Machine

/-- An aligned access of 8 B has a legal form (R333). -/
theorem regForm_eight (off : Nat) (h : off % 8 = 0) : regForm off 8 = true := by simp [regForm, h]

/-- What a register write can do: the effect of the register, nothing, or an error that its verdict names (R15, R17). -/
theorem regWrite_cases (s : State) (rq : Requester) (a : RegAddr) (size : Nat) (v : Word) :
    (regVerdict s rq a v = .ok ∧ regWrite s rq a size v = regSet s rq a v) ∨
    (regVerdict s rq a v = .discard ∧ regWrite s rq a size v = s) ∨
    (regVerdict s rq a v = .state ∧ regWrite s rq a size v = raiseRegState s a) ∨
    (∃ tick, regVerdict s rq a v = .past tick ∧ regWrite s rq a size v = hubPast s tick) ∨
    (regVerdict s rq a v = .bound ∧ regWrite s rq a size v = refuseAccess s rq a size 3) ∨
    (∃ lo off value, regVerdict s rq a v = .reserved lo off value ∧
      regWrite s rq a size v = dropStaging (raise s (regSource a) evIllegalEncoding
        (illegalPayload 1 0xFF lo 0xFFFFFFFF (regAddress (regAt off a)) value.toNat)) rq a) := by
  unfold regWrite
  cases h : regVerdict s rq a v <;> simp

/-! ### The bytes that cross the hub port -/

/-- A register access of the host or the surveyor counts in the monitors of its parcel alone (R443, R448). -/
@[simp] theorem portBytes_reach (s : State) (rq : Requester) (p : Nat) (w : Bool) (n q m : Nat) :
    (portBytes s rq p w n).reach q m = s.reach q m := by
  unfold portBytes portCount; split <;> (try split) <;> simp
@[simp] theorem portBytes_cluster (s : State) (rq : Requester) (p : Nat) (w : Bool) (n q m : Nat) :
    (portBytes s rq p w n).cluster q m = s.cluster q m := by
  unfold portBytes portCount; split <;> (try split) <;> simp
@[simp] theorem portBytes_hub (s : State) (rq : Requester) (p : Nat) (w : Bool) (n : Nat) :
    (portBytes s rq p w n).hub = s.hub := by
  unfold portBytes portCount; split <;> (try split) <;> simp
@[simp] theorem portBytes_hwSet (s : State) (rq : Requester) (p : Nat) (w : Bool) (n : Nat) :
    (portBytes s rq p w n).hwSet = s.hwSet := by
  unfold portBytes portCount; split <;> (try split) <;> simp
@[simp] theorem portBytes_marked (s : State) (rq : Requester) (p : Nat) (w : Bool) (n : Nat) (b : HwBit) :
    (portBytes s rq p w n).marked b = s.marked b := by simp [State.marked]
@[simp] theorem portBytes_keys (s : State) (rq : Requester) (p : Nat) (w : Bool) (n q : Nat) :
    ((portBytes s rq p w n).parcel q).keys = (s.parcel q).keys := by
  unfold portBytes portCount; split <;> (try split) <;> simp
@[simp] theorem portBytes_fab (s : State) (rq : Requester) (p : Nat) (w : Bool) (n q : Nat) :
    ((portBytes s rq p w n).parcel q).fab = (s.parcel q).fab := by
  unfold portBytes portCount; split <;> (try split) <;> simp
@[simp] theorem portBytes_held (s : State) (rq : Requester) (p : Nat) (w : Bool) (n q : Nat) :
    ((portBytes s rq p w n).parcel q).held = (s.parcel q).held := by
  unfold portBytes portCount; split <;> (try split) <;> simp

@[simp] theorem locked_portBytes (s : State) (rq : Requester) (p q : Nat) (w : Bool) (n : Nat) (k : Lock) :
    locked (portBytes s rq p w n) q k = locked s q k := by cases k <;> simp [locked]
@[simp] theorem mustWait_portBytes (s : State) (rq : Requester) (p q : Nat) (w : Bool) (n : Nat) (os : List Held) (h : Held) :
    mustWait (portBytes s rq p w n) q os h = mustWait s q os h := by simp [mustWait]
@[simp] theorem reachVerdict_portBytes (s : State) (rq r : Requester) (p q l off : Nat) (w : Bool) (n : Nat) (v : Word) :
    reachVerdict (portBytes s rq p w n) r q l off v = reachVerdict s r q l off v := by simp [reachVerdict, winAccepts]
@[simp] theorem parcelVerdict_portBytes (s : State) (rq : Requester) (p q off : Nat) (w : Bool) (n : Nat) (v : Word) :
    parcelVerdict (portBytes s rq p w n) q off v = parcelVerdict s q off v := by simp [parcelVerdict, rxWinNew]

/-! ### Writes that arrive -/

/-- A write that arrives at a register of a reach and is accepted has that register's effect. -/
theorem accessWrite_reach (s : State) (rq : Requester) (p : ParcelId) (l : ReachId) (off : Nat) (v : Word)
    (h : Arrives s rq p (.reach p l off) v) (h8 : off % 8 = 0) (hv : reachVerdict s rq p l off v = .ok) :
    accessWrite s rq (.reach p l off) 8 v = reachSet (portBytes s rq p true 8) rq p l off v := by
  obtain ⟨h1, h2, h3⟩ := h
  have h9 : off / 8 * 8 = off := by omega
  simp [accessWrite, configRetry, h1, h2, regForm, regOff, h8, holdOr, h3, performHeld, composed, regWrite, regVerdict, h9, hv, regSet]

/-- A write that arrives at a register of a cluster has that register's effect. -/
theorem accessWrite_cluster (s : State) (rq : Requester) (p : ParcelId) (c : ClusterId) (off : Nat) (v : Word)
    (h : Arrives s rq p (.cluster p c off) v) (h8 : off % 8 = 0) :
    accessWrite s rq (.cluster p c off) 8 v = clusterSet (portBytes s rq p true 8) p c off v := by
  obtain ⟨h1, h2, h3⟩ := h
  have h9 : off / 8 * 8 = off := by omega
  simp [accessWrite, configRetry, h1, h2, regForm, regOff, h8, holdOr, h3, performHeld, composed, regWrite, regVerdict, h9, regSet]

/-- A write that arrives at a register of a parcel and is accepted has that register's effect. -/
theorem accessWrite_parcel (s : State) (rq : Requester) (p : ParcelId) (off : Nat) (v : Word)
    (h : Arrives s rq p (.parcel p off) v) (h8 : off % 8 = 0) (hv : parcelVerdict s p off v = .ok) :
    accessWrite s rq (.parcel p off) 8 v = parcelSet (portBytes s rq p true 8) p off v := by
  obtain ⟨h1, h2, h3⟩ := h
  have h9 : off / 8 * 8 = off := by omega
  simp [accessWrite, configRetry, h1, h2, regForm, regOff, h8, holdOr, h3, performHeld, composed, regWrite, regVerdict, h9, hv, regSet]

/-- A write that arrives at a register of the hub and is accepted has that register's effect. -/
theorem accessWrite_hub (s : State) (rq : Requester) (off : Nat) (v : Word) (h : HubArrives s rq) (h8 : off % 8 = 0)
    (hv : hubVerdict s off v = .ok) : accessWrite s rq (.hub off) 8 v = hubSet s off v := by
  obtain ⟨h1, h2⟩ := h
  have h9 : off / 8 * 8 = off := by omega
  simp [accessWrite, configRetry, h1, h2, regGate, regForm, regOff, h8, composed, regWrite, regVerdict, h9, hv, regSet]

/-- A write that its verdict discards changes nothing (R17). -/
theorem regWrite_discard (s : State) (rq : Requester) (a : RegAddr) (size : Nat) (v : Word)
    (h : regVerdict s rq a v = .discard) : regWrite s rq a size v = s := by simp [regWrite, h]

/-- A requester that is not present changes nothing, but that the hub answers a configuration request with a retry (R466). -/
theorem accessWrite_absent (s : State) (rq : Requester) (a : RegAddr) (size : Nat) (v : Word) (h : rqPresent s rq = false)
    (hc : configRetry s rq a = false) : accessWrite s rq a size v = s := by simp [accessWrite, h, hc]

end Sys2Proof.Machine
end

