-- ==== Sys2Proof/Laws/Issue.lean ====
section
/-!
SUPPORT. What issue can do, said once (R162 to R164, R167, R183): the three outcomes of `issueUnit` and `issueSeq`, and
what `advance`, `enterUnit` and `failIssue` change.
-/

namespace Sys2Proof.Machine

/-! ### The outcomes of issue -/

/-- A head that no error stands in is fetched as it is. -/
@[simp] theorem fetchMeet_sound (s : State) (p l : Nat) (h : s.upsets = []) : fetchMeet s p l = s := by simp [fetchMeet, h]

/-- An instruction meets no error where none stands. -/
@[simp] theorem meetWords_sound (s : State) (p l : Nat) (j : Job) (pl : Plan) (h : s.upsets = []) : meetWords s p l j pl = s := by
  simp [meetWords, h]

/-- No IMEM word is poisoned: the fetch gives the word. -/
@[simp] theorem failFetch_clean (s : State) (p l : Nat) (h : (s.reach p l).imemPoison = []) : failFetch s p l = none := by
  simp [failFetch, poisonIn, poisoned, h]

/-- No word of the reach is poisoned: an instruction clears none. -/
@[simp] theorem clearWords_clean (s : State) (p l : Nat) (pl : Plan) (h : (s.reach p l).ruined = []) : clearWords s p l pl = s := by
  simp [clearWords, h]

/-- With no posted write behind a FENC.rel, an instruction makes none visible. -/
theorem drainIf_none (s : State) (sel : Posted → Bool) (h : ∀ w ∈ s.posted, sel w = false) : drainIf s sel = s := by
  have h1 : s.posted.filter sel = [] := by simp_all
  have h2 : s.posted.filter (fun w => !sel w) = s.posted := by
    rw [List.filter_eq_self]; intro w hw; simp [h w hw]
  simp [drainIf, h1, h2]

theorem drainFenced_none (s : State) (p l : Nat) (wr : AccessSet)
    (h : ∀ w ∈ s.posted, w.writer = srcReach p l → w.fenced = false) : drainFenced s p l wr = s := by
  unfold drainFenced
  split
  · rfl
  · apply drainIf_none
    intro w hw
    by_cases hq : w.writer = srcReach p l
    · simp [h w hw hq]
    · simp [hq]

@[simp] theorem advance_upsets (s : State) (p l : Nat) (j : Job) (addr : Word) (next : Nat) :
    (advance s p l j addr next).1.upsets = s.upsets := by simp [advance, State.updTask]
@[simp] theorem advance_posted (s : State) (p l : Nat) (j : Job) (addr : Word) (next : Nat) :
    (advance s p l j addr next).1.posted = s.posted := by simp [advance, State.updTask]
@[simp] theorem advance_ruined (s : State) (p l : Nat) (j : Job) (addr : Word) (next : Nat) :
    ((advance s p l j addr next).1.reach p l).ruined = (s.reach p l).ruined := by
  simp only [advance, State.updTask]
  rw [bumpCnt_reach]
  simp

/-- Entering a unit leaves the errors of the memories, the posted writes and the poisoned words as they are. -/
@[simp] theorem enterUnit_upsets (s : State) (p l : Nat) (j : Job) (pl : Plan) (w : Await) :
    (enterUnit s p l j pl w).1.upsets = s.upsets := by simp [enterUnit]
@[simp] theorem enterUnit_posted (s : State) (p l : Nat) (j : Job) (pl : Plan) (w : Await) :
    (enterUnit s p l j pl w).1.posted = s.posted := by simp [enterUnit]
@[simp] theorem enterUnit_ruined (s : State) (p l : Nat) (j : Job) (pl : Plan) (w : Await) :
    ((enterUnit s p l j pl w).1.reach p l).ruined = (s.reach p l).ruined := by simp [enterUnit]

/-- The fail that a STAK ARM adds, where none binds the head. -/
@[simp] theorem armFail_none (s : State) (p l : Nat) (j : Job) (pl : Plan) (h : (s.reach p l).task.arm = none) :
    armFail s p l j pl = none := by simp [armFail, failIllegal, h]

/-- A check that does not fail does not change which fails first (R163). -/
@[simp] theorem firstFail_none_cons (cs : List (Option Fail)) : firstFail (none :: cs) = firstFail cs := by simp [firstFail]

/-- An instruction of a unit that issues enters the unit and runs (R162, R167). -/
theorem issueUnit_issues (s : State) (p l : Nat) (sel : BitVec 128 → Bool) (plan : Job → Plan) (run : State → Job → Nat → State)
    (hs : sel (headJob s p l).word = true) (h : Issues s p l (plan (headJob s p l))) :
    issueUnit s p l sel plan run =
      fetchCheck (drainFenced (clearWords (run (enterUnit s p l (headJob s p l) (plan (headJob s p l)) .none).1 (headJob s p l)
        (enterUnit s p l (headJob s p l) (plan (headJob s p l)) .none).2) p l (plan (headJob s p l))) p l
        (plan (headJob s p l)).wr) p l := by
  obtain ⟨h1, h2, h3, h4, h5, h6, h7⟩ := h
  simp [issueUnit, hs, h1, h2, h3, h4, h5, h6, h7.1, h7.2.1, h7.2.2.1, failWord, startRun]

/-- An instruction of a unit that a STAK ARM binds enters the unit and waits for its stake (R183). -/
theorem issueUnit_armed (s : State) (p l : Nat) (sel : BitVec 128 → Bool) (plan : Job → Plan) (run : State → Job → Nat → State)
    (st : Stake) (hs : sel (headJob s p l).word = true) (h1 : canIssue s p l = true)
    (h2 : scalarsReady (s.reach p l) (plan (headJob s p l)).reads = true)
    (h3 : firstFail (plan (headJob s p l)).checks = none) (h4 : held s p l (headJob s p l) (plan (headJob s p l)) = false)
    (h5 : (s.reach p l).task.arm = some st) (h6 : (plan (headJob s p l)).armable = true) (h7 : Undisturbed s p l) :
    issueUnit s p l sel plan run =
      fetchCheck (enterUnit s p l (headJob s p l) (plan (headJob s p l)) (.stake st)).1 p l := by
  have ha : armFail s p l (headJob s p l) (plan (headJob s p l)) = none := by simp [armFail, failIllegal, h6]
  simp [issueUnit, hs, h1, h2, h3, h4, h5, ha, h7.1, h7.2.2.1]

/-- An instruction of a unit whose checks fail stops the task (R163). -/
theorem issueUnit_fails (s : State) (p l : Nat) (sel : BitVec 128 → Bool) (plan : Job → Plan) (run : State → Job → Nat → State)
    (f : Fail) (hs : sel (headJob s p l).word = true) (h : Fails s p l (plan (headJob s p l)) f) :
    issueUnit s p l sel plan run = failIssue s p l (headJob s p l) f := by
  obtain ⟨h1, h2, h3, h4, _⟩ := h
  simp [issueUnit, hs, h1, h2, h3, h4.1, h4.2.2.1]

/-- The word at the head is of another instruction: nothing happens (log 2). -/
theorem issueUnit_other (s : State) (p l : Nat) (sel : BitVec 128 → Bool) (plan : Job → Plan) (run : State → Job → Nat → State)
    (hs : sel (headJob s p l).word = false) : issueUnit s p l sel plan run = s := by simp [issueUnit, hs]

/-- An instruction of the sequencer that issues does all it does (R162). -/
theorem issueSeq_issues (s : State) (p l : Nat) (sel : BitVec 128 → Bool) (plan : Job → Plan) (act : State → Job → State)
    (hs : sel (headJob s p l).word = true) (h : Issues s p l (plan (headJob s p l))) :
    issueSeq s p l sel plan act = act s (headJob s p l) := by
  obtain ⟨h1, h2, h3, h4, h5, _, h7⟩ := h
  simp [issueSeq, hs, h1, h2, h3, h4, h5, failWord, h7.1, h7.2.1, h7.2.2.1]

/-- An instruction of the sequencer whose checks fail stops the task (R163). -/
theorem issueSeq_fails (s : State) (p l : Nat) (sel : BitVec 128 → Bool) (plan : Job → Plan) (act : State → Job → State)
    (f : Fail) (hs : sel (headJob s p l).word = true) (h : Fails s p l (plan (headJob s p l)) f) :
    issueSeq s p l sel plan act = failIssue s p l (headJob s p l) f := by
  obtain ⟨h1, h2, h3, h4, _⟩ := h
  simp [issueSeq, hs, h1, h2, h3, failWord, h4.1, h4.2.1, h4.2.2.1]

/-- The word at the head is of another instruction: nothing happens (log 2). -/
theorem issueSeq_other (s : State) (p l : Nat) (sel : BitVec 128 → Bool) (plan : Job → Plan) (act : State → Job → State)
    (hs : sel (headJob s p l).word = false) : issueSeq s p l sel plan act = s := by simp [issueSeq, hs]

/-! ### What the shared part of issue changes -/

/-- Issue changes one reach and nothing else of the package. -/
theorem advance_reach_other (s : State) (p l : Nat) (j : Job) (addr : Word) (next q m : Nat) (h : ¬ (q = p ∧ m = l)) :
    (advance s p l j addr next).1.reach q m = s.reach q m := by
  simp only [advance, State.updTask]
  rw [bumpCnt_reach_other _ _ _ _ _ _ _ h, State.updReach_reach]
  simp [h]

@[simp] theorem advance_book (s : State) (p l : Nat) (j : Job) (addr : Word) (next : Nat) :
    (advance s p l j addr next).1.book = s.book := by simp [advance, State.updTask]
@[simp] theorem advance_datum (s : State) (p l : Nat) (j : Job) (addr : Word) (next : Nat) :
    (advance s p l j addr next).1.datum = s.datum := by simp [advance, State.updTask]
@[simp] theorem advance_hub (s : State) (p l : Nat) (j : Job) (addr : Word) (next : Nat) :
    (advance s p l j addr next).1.hub = s.hub := by simp [advance, State.updTask]
@[simp] theorem advance_pending (s : State) (p l : Nat) (j : Job) (addr : Word) (next : Nat) :
    (advance s p l j addr next).1.pending = s.pending := by simp [advance, State.updTask]
@[simp] theorem advance_cluster (s : State) (p l : Nat) (j : Job) (addr : Word) (next q c : Nat) :
    (advance s p l j addr next).1.cluster q c = s.cluster q c := by simp [advance, State.updTask]

/-- The flight that an instruction becomes when it enters its unit: it is the youngest, with the sets of its plan (R162). -/
theorem enterUnit_flights (s : State) (p l : Nat) (j : Job) (pl : Plan) (w : Await) :
    ∃ tag, ((enterUnit s p l j pl w).1.reach p l).flights = ((advance s p l j pl.addr (j.pc.toNat + 16)).1.reach p l).flights ++
      [{ no := (s.reach p l).task.issueNo + 1, job := j, unit := pl.unit, wait := w, rd := pl.rd, wr := pl.wrAll j
         inStep := (s.reach p l).task.step.isSome, tag := tag }] := by
  exact ⟨(advance s p l j pl.addr (j.pc.toNat + 16)).2, by simp [enterUnit]⟩

/-- The number of the flight that enters (R164). -/
@[simp] theorem enterUnit_no (s : State) (p l : Nat) (j : Job) (pl : Plan) (w : Await) :
    (enterUnit s p l j pl w).2 = (s.reach p l).task.issueNo + 1 := rfl

/-- Entering a unit changes one reach and nothing else of the package. -/
theorem enterUnit_reach_other (s : State) (p l : Nat) (j : Job) (pl : Plan) (w : Await) (q m : Nat) (h : ¬ (q = p ∧ m = l)) :
    (enterUnit s p l j pl w).1.reach q m = s.reach q m := by
  simp only [enterUnit, State.updReach_reach, if_neg h]
  exact advance_reach_other s p l j _ _ q m h

/-- Issue reaches its end inside IMEM, or the task stops with BOUND (R157). -/
theorem fetchCheck_inside (s : State) (p l : Nat) (h : (s.reach p l).task.pc.toNat < Config.imemSize) : fetchCheck s p l = s := by
  unfold fetchCheck
  simp [Nat.not_le.mpr h]

end Sys2Proof.Machine
end

