-- ==== Sys2Proof/Laws/Posted.lean ====
section
/-!
SUPPORT. What the writes to stacked memory can do, said once (R348, R352, R356): a write that becomes visible, and a drain of
posted writes, leave the reaches, the clusters, the datum and the time alone. And what a cycle does to the parts of a parcel.
-/

namespace Sys2Proof.Machine

/-- The reaches, the clusters, the datum, the stay monitor, the time and the queue of commands are as they were. -/
def Beside (s t : State) : Prop :=
  (∀ q m, t.reach q m = s.reach q m) ∧ (∀ q c, t.cluster q c = s.cluster q c) ∧ t.datum = s.datum ∧ t.stay = s.stay ∧
  t.phase = s.phase ∧ t.wall = s.wall ∧ t.free = s.free ∧ t.pending = s.pending ∧ t.hwSet = s.hwSet

theorem Beside.refl (s : State) : Beside s s := ⟨fun _ _ => rfl, fun _ _ => rfl, rfl, rfl, rfl, rfl, rfl, rfl, rfl⟩

theorem Beside.trans {s t u : State} (h : Beside s t) (k : Beside t u) : Beside s u := by
  obtain ⟨h1, h2, h3, h4, h5, h6, h7, h8, h9⟩ := h
  obtain ⟨k1, k2, k3, k4, k5, k6, k7, k8, k9⟩ := k
  exact ⟨fun q m => (k1 q m).trans (h1 q m), fun q c => (k2 q c).trans (h2 q c), k3.trans h3, k4.trans h4, k5.trans h5,
    k6.trans h6, k7.trans h7, k8.trans h8, k9.trans h9⟩

/-- A loop of steps that leave these alone leaves them alone. -/
theorem Beside.foldl {α : Type} (f : State → α → State) (h : ∀ s a, Beside s (f s a)) (l : List α) (s : State) :
    Beside s (l.foldl f s) := by
  induction l generalizing s with
  | nil => exact .refl s
  | cons a l ih => exact (h s a).trans (ih (f s a))

/-- An update of a parcel that keeps its reaches and clusters. -/
theorem Beside.updParcel (s : State) (p : Nat) (f : Parcel → Parcel) (hr : (f (s.parcel p)).reaches = (s.parcel p).reaches)
    (hc : (f (s.parcel p)).clusters = (s.parcel p).clusters) : Beside s (s.updParcel p f) := by
  refine ⟨fun q m => ?_, fun q c => ?_, rfl, rfl, rfl, rfl, rfl, rfl, rfl⟩
  · simp only [State.reach, State.updParcel_parcel]
    split
    · next h => rw [hr, h]
    · rfl
  · simp only [State.cluster, State.updParcel_parcel]
    split
    · next h => rw [hc, h]
    · rfl

theorem raise_beside (s : State) (src code : Nat) (b : List Byte) : Beside s (raise s src code b) :=
  ⟨fun _ _ => rfl, fun _ _ => rfl, rfl, rfl, rfl, rfl, rfl, rfl, rfl⟩

theorem updPort_beside (s : State) (f : HostPort → HostPort) : Beside s (s.updPort f) :=
  ⟨fun _ _ => rfl, fun _ _ => rfl, rfl, rfl, rfl, rfl, rfl, rfl, rfl⟩

theorem bumpPcnt_beside (s : State) (p k n : Nat) : Beside s (bumpPcnt s p k n) :=
  ⟨by simp, by simp, by simp, by simp, by simp, by simp, by simp, by simp, by simp⟩

theorem bumpBw_beside (s : State) (p k n : Nat) : Beside s (bumpBw s p k n) :=
  ⟨by simp, by simp, by simp, by simp, by simp, by simp, by simp, by simp, by simp⟩

theorem smCount_beside (s : State) (k : Space) (w : Bool) (as : List Nat) : Beside s (smCount s k w as) := by
  cases k with
  | sm p => exact ((bumpPcnt_beside ..).trans (bumpBw_beside ..)).trans (.updParcel _ _ _ rfl rfl)
  | _ => exact .refl s

theorem snooped_beside (s : State) (p n : Nat) : Beside s (snooped s p n) :=
  ((updPort_beside ..).trans (bumpPcnt_beside ..)).trans (bumpPcnt_beside ..)

theorem backInvalidate_beside (s : State) (k : Space) (as : List Nat) : Beside s (backInvalidate s k as) := by
  unfold backInvalidate
  split
  · dsimp only
    split
    · exact .refl s
    · exact (updPort_beside ..).trans (snooped_beside ..)
  · exact .refl s

theorem setCells_sm_beside (s : State) (p : Nat) (m : Mem) : Beside s (setCells s (.sm p) m) := .updParcel _ _ _ rfl rfl

theorem setPoisoned_sm_beside (s : State) (p : Nat) (m : List Nat) : Beside s (setPoisoned s (.sm p) m) :=
  .updParcel _ _ _ rfl rfl

theorem Beside.ite {s t u : State} {c : Bool} (h : Beside s t) (k : Beside s u) : Beside s (if c then t else u) := by
  cases c <;> assumption

theorem writeCells_sm_beside (s : State) (p : Nat) (ws : List Host.Cell) : Beside s (writeCells s (.sm p) ws).1 := by
  have up (t : State) (us : List Upset) : Beside t { t with upsets := us } :=
    ⟨fun _ _ => rfl, fun _ _ => rfl, rfl, rfl, rfl, rfl, rfl, rfl, rfl⟩
  unfold writeCells
  dsimp only
  exact Beside.trans (.ite (setCells_sm_beside ..) ((setCells_sm_beside ..).trans (setPoisoned_sm_beside ..))) (up _ _)

/-- A write to stacked memory that becomes visible (R348, R352). -/
theorem devWrite_sm_beside (s : State) (p rq : Nat) (ws : List Host.Cell) : Beside s (devWrite s (.sm p) rq ws) := by
  unfold devWrite
  exact (((backInvalidate_beside ..).trans (smCount_beside ..)).trans (writeCells_sm_beside ..)).trans
    (.foldl _ (fun _ _ => raise_beside ..) _ _)

@[simp] theorem smCount_posted (s : State) (k : Space) (w : Bool) (as : List Nat) : (smCount s k w as).posted = s.posted := by
  cases k <;> simp [smCount]

@[simp] theorem backInvalidate_posted (s : State) (k : Space) (as : List Nat) : (backInvalidate s k as).posted = s.posted := by
  unfold backInvalidate
  split
  · dsimp only
    split <;> simp [snooped]
  · rfl

@[simp] theorem setCells_posted (s : State) (k : Space) (m : Mem) : (setCells s k m).posted = s.posted := by cases k <;> rfl

@[simp] theorem setPoisoned_posted (s : State) (k : Space) (m : List Nat) : (setPoisoned s k m).posted = s.posted := by
  cases k <;> rfl

@[simp] theorem writeCells_posted (s : State) (k : Space) (ws : List Host.Cell) : (writeCells s k ws).1.posted = s.posted := by
  have ite (c : Bool) (a b : State) (h : a.posted = s.posted) (k : b.posted = s.posted) :
      (if c then a else b).posted = s.posted := by cases c <;> assumption
  exact ite _ _ _ (setCells_posted ..) ((setPoisoned_posted ..).trans (setCells_posted ..))

@[simp] theorem devWrite_posted (s : State) (k : Space) (rq : Nat) (ws : List Host.Cell) : (devWrite s k rq ws).posted = s.posted := by
  have up (l : List Nat) (t : State) : (l.foldl (fun t u => raiseUe t k u rq) t).posted = t.posted := by
    induction l generalizing t with
    | nil => rfl
    | cons u l ih => exact (ih _).trans rfl
  simp [devWrite, up]

/-- A drain leaves the posted writes that its test does not name. -/
@[simp] theorem drainIf_posted (s : State) (sel : Posted → Bool) : (drainIf s sel).posted = s.posted.filter (fun w => !sel w) := by
  have keep (l : List Posted) (t : State) : (l.foldl (fun t w => devWrite t (.sm w.p) w.writer w.cells) t).posted = t.posted := by
    induction l generalizing t with
    | nil => rfl
    | cons w l ih => rw [List.foldl_cons, ih, devWrite_posted]
  exact keep _ _

/-- A drain of posted writes (R356). -/
theorem drainIf_beside (s : State) (sel : Posted → Bool) : Beside s (drainIf s sel) := by
  unfold drainIf
  refine Beside.trans ?_ (.foldl _ (fun _ _ => devWrite_sm_beside ..) _ _)
  exact ⟨fun _ _ => rfl, fun _ _ => rfl, rfl, rfl, rfl, rfl, rfl, rfl, rfl⟩

theorem SMap.find_range (g : Nat → α) (r : SMap α) (i n a : Nat) (h : a ≤ i) (hi : i < a + n) :
    SMap.find ((List.range' a n).map (fun j => (j, g j)) ++ r) i = some (g i) := by
  induction n generalizing a with
  | zero => omega
  | succ n ih =>
    simp only [List.range'_succ, List.map_cons, List.cons_append, SMap.find]
    by_cases ha : a = i
    · simp [ha]
    · rw [if_neg ha, if_neg (by omega), ih (a + 1) (by omega) (by omega)]

/-- A part of a parcel of a number below `k` has gone by `f` after a cycle. -/
theorem passMap_get {α : Type} (d : α) (k : Nat) (m : SMap α) (f : Nat → α → α) (i : Nat) (h : i < k) :
    SMap.get d (passMap d k m f) i = f i (SMap.get d m i) := by
  simp only [SMap.get, passMap, List.range_eq_range']
  rw [SMap.find_range (fun j => f j ((SMap.find m j).getD d)) _ i k 0 (Nat.zero_le i) (by omega)]
  rfl

end Sys2Proof.Machine
end

