-- ==== Sys2Proof/Tests/Slice0.lean ====
section
/-!
SUPPORT. Tests: the smoke test of WellFormed, the spec's worked numbers, and for every statement concrete states and operands
that meet its hypotheses, clause by clause.
-/

namespace Sys2Proof.Tests

set_option Elab.async false

open Sys2Proof Sys2Proof.Machine

/-! ### States -/

/-- A parcel in RUN with its hub port up. -/
def parcel0 : Parcel := { state := .run, links := [(portNo .hubPort, { state := .up })] }

/-- A package in RUN with parcel 0 in service and the host's link up. -/
def s0 : State :=
  { parcels := [(0, parcel0)], datum := { count := 10, state := .cabled }
    hub := { state := .run, port := { linkUp := true, success := true }, lands := { auxGood := true, vinOk := true, resetN := false, perstN := false } } }

/-- The package in CONFIGURE. -/
def sConf : State := s0.updHub (fun h => { h with state := .configure })

/-- The word at an address of IMEM. -/
def imemAt (a w : Nat) : Mem := (cellsOf a (leBytes 16 w)).foldl (fun m c => memSet m c.1 c.2) []

/-- `s` with a task that runs on reach 0 with word `w` at the head and scalars `sc`. -/
def headed (s : State) (w : Nat) (sc : SMap Word := []) : State :=
  s.updReach 0 0 (fun r => { r with imem := imemAt 0 w, s := sc, task := { r.task with run := true } })

/-- The state that a command gives. -/
def after (i : Instr) (s : State) : State :=
  match exec i s with
  | .next t => t
  | .fault _ => State.reset
  | .refused _ => State.reset

/-! ### Registers -/

theorem witness_reach_registers :
    Arrives s0 .host 0 (.reach 0 0 0xF8) 0xB7D3 ∧ Arrives s0 .surveyor 0 (.reach 0 127 0x80) 0xB7D4 ∧
    Arrives s0 .host 0 (.reach 0 127 0x40) 0xFFFF ∧ Arrives s0 .task 0 (.reach 0 0 0x27F8) 0xFFFFFFFFFFFFFFFF#64 ∧
    Arrives s0 .host 0 (.reach 0 0 0x30) 0x6000000000000 ∧ Arrives s0 .host 0 (.reach 0 0 0x38) 0x40000000000000 ∧
    Arrives s0 .host 0 (.reach 0 0 0x30) 0x6000000000010 ∧ (s0.reach 0 0).idle = true := by
  unfold Arrives; decide +kernel

/-- Staged words of the host for entry 0 with a reserved cell_fn and a reserved dim. -/
def sStage : State := s0.updReach 0 0 (fun r => { r with
  profStage := [(stageKey .host 0 0, 7#64)], trvStage := [(stageKey .host 0 4, 0x7000000#64)] })

theorem witness_staged_entries :
    Arrives s0 .host 0 (.reach 0 0 0x800) 1 ∧ Arrives s0 .task 0 (.reach 0 0 0x1000) 1 ∧
    Arrives s0 .host 0 (.reach 0 0 0xFF8) 0 ∧ profReserved (profCommit (s0.reach 0 0) .host 63 0) = none ∧
    Arrives s0 .host 0 (.reach 0 0 0x1FF8) 0 ∧ trvReserved (trvCommit (s0.reach 0 0) .host 31 0) = none ∧
    Arrives sStage .host 0 (.reach 0 0 0x818) 0 ∧ profReserved (profCommit (sStage.reach 0 0) .host 0 0) = some 0 ∧
    Arrives sStage .host 0 (.reach 0 0 0x1078) 0 ∧ trvReserved (trvCommit (sStage.reach 0 0) .host 0 0) = some 280 := by
  unfold Arrives; decide +kernel

/-- A region with sat set, sampling on, and a rotation that runs. -/
def sBusy : State := (s0.updMon 0 (fun m => { m with smpCfg := 1, intStat := 3 })).updParcel 0 (fun x => { x with
  keys := { x.keys with busy := true }, region := [(0, 4#64)] })

theorem witness_parcel_registers :
    Arrives s0 .host 0 (.cluster 0 15 0x138) 7 ∧ Arrives s0 .host 0 (.cluster 0 15 0x5F8) 0xFFFFF ∧
    Arrives sBusy .host 0 (.parcel 0 0) 5 ∧ Arrives s0 .host 0 (.parcel 0 0x1F8) 0x6000000000000001#64 ∧
    Arrives s0 .host 0 (.parcel 0 0x1F8) 0x6000000000001001#64 ∧
    bvf (0x6000000000000001#64 : Word) 12 23 * 4096 + bvf (0x6000000000000001#64 : Word) 40 24 * 4096 ≤ 25769803776 ∧
    Arrives s0 .task 0 (.reach 0 0 0x2000) 0 ∧ Arrives s0 .host 0 (.parcel 0 0xBF8) 1 ∧ Arrives s0 .host 0 (.parcel 0 0xFF8) 1 ∧
    Arrives s0 .host 0 (.parcel 0 0x480) 0x100 ∧ Arrives s0 .host 0 (.parcel 0 0x310) 1 ∧ Arrives sBusy .host 0 (.parcel 0 0x318) 1 ∧
    Arrives s0 .host 0 (.parcel 0 0x8000) 1 ∧ Arrives s0 .host 0 (.parcel 0 0x8000) 2 ∧
    Arrives s0 .host 0 (.parcel 0 0x8008) 0 ∧ Arrives s0 .host 0 (.parcel 0 0x8008) 1 ∧ Arrives sBusy .host 0 (.parcel 0 0x8008) 1 ∧
    Arrives sBusy .host 0 (.parcel 0 0x1008) 15 := by
  unfold Arrives; decide +kernel

/-- Barriers of two members: reach 8 waits at cluster barrier 0 and at parcel barrier 15 of parcel 0. -/
def sBar : State :=
  let r : Reach := { imem := imemAt 0 0x0000000000000000000000000000000C, s := [(1, 5)], task := { run := true, wait := .clusterBar 0 } }
  ((s0.updReach 0 8 (fun _ => r)).updCluster 0 1 (fun c => { c with
    bar := [(0, { members := 2, arrived := 1, waiting := [8] })] })).updParcel 0 (fun x => { x with
      bar := [(15, { members := 2, arrived := 1, waiting := [8] })] })

theorem witness_barriers :
    Arrives sBar .host 0 (.cluster 0 1 0x80) 2 ∧ (clusterBar sBar 0 1 0).arrived.toNat < bvf (2#64 : Word) 0 8 ∧
    bvf (1#64 : Word) 0 8 ≤ (clusterBar sBar 0 1 0).arrived.toNat ∧ Arrives sBar .host 0 (.cluster 0 1 0x80) 1 ∧
    Waiters sBar 0 (clusterBar sBar 0 1 0).waiting ∧ Arrives sBar .host 0 (.parcel 0 0x278) 2 ∧
    Arrives sBar .host 0 (.parcel 0 0x278) 1 ∧ Waiters sBar 0 (parcelBar sBar 0 15).waiting ∧
    Arrives sBar .host 0 (.parcel 0 0x1040) 15 ∧ (parcelBar sBar 0 15).members.toNat ≤ ((parcelBar sBar 0 15).arrived + 1).toNat ∧
    Arrives sBar .host 0 (.parcel 0 0x1040) 0 ∧ (parcelBar sBar 0 0).members = 0 ∧
    (((parcelBar s0 0 0).arrived + 1).toNat < (3 : Nat)) := by
  unfold Arrives Waiters; decide +kernel

theorem witness_hub_registers :
    HubArrives s0 .host ∧ HubArrives sConf .surveyor ∧ sConf.hub.state = .configure ∧ s0.hub.state ≠ .configure ∧
    bvf (0x10000#64 : Word) 0 16 = 0 ∧ bvf (0x1#64 : Word) 0 16 ≠ 0 ∧
    (bvf (0x100000000#64 : Word) 32 8 ≠ 0 ∧ ∀ d < 3, coord (bvf (0x100000000#64 : Word) 0 14) d < torusSize (0x100000000#64) d) ∧
    (∃ d < 3, torusSize (0x100000001#64) d ≤ coord (bvf (0x100000001#64 : Word) 0 14) d) ∧ bvf (0#64 : Word) 32 8 = 0 ∧
    (400 ≤ bvf (400#64 : Word) 0 11 ∧ bvf (1800#64 : Word) 0 11 ≤ 1800) ∧ bvf (399#64 : Word) 0 11 < 400 ∧
    1800 < bvf (1801#64 : Word) 0 11 ∧ bvf (0x90000#64 : Word) 16 4 ≤ 9 ∧ 9 < bvf (0xA0000#64 : Word) 16 4 ∧
    bvf (3#64 : Word) 0 2 = 3 ∧ (bvf (0x14#64 : Word) 0 2 ≠ 3 ∧ 4 < bvf (0x14#64 : Word) 2 3) ∧
    (bvf (0x10#64 : Word) 0 2 ≠ 3 ∧ bvf (0x10#64 : Word) 2 3 ≤ 4) := by
  unfold HubArrives; decide +kernel

/-- A schedule whose entry 0 is valid and whose entry 15 names count 11. -/
def sSched : State := s0.updHub (fun h => { h with sched := [(0, 1#128), (15, BitVec.ofNat 128 (11 * 2 ^ 64))] })

theorem witness_schedule :
    bvb (schedEntry sSched 0) 0 = true ∧ bvb (schedEntry sSched 15) 0 = false ∧
    sSched.datum.count < bvf (schedEntry sSched 15) 64 64 ∧ bvf (schedEntry s0 15) 64 64 ≤ s0.datum.count ∧
    (bvf (0x90003#64 : Word) 1 3 = 1 ∧ bvf (0x90003#64 : Word) 16 4 ≤ 9 ∧ bvb (0x90003#64 : Word) 0 = true) ∧
    (bvf (0x1900009#64 : Word) 1 3 = 4 ∧ 400 ≤ bvf (0x1900009#64 : Word) 16 16 ∧ bvf (0x1900009#64 : Word) 16 16 ≤ 1800) := by
  decide +kernel

/-- Channel 0 of the hub DMA moves 64 bytes between host address 64 and the last bytes of stacked memory of parcel 0. -/
def sDma (d : Dma) : State :=
  (s0.updPort (fun h => { h with dma := [(0, { d with host := 64, sys := 0x5FFFFFFC0 })], hostMem := [(64, 7#8)] })).updParcel 0
    (fun x => { x with mem := [(0x5FFFFFFC0, 9#8)] })

theorem witness_hub_dma :
    (bvf (0x200000040#64 : Word) 0 32 % 64 = 0 ∧ bvb (0x200000040#64 : Word) 33 = true ∧ (dmaOf (sDma {}) 0).busy = false ∧
      bvf (dmaOf (sDma {}) 0).host 0 6 = 0 ∧ bvf (dmaOf (sDma {}) 0).sys 0 6 = 0 ∧ (dmaOf (sDma {}) 0).tick = 0) ∧
    (dmaOf (sDma { tick := 11 }) 0).tick.toNat > s0.datum.count ∧ (dmaOf (sDma { tick := 10 }) 0).tick.toNat ≤ s0.datum.count ∧
    (dmaOf (sDma { busy := true }) 0).busy = true ∧ bvf (0x200000041#64 : Word) 0 32 % 64 ≠ 0 ∧
    ((dmaOf (sDma { arm := true, len := 64 }) 0).arm = true ∧
      bvf (dmaOf (sDma { arm := true, len := 64 }) 0).sys 38 14 = bvf s0.hub.torus 0 14 ∧
      bvf (dmaOf (sDma { arm := true, len := 64 }) 0).sys 0 35 + (dmaOf (sDma { arm := true, len := 64 }) 0).len.toNat ≤ 25769803776 ∧
      hubReaches (sDma { arm := true, len := 64 }) 0 = true) ∧
    (∀ q < 8, stakeClear (sDma { arm := true, tick := 10 }) q { count := 10 } = true) ∧
    (∃ q < 8, stakeClear ((sDma { arm := true, tick := 10 }).updTask 0 127 (fun t => { t with
      step := some { opening := { count := 9 }, closing := { count := 10 }, abort := false, alw := 0, rate := 0 } })) q { count := 10 } = false) ∧
    (bvf (dmaOf (s0.updPort (fun h => { h with dma := [(0, { host := 32 })] })) 0).host 0 6 ≠ 0 ∧
      bvf (dmaOf (s0.updPort (fun h => { h with dma := [(0, { sys := 32 })] })) 0).sys 0 6 ≠ 0 ∧ bvf (0x200000000#64 : Word) 0 32 = 0) ∧
    25769803776 < bvf (dmaOf (sDma { arm := true, len := 128 }) 0).sys 0 35 + (dmaOf (sDma { arm := true, len := 128 }) 0).len.toNat ∧
    (∀ w, w = 0x100000040#64 ∨ w = 0x40#64 → memWf ((sDma { busy := true, taken := w }).parcel 0).mem = true ∧
      memWf (sDma { busy := true, taken := w }).hub.port.hostMem = true ∧ bvb (w : Word) 39 = false ∧
      poisonIn (sDma { busy := true, taken := w }) (.sm 0) 0x5FFFFFFC0 64 = none ∧ (sDma { busy := true, taken := w }).upsets = []) := by
  refine ⟨by decide +kernel, by decide +kernel, by decide +kernel, by decide +kernel, by decide +kernel, by decide +kernel,
    by decide +kernel, by decide +kernel, by decide +kernel, by decide +kernel, ?_⟩
  rintro w (rfl | rfl) <;> decide +kernel

/-! ### Monitors and keys -/

/-- A sampling record. -/
def due0 : SampleDue := { cyc := 0, reach := 0, bytes := List.replicate 64 1#8 }

/-- A parcel at a boundary at which a snapshot is due, windows close, and the monitors have counted. -/
def sMon : State := ((s0.updMon 0 (fun m => { m with
    snapDue := true, snapAsked := true, cnt := [(3, 5#64)], bwCfg := 5, bwAcc := [(0, 2000), (23, 2 ^ 48)], skewCfg := 0x2000005#64
    skewAcc := [(0, 100), (31, 300)], smpQueue := [due0] })).updReach 0 0 (fun r => { r with
    cnt := [(0, 7#64)], calWin := [(0, 5#64)], calAcc := [(0, { count := 2, clamps := 1, sumSq := 5 * 2 ^ 32 }), (3, { count := 1 })]
    calUse := [(0, 0#64, 5#64)] })).updCluster 0 0 (fun c => { c with cnt := [(0, 9#64)] })

theorem witness_monitors :
    (sMon.phase = 0 ∧ (sMon.parcel 0).mon.snapDue = true ∧ closingsDone sMon 0 = true ∧ boundaryWaits sMon 0 = false ∧ (sMon.parcel 0).mon.snapWall ≠ some sMon.wall) ∧
    ((sMon.updMon 0 (fun m => { m with snapWall := some 0 })).parcel 0).mon.snapWall = some sMon.wall ∧
    ((sMon.parcel 0).mon.smpQueue = [due0] ∧ (sMon.parcel 0).mon.smpCyc ≠ some (sMon.parcel 0).cyc ∧ (sMon.parcel 0).mon.smpWritten.toNat < 2 ^ 32 - 1 ∧
      (sMon.parcel 0).mon.smpDropped.toNat < 2 ^ 16 - 1 ∧ bvb (sMon.parcel 0).mon.smpCfg 1 = false) ∧
    ((sMon.updMon 0 (fun m => { m with smpCyc := some 0 })).parcel 0).mon.smpCyc = some (sMon.parcel 0).cyc ∧
    (bvb (2#64 : Word) 1 = true ∧ ((sMon.updMon 0 (fun m => { m with smpCfg := 2, smpFull := true })).parcel 0).mon.smpFull = true) ∧
    closesNow sMon (bvf (sMon.parcel 0).mon.bwCfg 0 20) (sMon.parcel 0).mon.bwWall = true ∧
    closesNow sMon (bvf (sMon.parcel 0).mon.skewCfg 0 20) (sMon.parcel 0).mon.skewWall = true ∧
    closesNow sMon (bvf (SMap.get 0 (sMon.reach 0 0).calWin 0) 0 20) (SMap.find (sMon.reach 0 0).calWall 0) = true := by
  decide +kernel

/-- A parcel whose keys are `k`. -/
def sKeys (k : ChanKeys) : State := s0.updParcel 0 (fun x => { x with keys := k })

theorem witness_rotation :
    (((sKeys { arm := true, tick := 10 }).parcel 0).keys.arm = true ∧ atBoundary (sKeys { arm := true, tick := 10 }) = true ∧
      ((sKeys { arm := true, tick := 10 }).parcel 0).keys.tick.toNat ≤ (sKeys { arm := true, tick := 10 }).datum.count) ∧
    (sKeys { arm := true, tick := 11 }).datum.count < ((sKeys { arm := true, tick := 11 }).parcel 0).keys.tick.toNat ∧
    ((sKeys {}).parcel 0).keys.arm = false ∧
    ((sKeys { busy := true, mark := 196606 }).parcel 0).keys.mark.toNat + 1 < 196608 ∧
    ((sKeys { busy := true, mark := 196607 }).parcel 0).keys.mark.toNat + 1 = 196608 := by
  decide +kernel

/-! ### Tasks -/

/-- Reach 127 of parcel 0 with the task state `t` and the flights `fs`. -/
def sTask (t : Task) (fs : List Flight := []) : State := s0.updReach 0 127 (fun r => { r with task := t, flights := fs, s := [(3, 9#64)] })

theorem witness_task_control :
    Arrives (sTask {}) .host 0 (.reach 0 127 0) (BitVec.ofNat 64 (1 + 2 * b2n true)) ∧ ((sTask {}).reach 0 127).task.run = false ∧
    (sTask {}).marked (.fault 0 127) = false ∧ (sTask {}).marked (.halt 0 127) = false ∧
    ((sTask {}).mark (.fault 0 127)).marked (.fault 0 127) = true ∧ ((sTask {}).parcel 0).state = .run ∧ ((sTask { pc := 16368 }).reach 0 127).task.pc.toNat < 16384 ∧
    ((sTask {}).reach 0 127).task.step = none ∧ ((sTask { retired := true }).reach 0 127).task.retired = true ∧
    Arrives (sTask { run := true }) .surveyor 0 (.reach 0 127 0) (BitVec.ofNat 64 (2 * b2n false)) ∧
    ((sTask { run := true }).reach 0 127).task.run = true ∧
    127 ∈ (clusterBar ((sTask { run := true, wait := .clusterBar 15 }).updCluster 0 15 (fun c => { c with
      bar := [(15, { members := 2, arrived := 1, waiting := [127] })] })) 0 (clusterOf 127) 15).waiting ∧
    127 ∈ (parcelBar ((sTask { run := true, wait := .parcelBar 0 }).updParcel 0 (fun x => { x with
      bar := [(0, { members := 2, arrived := 1, waiting := [127] })] })) 0 0).waiting := by
  unfold Arrives; decide +kernel

/-- A flight numbered `no` with word `w` in unit `u`. -/
def flight (no w : Nat) (u : FuncUnit) : Flight := { no := no, job := { word := BitVec.ofNat 128 w }, unit := u }

theorem witness_completion :
    (((sTask { run := true, stopHalt := true } [flight 1 0x1800D .sequencer]).reach 0 127).task.issuing = false ∧
      mayComplete ((sTask { run := true, stopHalt := true } [flight 1 0x1800D .sequencer]).reach 0 127) (flight 1 0x1800D .sequencer) = true ∧
      SMap.sorted ((sTask {}).reach 0 127).s = true ∧ ((sTask {}).parcel 0).held = [] ∧ (sTask {}).datum.gated = none ∧ (sTask {}).posted = []) ∧
    (((sTask { run := true } [flight 1 4 .reachDma, flight 2 0x18000 .array]).reach 0 127).flights[1]? = some (flight 2 0x18000 .array) ∧
      mayComplete ((sTask { run := true } [flight 1 4 .reachDma, flight 2 0x18000 .array]).reach 0 127) (flight 2 0x18000 .array) = true ∧
      ((sTask { run := true } [flight 1 4 .reachDma]).reach 0 127).task.issuing = true) := by
  decide +kernel

/-- A DLTA in flight on reach 127, and a write of FUSE_CFG that waits. -/
def sHeld (t : Task) (fs : List Flight) : State :=
  (sTask t fs).updParcel 0 (fun x => { x with held := [.reg .host (.reach 0 127 0x40) 8 0x1FFFF#64] })

/-- A DLTA with an activation table of segment 0. -/
def dltaFlight : Flight := { flight 1 3 .delta with job := { word := 3, prof := BitVec.ofNat 256 (2 ^ 232 - 2 ^ 192) } }

/-- A DLTA whose outputs are codes of code book 7. -/
def dltaBook : Flight := { flight 1 3 .delta with job := { word := 3, prof := BitVec.ofNat 256 (3 * 2 ^ 186 + 7 * 2 ^ 196) } }

theorem witness_reset_and_waits :
    Arrives (sTask {}) .host 0 (.reach 0 127 0) 0x20#64 ∧ ((sTask {}).reach 0 127).idle = true ∧
    ((sTask { run := true }).reach 0 127).idle = false ∧ ((sTask { resetting := true }).reach 0 127).task.resetting = true ∧
    (rqPresent (sTask { run := true } [dltaFlight]) .host = true ∧
      regGate (sTask { run := true } [dltaFlight]) .host true (.reach 0 127 0x40) = true ∧
      (∃ f ∈ ((sTask { run := true } [dltaFlight]).reach 0 127).flights, wOp f.job.word = 3 ∧ (prof f.job.prof).actEn = true ∧
        (prof f.job.prof).actSel = (127 : Fin 128).val / 16)) ∧
    (((sHeld { run := true } [dltaFlight]).parcel 0).held = [.reg .host (.reach 0 127 0x40) 8 0x1FFFF#64] ∧
      ((sHeld { run := true } [dltaFlight]).reach 0 127).flights = [dltaFlight] ∧ dltaFlight.ready = true ∧
      ((sHeld { run := true } [dltaFlight]).reach 0 127).task.issuing = true) ∧
    (((sHeld { resetting := true } []).reach 0 127).task.resetting = true ∧ ((sHeld { resetting := true } []).reach 0 127).flights = []) ∧
    (regGate (sTask { resetting := true }) .surveyor true (.reach 0 127 0xFFF8) = true ∧
      functionOpen (sTask { resetting := true }) 0 = true ∧ 0x650000000 + 127 * 0x80000 + 0x7FFFF < 0x654000000) ∧
    (regGate (sTask { run := true } [dltaBook]) .host true (.cluster 0 15 0x5F8) = true ∧
      ∃ f ∈ ((sTask { run := true } [dltaBook]).reach 0 (8 * 15 + 7)).flights,
        wOp f.job.word = 3 ∧ (prof f.job.prof).outKind = 3 ∧ (prof f.job.prof).outCb = (7 : Fin 8)) ∧
    (regGate (sHeld {} []) .host false (.parcel 0 0x8008) = true ∧ ∃ o ∈ ((sHeld {} []).parcel 0).held, hostHeld o = true) := by
  unfold Arrives; decide +kernel


/-- STAK `kind` of the stake of s1 and s2, with the allowance in s3 and the length in s4; the datum is at count 10. -/
def sStak (kind cnt : Nat) : State :=
  headed s0 (10 + 2 ^ 15 + kind * 2 ^ 24 + 2 ^ 27 + 2 * 2 ^ 32 + 3 * 2 ^ 37 + 4 * 2 ^ 42 + 2 ^ 47)
    [(1, BitVec.ofNat 64 cnt), (2, 0), (3, 100), (4, 4000)]

/-- The datum skipped the ticks 8 and 9. -/
def skipped (s : State) : State := { s with datum := { s.datum with skipped := [(8, 10)] } }

/-- The package with its datum in UNSET. -/
def unset (s : State) : State := { s with datum := { s.datum with state := .unset } }

/-- The same WAIT behind 16 instructions in flight. -/
def sStakHeld : State := (skipped (sStak 0 9)).updReach 0 0 (fun r => { r with flights := List.replicate 16 (flight 1 4 .reachDma) })

theorem witness_stakes :
    (StakIssues (sStak 0 11) 0 0 false [1, 2] ∧ wOp (headJob (sStak 0 11) 0 0).word = 10 ∧
      ((sStak 0 11).now 0).lt { count := 11 } = true) ∧
    (StakIssues (sStak 1 11) 0 0 true [1, 2, 3, 4] ∧ ((sStak 1 11).reach 0 0).task.failing = false) ∧
    (StakIssues (sStak 2 11) 0 0 false [1, 2] ∧ held (sStak 2 11) 0 0 (headJob (sStak 2 11) 0 0) {} = false) ∧
    StakIssues (unset (sStak 2 11)) 0 0 false [1, 2] ∧
    (StakIssues (skipped (sStak 0 9)) 0 0 false [1, 2] ∧ ({ count := 9 } : Stake).le ((skipped (sStak 0 9)).now 0) = true ∧
      held (skipped (sStak 0 9)) 0 0 (headJob (skipped (sStak 0 9)) 0 0) {} = false) ∧
    (StakIssues sStakHeld 0 0 false [1, 2] ∧ held sStakHeld 0 0 (headJob sStakHeld 0 0) {} = true) ∧
    (StakIssues (skipped (sStak 1 9)) 0 0 true [1, 2, 3, 4] ∧ opensSteps (skipped (sStak 1 9)) 0 = true ∧
      denial (skipped (sStak 1 9)) 0 (stepRate 100 4000 ((skipped (sStak 1 9)).nc 0) (skipped (sStak 1 9)).tickNs) 4000 = none ∧
      stepMayOpen (skipped (sStak 1 9)) 0 { count := 9 } = true ∧
      held (skipped (sStak 1 9)) 0 0 (headJob (skipped (sStak 1 9)) 0 0) {} = false ∧ ((skipped (sStak 1 9)).reach 0 0).task.step = none) := by
  refine ⟨?_, ?_, ?_, ?_, ?_, ?_, ?_⟩ <;> unfold StakIssues Undisturbed <;> decide +kernel

/-- A FENC or SYNC at the head. -/
def sFence (op kind : Nat) : State := headed s0 (op + kind * 2 ^ 24 + 15 * 2 ^ 26)

/-- The same with a MOVE in flight. -/
def sFence1 (op kind : Nat) : State := (sFence op kind).updReach 0 0 (fun r => { r with flights := [flight 0 4 .reachDma] })

/-- The same with `n` members at barrier 15 of the cluster and the parcel. -/
def sSync (kind n : Nat) : State := ((sFence 12 kind).updCluster 0 0 (fun c => { c with
  bar := [(15, { members := BitVec.ofNat 8 n })] })).updParcel 0 (fun x => { x with bar := [(15, { members := BitVec.ofNat 8 n })] })

theorem witness_fences :
    (∀ k < 3, Issues (sFence 11 k) 0 0 {} ∧ Issues (sFence1 11 k) 0 0 {}) ∧ (Issues (sFence 12 0) 0 0 {} ∧ Issues (sFence1 12 0) 0 0 {}) ∧
    ((sFence 11 0).reach 0 0).flights = [] ∧ ((sFence1 11 0).reach 0 0).flights ≠ [] ∧
    (mayComplete ((sTask { run := true, wait := .fence } [flight 1 4 .reachDma, flight 2 11 .sequencer]).reach 0 127) (flight 1 4 .reachDma) = true ∧
      ((sTask { run := true, wait := .fence } []).reach 0 127).task.issuing = true) ∧
    (∀ k, k = 1 ∨ k = 2 → Issues (sSync k 2) 0 0 {} ∧ Issues (sSync k 0) 0 0 {} ∧ Issues (sSync k 1) 0 0 {}) ∧
    (((clusterBar (sSync 1 2) 0 0 15).arrived + 1).toNat < (clusterBar (sSync 1 2) 0 0 15).members.toNat ∧
      (clusterBar (sSync 1 1) 0 0 15).members.toNat ≤ ((clusterBar (sSync 1 1) 0 0 15).arrived + 1).toNat ∧
      Waiters (sSync 1 1) 0 [0] ∧ (clusterBar (sSync 1 0) 0 0 15).members = 0) := by
  refine ⟨by unfold Issues Undisturbed; decide +kernel, by unfold Issues Undisturbed; decide +kernel, by decide +kernel, by decide +kernel, by decide +kernel, ?_,
    by unfold Waiters; decide +kernel⟩
  rintro k (rfl | rfl) <;> unfold Issues Undisturbed <;> decide +kernel
/-- Reach 127 idle, with an image of format 1 at the head of stacked memory. -/
def sImage (t : Task) : State := (sTask t).updParcel 0 (fun x => { x with mem := [(0, 0x20#8), (40, 1#8), (264, 5#8)] })

theorem witness_images :
    (Arrives (sImage {}) .host 0 (.reach 0 127 0x20) (BitVec.ofNat 64 ((0 : BitVec 4).toNat + 0x10 + (100663277 : BitVec 27).toNat * 256)) ∧
      100663277 * 256 + imageLen 0 ≤ 25769803776 ∧ ((sImage {}).reach 0 127).idle = true ∧
      ((sImage {}).reach 0 127).task.imgBusy = false ∧ memWf ((sImage {}).parcel 0).mem = true ∧ (sImage {}).upsets = []) ∧
    (Arrives (sImage {}) .host 0 (.reach 0 127 0x20) (BitVec.ofNat 64 (0x20 + (0 : BitVec 27).toNat * 256)) ∧
      poisonIn (sImage {}) (.sm 0) 0 4864 = none ∧ leVal (rdBytes (sImage {}) (.sm 0) 40 8) = 1 ∧
      winFits false (BitVec.ofNat 64 (leVal (rdBytes (sImage {}) (.sm 0) 4608 8))) = true ∧
      winFits true (BitVec.ofNat 64 (leVal (rdBytes (sImage {}) (.sm 0) 4616 8))) = true) ∧
    (((sImage { imgBusy := true }).reach 0 127).task.imgBusy = true ∧
      Arrives (sImage { imgBusy := true }) .host 0 (.reach 0 127 0x20) (BitVec.ofNat 64 ((0 : BitVec 4).toNat + 0x20 + (0 : BitVec 27).toNat * 256)) ∧
      Arrives (sImage { imgBusy := true }) .host 0 (.reach 0 127 0x20) (BitVec.ofNat 64 ((0 : BitVec 4).toNat + 0x10 + (0 : BitVec 27).toNat * 256))) := by
  unfold Arrives; decide +kernel

/-! ### Instructions of the sequencer -/

/-- SCL fn of s2 and s3 into s1, status into s4. -/
def sScl (fn : Nat) : State := headed s0 (13 + 4 * 2 ^ 15 + fn * 2 ^ 24 + 2 ^ 29 + 2 * 2 ^ 34 + 3 * 2 ^ 39) [(2, 0x8000000000000000#64), (3, 65#64)]

theorem witness_scl : ∀ fn < 16, Issues (sScl fn) 0 0 (sclPlan (headJob (sScl fn) 0 0)) ∧ wOp (headJob (sScl fn) 0 0).word = 13 ∧
    SMap.sorted ((sScl fn).reach 0 0).s = true := by
  unfold Issues Undisturbed; decide +kernel

/-- R186's functions on A = 2^63 and B = 65. -/
theorem test_scl : (List.range 15).map (fun fn => ((after (.scl 0 0) (sScl fn)).reach 0 0).scalar 1) =
    [0x8000000000000041#64, 0x7FFFFFFFFFFFFFBF#64, 0, 0x8000000000000041#64, 0x8000000000000041#64, 0, 0x4000000000000000#64,
      0xC000000000000000#64, 0x8000000000000000#64, 0x8000000000000000#64, 65, 1, 0, 65, 10] := by
  decide +kernel

/-- BRC cond of s1 and s2, one instruction back of the second one. -/
def sBrc (cond : Nat) (a b : Word) : State :=
  (headed s0 0 [(1, a), (2, b)]).updReach 0 0 (fun r => { r with
    imem := imemAt 16 (14 + cond * 2 ^ 24 + 2 ^ 27 + 2 * 2 ^ 32 + 0xFFFFFFFF * 2 ^ 64), task := { r.task with pc := 16 } })

theorem witness_brc : (∀ c < 7, Issues (sBrc c 1 1) 0 0 (brcPlan 0 0 (headJob (sBrc c 1 1) 0 0)) ∧ wOp (headJob (sBrc c 1 1) 0 0).word = 14) ∧
    Issues (headed s0 (14 + 7 * 2 ^ 24)) 0 0 {} ∧ bvf (headJob (headed s0 (14 + 7 * 2 ^ 24)) 0 0).word 24 3 = 7 := by
  unfold Issues Undisturbed; decide +kernel

/-- The conditions of R187 on -1 and 1: a taken branch goes to 0, another to 32. -/
theorem test_brc : (List.range 7).map (fun c => ((after (.brc 0 0) (sBrc c 0xFFFFFFFFFFFFFFFF#64 1)).reach 0 0).task.pc) =
    [0, 32, 0, 0, 32, 32, 0] := by
  decide +kernel

/-- CSR of register `n`, to or from s1. -/
def sCsr (dir n : Nat) : State := headed s0 (15 + dir * 2 ^ 24 + 2 ^ 25 + n * 2 ^ 32) [(1, 0x1FFFF#64)]

theorem witness_csr :
    (Issues (sCsr 0 8) 0 0 (csrPlan (sCsr 0 8) 0 0 (headJob (sCsr 0 8) 0 0)) ∧ regSize (.reach 0 0 (8 * 8)) = 8) ∧
    (Issues (sCsr 0 0x4FE) 0 0 (csrPlan (sCsr 0 0x4FE) 0 0 (headJob (sCsr 0 0x4FE) 0 0)) ∧ regBase (.reach 0 0 (8 * 0x4FE)) = 8 * 0x4FE) ∧
    (Issues (sCsr 1 8) 0 0 (csrPlan (sCsr 1 8) 0 0 (headJob (sCsr 1 8) 0 0)) ∧ ((sCsr 1 8).reach 0 0).flights = []) ∧
    (Issues (sCsr 1 0x400) 0 0 (csrPlan (sCsr 1 0x400) 0 0 (headJob (sCsr 1 0x400) 0 0)) ∧
      Issues (sCsr 1 0x4FF) 0 0 (csrPlan (sCsr 1 0x4FF) 0 0 (headJob (sCsr 1 0x4FF) 0 0))) := by
  unfold Issues Undisturbed; decide +kernel

/-- TALY of tally 3 by s1 into s2, with tally 3 at value `v` and limit 5. -/
def sTaly (op v : Nat) : State :=
  (headed s0 (9 + 3 * 2 ^ 24 + op * 2 ^ 26 + 2 * 2 ^ 28 + 2 ^ 33 + 3 * 2 ^ 38) [(1, 7), (3, 9)]).updCluster 0 0 (fun c => { c with
    tally := [(3, BitVec.ofNat 64 (v + 5 * 2 ^ 32))] })

theorem witness_taly :
    (Issues (sTaly 0 4) 0 0 (talyPlan [1] (headJob (sTaly 0 4) 0 0)) ∧ bvf (tallyOf (sTaly 0 4) 0 0 3) 0 32 < bvf (tallyOf (sTaly 0 4) 0 0 3) 32 32 ∧
      claimFits (sTaly 0 4) 0 0 7 = true) ∧
    (Issues (sTaly 0 5) 0 0 (talyPlan [1] (headJob (sTaly 0 5) 0 0)) ∧ bvf (tallyOf (sTaly 0 5) 0 0 3) 32 32 ≤ bvf (tallyOf (sTaly 0 5) 0 0 3) 0 32) ∧
    Issues (sTaly 1 0) 0 0 (talyPlan [1, 3] (headJob (sTaly 1 0) 0 0)) ∧ Issues (sTaly 2 0) 0 0 (talyPlan [] (headJob (sTaly 2 0) 0 0)) := by
  unfold Issues Undisturbed; decide +kernel


/-! ### Instructions of the units -/

/-- MATB into slot 3 of a tile of 2 by 1 by 1 with profile 0 and no levels. -/
def sMatb : State :=
  (headed s0 (2 ^ 15 + 3 * 2 ^ 24 + 2 ^ 30 + 2 * 2 ^ 35 + 3 * 2 ^ 55 + 4 * 2 ^ 60 + 5 * 2 ^ 65) [(1, 0), (2, 16), (3, 2), (4, 1), (5, 1)]).updReach 0 0
    (fun r => { r with spad := [(0, 3#8), (16, 3#8)], spWin := 0x400000000000 })


theorem witness_matb :
    (Issues sMatb 0 0 (matPlan sMatb 0 0 (headJob sMatb 0 0)) ∧ (matRun sMatb 0 0 (headJob sMatb 0 0) 1).fault = none) ∧
    (walked (headJob sMatb 0 0).trv = [] ∧ 0 < (matCtx sMatb 0 0 (headJob sMatb 0 0)).K ∧
      (matCtx sMatb 0 0 (headJob sMatb 0 0)).K ≤ (prof (headJob sMatb 0 0).prof).chunk ∧ 0 < (matCtx sMatb 0 0 (headJob sMatb 0 0)).M ∧
      0 < (matCtx sMatb 0 0 (headJob sMatb 0 0)).N ∧ (sMatb.reach 0 0).spPoison = [] ∧ SMap.sorted (sMatb.reach 0 0).pool = true ∧
      (prof (headJob sMatb 0 0).prof).fn = 0 ∧ (prof (headJob sMatb 0 0).prof).sp = 0 ∧ (prof (headJob sMatb 0 0).prof).gs = false ∧
      (prof (headJob sMatb 0 0).prof).split = false ∧ (prof (headJob sMatb 0 0).prof).dziro = false ∧
      (prof (headJob sMatb 0 0).prof).paired = false ∧ (prof (headJob sMatb 0 0).prof).trunc = 0 ∧
      (prof (headJob sMatb 0 0).prof).shal = 0) := by
  unfold Issues Undisturbed; decide +kernel

/-- `s` with 16384 bytes in each window of reach 0 and bytes in both memories. -/
def windowed (s : State) : State :=
  (s.updReach 0 0 (fun r => { r with spWin := 0x400000000000, cbWin := 0x400000000000, spad := [(0, 1#8), (1, 2#8), (2, 0xFF#8)] })).updCluster 0 0
    (fun c => { c with buf := [(0, 1#8), (1, 2#8), (2, 3#8)] })

/-- MATL: a build of 3 elements at 0 into s6, or a look of the generation in s6. -/
def sMatl (isLook : Nat) (gen : Nat) : State :=
  windowed (headed s0 (1 + 2 ^ 15 + isLook * 2 ^ 24 + 3 * 2 ^ 25 + 7 * 2 ^ 31 + 8 * 2 ^ 36 + 2 * 2 ^ 41 + 7 * 2 ^ 46 + 6 * 2 ^ 51 + 3 * 2 ^ 56)
    [(2, 3), (3, 4), (6, BitVec.ofNat 64 gen)])

/-- Bank 1 of cluster 0 holds generation 1 of 3 elements. -/
def banked (s : State) (complete : Bool) : State := s.updCluster 0 0 (fun c => { c with
  rtGen := 1, bank1 := { gen := 1, live := true, complete := complete, e := 3, wc := 1, grid := [0, 1], table := [[0, 1], [0, 5], [0, 7]] } })

/-- A build of generation 1 in flight. -/
def buildFlight (w : Await) : Flight :=
  { no := 1, job := headJob (sMatl 0 0) 0 0, unit := .ratingTable, wait := w, rtGen := some 1 }

/-- A look of generation 1, whose build is in flight on reach 1. -/
def sStall : State := (banked (sMatl 1 1) false).updReach 0 1 (fun r => { r with flights := [buildFlight .none] })

/-- A package with that build in flight and generation 1 not complete. -/
def sBuild (w : Await) : State := (banked (sMatl 0 0) false).updReach 0 0 (fun r => { r with flights := [buildFlight w] })

theorem witness_rating_tables :
    (Issues (sMatl 0 0) 0 0 (buildPlan (sMatl 0 0) 0 0 (headJob (sMatl 0 0) 0 0)) ∧
      ((sMatl 0 0).cluster 0 (clusterOf (0 : ReachId))).poison = [] ∧ (sMatl 0 0).upsets = [] ∧ SMap.sorted ((sMatl 0 0).reach 0 0).s = true) ∧
    (waitingBuild (sBuild .build) 0 0 = some (0, buildFlight .build, 1) ∧ clusterOf 0 = (0 : ClusterId).val) ∧
    waitingBuild (sBuild .none) 0 0 = none ∧
    (isBuild (buildFlight .none) = true ∧ mayComplete ((sBuild .none).reach 0 0) (buildFlight .none) = true ∧
      ((sBuild .none).cluster 0 (clusterOf (0 : ReachId))).bank 1 = ((sBuild .none).cluster 0 0).bank1 ∧
      (sBuild .none).datum.gated = none ∧ ((sBuild .none).parcel 0).held = []) ∧
    (lookStalls (banked (sMatl 1 1) true) 0 0 (headJob (sMatl 1 1) 0 0) = false ∧
      Issues (banked (sMatl 1 1) true) 0 0 (lookPlan (banked (sMatl 1 1) true) 0 0 (headJob (banked (sMatl 1 1) true) 0 0)) ∧
      (prof (headJob (sMatl 1 1) 0 0).prof).gs = false ∧ (headJob (sMatl 1 1) 0 0).sv 41 = 3 ∧
      SMap.sorted ((banked (sMatl 1 1) true).reach 0 0).pool = true) ∧
    (lookStalls sStall 0 0 (headJob sStall 0 0) = true ∧ Issues sStall 0 0 (lookPlan sStall 0 0 (headJob sStall 0 0))) := by
  unfold Issues Undisturbed; decide +kernel

/-- RIFL of 2 vectors of 32 elements of 8 bits from 0 to 64 of the buffer window. -/
def sRifl : State := windowed (headed s0 (2 + 2 ^ 15 + 2 ^ 24 + 2 * 2 ^ 29 + 3 * 2 ^ 34) [(2, 64), (3, 2)])

/-- DLTA of slot 0 to 16 of the scratchpad window, one tile of `m` by 8 outputs, raw 32-bit outputs or codes of 8 bits. -/
def sDlta (kind : Nat) : State :=
  (windowed (headed s0 (3 + 2 ^ 15 + 2 * 2 ^ 34 + 2 ^ 39 + 3 * 2 ^ 64 + 4 * 2 ^ 69) [(2, 16), (3, 2), (4, 8)])).updReach 0 0 (fun r => { r with
    prof := [(0, BitVec.ofNat 256 (kind * 2 ^ 186 + 7 * 2 ^ 192 + 2 ^ 190))], trv := [(0, BitVec.ofNat 1024 (32 * 2 ^ 64))]
    spad := [(2, 0x80#8), (3, 0x3F#8)], pool := [(0, { v := 5, ovf := false }), (17, { v := 300, ovf := false })] })

theorem witness_riffle_and_delta :
    (Issues sRifl 0 0 (riflPlan sRifl 0 0 (headJob sRifl 0 0)) ∧ (sRifl.reach 0 0).cbBase = 0 ∧ (headJob sRifl 0 0).sv 24 = 0 ∧
      (headJob sRifl 0 0).sv 29 = 64 ∧ 2 * riflIn (prof (headJob sRifl 0 0).prof) ≤ 64 ∧
      2 ^ (prof (headJob sRifl 0 0).prof).rfN * (prof (headJob sRifl 0 0).prof).rfOut % 8 = 0 ∧ (sRifl.cluster 0 0).poison = [] ∧
      memWf (sRifl.cluster 0 0).buf = true) ∧
    (∀ k, k = 0 ∨ k = 4 → Issues (sDlta k) 0 0 (dltPlan (sDlta k) 0 0 (headJob (sDlta k) 0 0)) ∧
      dltTiles (headJob (sDlta k) 0 0) = 1 ∧ dltStat (headJob (sDlta k) 0 0) = 0 ∧ (prof (headJob (sDlta k) 0 0).prof).gqMode = 0 ∧
      (prof (headJob (sDlta k) 0 0).prof).stoch = false ∧ (prof (headJob (sDlta k) 0 0).prof).zb = false ∧
      bvb (headJob (sDlta k) 0 0).word 76 = false ∧ normWidth ((sDlta k).reach 0 0) (headJob (sDlta k) 0 0) = none ∧
      factorFault (sDlta k) 0 0 (headJob (sDlta k) 0 0) (dltTile (headJob (sDlta k) 0 0) 0) 0 = none ∧
      dltRows (headJob (sDlta k) 0 0) (dltTile (headJob (sDlta k) 0 0) 0) = 2 ∧
      dltCols (headJob (sDlta k) 0 0) (dltTile (headJob (sDlta k) 0 0) 0) = 8 ∧
      0 < outBits ((sDlta k).cluster 0 0) (prof (headJob (sDlta k) 0 0).prof) ∧
      8 * outBits ((sDlta k).cluster 0 0) (prof (headJob (sDlta k) 0 0).prof) % 8 = 0 ∧
      outBits ((sDlta k).cluster 0 0) (prof (headJob (sDlta k) 0 0).prof) ≤ trvStride (headJob (sDlta k) 0 0).trv 2 ∧
      ((sDlta k).reach 0 0).spPoison = [] ∧ memWf ((sDlta k).reach 0 0).spad = true) := by
  refine ⟨by unfold Issues Undisturbed; decide +kernel, ?_⟩
  rintro k (rfl | rfl) <;> unfold Issues Undisturbed <;> decide +kernel

/-- The two outputs leave as codes of 8 bits, the larger one clamped to 127. -/
theorem test_delta_codes : [rdByte (after (.dlta 0 0) (sDlta 0)) (.sp 0 0) 16, rdByte (after (.dlta 0 0) (sDlta 0)) (.sp 0 0) 49] =
    [5#8, 127#8] := by decide +kernel

/-- MOVE of 3 bytes, from s1 to s2 on `route`. -/
def sMove (route eng n src dst : Nat) : State :=
  ((windowed (headed s0 (4 + 2 ^ 15 + route * 2 ^ 24 + eng * 2 ^ 28 + 2 ^ 32 + 2 * 2 ^ 37 + 3 * 2 ^ 57)
    [(1, BitVec.ofNat 64 src), (2, BitVec.ofNat 64 dst), (3, BitVec.ofNat 64 n)])).updReach 0 0 (fun r => { r with
      trv := [(0, BitVec.ofNat 1024 (3 + 2 ^ 256 * (2 + 2 ^ 29 + 2 ^ 32 + 2 ^ 64)))] })).updReach 0 1 (fun r => { r with spWin := 0x400000000000 })

/-- What DenseMovesWrite asks of a state. -/
def denseOk (s : State) (f : MvForm) : Bool :=
  let j := headJob s 0 0
  let dst := (mvDst s 0 0 j).space 0 0
  mvForm s 0 j == f && !mvEmpty j && (mvBlocked s 0 0 j).isNone &&
    (moveRun s 0 0 j).bad.isNone && (poisoned s dst).isEmpty && memWf (cells s dst)

theorem witness_local_copy :
    ∃ lv, mvLs (headJob (sMove 6 0 3 0 5) 0 0) = [lv] ∧ lv.sa = 1 ∧ lv.sw = 1 ∧ lv.n = 3 ∧ lv.ext = 3 ∧ lv.n * 1 ≤ 512 ∧
      mvOrg (headJob (sMove 6 0 3 0 5) 0 0).trv lv.dim = 0 ∧ mvEw (headJob (sMove 6 0 3 0 5) 0 0).trv = 8 * 1 :=
  ⟨{ no := 0, dim := 0, n := 3, ext := 3, sa := 1, sw := 1, so := 0 }, by decide +kernel⟩

theorem witness_dense_moves :
    (Issues (sMove 3 0 3 0 5) 0 0 (mvPlan (sMove 3 0 3 0 5) 0 0 (headJob (sMove 3 0 3 0 5) 0 0)) ∧ denseOk (sMove 3 0 3 0 5) .plain = true) ∧
    (Issues (sMove 5 1 3 0 5) 0 0 (mvPlan (sMove 5 1 3 0 5) 0 0 (headJob (sMove 5 1 3 0 5) 0 0)) ∧ denseOk (sMove 5 1 3 0 5) .plain = true) ∧
    (Issues (sMove 9 0 3 0 64) 0 0 (mvPlan (sMove 9 0 3 0 64) 0 0 (headJob (sMove 9 0 3 0 64) 0 0)) ∧ denseOk (sMove 9 0 3 0 64) .imem = true) ∧
    (Issues (sMove 6 0 3 0 0x80005) 0 0 (mvPlan (sMove 6 0 3 0 0x80005) 0 0 (headJob (sMove 6 0 3 0 0x80005) 0 0)) ∧
      denseOk (sMove 6 0 3 0 0x80005) .halo = true) ∧
    (Issues (sMove 6 0 3 0 5) 0 0 (mvPlan (sMove 6 0 3 0 5) 0 0 (headJob (sMove 6 0 3 0 5) 0 0)) ∧ denseOk (sMove 6 0 3 0 5) .localCopy = true) ∧
    (Issues (sMove 3 0 0 0 5) 0 0 (mvPlan (sMove 3 0 0 0 5) 0 0 (headJob (sMove 3 0 0 0 5) 0 0)) ∧
      mvEmpty (headJob (sMove 3 0 0 0 5) 0 0) = true) ∧
    (∃ lv, mvLs (headJob (sMove 3 0 3 0 5) 0 0) = [lv] ∧ lv.sa = 1 ∧ lv.sw = 1 ∧ lv.n = 3 ∧ lv.ext = 3 ∧
      mvOrg (headJob (sMove 3 0 3 0 5) 0 0).trv lv.dim = 0 ∧ mvEw (headJob (sMove 3 0 3 0 5) 0 0).trv = 8 * 1) ∧
    ((mvSrc (sMove 3 0 3 0 5) 0 0 (headJob (sMove 3 0 3 0 5) 0 0)).key = none ∧
      (mvDst (sMove 3 0 3 0 5) 0 0 (headJob (sMove 3 0 3 0 5) 0 0)).key = none ∧ NonePosted (sMove 3 0 3 0 5) 0 0) := by
  refine ⟨by unfold Issues Undisturbed; decide +kernel, by unfold Issues Undisturbed; decide +kernel, by unfold Issues Undisturbed; decide +kernel,
    by unfold Issues Undisturbed; decide +kernel, by unfold Issues Undisturbed; decide +kernel, by unfold Issues Undisturbed; decide +kernel,
    ⟨{ no := 0, dim := 0, n := 3, ext := 3, sa := 1, sw := 1, so := 0 }, by decide +kernel⟩, by unfold NonePosted; decide +kernel⟩

/-- A key of two bits from bit 6 to bit 2 keeps its source clear of its target. -/
theorem witness_swizzle : bvf (0xC42#64 : Word) 0 6 + (bvf (0xC42#64 : Word) 6 3 + 1) ≤ bvf (0xC42#64 : Word) 9 6 := by decide

/-- The vectors of a chunk of two lanes. -/
theorem witness_chunk : (prof 0).fn = 0 ∧ (prof 0).split = false ∧ (prof 0).trunc = 0 ∧ (prof 0).shal = 0 ∧ 0 + 2 ≤ 2 ∧
    (∀ a ∈ [1, 1], a < 2 ^ (prof 0).a') ∧ 0 < (prof 0).a' ∧ 0 < (prof 0).w := by decide +kernel

/-- Plane 0 of two even elements is dry. -/
theorem witness_dry (i j : Nat) (h : (fun x (_ : Nat) => x == 0) i j = true) :
    (planes (prof 0).a' [2, 2]).getD i 0 &&& ((2 ^ 2 - 1) * 2 ^ 0) = 0 := by
  obtain rfl : i = 0 := by simpa using h
  decide +kernel

/-- CASC of slot 2 on reach 0 of a chain of reaches 0 to `last` with the two port codes and tag 7; one pool entry is 5. -/
def sCasc (last inp outp : Nat) : State :=
  (headed s0 (7 + 2 ^ 15 + 2 * 2 ^ 24 + last * 2 ^ 36 + inp * 2 ^ 43 + outp * 2 ^ 47 + 2 ^ 51) [(1, 7)]).updReach 0 0 (fun r => { r with
    pool := [(512, { v := 5, ovf := false })] })

/-- The CASC of `sCasc`, waiting for its predecessor. -/
def cascFlight (last inp outp : Nat) : Flight :=
  { no := 1, job := headJob (sCasc last inp outp) 0 0, unit := .cascadePort, wait := .cascadeIn }

/-- That CASC in flight, with the sum `x` of its parcel. -/
def sHop (last inp outp : Nat) (xs : List CascadeSum) : State :=
  ((sCasc last inp outp).updReach 0 0 (fun r => { r with flights := [cascFlight last inp outp] })).updParcel 0 (fun x => { x with sums := xs })

/-- A sum for reach 0 that came through a ring port. -/
def sum0 : CascadeSum := { dest := 129, first := 0, last := 0, tag := 7, paired := false, hop := 0, vals := (3, false) :: List.replicate 255 (0, true) }

/-- A cascade tile with tag 7. -/
def tile : Packet := { ptype := 4, dst := 0, src := 0, via := 0, viaEn := false, dir0 := 0, dir1 := 0, id := 0, gen := 0, win := 0
                       off := 0, stamp := 10, tag := 7, pver := 1, body := List.replicate 1280 1 }

theorem witness_cascades :
    (Issues (sCasc 1 0 0) 0 0 (cascPlan 0 (headJob (sCasc 1 0 0) 0 0)) ∧ caFirst (headJob (sCasc 1 0 0) 0 0) = 0 ∧
      caIn (headJob (sCasc 1 0 0) 0 0) = 0 ∧ caLast (headJob (sCasc 1 0 0) 0 0) = 1) ∧
    (Issues (sCasc 1 1 0) 0 0 (cascPlan 0 (headJob (sCasc 1 1 0) 0 0)) ∧ caIn (headJob (sCasc 1 1 0) 0 0) = 1) ∧
    (Issues (sCasc 1 9 0) 0 0 (cascPlan 0 (headJob (sCasc 1 9 0) 0 0)) ∧ portOfCode (caIn (headJob (sCasc 1 9 0) 0 0)) = some .zn) ∧
    (cascWaiting (sHop 0 1 0 [sum0]) 0 0 = some (cascFlight 0 1 0) ∧
      ((sHop 0 1 0 [sum0]).parcel 0).sums.find? (fun y => sumFor (sHop 0 1 0 [sum0]) 0 0 (cascFlight 0 1 0).job y && !y.vals.isEmpty) = some sum0 ∧
      tagDiffers ((sHop 0 1 0 [sum0]).reach 0 0).paired false 2 = false ∧ sum0.vals.length = 256 ∧
      (∀ v ∈ sum0.vals, guardLo false ≤ v.1 ∧ v.1 ≤ guardHi false) ∧ SMap.sorted ((sHop 0 1 0 [sum0]).reach 0 0).pool = true) ∧
    (predecessorLost (sHop 0 1 0 []) 0 0 (cascFlight 0 1 0).job = true ∧ cascWaiting s0 0 0 = none) ∧
    (cascWaiting (sHop 0 9 0 []) 0 0 = some (cascFlight 0 9 0) ∧ predecessorLost (sHop 0 9 0 []) 0 0 (cascFlight 0 9 0).job = false ∧
      ((sHop 0 9 0 []).parcel 0).sums.any (fun x => sumFor (sHop 0 9 0 []) 0 0 (cascFlight 0 9 0).job x && x.vals.isEmpty) = false ∧
      caFirst (cascFlight 0 9 0).job = 0 ∧ riverCode (caIn (cascFlight 0 9 0).job) = true) ∧
    (tooOld (sHop 0 9 0 []) tile = false ∧ tile.pver.toNat ≤ ((sHop 0 9 0 []).parcel 0).fab.linkMax.toNat ∧
      SMap.find ((sHop 0 9 0 []).parcel 0).fab.genRec tile.src.toNat = none ∧ (tileReach (sHop 0 9 0 []) 0 .zn 7).isSome = true) := by
  unfold Issues Undisturbed; decide +kernel

/-- A river link that is UP. -/
def sRiver : State := s0.updParcel 0 (fun x => { x with links := (portNo .xp, { state := .up }) :: x.links })

theorem witness_tokens : (sRiver.link 0 .xp).state = .up ∧ isRiver .xp = true ∧ tokenReach sRiver 0 .xp 7 = none ∧
    (s0.link 0 .xp).state ≠ .up := by decide +kernel

/-- CONF of a 2 by 1 part of slot 2 to address 64 with rows 8 apart. -/
def sConfl : State :=
  (headed s0 (8 + 2 ^ 15 + 2 * 2 ^ 24 + 2 ^ 29 + 2 * 2 ^ 34 + 3 * 2 ^ 39 + 4 * 2 ^ 44) [(1, 64), (2, 8), (3, 2), (4, 1)]).updReach 0 0 (fun r => { r with
    pool := [(512, { v := 5, ovf := false })] })

/-- An add of `v` to address 64, and a region that holds it. -/
def sAdd (v : Int) (on : Bool) : State := (sConfl.updReach 0 0 (fun r => { r with
    flights := [{ no := 1, job := headJob sConfl 0 0, unit := .reachDma, wait := .adds 2 }] })).updParcel 0 (fun x => { x with
  adds := [{ addr := 64, wide := false, value := v, dev := 0, parcel := 0, reach := 0, flight := 1 }]
  region := if on then [(0, BitVec.ofNat 64 (1 + 2 ^ 40))] else [], mem := [(64, 0xFF#8), (65, 0xFF#8), (66, 0xFF#8), (67, 0x7F#8)] })

/-- A confluence row of columns 0 and 15. -/
def row : Packet := { tile with ptype := 2, body := leBytes 8 64 ++ leBytes 2 0x8001 ++ leBytes 6 0 ++ List.replicate 64 1 }

/-- A row of reach 0 waits for its answer since count 10. -/
def sRow (now : Nat) : State := { (sAdd 1 true).updFab 0 (fun f => { f with
  rows := [{ id := 3, chan := 0, count := 10, reach := 0, flight := 1, adds := 2 }] }) with datum := { count := now, state := .cabled } }

/-- The answer packet of that row. -/
def rowAnswer : Packet := { tile with ptype := 3, id := 3, stamp := 20, body := [0, 0] }

/-- Two adds that arrive together, of reaches 0 and 1. -/
def add0 : ConfAdd := { addr := 64, wide := false, value := 1, dev := 0, parcel := 0, reach := 0, flight := 1 }
def add1 : ConfAdd := { add0 with reach := 1 }

theorem witness_confluences :
    (Issues sConfl 0 0 (confPlan sConfl 0 0 (headJob sConfl 0 0)) ∧ cfRemote sConfl (headJob sConfl 0 0) = false ∧
      (∀ o ∈ confOuts (sConfl.reach 0 0) (headJob sConfl 0 0), sysParcel (cfAddr (headJob sConfl 0 0) o.1 o.2.1) = 0)) ∧
    (((sAdd 1 true).parcel 0).state ≠ .contain ∧
      addRegion (sAdd 1 true) 0 { addr := 64, wide := false, value := 1, dev := 0, parcel := 0, reach := 0, flight := 1 } = some 0 ∧
      ((sAdd 1 true).parcel 0).poison = [] ∧ (sAdd 1 true).upsets = [] ∧ memWf ((sAdd 1 true).parcel 0).mem = true) ∧
    addRegion (sAdd 1 false) 0 { addr := 64, wide := false, value := 1, dev := 0, parcel := 0, reach := 0, flight := 1 } = none ∧
    (tooOld s0 row = false ∧ (List.range 16).filter (fun c => (leVal ((row.body.drop 8).take 2)).testBit c) = [0, 15]) ∧
    (∀ c, ((sRow c).parcel 0).fab.rows.find? (fun y => y.id == 3) = some { id := 3, chan := 0, count := 10, reach := 0, flight := 1, adds := 2 }) ∧
    (inInbox (sRow 25) 0 3 3 = none ∧ (∀ k, k = rowAnswer ∨ k = { rowAnswer with stamp := 0xFFFFFF00 } →
      inInbox ((sRow 25).updFab 0 (fun f => { f with inbox := [(0, k)] })) 0 3 3 = some k) ∧
      tooOld (sRow 25) rowAnswer = false ∧ tooOld (sRow 25) { rowAnswer with stamp := 0xFFFFFF00 } = true) ∧
    (add0.arrived = add1.arrived ∧ add0.sourceKey < add1.sourceKey) ∧
    (10 + 2 * bvf (sRow 26).hub.torus 32 8 ≤ (sRow 26).datum.count ∧ (sRow 25).datum.count < 10 + 2 * bvf (sRow 25).hub.torus 32 8) := by
  refine ⟨by unfold Issues Undisturbed; decide +kernel, by decide +kernel, by decide +kernel, by decide +kernel, fun c => rfl, ⟨by decide +kernel, ?_, by decide +kernel⟩, by decide +kernel,
    by decide +kernel⟩
  rintro k (rfl | rfl) <;> decide +kernel

/-- A package whose stacked memory of parcel 0 holds `m`, with MOVE `route` from s1 to s2. -/
def sPool (route : Nat) (m : Mem) : State := (sMove route 0 3 0x1000 0x1000).updParcel 0 (fun x => { x with mem := m })

/-- The tags of a pool image at 0x1000 that pair, and tags that do not. -/
def tagged (b : Byte) : Mem := [(0x1000, 9#8), (0x11000, b)]

theorem witness_pool_moves :
    (Issues (sPool 10 []) 0 0 (mvPlan (sPool 10 []) 0 0 (headJob (sPool 10 []) 0 0)) ∧ mvForm (sPool 10 []) 0 (headJob (sPool 10 []) 0 0) = .poolSave ∧
      ((sPool 10 []).parcel 0).poison = [] ∧ memWf ((sPool 10 []).parcel 0).mem = true ∧
      (mvDst (sPool 10 []) 0 0 (headJob (sPool 10 []) 0 0)).key = none) ∧
    (Issues (sPool 11 (tagged 3)) 0 0 (mvPlan (sPool 11 (tagged 3)) 0 0 (headJob (sPool 11 (tagged 3)) 0 0)) ∧
      mvForm (sPool 11 (tagged 3)) 0 (headJob (sPool 11 (tagged 3)) 0 0) = .poolRestore ∧
      (∀ i < 16, (leVal (rdBytes (sPool 11 (tagged 3)) (.sm 0) 0x11000 4)).testBit (2 * i) =
        (leVal (rdBytes (sPool 11 (tagged 3)) (.sm 0) 0x11000 4)).testBit (2 * i + 1))) ∧
    (leVal (rdBytes (sPool 11 (tagged 1)) (.sm 0) 0x11000 4)).testBit (2 * 0) ≠
      (leVal (rdBytes (sPool 11 (tagged 1)) (.sm 0) 0x11000 4)).testBit (2 * 0 + 1) := by
  unfold Issues Undisturbed; decide +kernel

/-- Channel 0 of parcel 0 is `w`; reach 0 sends 3 bytes to it. -/
def sSend (w : Nat) : State := (sMove 1 0 3 0 0x600000040).updFab 0 (fun f => { f with chan := [(0, BitVec.ofNat 128 w)] })

/-- The same, with every identifier taken at count 10. -/
def sNoId : State := (sSend 1).updFab 0 (fun f => { f with idLast := [(0, 10)] })

/-- The message waits for an identifier, which is now free. -/
def sWaits : State := (sSend 1).updReach 0 0 (fun r => { r with
  flights := [{ no := 1, job := headJob (sSend 1) 0 0, unit := .reachDma, wait := .msgId }] })

theorem witness_messages_leave :
    (Issues (sSend 1) 0 0 (mvPlan (sSend 1) 0 0 (headJob (sSend 1) 0 0)) ∧ mvForm (sSend 1) 0 (headJob (sSend 1) 0 0) = .message ∧
      mvEmpty (headJob (sSend 1) 0 0) = false ∧ mvBlocked (sSend 1) 0 0 (headJob (sSend 1) 0 0) = none ∧
      (messageRun (sSend 1) 0 0 (headJob (sSend 1) 0 0)).bad = none ∧ messageHeld (sSend 1) 0 0 (headJob (sSend 1) 0 0) = false ∧
      Sendable (sSend 1) 0 0) ∧
    (Issues (sSend 0) 0 0 (mvPlan (sSend 0) 0 0 (headJob (sSend 0) 0 0)) ∧ messageHeld (sSend 0) 0 0 (headJob (sSend 0) 0 0) = false) ∧
    (Issues sNoId 0 0 (mvPlan sNoId 0 0 (headJob sNoId 0 0)) ∧ messageHeld sNoId 0 0 (headJob sNoId 0 0) = true) ∧
    (((sWaits.reach 0 0).flights.find? (fun f => decide (f.wait = .msgId))).isSome = true ∧
      messageHeld sWaits 0 0 (headJob (sSend 1) 0 0) = false ∧ (∀ g ∈ (sWaits.reach 0 0).flights, g.wait ≠ .turn) ∧ sWaits.upsets = []) := by
  unfold Issues Undisturbed Sendable; decide +kernel

/-- A MOVE of one vector of 4 bytes with compression `comp`. -/
def sComp (comp route : Nat) : State :=
  ((sMove route 0 4 (if comp = 1 then 0 else 2) 0x100).updReach 0 0 (fun r => { r with
    imem := imemAt 0 (4 + 2 ^ 15 + route * 2 ^ 24 + comp * 2 ^ 29 + 2 ^ 32 + 2 * 2 ^ 37 + 4 * 2 ^ 42 + 3 * 2 ^ 57)
    s := [(1, if comp = 1 then 0 else 2), (2, 0x100), (3, 4), (4, 0x40)]
    trv := [(0, BitVec.ofNat 1024 (3 + 2 ^ 256 * (3 + 2 ^ 29 + 2 ^ 32 + 2 ^ 64)))] })).updCluster 0 0 (fun c => { c with
      buf := if comp = 1 then cellsOf 0 (encodeBlock 8 0 [(1, 0x51), (3, 0x53)]) |>.filter (fun x => x.2 != 0) else c.buf })

/-- What CompressedAndListedMoves asks of a state. -/
def compOk (s : State) (f : MvForm) (x : CompRun) : Bool :=
  let j := headJob s 0 0
  let dst := (mvDst s 0 0 j).space 0 0
  mvForm s 0 j == f && (mvBlocked s 0 0 j).isNone && x.fail.isNone && (poisoned s dst).isEmpty && memWf (cells s dst) &&
    memWf (s.reach 0 0).spad

theorem witness_compressed_moves :
    (Issues (sComp 1 2) 0 0 (mvPlan (sComp 1 2) 0 0 (headJob (sComp 1 2) 0 0)) ∧
      compOk (sComp 1 2) .expand ((mvVecs (headJob (sComp 1 2) 0 0)).foldl (expandVec (sComp 1 2) 0 0 (headJob (sComp 1 2) 0 0)) {}) = true) ∧
    (Issues (sComp 2 3) 0 0 (mvPlan (sComp 2 3) 0 0 (headJob (sComp 2 3) 0 0)) ∧ compOk (sComp 2 3) .unstructured
      (storeRun (sComp 2 3) 0 0 (headJob (sComp 2 3) 0 0) (makeUnstructured (headJob (sComp 2 3) 0 0))) = true) ∧
    (Issues (sComp 3 3) 0 0 (mvPlan (sComp 3 3) 0 0 (headJob (sComp 3 3) 0 0)) ∧ compOk (sComp 3 3) .store24
      (storeRun (sComp 3 3) 0 0 (headJob (sComp 3 3) 0 0) (make24 (headJob (sComp 3 3) 0 0))) = true) ∧
    (Issues (sComp 4 3) 0 0 (mvPlan (sComp 4 3) 0 0 (headJob (sComp 4 3) 0 0)) ∧ compOk (sComp 4 3) .masked24
      (storeRun (sComp 4 3) 0 0 (headJob (sComp 4 3) 0 0) (makeMasked (headJob (sComp 4 3) 0 0))) = true) := by
  unfold Issues Undisturbed; decide +kernel

/-- GATH (op 5) or SCAT (op 6) of `n` elements on level 0, through the indices at 32 of the scratchpad, or through the
list at 0x1000 of stacked memory. -/
def sGath (op eng n : Nat) (ok : Bool := true) : State :=
  ((windowed (headed s0 (op + 2 ^ 15 + eng * 2 ^ 28 + 2 ^ 29 + 2 * 2 ^ 34 + 3 * 2 ^ 39 + 4 * 2 ^ 44)
    [(1, if eng = 0 then 2 ^ 62 else 0), (2, if eng = 0 then 32 else 0x1000), (3, BitVec.ofNat 64 (2 ^ 63 + 64)), (4, BitVec.ofNat 64 n)])).updReach 0 0 (fun r => { r with
      spad := [(0, 1#8), (32, 1#8), (64, 7#8), (65, 8#8)], trv := [(0, BitVec.ofNat 1024 (3 + 2 ^ 256 * (1 + 2 ^ 29 + 2 ^ 32 + 2 ^ 64)))] })).updParcel 0 (fun x => { x with
        mem := [(0x1001, 0x20#8), (0x1007, 0x80#8), (0x1009, 0x30#8), (0x100F, if ok then 0x80#8 else 0x40#8), (0x2000, 0x11#8), (0x3000, 0x22#8)] })

theorem witness_listed_moves : ∀ op, op = 5 ∨ op = 6 →
    (Issues (sGath op 0 0) 0 0 (gsPlan (sGath op 0 0) 0 0 (headJob (sGath op 0 0) 0 0)) ∧ gsCnt (headJob (sGath op 0 0) 0 0) = 0) ∧
    (Issues (sGath op 0 2) 0 0 (gsPlan (sGath op 0 2) 0 0 (headJob (sGath op 0 2) 0 0)) ∧
      (((gsCounts (headJob (sGath op 0 2) 0 0)).zip (gsPoints (sGath op 0 2) 0 0 (headJob (sGath op 0 2) 0 0))).foldl
        (indexedStep (sGath op 0 2) 0 0 (headJob (sGath op 0 2) 0 0) (gsDense (sGath op 0 2) 0 0 (headJob (sGath op 0 2) 0 0))) {}).bad = none ∧
      poisoned (sGath op 0 2) ((gsDst 0 (headJob (sGath op 0 2) 0 0)).space 0 0) = [] ∧
      memWf (cells (sGath op 0 2) ((gsDst 0 (headJob (sGath op 0 2) 0 0)).space 0 0)) = true) ∧
    (Issues (sGath op 1 2) 0 0 (gsPlan (sGath op 1 2) 0 0 (headJob (sGath op 1 2) 0 0)) ∧ gsParcel (headJob (sGath op 1 2) 0 0) = true ∧
      listStop (sGath op 1 2) 0 0 (headJob (sGath op 1 2) 0 0) = none ∧ (listRun (sGath op 1 2) 0 0 (headJob (sGath op 1 2) 0 0) none).bad = none ∧
      memWf (cells (sGath op 1 2) ((gsLocSide 0 (headJob (sGath op 1 2) 0 0)).space 0 0)) = true ∧ memWf ((sGath op 1 2).parcel 0).mem = true) ∧
    (listStop (sGath op 1 2 false) 0 0 (headJob (sGath op 1 2 false) 0 0) = some 1 ∧
      entryBad (sGath op 1 2 false) 0 0 (headJob (sGath op 1 2 false) 0 0) 1 = some 0 ∧
      (listRun (sGath op 1 2 false) 0 0 (headJob (sGath op 1 2 false) 0 0) (some 1)).bad = none) := by
  rintro op (rfl | rfl) <;> unfold Issues Undisturbed <;> decide +kernel

/-- Codes of 2^3 bits whose zero code is 0. -/
theorem witness_blocks : (3 : Nat) ≤ 4 ∧ [5, 0, 12].length ≤ 128 ∧ (∀ c ∈ [5, 0, 12], c < 2 ^ 2 ^ 3) ∧ 0 + [5, 0, 12].length ≤ 3 ∧
    (∀ x ∈ [(3, 5), (9, 12)], x.1 < 128) := by decide

/-! ### Stakes, schedule, stay, states -/

/-- The STAK of `sStak kind 10`, which waits for its stake. -/
def sWaiting (kind : Nat) (next : Nat := 0) : State := (sStak kind 10).updReach 0 0 (fun r => { r with
  imem := cellsOf 16 (leBytes 16 next) |>.foldl (fun m c => memSet m c.1 c.2) r.imem
  task := { r.task with wait := .stake { count := 10 } (kind == 1) } })

/-- The step denied for its budget. -/
def sDenied : State := { sWaiting 1 (10 + 2 ^ 24) with hub := { (sWaiting 1 0).hub with pwr := { limit := 120 } } }

/-- `Alone` where no schedule entry stands and no snapshot is due. -/
def aloneOk (s : State) (p l : Nat) : Bool :=
  s.hub.sched.isEmpty && !(s.parcel p).mon.snapDue && decide (s.datum.state ≠ .unset) && s.datum.gated.isNone &&
    SMap.sorted (s.parcel p).reaches && !changeWaits s p && !(s.parcel p).pwr.capWait &&
    (s.parcel p).reaches.all (fun x => !x.2.task.failing && (x.1 == l || (reachBound s p x.1 x.2 (s.now p)).isEmpty))

theorem alone_of_aloneOk (s : State) (p l : Nat) (h : aloneOk s p l = true) : Alone s p l := by
  simp only [aloneOk, Bool.and_eq_true, Bool.not_eq_true', List.isEmpty_iff, decide_eq_true_eq, Option.isNone_iff_eq_none,
    List.all_eq_true, Bool.or_eq_true, beq_iff_eq] at h
  obtain ⟨⟨⟨⟨⟨⟨⟨h1, h2⟩, h3⟩, h4⟩, h5⟩, h6⟩, h7⟩, h8⟩ := h
  exact ⟨h3, h4, h5, h6, h7, fun st => by simp [schedHolds, h1, h2], fun x hx => (h8 x hx).1,
    fun x hx hl => (h8 x hx).2.resolve_left hl⟩

theorem witness_alone : ∀ s ∈ [sWaiting 0, sWaiting 1, sDenied], Alone s 0 0 := by
  intro s hs
  exact alone_of_aloneOk s 0 0 ((by decide +kernel : ∀ s ∈ [sWaiting 0, sWaiting 1, sDenied], aloneOk s 0 0 = true) s hs)

theorem witness_stakes_reached :
    (SMap.sorted ((sWaiting 0).reach 0 0).s = true ∧ ({ count := 10 } : Stake).le ((sWaiting 0).now 0) = true ∧
      ((sWaiting 0).reach 0 0).task.step = none ∧ ((sWaiting 0).reach 0 0).task.drain = false ∧ ((sWaiting 0).reach 0 0).flights = [] ∧
      held (sWaiting 0) 0 0 (headJob (sWaiting 0) 0 0) {} = false ∧ ((sWaiting 0).reach 0 0).task.issuing = true ∧
      wOp (headJob (sWaiting 0) 0 0).word = 10 ∧ bvf (headJob (sWaiting 0) 0 0).word 24 3 = 0) ∧
    (held (sWaiting 1) 0 0 (headJob (sWaiting 1) 0 0) {} = false ∧ opensSteps (sWaiting 1) 0 = true ∧
      denial (sWaiting 1) 0 (stepRate 100 4000 ((sWaiting 1).nc 0) (sWaiting 1).tickNs) 4000 = none ∧
      ((sWaiting 1).now 0).lt (({ count := 10 } : Stake).plus 4000 ((sWaiting 1).nc 0)) = true) ∧
    (held sDenied 0 0 (headJob sDenied 0 0) {} = false ∧ opensSteps sDenied 0 = true ∧
      (denial sDenied 0 (stepRate 100 4000 (sDenied.nc 0) sDenied.tickNs) 4000).isSome = true ∧
      wOp (fetchWord (sDenied.reach 0 0) 16) = 10 ∧ bvf (fetchWord (sDenied.reach 0 0) 16) 24 3 = 1) := by
  decide +kernel

/-- An armed MOVE whose stake has come. -/
def sArmed : State := (sMove 3 0 3 0 5).updReach 0 0 (fun r => { r with
  task := { r.task with pc := 16 }, flights := [{ no := 1, job := headJob (sMove 3 0 3 0 5) 0 0, unit := .reachDma, wait := .stake { count := 10 } }] })

/-- A step that closes now, with the flights `fs`. -/
def sStep (o : OpenStep) (fs : List Flight) : State := (sStak 1 12).updReach 0 0 (fun r => { r with
  task := { r.task with step := some o }, flights := fs })

/-- A step from tick 9 to tick 10. -/
def step0 : OpenStep := { opening := { count := 9 }, closing := { count := 10 }, abort := false, alw := 0, rate := 0 }

/-- A flight of the step, waiting for `w`. -/
def stepFlight (w : Await) : Flight := { flight 1 4 .reachDma with inStep := true, wait := w }

/-- The states in which a step closes: its work finished, its work left, and under abort with work running or not started. -/
def closingStates : List State := [sArmed, sStep step0 [], sStep step0 [stepFlight .none], sStep { step0 with abort := true } [stepFlight .none],
  sStep { step0 with abort := true } [stepFlight (.stake { count := 11 })]]

theorem witness_steps_alone : ∀ s ∈ closingStates, Alone s 0 0 := by
  intro s hs
  exact alone_of_aloneOk s 0 0 ((by decide +kernel : ∀ s ∈ closingStates, aloneOk s 0 0 = true) s hs)

theorem witness_steps_close :
    (Undisturbed sArmed 0 0 ∧ (sArmed.reach 0 0).task.step = none ∧ wOp (headJob (sMove 3 0 3 0 5) 0 0).word = 4) ∧
    workFinished ((sStep step0 []).reach 0 0) { count := 10 } = true ∧
    workFinished ((sStep step0 [stepFlight .none]).reach 0 0) { count := 10 } = false ∧
    (NonePosted (sStep { step0 with abort := true } [stepFlight .none]) 0 0 ∧ (stepFlight (.stake { count := 11 })).wait.unstarted = true ∧
      (stepFlight .none).wait.unstarted = false ∧
      wOp (headJob (sStep { step0 with abort := true } [stepFlight .none]) 0 0).word = 10 ∧
      bvf (headJob (sStep { step0 with abort := true } [stepFlight .none]) 0 0).word 24 3 = 1) ∧
    (workFinished ((sStep { step0 with stretched := true } []).reach 0 0) { count := 10 } = true) ∧
    bounds s0 0 = [] := by
  unfold Undisturbed NonePosted; decide +kernel

/-- Schedule entry 0 is valid for tick 9, with action `k`, parcel 0 in its mask when `m` is 1, and a parameter; entry 1 is due
with it. -/
def sEntry (k m arg : Nat) (verified : Bool := true) : State := s0.updHub (fun h => { h with
  sched := [(0, BitVec.ofNat 128 (1 + k * 2 + m * 16 + arg * 2 ^ 16 + 9 * 2 ^ 64)), (1, BitVec.ofNat 128 (1 + 3 * 2 + 9 * 2 ^ 64))], fw := { h.fw with bank1 := { h.fw.bank1 with verified := verified } } })

theorem witness_schedule_fires :
    (∀ k < 5, bvb (schedEntry (sEntry k 1 1) 0) 0 = true ∧ (sEntry k 1 1).datum.gated = none ∧ (sEntry k 1 1).datum.state ≠ .unset ∧
      bvf (schedEntry (sEntry k 1 1) 0) 64 64 ≤ (sEntry k 1 1).datum.count ∧ bvf (schedEntry (sEntry k 1 1) 0) 1 3 = k ∧
      (sEntry k 1 1).phase = 0) ∧
    (∀ k < 5, k ≠ 0 → ∀ a ∈ (sEntry k 1 1).hub.sched, bvb a.2 0 = true → bvf a.2 64 64 ≤ (sEntry k 1 1).datum.count →
      schBefore a (0, schedEntry (sEntry k 1 1) 0) = false) ∧
    (∃ a ∈ (sEntry 3 1 1).hub.sched, bvb a.2 0 = true ∧ bvf a.2 64 64 ≤ (sEntry 3 1 1).datum.count ∧
      schBefore a (1, schedEntry (sEntry 3 1 1) 1) = true) ∧
    (∀ q < 8, (bvf (schedEntry (sEntry 3 1 0) 0) 4 8).testBit q = true → closingsDone (sEntry 3 1 0) q = true ∧ boundaryWaits (sEntry 3 1 0) q = false ∧
      ((sEntry 3 1 0).parcel q).mon.snapWall ≠ some (sEntry 3 1 0).wall) ∧
    ((sEntry 2 1 1).hub.fw.bank1.verified = true ∧ bvb (schedEntry (sEntry 2 1 1) 0) 16 = true ∧
      bvf (schedEntry (sEntry 2 0 1) 0) 4 8 = 0 ∧ (sEntry 2 1 1 false).hub.fw.bank1.verified = false) ∧
    bvb (schedEntry s0 0) 0 = false := by decide +kernel

/-- A parcel whose clock, cap or bank changes. -/
def sApply (f : Parcel → Parcel) : State := s0.updParcel 0 f

theorem witness_changes_apply :
    ((sApply (fun x => { x with pwr := { x.pwr with sched := 3 } })).phase = 0 ∧
      ((sApply (fun x => { x with pwr := { x.pwr with sched := 3 } })).parcel 0).pwr.target ≠
        ((sApply (fun x => { x with pwr := { x.pwr with sched := 3 } })).parcel 0).pwr.now ∧
      closingsDone (sApply (fun x => { x with pwr := { x.pwr with sched := 3 } })) 0 = true) ∧
    (∀ q < 8, s0.datum.gated = none ∧ closingsDone s0 q = true ∧ remapDue s0 q = false ∧ (s0.parcel q).bankNew = none) ∧
    (s0.hub.pwr.limitNew = none ∧ stepSpans s0 0 s0.datum.count = false) ∧
    ((s0.updPkgPwr (fun x => { x with limitNew := some 500 })).hub.pwr.limitNew = some 500 ∧
      (s0.parcel 0).pwr.target = (s0.parcel 0).pwr.now ∧ (s0.parcel 0).pwr.capWait = false ∧ ∀ q < 8, stepSpans s0 q s0.datum.count = false) ∧
    stepSpans ((sStep { step0 with closing := { count := 11 } } [])) 0 10 = true ∧
    closingsDone (sStep step0 []) 0 = false ∧ lockDue (sApply (fun x => { x with bankNew := some true })) 0 = true ∧
    ((sApply (fun x => { x with bankNew := some true })).parcel 0).bankNew = some true := by decide +kernel

/-- The stay monitor in state `n` with the levels `a` and `b`. -/
def sStay (n : Nat) (a b timer : Bool) : State :=
  { s0 with stay := { s0.stay with a := a, b := b, state := BitVec.ofNat 2 n, timer := timer, since := 0 }, wall := 3000000000 }

theorem witness_stay :
    ((sStay 0 false false false).stay.state = 0 ∧ (sStay 1 true false true).stay.state = 1 ∧ (sStay 2 true true false).stay.state = 2 ∧
      (sStay 1 true false true).stay.shorts.toNat < 2 ^ 32 - 1) ∧
    ((sStay 1 true false true).stay.since + (sStay 1 true false true).stay.inUse.toNat * 1500000 ≤ (sStay 1 true false true).wall) ∧
    s0.stay.timer = false ∧ (HubArrives (sStay 3 false false false) .host ∧ (sStay 3 false false false).stay.state = 3) ∧
    (∀ c < 8, (dmaOf s0 c).busy = false ∧ (dmaOf s0 c).arm = false) ∧
    (s0.hub.lands.auxGood = true ∧ State.reset.hub.lands.auxGood = false ∧ s0.posted = [] ∧
      ∀ f ∈ (sTask { run := true } [flight 1 4 .reachDma]).reach 0 127 |>.flights, f.undo = []) := by unfold HubArrives; decide +kernel

/-- Parcel 0 in QUIESCE with a reach that runs, and the stay quiesce at its stake. -/
def sQuiesce : State := { ((sTask { run := true }).updParcel 0 (fun x => { x with state := .quiesce })) with stay := { s0.stay with due := true, quiesce := true } }

theorem witness_quiesce : sQuiesce.stay.due = true ∧ (sQuiesce.parcel 0).state = .quiesce ∧ (sQuiesce.reach 0 127).task.run = true ∧
    (sQuiesce.reach 0 127).task.step = none ∧ sQuiesce.phase = 0 := by decide +kernel

/-- The package in one state and its parcels 0 to 7 in another, with no link. -/
def sStates (h : PState) (x : PState) : State :=
  { s0 with hub := { s0.hub with state := h }, parcels := (List.range 8).map (fun p => (p, { state := x, links := (List.range 9).map (fun q => (q, { en := false })) })) }

/-- The package with link xp and a ring port of parcel 0 UP. -/
def sLinked : State := s0.updParcel 0 (fun x => { x with
  links := (portNo .xp, { state := .up }) :: (portNo .ringPlus, { state := .up }) :: x.links })

theorem witness_states :
    ∀ a b, (a, b) = (PState.configure, PState.configure) ∨ (a, b) = (PState.ready, PState.ready) ∨ (a, b) = (PState.run, PState.run) ∨
      (a, b) = (PState.quiesce, PState.quiesce) →
      (sStates a b).hub.state = a ∧ ((sStates a b).parcel 7).state = b ∧ (∀ q < 9, (sStates a b).datum.state ≠ .unset ∧
        (SMap.get {} ((sStates a b).parcel 7).links q).state = .off ∧ (SMap.get {} ((sStates a b).parcel 7).links q).en = false) ∧
      (∀ x ∈ ((sStates a b).parcel 7).reaches, x.2.idle = true) ∧ (sStates a b).stay.state = 0 ∧ (sStates a b).stay.quiesce = false := by
  rintro a b (h | h | h | h) <;> cases h <;> decide +kernel

/-- A package in READY with one river link UP, and one whose stay is asserted. -/
theorem witness_state_links :
    (∀ q, q = Port.xp → isRiver q = true ∧ (({ sLinked with hub := { sLinked.hub with state := .ready } } : State).link 0 q).state = .up) ∧
    (∀ x ∈ riverPorts, ∀ n < 8, (sLinked.link n x).state = .up → n = 0 ∧ x = .xp) ∧
    (2 ≤ ({ sStates .ready .ready with stay := { s0.stay with state := 2 } } : State).stay.state.toNat) ∧
    (sLinked.link 0 .ringPlus).state = .up := by
  refine ⟨?_, by decide +kernel, by decide +kernel, by decide +kernel⟩
  rintro q rfl
  decide +kernel

/-! ### Links and the fabric -/

/-- Link `q` of parcel 0 is `k`, and a torus of size 2 in every dimension. -/
def sLink (q : Port) (k : Link) : State := (s0.updParcel 0 (fun x => { x with wasReady := true, links := SMap.put x.links (portNo q) k })).updHub (fun h => { h with
  torus := 0x800150000 })

/-- The NEG record of the right wiring, without or with the echo of a NEG. -/
def neg0 (echo : Option Nat := none) : Neg :=
  { dev := 1, parcel := 0, link := 1, vmax := 1, vmin := 1, tick := 2, buffers := List.replicate 8 32, count := 10, off := 0
    stamp := 100, echo := echo, hold := 20 }

theorem witness_links :
    ((sLink .xp { state := .detect }).link 0 .xp).state = .detect ∧ portUsed (sLink .xp {}) .xp = true ∧ portUsed s0 .xp = false ∧
    (((sLink .xp { state := .negotiate }).link 0 .xp).state = .negotiate ∧ (∀ lat ∈ [0, 2500], wiringOk (sLink .xp { state := .negotiate }) 0 .xp (neg0 (some 0)) lat = true) ∧
      wiringOk (sLink .xp { state := .negotiate }) 0 .xp (neg0 (some 0)) 2501 = false ∧
      wiringOk (sLink .xp { state := .negotiate }) 0 .xp { neg0 with link := 2 } 0 = false ∧ neg0.echo = none ∧
      max ((sLink .xp {}).parcel 0).fab.linkMin.toNat neg0.vmin.toNat ≤ min ((sLink .xp {}).parcel 0).fab.linkMax.toNat neg0.vmax.toNat) ∧
    min ((sLink .xp {}).parcel 0).fab.linkMax.toNat 3 < max ((sLink .xp {}).parcel 0).fab.linkMin.toNat 3 ∧
    (∀ m, ((sLink .xp { state := .up, missed := m }).link 0 .xp).missed = m) ∧
    (NoCascade (sLink .xp { state := .up }) 0 .xp ∧ Arrives (sLink .xp { state := .up }) .host 0 (.parcel 0 (linkCtlOff .xp)) 0 ∧
      Arrives (sLink .xp { state := .up }) .host 0 (.parcel 0 (linkCtlOff .xp)) 3 ∧
      linksAllowed (sLink .xp {}) 0 = true ∧ Arrives (sLink .xp {}) .host 0 (.parcel 0 (linkCtlOff .xp)) 1) ∧
    ((sLink .xp { state := .align, en := true }).link 0 .xp).en = true ∧
    (NoCascade (sLink .ringPlus { state := .up }) 0 .ringPlus ∧ isRiver .ringPlus = false) := by
  refine ⟨by decide +kernel, by decide +kernel, by decide +kernel, by decide +kernel, by decide +kernel, fun m => rfl,
    by unfold NoCascade Arrives; decide +kernel, by decide +kernel, by unfold NoCascade; decide +kernel⟩

/-- A flit of 244 bytes whose CRC holds. -/
def flit0 (t : Nat) : Flit :=
  let f : Flit := { ftype := BitVec.ofNat 4 t, vc := 0, last := true, seq := 1, ack := 0, crd := 1, payload := List.replicate 244 0, crc := 0 }
  { f with crc := flitCrc f }

/-- The CRC does not depend on the CRC field. -/
theorem flit_crc_holds (f : Flit) (c : BitVec 32) : flitCrc { f with crc := c } = flitCrc f := by unfold flitCrc; rfl

/-- A link in UP. -/
def up0 : Link := { state := .up, credits := [(0, 3)] }

theorem witness_flits_arrive :
    ((sLink .xp up0).link 0 .xp).state = .up ∧ (∀ t, (flit0 t).crc = flitCrc (flit0 t)) ∧
    ((flit0 1).payload.length = 244 ∧ (flit0 1).seq = up0.rxNext ∧
      (packetOf (SMap.get [] up0.rx (flit0 1).vc.toNat ++ (flit0 1).payload)).ptype.toNat ≤ 4) ∧
    (({ up0 with rxNext := 3 } : Link).rxNext ≠ (flit0 1).seq ∧ ((flit0 1).seq - 3).toNat ≥ 2048 ∧ (flit0 1).seq - 0 = 1) ∧
    (({ up0 with retry := [flit0 1], rxNext := 5 } : Link).acked 0).retry.length = 1 ∧
    ((sLink .xp { state := .negotiate, retry := [flit0 3] }).link 0 .xp).retry ≠ [] ∧
    ((({ flit0 3 with payload := 1#8 :: List.replicate 243 0 } : Flit).payload.getD 0 0).toNat = 1) ∧
    ((sLink .xp { state := .align }).link 0 .xp).state = .align :=
  ⟨by decide +kernel, fun _ => (flit_crc_holds _ _).symm, by decide +kernel⟩

theorem witness_flits_leave : SMap.get [] ({ up0 with data := [(0, [flit0 1])] } : Link).data 0 = [flit0 1] ∧
    chooseVc { up0 with data := [(0, [flit0 1])] } = some 0 ∧ SMap.sorted ({ up0 with data := [(0, [flit0 1])] } : Link).data = true ∧ chooseVc up0 = none ∧ up0.retry.length < 512 ∧
    (Ctl.ver 1 1 ≠ .neg) ∧ (({ up0 with verGot := true } : Link).verGot = true) ∧
    (({ state := .negotiate, ctl := [.neg], negDue := 1500 } : Link).ctl = [.neg] ∧ (sLink .xp {}).wall < 1500 ∧
      ({ state := .negotiate, ctl := [.neg] } : Link).negDue ≤ (sLink .xp {}).wall) ∧
    (({ up0 with inFrame := 4 } : Link).inFrame = 4 ∧ up0.inFrame = 0) := ⟨rfl, by decide +kernel⟩

/-- A message packet from device 1 to window 0, offset 64. -/
def msg0 : Packet := { tile with ptype := 0, src := 1, off := 64, body := [1#8, 2#8] }

/-- Window 0 is open to device 1 at 8192 with one page; device 1 is known; one message of ours is out. -/
def sWindow (en : Nat) : State := (sLink .xp up0).updFab 0 (fun f => { f with
  rxWin := [(0, BitVec.ofNat 128 (en + 2 * 2 + 2 * 2 ^ 32 + 2 ^ 64))], genRec := [(1, 0)], msgs := [{ id := 0, chan := 3, count := 9, reach := 0, flight := 0, adds := 0 }]
  inbox := [(0, { msg0 with dst := 1, src := 0 })] })

theorem witness_records :
    (((sLink .xp up0).link 0 .xp).state = .up ∧ (SMap.find ((sLink .xp up0).parcel 0).fab.lastFault 1).elim 1 (fun l => (5 + 256 - l.toNat) % 256) = 1) ∧
    (NoCascade (sLink .xp up0) 0 .xp ∧ min 1 2 < max 1 2 ∧ max 1 1 ≤ min 1 2) ∧
    ((sLink .xp { up0 with verTicks := some 0 }).link 0 .xp).verTicks = some 0 ∧
    (∀ x ∈ riverPorts, portNo x ≠ portNo .xp → ((sLink .xp up0).link 0 x).state ≠ .up) ∧
    (∃ x ∈ riverPorts, portNo x ≠ portNo .yp ∧ ((sLink .xp up0).link 0 x).state = .up) := by
  refine ⟨by decide +kernel, ⟨by unfold NoCascade; decide +kernel, by decide, by decide⟩, by decide +kernel⟩

/-- The answer to that message. -/
def msgAnswer : Packet := { tile with ptype := 1, src := 1, id := 0, stamp := 10, body := [0] }

theorem witness_messages_land :
    (tooOld (sWindow 1) msg0 = false ∧ msg0.pver.toNat ≤ ((sWindow 1).parcel 0).fab.linkMax.toNat ∧
      SMap.find ((sWindow 1).parcel 0).fab.genRec 1 = some msg0.gen ∧ bvf (SMap.get 0 ((sWindow 1).parcel 0).fab.rxWin 0) 2 14 = 1 ∧
      msg0.off.toNat + msg0.body.length ≤ 4096 * bvf (SMap.get 0 ((sWindow 1).parcel 0).fab.rxWin 0) 64 24) ∧
    bvb (SMap.get 0 ((sWindow 0).parcel 0).fab.rxWin 0) 0 = false ∧ ((sWindow 1).parcel 0).mon.frozen = false ∧
    (∀ k, k = msgAnswer ∨ k = { msgAnswer with stamp := 0 } →
      answerInInbox ((sWindow 1).updFab 0 (fun f => { f with inbox := [(4, k)] })) 0 0 = some k) ∧
    (tooOld (sWindow 1) msgAnswer = false ∧ msgAnswer.pver.toNat ≤ ((sWindow 1).parcel 0).fab.linkMax.toNat ∧
      SMap.find ((sWindow 1).parcel 0).fab.genRec msgAnswer.src.toNat = some msgAnswer.gen ∧
      tooOld (sWindow 1) { msgAnswer with stamp := 0 } = true) ∧
    (answerInInbox (sWindow 1) 0 0 = none ∧ ((sWindow 1).parcel 0).fab.msgs.find? (fun x => x.id == 0) =
        some { id := 0, chan := 3, count := 9, reach := 0, flight := 0, adds := 0 } ∧
      (sWindow 1).datum.count < 9 + (sWindow 1).qTicks) ∧
    ((nextHop (sWindow 1).hub.torus 0 { msg0 with dst := 1 } (arrivedLeg (sWindow 1) 0 { msg0 with dst := 1, src := 0 })).isSome = true ∧
      tooOld (sWindow 1) { msg0 with stamp := 0xFFFFFF00 } = true) ∧
    ((sLink .xp {}).link 0 .xp).state ≠ .up := by
  refine ⟨by decide +kernel, by decide +kernel, by decide +kernel, ?_, by decide +kernel, by decide +kernel, by decide +kernel, ?_⟩
  · rintro k (rfl | rfl) <;> decide +kernel
  · decide +kernel


/-! ### The datum -/

/-- The datum `d` and the time `w` of the package. -/
def sDatum (d : Datum) (w : Nat := 0) : State := { s0 with datum := d, wall := w }

theorem witness_datum_ticks :
    ((sDatum { count := 65535, state := .freerun }).datum.jump = none ∧ (sDatum { count := 65535, state := .freerun }).datum.gated = none) ∧
    ((sDatum { count := 65536, state := .cabled, missedLast := true }).datum.count % 65536 = 0 ∧
      (sDatum { count := 65536, state := .cabled, missedLast := true }).datum.seen = false) ∧
    (sDatum { root := true, armed := true, src := 1 }).datum.state = .unset ∧
    rootDue (sDatum {}).datum = false ∧
    (∀ n, (sDatum { count := 5, state := .freerun, jump := some (.ahead n) }).datum.jump = some (.ahead n) ∧
      (sDatum { count := 5, state := .cabled, jump := some (.behind n) }).phase < (sDatum { count := 5, state := .cabled }).nMax ∧
      (sDatum { count := 5, state := .freerun, gated := some n }).datum.gated = some n) := by
  refine ⟨by decide +kernel, by decide +kernel, by decide +kernel, by decide +kernel, fun n => ⟨rfl, ?_, rfl⟩⟩
  show 0 < (sDatum { count := 5, state := .cabled }).nMax
  decide +kernel

theorem witness_pulse :
    (sDatum { qualified := true, armed := true, load := 65536 }).datum.delay.toNat < (sDatum {}).tick10 ∧
    nearestEpoch (sDatum { qualified := true, count := 65540, state := .cabled })
      ((ownPos (sDatum { qualified := true, count := 65540, state := .cabled }) : Int) - 0) = 65536 ∧
    (sDatum { qualified := true, count := 65540, state := .cabled }).tick10 ≤ 4 * (sDatum {}).tick10 ∧
    (∀ j, j = some (Jump.behind 4) ∨ j = none → (sDatum { qualified := true, count := 65540, state := .cabled, jump := j }).datum.jump = j ∧
      (sDatum { qualified := true, count := 65540, state := .cabled, gated := some 4 }).datum.gated ≠ none) ∧
    (sDatum { state := .cabled, qualified := true }).datum.state ≠ .inband := by
  refine ⟨by decide +kernel, by decide +kernel, by decide +kernel, ?_, by decide +kernel⟩
  rintro j (rfl | rfl) <;> decide +kernel

/-- An idle flit that names root 1, two hops away, at count 100. -/
def idle0 : Flit :=
  let f : Flit := { ftype := 0, vc := 0, last := true, seq := 0, ack := 0, crd := 0, crc := 0
                    payload := leBytes 8 100 ++ leBytes 2 0x4000 ++ leBytes 2 1 ++ leBytes 1 2 ++ List.replicate 231 0 }
  { f with crc := flitCrc f }

/-- A package whose river link has had a record, with the datum `d`. -/
def sSource (d : Datum) (k : Link) : State := { sLink .xp k with datum := d }

theorem witness_sources :
    (idle0.payload.length = 244 ∧ (∀ f : Flit, { f with crc := flitCrc f }.crc = flitCrc { f with crc := flitCrc f })) ∧
    ((bestSource (recordIn (flitCommon (sSource {} up0) 0 .xp idle0) 0 .xp idle0.payload)).isSome = true ∧
      (sSource {} up0).datum.src ≠ 0 ∧ (sSource {} up0).datum.root = false) ∧
    (bestSource (sSource { count := 9, state := .inband } {}) = none ∧ (sourceLink (sSource { count := 9, state := .inband } {})).state ≠ .up) ∧
    ((bestSource (sSource { count := 9, state := .inband, srcport := 1 } { up0 with srcTick := 2, srcHops := 2 })).isSome = true ∧
      (sourceLink (sSource { count := 9, state := .inband, srcport := 1 } { up0 with srcTick := 2, srcHops := 2 })).state ≠ .up) ∧
    ((sDatum { count := 100000, state := .holdover }).datum.lostAt + (sDatum { count := 100000 }).ticksUp 10 ≤ 100000 ∧
      bestSource (sDatum { count := 100000, state := .holdover }) = none) := by
  refine ⟨⟨by decide +kernel, fun f => (flit_crc_holds f _).symm⟩, by decide +kernel, by decide +kernel, by decide +kernel, by decide +kernel⟩


/-! ### Power, temperature, the book, failures -/

/-- The package with the power state `w`, and parcel 0 with `x`. -/
def sPower (w : PkgPower) (x : Power := {}) : State := { (s0.updPwr 0 (fun _ => x)) with hub := { s0.hub with pwr := w } }

theorem witness_power :
    (s0.hub.state ≠ .off ∧ (List.replicate 8 1).length = 8 ∧ (List.replicate 7 1).length ≠ 8) ∧
    ((sPower {}).hub.pwr.state = 0 ∧ 1801 ≤ 2400 ∧ (sPower {}).hub.pwr.limit.toNat * 1 < 1801) ∧
    (sPower { state := 1, hist := [1] }).hub.pwr.state = 1 ∧
    ((sPower { state := 1, ticks := 100000 }).ticksDown 32 ≤ 100000 ∧ (sPower { state := 1, ticks := 100000 }).ticksDown 40 ≤ 100000 ∧
      ∀ p < 8, overBudget (sPower { state := 1, ticks := 100000 }) p = false ∧ capFree (sPower { state := 1, ticks := 100000 }) p = true) ∧
    (((sPower { state := 1, ticks := 100000 } { capWait := true }).parcel 0).pwr.capWait = true ∧
      ∀ q ∈ [1, 2, 3, 4, 5, 6, 7], ((sPower { state := 1 } { capWait := true }).parcel q).pwr.capWait = false) ∧
    ((sPower { state := 2, ticks := 0 }).hub.pwr.state = 2 ∧ (sPower {}).hub.pwr.state ≠ 2) ∧
    (∃ p < 8, overBudget (sPower { state := 1, ticks := 100000, limit := 400 } { ticks := List.replicate 3907 300 }) p = true ∧
      capFree (sPower { state := 1, ticks := 100000, limit := 400 } { ticks := List.replicate 3907 300 }) p = true) ∧
    (((sPower { state := 1, ticks := 100000 } { capWait := true }).updTask 0 3 (fun t => { t with step := some step0 })).reach 0 3).task.step ≠ none ∧
    (s0.phase = 0 ∧ s0.datum.gated = none ∧ ({ s0 with phase := 5 } : State).phase ≠ 0 ∧ (sDatum { gated := some 1 }).datum.gated ≠ none) := by
  decide +kernel

theorem witness_temperature :
    (s0.hub.lands.auxGood = true ∧ State.reset.hub.lands.auxGood = false ∧ (∀ q ∈ riverPorts, (s0.link 0 q).state ≠ .up) ∧
      (s0.link 0 .hubPort).state = .up) ∧
    (∀ st, st = PState.train ∨ st = PState.identify ∨ st = PState.contain ∨ st = PState.off → ((s0.updParcel 0 (fun x => { x with state := st })).parcel 0).state = st) ∧
    (packageCool s0 = true ∧ ({ s0 with wall := 15000000 }).hub.pwr.hotAt + 15000000 ≤ ({ s0 with wall := 15000000 }).wall ∧
      s0.wall < s0.hub.pwr.hotAt + 15000000) ∧
    ((sPower {} { coolTicks := 100000 }).ticksUp 10 ≤ ((sPower {} { coolTicks := 100000 }).parcel 0).pwr.coolTicks ∧
      (s0.parcel 0).pwr.coolTicks < s0.ticksUp 10) ∧
    (SMap.get 0 ((sPower {} { sensors := [(47, 1000)] }).parcel 0).pwr.sensors (16 + 31) = 1000 ∧
      SMap.get 0 ((sPower {} { thrLevel := [(31, 2)] }).parcel 0).pwr.thrLevel 31 < 3) ∧
    (sPower {}).ticksUp 10 ≤ SMap.get 0 ((sPower {} { thrLevel := [(31, 3)], thrCool := [(31, 100000)] }).parcel 0).pwr.thrCool 31 := by
  refine ⟨by decide +kernel, ?_, by decide +kernel, by decide +kernel, by decide +kernel, by decide +kernel⟩
  rintro st (rfl | rfl | rfl | rfl) <;> decide +kernel

/-- The book `b` with an event of the hub whose record is being written. -/
def sBook (b : Book) : State := { s0 with book := { b with writing := some (srcHub 1), slots := [(srcHub 1, { count := 1, off := 2, code := 0x9003, source := srcHub 1, payload := [] })] } }

theorem witness_book :
    ((sBook {}).book.writing = some (srcHub 1) ∧ (SMap.find (sBook {}).book.slots (srcHub 1)).isSome = true ∧ (sBook {}).hub.lands.auxGood = true ∧ SMap.sorted (sBook {}).book.slots = true ∧
      srcHub 1 ≠ srcHub 3 ∧ SMap.find (sBook {}).book.slots (srcHub 3) = none) ∧
    (∃ f, SMap.find (sBook { floods := [(srcHub 1, f)] }).book.floods (srcHub 1) = some f) ∧
    ((sBook { lgMode := true }).book.lgMode = true ∧ s0.book.slots = [] ∧ s0.book.writing = none) := by
  refine ⟨by decide +kernel, ⟨{ code := 0x9003, count := 1, off := 2, lastCount := 3, lastOff := 4, held := 1, mixed := false }, by decide +kernel⟩, by decide +kernel⟩

/-- A failing reach 127 that has stopped, with `spare` in its cluster. -/
def sFailing (spare : Nat) : State := (sTask { failing := true }).updCluster 0 15 (fun c => { c with spare := spare })

/-- A cluster with hard-faulted units and one spare row left. -/
def sUnits (units : List Nat) : State := (s0.updParcel 0 (fun x => { x with state := .train })).updCluster 0 3 (fun c => { c with
  hardUnits := units, spareRows := 1 })

theorem witness_failures :
    (relays s0 0 = true ∧ 64 * 402653183 < 25769803776 ∧ 5 ∉ (s0.parcel 0).poison) ∧
    (mapMayChange (sFailing 8) 0 127 = true ∧ closingsDone (sFailing 8) 0 = true ∧ ((sFailing 8).cluster 0 15).spare < 9) ∧
    (mapMayChange (sFailing 255) 0 127 = true ∧ 9 ≤ ((sFailing 255).cluster 0 15).spare) ∧ mapMayChange s0 0 127 = false ∧
    (∀ f, ({ s0 with upsets := [{ site := .cells (.sm 0), unit := 64, symbol := 3, fatal := f }] } : State).upsets ≠ []) ∧
    (powered s0 0 = true ∧ powered (s0.updParcel 0 (fun x => { x with state := .train })) 0 = true ∧ powered State.reset 0 = false) ∧
    (∀ n, n = [7] ∨ n = [7, 8] → ((sUnits n).cluster 0 3).hardUnits.length ≤ 2 ∧ ((sUnits n).cluster 0 3).hardUnits ≠ [] ∧
      (n = [7] ↔ ((sUnits n).cluster 0 3).hardUnits.length ≤ ((sUnits n).cluster 0 3).spareRows)) ∧
    ((s0.parcel 0).state ≠ .contain ∧ (sPower {} { sensors := [(47, 1150)] }).phase = 0 ∧ 1150 ≤ sensorOf (sPower {} { sensors := [(47, 1150)] }) 0 47) ∧
    (((s0.updParcel 0 (fun x => { x with state := .train })).parcel 0).state = .train ∧
      trainingWaits (s0.updParcel 0 (fun x => { x with state := .train })) 0 = false ∧
      trainingWaits ((sPower {} { sensors := [(0, 1200)] }).updParcel 0 (fun x => { x with state := .train })) 0 = true) := by
  refine ⟨by decide +kernel, by decide +kernel, by decide +kernel, by decide +kernel, fun f => by simp, by decide +kernel, ?_,
    by decide +kernel, by decide +kernel⟩
  rintro n (rfl | rfl) <;> decide +kernel


/-! ### The host and the dictionary -/

theorem witness_windows :
    (s0.memOk = true ∧ s0.hub.port.linkUp = true ∧ functionOpen s0 0 = true ∧ mustWait s0 0 (s0.parcel 0).held (.mem 0x5FFFFFFFF (.read 1) .none) = false) ∧
    (State.reset.hub.port.linkUp = false ∧ functionOpen s0 1 = false ∧ s0.upsets = []) ∧
    (0x64FFFFFFF < 0x650000000 ∧ 4194304 < 0xFFFFFF + 1 ∧ 393216 < 0x7FFFF + 1 ∧ 4096 < 4095 + 2) ∧
    (0x640000000 + 15 * 0x1000000 + 4194303 < 0x654000000 ∧ (4194303 + 1 ≤ 4194304) ∧ (0x650000000 + 127 * 0x80000 + 393215 < 0x654000000)) ∧
    (((sTask {}).reach 0 127).idle = true ∧ SMap.sorted ((sTask {}).reach 0 127).s = true) := by decide +kernel

/-- An access to the scratchpad of a reach that is being reset waits. -/
theorem witness_window_waits : mustWait (sTask { resetting := true }) 0 [] (.mem (0x650000000 + 127 * 0x80000) (.read 1) .none) = true := by
  decide +kernel

/-- An older access of the host to parcel 0 waits. -/
def sHostHeld : State := s0.updParcel 0 (fun x => { x with held := [.reg .host (.reach 0 127 0x40) 8 1] })

theorem witness_held_accesses : (∃ h ∈ (sHostHeld.parcel 0).held, hostHeld h = true) ∧ (∀ h ∈ (s0.parcel 0).held, hostHeld h = false) ∧
    mustWait sHostHeld 0 (sHostHeld.parcel 0).held (.mem 0 (.read 1) .none) = true := by decide +kernel

/-- A confluence add of reach 3 of parcel 1 waits in parcel 0. -/
def sForeign : State := (s0.updParcel 0 (fun x => { x with adds := [{ addr := 64, wide := false, value := 1, dev := 0, parcel := 1, reach := 3, flight := 1 }] })).updReach 1 3
  (fun r => { r with flights := [{ flight 1 8 .reachDma with wait := .adds 2 }] })

theorem witness_register_access :
    (rqPresent s0 .host = true ∧ regGate s0 .host true (.reach 0 127 (0x2000 + 16 * 127)) = true ∧
      mustWait s0 0 [] (.reg .host (.reach 0 127 (0x2000 + 16 * 127)) 4 7) = false ∧ regGate s0 .host true (.reach 0 127 0xFFFC) = true) ∧
    (functionOpen s0 0 = true ∧ s0.hub.port.linkUp = true ∧ functionOpen s0 1 = false) ∧ relays s0 0 = true ∧
    (({ s0 with hub := { s0.hub with port := { linkUp := false } } } : State).hub.state ≠ .identify ∧ s0.hub.lands.perstN = false) ∧
    (∀ j < 4, SMap.get false s0.hub.port.vecPend (1 * 4 + j) = false) ∧
    (∃ a ∈ (sForeign.parcel 0).adds, a.rowId = none ∧ a.parcel ≠ 0 ∧ ∃ f ∈ (sForeign.reach 1 3).flights, f.no = a.flight ∧ f.wait = .adds 2) := by
  decide +kernel

/-- A message of a role to an entry, with its tag. -/
def msg (kind role sub : Byte) (seq : BitVec 32) (index : BitVec 16) (data : List Byte) (flags : Byte := 0) : Msg :=
  let m : Msg := { ver := 1, kind := kind, role := role, status := 0, seq := seq, index := index, sub := sub, flags := flags
                   offset := 0, rsv := 0, data := data, tag := 0 }
  { m with tag := Config.cmac 9 (msgBytes m) }

/-- A package whose operator, service and rack keys are 9. -/
def sDict (d : Dict := {}) : State := s0.updHub (fun h => { h with dict := { d with key1 := 9, key2 := 9, key3 := 9 } })

/-- A message of a role with a key and a new sequence number is accepted, and one of role 0 with any. -/
theorem witness_accepted (kind sub flags : Byte) (index : BitVec 16) (data : List Byte) :
    Accepted (sDict) (msg kind 1 sub 1 index data flags) ∧ Accepted (sDict) (msg kind 2 sub 1 index data flags) ∧
    Accepted (sDict) (msg kind 3 sub 1 index data flags) ∧ Accepted (sDict) (msg kind 0 sub 0 index data flags) := by
  refine ⟨⟨rfl, ?_, rfl, ?_, fun _ => ⟨?_, rfl, ?_⟩⟩, ⟨rfl, ?_, rfl, ?_, fun _ => ⟨?_, rfl, ?_⟩⟩,
    ⟨rfl, ?_, rfl, ?_, fun _ => ⟨?_, rfl, ?_⟩⟩, ⟨rfl, ?_, rfl, ?_, fun h => absurd rfl h⟩⟩ <;>
  first | (show (1#8 : Byte).toNat ≤ 3; decide) | (show (2#8 : Byte).toNat ≤ 3; decide) | (show (3#8 : Byte).toNat ≤ 3; decide) |
    (show (0#8 : Byte).toNat ≤ 3; decide) | (show PState.run ≠ PState.off; decide) | (show (9 : BitVec 128) ≠ 0; decide) |
    (show (0 : BitVec 32) < 1; decide)

theorem witness_dictionary_reads :
    (findObj 0x1000 0).isSome = true ∧ findObj 0x1FFF 0 = none ∧
    ((∃ o, findObj 0x1001 1 = some o ∧ (o.spec s0).ty = .num ∧ (o.spec s0).right = .ro ∧ (o.spec s0).parcel = none ∧
      ¬ within 0x3000 0x1000 0x100 = true)) ∧
    (∃ o, findObj 0x1008 0 = some o ∧ (o.spec s0).ty = .str ∧ (o.spec s0).size ≤ 1024) ∧
    (∃ o, findObj 0x2001 1 = some o ∧ (o.spec s0).right = .wo) := by
  refine ⟨by decide +kernel, by decide +kernel, ⟨_, rfl, ?_⟩, ⟨_, rfl, ?_⟩, ⟨_, rfl, ?_⟩⟩ <;> decide +kernel

/-- A frame to broadcast, one to another address, and one of another EtherType. -/
def frame0 : Frame := { dst := 0xFFFFFFFFFFFF, src := 1, etype := 0x88B5, fcs := true }

theorem witness_frames :
    (frameAccepted (sDict).hub.dict (.chainA frame0) = true ∧ frameAccepted (sDict).hub.dict .i3c = true ∧
      frameAccepted (sDict { macA := 5 }).hub.dict (.chainA { frame0 with dst := 6 }) = false ∧
      frameAccepted (sDict).hub.dict (.chainB { frame0 with etype := 0x88B6 }) = false ∧
      frameAccepted (sDict).hub.dict (.chainB { frame0 with fcs := false }) = false) ∧
    (phySeen (sDict) (.chainA frame0)).hub.dict.phyA = true ∧ (sDict { i3cOut := [] }).hub.dict.i3cOut = [] := by decide +kernel

/-- A message is accepted as it was before the frame showed its PHY's link. -/
theorem accepted_phySeen (s : State) (f : Frame) (m : Msg) (h : Accepted s m) : Accepted (phySeen s (.chainA f)) m := h

/-- A discover that waits, and a copy of it. -/
theorem witness_discover :
    discoverWaits (sDict { discover := [(.i3c, { msg 5 1 0 1 0 [] with tag := 0 })] }).hub.dict { msg 5 1 0 1 0 [] with tag := 0 } = true ∧
    discoverWaits (sDict).hub.dict { msg 5 1 0 1 0 [] with tag := 0 } = false ∧ 3 < (4#8 : Byte).toNat ∧
    (∃ b, roleCache (sDict { cache1 := some { msg 6 1 0 1 0 [] with tag := 0 } }).hub.dict 1 = some b ∧ b.kind = 6 ∧ b.seq = 1) := by
  refine ⟨by rfl, by rfl, by decide, ⟨_, rfl, rfl, rfl⟩⟩

/-! ### The package -/

/-- The package in state `h` with its lands `x`. -/
def sPkg (h : PState) (x : Lands) : State := { s0 with hub := { s0.hub with state := h, lands := x } }

/-- The package trains with every parcel. -/
def sTrain : State := { sStates .train .train with hub := { (sStates .train .train).hub with lands := { auxGood := true, vinOk := true, resetN := false, perstN := false } } }

theorem witness_power_up :
    (State.reset.hub.lands.auxGood = false ∧ State.reset.hub.state = .off) ∧
    ((sPkg .off { auxGood := true }).hub.state = .off ∧ (bankOf (sPkg .off { auxGood := true }) false).verified = true) ∧
    ((sPkg .identify { auxGood := true, vinOk := true, resetN := false, perstN := false }).hub.dict.boot = 0) ∧
    (∀ p < 8, ∀ q < 8, (sTrain.parcel p).fab.linkMax = (sTrain.parcel q).fab.linkMax ∧
      (sTrain.parcel p).fab.linkMin.toNat ≤ (sTrain.parcel q).fab.linkMax.toNat) ∧
    (s0.hub.lands.perstN = false ∧ s0.hub.lands.resetN = false) ∧
    (sTrain.hub.state = .train ∧ ∀ p < 8, (sTrain.parcel p).state = .train ∧ trainingWaits sTrain p = false) ∧
    (inReset (sPkg .identify { auxGood := true, vinOk := true }) = true ∧ inReset s0 = false) := by decide +kernel

theorem witness_package_resets :
    (s0.hub.state ≠ .off ∧ s0.hub.dict.boot ≠ 2 ∧ s0.hub.lands.resetN = false ∧ s0.hub.lands.perstN = false ∧ s0.hub.lands.auxGood = true ∧
      s0.hub.lands.scope = false ∧ s0.posted = [] ∧ (∀ p < 8, (s0.parcel p).adds = []) ∧ s0.book.writing = none) ∧
    ((sPkg .off { auxGood := true, resetN := false }).hub.state = .off ∧ State.reset.hub.lands.auxGood = false ∧
      (sPkg .run { auxGood := true, perstN := true }).hub.lands.perstN = true ∧ (sBook { seq := 7 }).book.seq.toNat % 4096 ≠ 0) ∧
    ((sPkg .identify { auxGood := true, vinOk := true }).updHub (fun h => { h with tap := { h.tap with pulse := true } })).hub.tap.pulse = true ∧
    (∃ b, (bankOf s0 b).verified = true) ∧
    ((sPkg .run { auxGood := true, scope := true, resetN := false, perstN := false }).hub.lands.scope = true ∧
      ∀ c < 8, (dmaOf s0 c).busy = false) ∧
    (inReset (sPkg .identify { auxGood := true, perstN := false }) = true ∧ inReset (sPkg .identify { auxGood := true, resetN := false }) = true) := by
  decide +kernel

/-! ### The block -/

/-- An armed MOVE. -/
def sArmedMove : State := (sMove 3 0 3 0 5).updTask 0 0 (fun t => { t with arm := some { count := 12 } })

/-- A MOVE behind an armed MOVE of the same queue that touches other bytes. -/
def sTurn : State := (sMove 3 0 3 0 5).updReach 0 0 (fun r => { r with
  flights := [{ no := 1, job := headJob (sMove 3 0 3 0 64) 0 0, unit := .reachDma, wait := .stake { count := 12 } }]
  task := { r.task with issueNo := 1 } })

/-- A MOVE whose extent exceeds its bucket fails its first check; an armed MOVE passes them. -/
theorem witness_failed_checks :
    (∃ f, Fails (sMove 3 0 5 0 5) 0 0 (mvPlan (sMove 3 0 5 0 5) 0 0 (headJob (sMove 3 0 5 0 5) 0 0)) f ∧ f.code = 0x1010) ∧
    (canIssue sArmedMove 0 0 = true ∧ scalarsReady (sArmedMove.reach 0 0) (mvPlan sArmedMove 0 0 (headJob sArmedMove 0 0)).reads = true ∧
      (mvPlan sArmedMove 0 0 (headJob sArmedMove 0 0)).armable = true ∧
      firstFail (mvPlan sArmedMove 0 0 (headJob sArmedMove 0 0)).checks = none ∧
      held sArmedMove 0 0 (headJob sArmedMove 0 0) (mvPlan sArmedMove 0 0 (headJob sArmedMove 0 0)) = false ∧ Undisturbed sArmedMove 0 0) ∧
    (queueWaits (sTurn.reach 0 0) (mvPlan sTurn 0 0 (headJob sTurn 0 0)).unit 2 = true ∧ canIssue sTurn 0 0 = true ∧
      (sTurn.reach 0 0).task.arm = none ∧ (sTurn.reach 0 0).task.issueNo + 1 = 2 ∧ Undisturbed sTurn 0 0 ∧
      firstFail (mvPlan sTurn 0 0 (headJob sTurn 0 0)).checks = none ∧
      held sTurn 0 0 (headJob sTurn 0 0) (mvPlan sTurn 0 0 (headJob sTurn 0 0)) = false) := by
  refine ⟨⟨(firstFail (mvPlan (sMove 3 0 5 0 5) 0 0 (headJob (sMove 3 0 5 0 5) 0 0)).checks).getD { code := 0, payload := [] }, ?_⟩, by unfold Undisturbed; decide +kernel,
    by unfold Undisturbed; decide +kernel⟩
  unfold Fails Undisturbed NonePosted; decide +kernel

/-- The invariants hold at reset, and in a state that has run. -/
theorem reset_invariants : State.reset.memOk = true ∧ State.reset.registersOk = true ∧ State.reset.datumOk ∧
    (sMove 3 0 3 0 5).memOk = true ∧ (sMove 3 0 3 0 5).registersOk = true := by
  refine ⟨by decide +kernel, by decide +kernel, ⟨fun _ => ⟨rfl, rfl, rfl⟩, fun _ h => by cases h⟩, by decide +kernel, by decide +kernel⟩

/-- A write of reach 0 to the stacked memory is posted. -/
def sPosted : State := { s0 with posted := [{ p := 0, writer := srcReach 0 0, unit := .reachDma, cells := [(64, 7#8)] }] }

/-- A cycle makes a posted write visible; the last cycle of a tick stands. -/
theorem test_posted_write_becomes_visible :
    rdByte sPosted (.sm 0) 64 = 0 ∧ seenByte sPosted 0 0 .reachDma (.sm 0) 64 = 7 ∧ rdByte (drainIf sPosted (fun _ => true)) (.sm 0) 64 = 7 ∧
    s0.phase + 1 < s0.nMax ∧ ({ s0 with phase := s0.nMax - 1 } : State).nMax ≤ ({ s0 with phase := s0.nMax - 1 } : State).phase + 1 := by
  decide +kernel

/-- The front of the queue is taken first. -/
theorem test_step_takes_the_front : step { s0 with pending := [.highz, .clamp] } = exec .highz { s0 with pending := [.clamp] } := rfl

/-! ### Well-formed commands -/

/-- Each check of well-formedness refuses a command. -/
theorem test_well_formed :
    (Instr.idleFlitRx 0 .xp { flit0 0 with payload := [] }).wf = false ∧ (Instr.dataFlitRx 0 .xp { flit0 0 with payload := [0] } true).wf = false ∧
    (Instr.governorTick 0 [1, 2, 3, 4, 5, 6, 7]).wf = false ∧ (Instr.uciePortDown 0 .zn).wf = false ∧
    (Instr.sensorSample 0 0 32768).wf = false ∧ (Instr.dictRead .i3c (msg 2 1 0 0 0 [])).wf = false ∧
    (Instr.dictWrite .i3c (msg 1 1 0 0 0 [])).wf = false ∧ (Instr.domainSegmentWrite .i3c (msg 2 1 0 0 0 [] 2)).wf = false ∧
    (Instr.discover .i3c (msg 2 1 0 0 0 [])).wf = false ∧ (Instr.keyWrite .i3c (msg 2 1 0 0 0x1041 [])).wf = false ∧
    (Instr.firmwareImageLoad .i3c (msg 2 2 5 0 0x1050 [])).wf = false ∧
    (Instr.i3cPrivateWrite (msg 2 1 0 0 0 (List.replicate 1025 0))).wf = false ∧ (Instr.uciePortDown 0 .hubPort).wf = true := by decide +kernel

/-- A command that is not well formed is no event of the part: the block faults and names what is missing. -/
theorem test_ill_formed : exec (.governorTick 0 []) s0 = .fault (.illFormed "powers of eight parcels") := by rfl

end Sys2Proof.Tests
end

section
/-!
The state after reset, and the writes of the registers of a reach: the verdict and the effect of each register (06 R229, R258,
12 R333 to R338), and how a write that arrives comes to them.
-/

namespace Sys2Proof.Machine

/-- Settles O59: at reset no parcel is listed, so each reach is the one that nothing has written. -/
theorem resetState : Obligations.ResetState := by
  unfold Obligations.ResetState
  have hreach : ∀ p l, State.reset.reach p l = {} := fun _ _ => rfl
  refine ⟨rfl, rfl, fun _ _ => rfl, rfl, rfl, rfl, rfl, rfl, rfl, rfl, rfl, rfl, fun p _ l _ => ?_⟩
  rw [hreach]
  exact ⟨rfl, rfl, rfl, fun n => by simp [Reach.scalar, SMap.get, SMap.find]⟩

/-! ### Where an offset of a reach block lies (R338) -/

theorem within_eq_false {off base n : Nat} (h : off < base ∨ base + n ≤ off) : within off base n = false := by
  simp only [within, Bool.and_eq_false_iff, decide_eq_false_iff_not]; omega

theorem not_within {off base n : Nat} (h : off < base ∨ base + n ≤ off) : ¬ within off base n = true := by
  simp [within_eq_false h]

theorem within_eq_true {off base n : Nat} (h : base ≤ off ∧ off < base + n) : within off base n = true := by
  simp [within, h]

/-- Below the PROFILE table no word is staged. -/
theorem stagedAt_below {off : Nat} (h : off < 0x800) : stagedAt off = none := by
  simp [stagedAt, within_eq_false (.inl h), within_eq_false (off := off) (base := 0x1000) (n := 0x1000) (by omega)]

/-- Above the TRAVERSE table no word is staged. -/
theorem stagedAt_above {off : Nat} (h : 0x2000 ≤ off) : stagedAt off = none := by
  simp [stagedAt, within_eq_false (off := off) (base := 0x800) (n := 0x800) (by omega),
    within_eq_false (off := off) (base := 0x1000) (n := 0x1000) (by omega)]

/-! ### The verdicts on the registers of a reach -/

theorem reachVerdict_swzKey (s : State) (rq : Requester) (p l : Nat) (k : Fin 16) (v : Word) :
    reachVerdict s rq p l (0x80 + 8 * k) v = reservedIf (swzBad v) 0xFFFF (0x80 + 8 * k) v .ok := by
  have hk := k.isLt
  unfold reachVerdict
  dsimp only
  rw [if_neg (by omega), if_neg (by omega), if_neg (by omega), if_neg (by omega), if_pos (within_eq_true (by omega))]

theorem reachVerdict_fuse (s : State) (rq : Requester) (p l : Nat) (v : Word) : reachVerdict s rq p l 0x40 v = .ok := rfl

theorem reachVerdict_window (s : State) (rq : Requester) (p l : Nat) (cb : Bool) (v : Word) :
    reachVerdict s rq p l (if cb then 0x38 else 0x30) v = discardIf (!winAccepts s p l cb v) := by
  cases cb <;> rfl

theorem reachVerdict_actSeg (s : State) (rq : Requester) (p l off : Nat) (v : Word) (h : 0x2000 ≤ off ∧ off < 0x2800) :
    reachVerdict s rq p l off v = .ok := by
  unfold reachVerdict
  dsimp only
  rw [if_neg (by omega), if_neg (by omega), if_neg (by omega), if_neg (by omega),
    if_neg (not_within (by omega)), if_neg (not_within (by omega)), stagedAt_above h.1]

/-- A swizzle key that is not enabled, or whose fields do not overlap and fit 35 bits, is legal (R229). -/
theorem swzBad_eq_false {v : Word} (h : bvb v 15 = true →
    bvf v 0 6 + (bvf v 6 3 + 1) ≤ bvf v 9 6 ∧ bvf v 9 6 + (bvf v 6 3 + 1) ≤ 35) : swzBad v = false := by
  cases hb : bvb v 15 with
  | false => simp [swzBad, hb]
  | true => simp [swzBad, hb, h hb]

theorem swzBad_eq_true {v : Word} (hb : bvb v 15 = true)
    (h : bvf v 9 6 < bvf v 0 6 + (bvf v 6 3 + 1) ∨ 35 < bvf v 9 6 + (bvf v 6 3 + 1)) : swzBad v = true := by
  simpa [swzBad, hb] using h

/-- The scratchpad has 0x6_0000 B and a cluster buffer 0x40_0000 B. -/
theorem winFits_eq (cb : Bool) (v : Word) : winFits cb v =
    if cb then decide (bvf v 4 18 * 16 + bvf v 36 19 * 16 ≤ 4194304)
    else decide (bvf v 4 15 * 16 + bvf v 36 15 * 16 ≤ 393216) := by
  cases cb <;> rfl

/-- An idle reach does not run (R159). -/
theorem Reach.run_of_idle {r : Reach} (h : r.idle = true) : r.task.run = false := by
  simp only [Reach.idle, Bool.and_eq_true, Bool.not_eq_true'] at h
  exact h.1.1

/-- A window write is accepted where the reach is idle and the window fits (R258). -/
theorem winAccepts_eq (s : State) (p l : Nat) (cb : Bool) (v : Word) :
    winAccepts s p l cb v = ((s.reach p l).idle && winFits cb v) := by
  cases hi : (s.reach p l).idle with
  | false => simp [winAccepts, hi]
  | true => simp [winAccepts, hi, Reach.run_of_idle hi]

/-! ### The effects on the registers of a reach -/

/-- Apart from TASK_CTL, TASK_PC and TASK_IMG a write changes what the reach stores. -/
theorem reachSet_store (s : State) (rq : Requester) (p l off : Nat) (v : Word) (h0 : off ≠ 0x00) (h8 : off ≠ 0x08)
    (h20 : off ≠ 0x20) :
    reachSet s rq p l off v =
      s.updReach p l (fun r => reachStore r rq off v (s.marked (.drift p l ((off - 0x2800) / 16)))) := by
  simp [reachSet, h0, h8, h20]

theorem reachStore_swzKey (r : Reach) (rq : Requester) (k : Fin 16) (v : Word) (set : Bool) :
    reachStore r rq (0x80 + 8 * k) v set = { r with swz := SMap.put r.swz k (v &&& 0xFFFF#64) } := by
  have hk := k.isLt
  unfold reachStore
  rw [if_neg (by omega), if_neg (by omega), if_neg (by omega), if_pos (within_eq_true (by omega)),
    show (0x80 + 8 * k.val - 0x80) / 8 = k.val by omega]

theorem reachStore_actSeg (r : Reach) (rq : Requester) (i : Nat) (v : Word) (set : Bool) (h : i < 256) :
    reachStore r rq (0x2000 + 8 * i) v set =
      Reach.cleanWord { r with actSeg := SMap.put r.actSeg i (v &&& actMask (i % 2)) } .seg i 1 := by
  unfold reachStore
  rw [if_neg (by omega), if_neg (by omega), if_neg (by omega),
    if_neg (not_within (by omega)), if_pos (within_eq_true (by omega)), show (0x2000 + 8 * i - 0x2000) / 8 = i by omega,
    show (0x2000 + 8 * i) % 16 / 8 = i % 2 by omega]

/-! ### A write that arrives at a reach (R333 to R335) -/

/-- A write of a legal form that nothing holds up is performed at once, once its bytes have crossed the hub port. -/
theorem accessWrite_reach_performed (s : State) (rq : Requester) (p : ParcelId) (l : ReachId) (off size : Nat) (v : Word)
    (hrq : rqPresent s rq = true) (hgate : regGate s rq true (.reach p l off) = true) (hform : regForm off size = true)
    (hwait : mustWait s p (s.parcel p).held (.reg rq (.reach p l off) size v) = false) :
    accessWrite s rq (.reach p l off) size v = regWrite (portBytes s rq p true size) rq (.reach p l off) size
      (composed (portBytes s rq p true size) rq (.reach p l off) size v) := by
  simp [accessWrite, configRetry, hrq, hgate, hform, regOff, holdOr, hwait, performHeld]

/-- A write of a whole word that arrives is the write of the register there. -/
theorem accessWrite_reach_arrives (s : State) (rq : Requester) (p : ParcelId) (l : ReachId) (off : Nat) (v : Word)
    (h : Arrives s rq p (.reach p l off) v) (h8 : off % 8 = 0) :
    accessWrite s rq (.reach p l off) 8 v = regWrite (portBytes s rq p true 8) rq (.reach p l off) 8 v := by
  obtain ⟨hrq, hgate, hwait⟩ := h
  rw [accessWrite_reach_performed s rq p l off 8 v hrq hgate (regForm_eight off h8) hwait, composed, if_pos (by decide)]

theorem regVerdict_reach (s : State) (rq : Requester) (p : ParcelId) (l : ReachId) (off : Nat) (v : Word) (h8 : off % 8 = 0) :
    regVerdict s rq (.reach p l off) v = reachVerdict s rq p l off v := by
  simp [regVerdict, show off / 8 * 8 = off by omega]

/-- A write that its register takes and only stores. -/
theorem regWrite_reach_stores (s : State) (rq : Requester) (p : ParcelId) (l : ReachId) (off size : Nat) (v : Word)
    (g : Reach → Reach) (h8 : off % 8 = 0) (h28 : 0x28 ≤ off) (hv : reachVerdict s rq p l off v = .ok)
    (hg : ∀ r set, reachStore r rq off v set = g r) : regWrite s rq (.reach p l off) size v = s.updReach p l g := by
  simp only [regWrite, regVerdict_reach _ _ _ _ _ _ h8, hv, regSet, show off / 8 * 8 = off by omega]
  rw [reachSet_store _ _ _ _ _ _ (by omega) (by omega) (by omega)]
  simp only [hg]

/-- An accepted write of a register that only holds its value. -/
theorem accessWrite_reach_stores (s : State) (rq : Requester) (p : ParcelId) (l : ReachId) (off : Nat) (v : Word)
    (g : Reach → Reach) (h : Arrives s rq p (.reach p l off) v) (h8 : off % 8 = 0) (h28 : 0x28 ≤ off)
    (hv : reachVerdict s rq p l off v = .ok) (hg : ∀ r set, reachStore r rq off v set = g r) :
    accessWrite s rq (.reach p l off) 8 v = (portBytes s rq p true 8).updReach p l g := by
  rw [accessWrite_reach_arrives s rq p l off v h h8]
  exact regWrite_reach_stores _ _ _ _ _ _ _ _ h8 h28 ((reachVerdict_portBytes ..).trans hv) hg

/-- A discarded write leaves only the bytes that were counted (R19). -/
theorem accessWrite_reach_discards (s : State) (rq : Requester) (p : ParcelId) (l : ReachId) (off : Nat) (v : Word)
    (h : Arrives s rq p (.reach p l off) v) (h8 : off % 8 = 0) (hv : reachVerdict s rq p l off v = .discard) :
    accessWrite s rq (.reach p l off) 8 v = portBytes s rq p true 8 := by
  rw [accessWrite_reach_arrives s rq p l off v h h8]
  exact regWrite_discard _ _ _ _ _ (by rw [regVerdict_reach _ _ _ _ _ _ h8, reachVerdict_portBytes, hv])

/-- A swizzle key that is not legal raises ILLEGAL_ENCODING and no more (R19, R229). -/
theorem accessWrite_swzKey_illegal (s : State) (rq : Requester) (p : ParcelId) (l : ReachId) (k : Fin 16) (v : Word)
    (h : Arrives s rq p (.reach p l (0x80 + 8 * k)) v) (hb : swzBad v = true) :
    accessWrite s rq (.reach p l (0x80 + 8 * k)) 8 v = raise (portBytes s rq p true 8) (srcReach p l) evIllegalEncoding
      (illegalPayload 1 0xFF 0xFFFF 0xFFFFFFFF (0x654000080 + l * 0x10000 + 8 * k) v.toNat) := by
  have hk := k.isLt
  have h8 : (0x80 + 8 * k.val) % 8 = 0 := by omega
  have hv : regVerdict (portBytes s rq p true 8) rq (.reach p l (0x80 + 8 * k)) v = .reserved 0xFFFF (0x80 + 8 * k) v := by
    rw [regVerdict_reach _ _ _ _ _ _ h8, reachVerdict_swzKey, hb]; rfl
  have ha : regAddress (regAt (0x80 + 8 * k.val) (.reach p l (0x80 + 8 * k))) = 0x654000080 + l * 0x10000 + 8 * k := by
    simp only [regAddress, regAt]; omega
  rw [accessWrite_reach_arrives s rq p l _ v h h8]
  simp only [regWrite, hv, ha, dropStaging, stagedAt_below (show 0x80 + 8 * k.val < 0x800 by omega), regSource]

theorem accessWrite_swzKey (s : State) (rq : Requester) (p : ParcelId) (l : ReachId) (k : Fin 16) (v : Word)
    (h : Arrives s rq p (.reach p l (0x80 + 8 * k)) v) (hb : swzBad v = false) :
    accessWrite s rq (.reach p l (0x80 + 8 * k)) 8 v =
      (portBytes s rq p true 8).updReach p l (fun r => { r with swz := SMap.put r.swz k (v &&& 0xFFFF#64) }) :=
  accessWrite_reach_stores s rq p l _ v _ h (by omega) (by omega) (by rw [reachVerdict_swzKey, hb]; rfl)
    (fun r set => reachStore_swzKey r rq k v set)

theorem accessWrite_actSeg (s : State) (rq : Requester) (p : ParcelId) (l : ReachId) (n : Fin 128) (w : Fin 2) (v : Word)
    (h : Arrives s rq p (.reach p l (0x2000 + 16 * n + 8 * w)) v) :
    accessWrite s rq (.reach p l (0x2000 + 16 * n + 8 * w)) 8 v = (portBytes s rq p true 8).updReach p l (fun r =>
      Reach.cleanWord { r with actSeg := SMap.put r.actSeg (2 * n + w) (if w = 0 then v else v &&& 0x1FFFFF#64) } .seg
        (2 * n + w) 1) := by
  have hn := n.isLt
  have hw := w.isLt
  refine accessWrite_reach_stores s rq p l _ v _ h (by omega) (by omega)
    (reachVerdict_actSeg _ _ _ _ _ _ (by omega)) fun r set => ?_
  have hm : v &&& actMask ((2 * n.val + w.val) % 2) = if w = 0 then v else v &&& 0x1FFFFF#64 := by
    rw [show (2 * n.val + w.val) % 2 = w.val by omega]
    obtain rfl | rfl : w = 0 ∨ w = 1 := by omega
    · exact BitVec.and_allOnes
    · rfl
  rw [show 0x2000 + 16 * n.val + 8 * w.val = 0x2000 + 8 * (2 * n.val + w.val) by omega,
    reachStore_actSeg r rq _ v set (by omega), hm]

theorem accessWrite_window (s : State) (rq : Requester) (p : ParcelId) (l : ReachId) (cb : Bool) (v : Word)
    (h : Arrives s rq p (.reach p l (if cb then 0x38 else 0x30)) v) :
    accessWrite s rq (.reach p l (if cb then 0x38 else 0x30)) 8 v =
      if winAccepts s p l cb v then (portBytes s rq p true 8).updReach p l (fun r => r.setWin cb v)
      else portBytes s rq p true 8 := by
  have h8 : (if cb then 0x38 else 0x30) % 8 = 0 := by cases cb <;> rfl
  have hv := reachVerdict_window s rq p l cb v
  cases hw : winAccepts s p l cb v with
  | true =>
    rw [hw] at hv
    have hr : ∀ r set, reachStore r rq (if cb then 0x38 else 0x30) v set = r.setWin cb v := fun r set => by cases cb <;> rfl
    exact accessWrite_reach_stores s rq p l _ v _ h h8 (by cases cb <;> decide) hv hr
  | false =>
    rw [hw] at hv
    exact accessWrite_reach_discards s rq p l _ v h h8 hv

/-- Settles O1: a write that arrives has the verdict of its register, and the effect or the record that the verdict names. -/
theorem registersOfAReachAreWritten : Obligations.RegistersOfAReachAreWritten := by
  unfold Obligations.RegistersOfAReachAreWritten
  refine ⟨fun rq p l v s => ⟨fun k h hkey => ?swz, fun h => ?fuse, fun n w h => ?seg, fun h hi hf => ?spWin,
      fun h hi hf => ?cbWin⟩,
    fun rq p l v s => ⟨fun k h hb hkey => ?illegal, fun cb h hno => ?refused⟩⟩
  case swz => exact congrArg Host.Outcome.next (accessWrite_swzKey s rq p l k v h (swzBad_eq_false hkey))
  case fuse =>
    exact congrArg Host.Outcome.next (accessWrite_reach_stores s rq p l 0x40 v _ h rfl (by decide) (reachVerdict_fuse ..)
      (fun _ _ => rfl))
  case seg => exact congrArg Host.Outcome.next (accessWrite_actSeg s rq p l n w v h)
  case spWin =>
    have ha : winAccepts s p l false v = true := by simp [winAccepts_eq, hi, winFits_eq, hf]
    exact congrArg Host.Outcome.next ((accessWrite_window s rq p l false v h).trans (if_pos ha))
  case cbWin =>
    have ha : winAccepts s p l true v = true := by simp [winAccepts_eq, hi, winFits_eq, hf]
    exact congrArg Host.Outcome.next ((accessWrite_window s rq p l true v h).trans (if_pos ha))
  case illegal => exact congrArg Host.Outcome.next (accessWrite_swzKey_illegal s rq p l k v h (swzBad_eq_true hb hkey))
  case refused =>
    have ha : winAccepts s p l cb v = false := by
      rw [winAccepts_eq, winFits_eq]
      rcases hno with hi | hf
      · simp [hi]
      · cases cb <;> simp at hf ⊢ <;> omega
    exact congrArg Host.Outcome.next ((accessWrite_window s rq p l cb v h).trans (if_neg (by simp [ha])))

end Sys2Proof.Machine
end

section
/-!
What becomes visible of posted writes, and what the hub DMA does as it ends or resets, leaves of the host port (12 R335,
R354, R356).
-/

namespace Sys2Proof.Machine

/-! ### What the hub's transfers and the drains of posted writes leave of the host port -/

/-- What stays while posted writes become visible and while a transfer ends: the datum, the dictionary, the link, HUB_INT_EN
and the channels of the host port, and of parcel `q` the adds that wait in it and its generation. -/
structure HostView where
  datum : Datum
  dict : Dict
  linkUp : Bool
  intEn : BitVec 4
  dma : SMap Dma
  adds : List ConfAdd
  gen : BitVec 4

/-- That part of a state. -/
def hostView (q : Nat) (s : State) : HostView :=
  { datum := s.datum, dict := s.hub.dict, linkUp := s.hub.port.linkUp, intEn := s.hub.port.intEn, dma := s.hub.port.dma
    adds := (s.parcel q).adds, gen := (s.parcel q).gen }

theorem eq_of_hostView {q : Nat} {s t : State} (h : hostView q t = hostView q s) :
    t.datum = s.datum ∧ t.hub.dict = s.hub.dict ∧ t.hub.port.linkUp = s.hub.port.linkUp ∧
    t.hub.port.intEn = s.hub.port.intEn ∧ t.hub.port.dma = s.hub.port.dma ∧ (t.parcel q).adds = (s.parcel q).adds ∧
    (t.parcel q).gen = (s.parcel q).gen := by simpa [hostView] using h

section
variable (q : Nat) (s : State)

@[simp] theorem hostView_raise (src code : Nat) (b : List Byte) : hostView q (raise s src code b) = hostView q s := rfl
@[simp] theorem hostView_mark (b : HwBit) : hostView q (s.mark b) = hostView q s := rfl
@[simp] theorem hostView_useFree : hostView q s.useFree = hostView q s := rfl
@[simp] theorem hostView_upsets (us : List Upset) : hostView q { s with upsets := us } = hostView q s := rfl
@[simp] theorem hostView_posted (ws : List Posted) : hostView q { s with posted := ws } = hostView q s := rfl

@[simp] theorem hostView_updParcel (p : Nat) (f : Parcel → Parcel) (ha : (f (s.parcel p)).adds = (s.parcel p).adds)
    (hg : (f (s.parcel p)).gen = (s.parcel p).gen) : hostView q (s.updParcel p f) = hostView q s := by
  unfold hostView
  rw [State.updParcel_parcel]
  split
  · next h => subst h; simp [ha, hg]
  · simp

@[simp] theorem hostView_updReach (p l : Nat) (f : Reach → Reach) : hostView q (s.updReach p l f) = hostView q s := by
  simp [hostView]
@[simp] theorem hostView_updTask (p l : Nat) (f : Task → Task) : hostView q (s.updTask p l f) = hostView q s := by
  simp [hostView]
@[simp] theorem hostView_updCluster (p c : Nat) (f : Cluster → Cluster) : hostView q (s.updCluster p c f) = hostView q s := by
  simp [hostView]
@[simp] theorem hostView_updMon (p : Nat) (f : Monitors → Monitors) : hostView q (s.updMon p f) = hostView q s := by
  simp [hostView]

@[simp] theorem hostView_updPort (f : HostPort → HostPort) (hl : (f s.hub.port).linkUp = s.hub.port.linkUp)
    (he : (f s.hub.port).intEn = s.hub.port.intEn) (hd : (f s.hub.port).dma = s.hub.port.dma) :
    hostView q (s.updPort f) = hostView q s := by simp [hostView, hl, he, hd]

theorem hostView_foldl {α : Type} (f : State → α → State) (h : ∀ s a, hostView q (f s a) = hostView q s) (l : List α) :
    hostView q (l.foldl f s) = hostView q s := by
  induction l generalizing s with
  | nil => rfl
  | cons a l ih => rw [List.foldl_cons, ih, h]

@[simp] theorem hostView_ite (c : Prop) [Decidable c] (a b : State) :
    hostView q (if c then a else b) = if c then hostView q a else hostView q b := apply_ite ..

/-! #### Counters, interrupts and posted writes -/

@[simp] theorem hostView_bumpPcnt (p k n : Nat) : hostView q (bumpPcnt s p k n) = hostView q s := by
  unfold bumpPcnt; split <;> simp
@[simp] theorem hostView_bumpBw (p k n : Nat) : hostView q (bumpBw s p k n) = hostView q s := by
  unfold bumpBw; split <;> simp
@[simp] theorem hostView_bumpCnt (p l k n : Nat) : hostView q (bumpCnt s p l k n) = hostView q s := by
  unfold bumpCnt; split <;> simp

@[simp] theorem hostView_msix (fn v : Nat) : hostView q (msix s fn v) = hostView q s := by
  unfold msix
  apply hostView_updPort <;> (split <;> [rfl; split <;> rfl])

@[simp] theorem hostView_setInt (p n : Nat) : hostView q (setInt s p n) = hostView q s := by
  rcases setInt_cases s p n with ⟨_, h⟩ | ⟨_, h⟩ <;> rw [h] <;> simp

@[simp] theorem hostView_setHubInt (n : Nat) : hostView q (setHubInt s n) = hostView q s := by
  rcases setHubInt_cases s n with ⟨_, h⟩ | ⟨_, h⟩ <;> rw [h] <;> simp

@[simp] theorem hostView_snooped (p n : Nat) : hostView q (snooped s p n) = hostView q s := by simp [snooped]

@[simp] theorem hostView_smCount (k : Space) (w : Bool) (as : List Nat) : hostView q (smCount s k w as) = hostView q s := by
  cases k <;> simp [smCount]

@[simp] theorem hostView_backInvalidate (k : Space) (as : List Nat) : hostView q (backInvalidate s k as) = hostView q s := by
  cases k <;> simp [backInvalidate]

@[simp] theorem hostView_setCells (k : Space) (m : Mem) : hostView q (setCells s k m) = hostView q s := by
  cases k <;> simp [setCells]

@[simp] theorem hostView_setPoisoned (k : Space) (m : List Nat) : hostView q (setPoisoned s k m) = hostView q s := by
  cases k <;> simp [setPoisoned]

@[simp] theorem hostView_writeCells (k : Space) (ws : List Host.Cell) : hostView q (writeCells s k ws).1 = hostView q s := by
  simp [writeCells]

@[simp] theorem hostView_devWrite (k : Space) (rq : Nat) (ws : List Host.Cell) : hostView q (devWrite s k rq ws) = hostView q s := by
  unfold devWrite
  refine (hostView_foldl q _ (fun t u => raiseUe t k u rq) (fun _ _ => rfl) _).trans ?_
  simp

@[simp] theorem hostView_drainIf (sel : Posted → Bool) : hostView q (drainIf s sel) = hostView q s := by
  unfold drainIf
  exact (hostView_foldl q _ _ (fun _ _ => hostView_devWrite ..) _).trans (hostView_posted ..)

/-! #### The head of issue -/

@[simp] theorem hostView_withdrawHead (p l : Nat) : hostView q (withdrawHead s p l) = hostView q s := by
  unfold withdrawHead
  simp only [hostView_updTask]
  split <;> simp

@[simp] theorem hostView_finishStop (p l : Nat) : hostView q (finishStop s p l) = hostView q s := by
  simp [finishStop, drainOf]

@[simp] theorem hostView_stopTask (p l no code reason pc : Nat) : hostView q (stopTask s p l no code reason pc) = hostView q s := by
  simp [stopTask]

@[simp] theorem hostView_fetchCheck (p l : Nat) : hostView q (fetchCheck s p l) = hostView q s := by
  simp [fetchCheck]

@[simp] theorem hostView_sampleEnd (p l : Nat) (j : Job) (status : Nat) (tag : Option SampleTag) :
    hostView q (sampleEnd s p l j status tag) = hostView q s := by
  cases tag <;> simp [sampleEnd]

@[simp] theorem hostView_headDone (p l : Nat) (j : Job) (status : Nat) : hostView q (headDone s p l j status) = hostView q s := by
  simp [headDone, headDoneAt, writeStatus, setScalar, advance]

@[simp] theorem hostView_resume (p : Nat) (ls : List Nat) : hostView q (resume s p ls) = hostView q s :=
  hostView_foldl _ _ _ (fun _ _ => hostView_headDone ..) _

@[simp] theorem hostView_parcelArrive (p k : Nat) : hostView q (parcelArrive s p k) = hostView q s := by
  simp [parcelArrive, parcelRound, setParcelBar]

/-! #### Transfers of the hub DMA -/

@[simp] theorem hostView_smRange (p : Nat) (w : Bool) (a n : Nat) : hostView q (smRange s p w a n) = hostView q s := by
  simp [smRange]

@[simp] theorem hostView_dmaMove (d : Dma) (n : Nat) : hostView q (dmaMove s d n) = hostView q s := by
  unfold dmaMove
  dsimp only
  split
  · simp
  · rw [hostView_upsets]
    simp

theorem hostView_updDma (c : Nat) (f : Dma → Dma) :
    hostView q (updDma s c f) = { hostView q s with dma := SMap.put s.hub.port.dma c (f (dmaOf s c)) } := rfl

/-- The same, but for the channels of the hub DMA. -/
def SameButDma (q : Nat) (s t : State) : Prop := hostView q t = { hostView q s with dma := t.hub.port.dma }

theorem SameButDma.of_eq {q : Nat} {s t : State} (h : hostView q t = hostView q s) : SameButDma q s t := by
  unfold SameButDma
  obtain ⟨_, _, _, _, hd, _⟩ := eq_of_hostView h
  rw [h, hd]
  rfl

theorem SameButDma.trans {q : Nat} {s t u : State} (h : SameButDma q s t) (k : SameButDma q t u) : SameButDma q s u := by
  unfold SameButDma at *
  rw [k, h]

theorem SameButDma.updDma (c : Nat) (f : Dma → Dma) : SameButDma q s (updDma s c f) := rfl

theorem dmaOf_of_hostView {q : Nat} {s t : State} (h : hostView q t = hostView q s) (k : Nat) : dmaOf t k = dmaOf s k := by
  obtain ⟨_, _, _, _, hd, _⟩ := eq_of_hostView h
  rw [dmaOf, hd, dmaOf]

theorem dmaOf_updDma (c k : Nat) (f : Dma → Dma) :
    dmaOf (updDma s c f) k = if k = c then f (dmaOf s c) else dmaOf s k := SMap.get_put ..

/-- A transfer that ends has reached its barrier and raised its interrupt, besides what it changes of its channel (R354). -/
theorem hostView_dmaEnd (c status : Nat) : hostView q (dmaEnd s c status) = hostView q (updDma (s.mark (.dmaDone c)) c
    (fun d => { d with arm := false, busy := false, done := true, status := BitVec.ofNat 3 status })) := by
  simp [dmaEnd]

theorem dmaEnd_sameButDma (c status : Nat) : SameButDma q s (dmaEnd s c status) :=
  (SameButDma.updDma q (s.mark (.dmaDone c)) c _).trans (.of_eq (hostView_dmaEnd ..))

/-- A channel of the hub DMA after a reset of the hub's function (R335): a running transfer has ended with status aborted. -/
def Dma.afterReset (d : Dma) : Dma := if d.busy then { done := true, status := 4 } else {}

theorem dmaReset_sameButDma (c : Nat) : SameButDma q s (dmaReset s c) := by
  unfold dmaReset
  dsimp only
  split
  · have hmove : SameButDma q s (dmaMove s.useFree (dmaOf s c) (somePieces s (dmaLen (dmaOf s c)))) := .of_eq (by simp)
    exact (hmove.trans (dmaEnd_sameButDma ..)).trans (.updDma ..)
  · exact .updDma ..

/-- The reset of a channel leaves the other channels alone. -/
theorem dmaOf_dmaReset (c k : Nat) :
    dmaOf (dmaReset s c) k = if k = c then (dmaOf s c).afterReset else dmaOf s k := by
  unfold dmaReset Dma.afterReset
  dsimp only
  split <;> rw [dmaOf_updDma]
  split
  · rfl
  · next hk =>
    rw [dmaOf_of_hostView (hostView_dmaEnd 0 ..), dmaOf_updDma, if_neg hk]
    exact dmaOf_of_hostView (q := 0) (by simp) k

theorem foldl_dmaReset_sameButDma (cs : List Nat) : SameButDma q s (cs.foldl dmaReset s) := by
  induction cs generalizing s with
  | nil => exact .of_eq rfl
  | cons c cs ih => exact (dmaReset_sameButDma q s c).trans (ih _)

theorem dmaOf_foldl_dmaReset (cs : List Nat) (hcs : cs.Nodup) (k : Nat) :
    dmaOf (cs.foldl dmaReset s) k = if k ∈ cs then (dmaOf s k).afterReset else dmaOf s k := by
  induction cs generalizing s with
  | nil => simp
  | cons c cs ih =>
    obtain ⟨hc, hcs⟩ := List.nodup_cons.mp hcs
    rw [List.foldl_cons, ih _ hcs, dmaOf_dmaReset]
    by_cases hk : k = c
    · subst hk; simp [hc]
    · simp [hk]

theorem dmaOf_dmaResetAll (c : Nat) (h : c < 8) : dmaOf (dmaResetAll s) c = (dmaOf s c).afterReset := by
  rw [dmaResetAll, dmaOf_foldl_dmaReset _ _ List.nodup_range, if_pos (List.mem_range.mpr h)]

theorem State.updPort_updPort (f g : HostPort → HostPort) : (s.updPort f).updPort g = s.updPort (fun h => g (f h)) := rfl

/-- Where no channel is busy, their resets change nothing but the channels. -/
theorem dmaResetAll_idle (h : ∀ c < 8, (dmaOf s c).busy = false) : ∃ f, dmaResetAll s = s.updPort f := by
  have reset (cs : List Nat) (hcs : cs.Nodup) (t : State) (ht : ∀ c ∈ cs, (dmaOf t c).busy = false) :
      ∃ f, cs.foldl dmaReset t = t.updPort f := by
    induction cs generalizing t with
    | nil => exact ⟨id, rfl⟩
    | cons c cs ih =>
      obtain ⟨hc, hcs⟩ := List.nodup_cons.mp hcs
      have hr : dmaReset t c = updDma t c (fun _ => {}) := by simp [dmaReset, ht c]
      obtain ⟨f, hf⟩ := ih hcs (dmaReset t c) fun k hk => by
        have hkc : k ≠ c := fun h => hc (h ▸ hk)
        rw [dmaOf_dmaReset, if_neg hkc]
        exact ht k (List.mem_cons_of_mem _ hk)
      rw [List.foldl_cons, hf, hr]
      exact ⟨_, State.updPort_updPort ..⟩
  exact reset _ List.nodup_range s fun c hc => h c (List.mem_range.mp hc)

end

end Sys2Proof.Machine
end

section
/-!
The reset of a parcel (13 R376, 12 R335): what the adds that it refuses and the links that go down leave of the package.
-/

namespace Sys2Proof.Machine

/-! ### What the end of a parcel's links and adds leaves -/

/-- What stays while links go down and adds are answered: the datum, the hub, and of parcel `q` its memory and its
generation. -/
structure StoreView where
  datum : Datum
  hub : Hub
  mem : Mem
  gen : BitVec 4

/-- That part of a state. -/
def storeView (q : Nat) (s : State) : StoreView :=
  { datum := s.datum, hub := s.hub, mem := (s.parcel q).mem, gen := (s.parcel q).gen }

theorem eq_of_storeView {q : Nat} {s t : State} (h : storeView q t = storeView q s) :
    t.datum = s.datum ∧ t.hub = s.hub ∧ (t.parcel q).mem = (s.parcel q).mem ∧ (t.parcel q).gen = (s.parcel q).gen := by
  simpa [storeView] using h

section
variable (q : Nat) (s : State)

@[simp] theorem storeView_raise (src code : Nat) (b : List Byte) : storeView q (raise s src code b) = storeView q s := rfl

@[simp] theorem storeView_updParcel (p : Nat) (f : Parcel → Parcel) (hm : (f (s.parcel p)).mem = (s.parcel p).mem)
    (hg : (f (s.parcel p)).gen = (s.parcel p).gen) : storeView q (s.updParcel p f) = storeView q s := by
  unfold storeView
  rw [State.updParcel_parcel]
  split
  · next h => subst h; simp [hm, hg]
  · simp

@[simp] theorem storeView_updReach (p l : Nat) (f : Reach → Reach) : storeView q (s.updReach p l f) = storeView q s := by
  simp [storeView]
@[simp] theorem storeView_updLink (p : Nat) (r : Port) (f : Link → Link) : storeView q (s.updLink p r f) = storeView q s := by
  simp [storeView]
@[simp] theorem storeView_updMon (p : Nat) (f : Monitors → Monitors) : storeView q (s.updMon p f) = storeView q s := by
  simp [storeView]
@[simp] theorem storeView_updFab (p : Nat) (f : Fabric → Fabric) : storeView q (s.updFab p f) = storeView q s := by
  simp [storeView]

@[simp] theorem storeView_ite (c : Prop) [Decidable c] (a b : State) :
    storeView q (if c then a else b) = if c then storeView q a else storeView q b := apply_ite ..

theorem storeView_foldl {α : Type} (f : State → α → State) (h : ∀ s a, storeView q (f s a) = storeView q s) (l : List α) :
    storeView q (l.foldl f s) = storeView q s := by
  induction l generalizing s with
  | nil => rfl
  | cons a l ih => rw [List.foldl_cons, ih, h]

@[simp] theorem storeView_bumpPcnt (p k n : Nat) : storeView q (bumpPcnt s p k n) = storeView q s := by
  unfold bumpPcnt; split <;> simp

@[simp] theorem storeView_updFlight (p l no : Nat) (f : Flight → Flight) : storeView q (updFlight s p l no f) = storeView q s := by
  simp [updFlight]

/-! #### Packets and the answers of adds -/

@[simp] theorem storeView_queuePacket (p : Nat) (r : Port) (vc : Nat) (k : Packet) :
    storeView q (queuePacket s p r vc k) = storeView q s := by simp [queuePacket]

@[simp] theorem storeView_forwardPacket (p leg : Nat) (k : Packet) : storeView q (forwardPacket s p leg k) = storeView q s := by
  unfold forwardPacket; split <;> simp

@[simp] theorem storeView_findRoute (p dst : Nat) : storeView q (findRoute s p dst).1 = storeView q s := by
  unfold findRoute
  dsimp only
  split
  · rfl
  · split <;> simp

theorem storeView_sendPacket (p : Nat) (k : Packet) : storeView q (sendPacket s p k).1 = storeView q s := by
  have hr := storeView_findRoute q s p k.dst.toNat
  unfold sendPacket
  dsimp only
  split
  · simp
  · split
    · next h => rw [h] at hr; exact hr
    · next h => rw [h] at hr; simpa using hr

@[simp] theorem storeView_answerAdd (p : Nat) (a : ConfAdd) (refused : Bool) :
    storeView q (answerAdd s p a refused) = storeView q s := by
  unfold answerAdd
  split
  · simp [answerAdds]
  · dsimp only
    split
    · rfl
    · simp [answerRow, storeView_sendPacket]

@[simp] theorem storeView_refuseAdds (p : Nat) : storeView q (refuseAdds s p) = storeView q s :=
  (storeView_foldl q _ _ (fun _ _ => storeView_answerAdd ..) _).trans (storeView_updParcel q s p _ rfl rfl)

/-! #### Links that go down -/

@[simp] theorem storeView_addSum (p : Nat) (x : CascadeSum) : storeView q (addSum s p x) = storeView q s := by simp [addSum]

@[simp] theorem storeView_breakCasc (p l : Nat) (f : Flight) : storeView q (breakCasc s p l f) = storeView q s := by
  simp [breakCasc]

@[simp] theorem storeView_breakCascades (p : Nat) (r : Port) (reason : Nat) :
    storeView q (breakCascades s p r reason) = storeView q s := by
  refine (storeView_foldl q _ _ (fun t l => ?_) _).trans (storeView_updLink ..)
  dsimp only
  split
  · rfl
  · split
    · exact (storeView_breakCasc ..).trans (storeView_updParcel _ _ _ _ rfl rfl)
    · exact (storeView_updParcel _ _ _ _ rfl rfl).trans (storeView_updFlight ..)

@[simp] theorem storeView_noteFault (p : Nat) (r : Port) (down : Bool) : storeView q (noteFault s p r down) = storeView q s := by
  refine (storeView_foldl q _ _ (fun t l => ?_) _).trans (by simp [setMark])
  simp [pushCtl]

@[simp] theorem storeView_linkDown (p : Nat) (r : Port) (reason : Nat) (dst : LinkState) :
    storeView q (linkDown s p r reason dst) = storeView q s := by
  simp [linkDown, raiseDown]

@[simp] theorem storeView_portsOff (p : Nat) : storeView q (portsOff s p) = storeView q s :=
  (storeView_foldl q _ _ (fun _ _ => storeView_updLink ..) _).trans (storeView_foldl q _ _ (fun _ _ => storeView_linkDown ..) _)

end

/-! #### The reaches of the other parcels -/

theorem foldl_reach (q m : Nat) {α : Type} (f : State → α → State) (h : ∀ s a, (f s a).reach q m = s.reach q m) (l : List α)
    (s : State) : (l.foldl f s).reach q m = s.reach q m := by
  induction l generalizing s with
  | nil => rfl
  | cons a l ih => rw [List.foldl_cons, ih, h]

theorem State.updParcel_reach (s : State) (p : Nat) (f : Parcel → Parcel) (q m : Nat)
    (h : (f (s.parcel p)).reaches = (s.parcel p).reaches) : (s.updParcel p f).reach q m = s.reach q m := by
  unfold State.reach
  rw [State.updParcel_parcel]
  split
  · next hq => rw [h, hq]
  · rfl

@[simp] theorem addSum_reach (s : State) (p : Nat) (x : CascadeSum) (q m : Nat) : (addSum s p x).reach q m = s.reach q m :=
  State.updParcel_reach _ _ _ _ _ rfl

@[simp] theorem noteFault_reach (s : State) (p : Nat) (r : Port) (down : Bool) (q m : Nat) :
    (noteFault s p r down).reach q m = s.reach q m := by
  refine (foldl_reach q m _ (fun t l => ?_) _ _).trans (by simp [setMark])
  split <;> simp [pushCtl]

section
variable (s : State) (p : Nat) {q : Nat} (hq : q ≠ p) (m : Nat)
include hq

theorem updFlight_reach_otherParcel (l no : Nat) (f : Flight → Flight) : (updFlight s p l no f).reach q m = s.reach q m :=
  State.updReach_reach_other _ _ _ _ _ _ (fun h => hq h.1)

theorem breakCasc_reach_otherParcel (l : Nat) (f : Flight) : (breakCasc s p l f).reach q m = s.reach q m := by
  unfold breakCasc
  dsimp only
  split
  · simp [updFlight_reach_otherParcel s p hq]
  · split
    · split <;> simp [updFlight_reach_otherParcel s p hq]
    · exact updFlight_reach_otherParcel s p hq m _ _ _

theorem breakCascades_reach_otherParcel (r : Port) (reason : Nat) : (breakCascades s p r reason).reach q m = s.reach q m := by
  refine (foldl_reach q m _ (fun t l => ?_) _ _).trans (State.updLink_reach ..)
  split
  · rfl
  · dsimp only
    split
    · exact (breakCasc_reach_otherParcel _ p hq m _ _).trans (State.updParcel_reach _ _ _ _ _ rfl)
    · exact (State.updParcel_reach _ _ _ _ _ rfl).trans (updFlight_reach_otherParcel _ p hq m _ _ _)

theorem linkDown_reach_otherParcel (r : Port) (reason : Nat) (dst : LinkState) :
    (linkDown s p r reason dst).reach q m = s.reach q m := by
  unfold linkDown
  dsimp only
  split
  · simp
  · split <;> simp [breakCascades_reach_otherParcel _ p hq, raiseDown]

/-- The links of a parcel go down with the cascades of that parcel alone (R82, R299). -/
theorem portsOff_reach_otherParcel : (portsOff s p).reach q m = s.reach q m :=
  (foldl_reach q m _ (fun _ _ => State.updLink_reach ..) _ _).trans
    (foldl_reach q m _ (fun t _ => linkDown_reach_otherParcel t p hq m ..) _ _)

end

/-! ### The reset of a parcel (R24, R376) -/

/-- The package as a parcel is reset in it: its posted writes are in the memories, its adds refused, its links down. -/
def beforeReset (s : State) (p : Nat) : State := portsOff (refuseAdds (drainParcel s p) p) p

theorem resetParcel_eq (s : State) (p : Nat) : resetParcel s p =
    { (beforeReset s p).updParcel p (fun x =>
        x.afterReset (bankOf s (s.parcel p).bank).vmax (bankOf s (s.parcel p).bank).vmin) with
      upsets := (beforeReset s p).upsets.filter (fun u => !onDie p u) } := by
  unfold resetParcel beforeReset
  rfl

theorem State.parcel_upsets (s : State) (us : List Upset) (q : Nat) :
    ({ s with upsets := us } : State).parcel q = s.parcel q := rfl

theorem State.hub_upsets (s : State) (us : List Upset) : ({ s with upsets := us } : State).hub = s.hub := rfl
theorem State.datum_upsets (s : State) (us : List Upset) : ({ s with upsets := us } : State).datum = s.datum := rfl

theorem resetParcel_parcel_same (s : State) (p : Nat) : (resetParcel s p).parcel p =
    ((beforeReset s p).parcel p).afterReset (bankOf s (s.parcel p).bank).vmax (bankOf s (s.parcel p).bank).vmin := by
  rw [resetParcel_eq, State.parcel_upsets, State.updParcel_parcel_same]

theorem resetParcel_parcel_other (s : State) {p q : Nat} (hq : q ≠ p) :
    (resetParcel s p).parcel q = (beforeReset s p).parcel q := by
  rw [resetParcel_eq, State.parcel_upsets, State.updParcel_parcel_other _ _ _ _ hq]

theorem storeView_beforeReset (s : State) (p q : Nat) : storeView q (beforeReset s p) = storeView q (drainParcel s p) := by
  simp [beforeReset]

theorem hostView_drainParcel (s : State) (p q : Nat) : hostView q (drainParcel s p) = hostView q s := hostView_drainIf ..

theorem resetParcel_mem (s : State) (p q : Nat) : ((resetParcel s p).parcel q).mem = ((drainParcel s p).parcel q).mem := by
  obtain ⟨_, _, hm, _⟩ := eq_of_storeView (storeView_beforeReset s p q)
  by_cases hq : q = p
  · subst hq; rw [resetParcel_parcel_same, ← hm, Parcel.afterReset]
  · rw [resetParcel_parcel_other s hq, hm]

theorem resetParcel_gen (s : State) (p : Nat) : ((resetParcel s p).parcel p).gen = (s.parcel p).gen + 1 := by
  obtain ⟨_, _, _, hg⟩ := eq_of_storeView (storeView_beforeReset s p p)
  obtain ⟨_, _, _, _, _, _, hg'⟩ := eq_of_hostView (hostView_drainParcel s p p)
  rw [resetParcel_parcel_same, Parcel.afterReset, hg, hg']

/-- Of the hub and the datum the reset of a parcel changes what its posted writes do, and no more. -/
theorem resetParcel_hub (s : State) (p : Nat) : (resetParcel s p).hub = (drainParcel s p).hub := by
  obtain ⟨_, hh, _, _⟩ := eq_of_storeView (storeView_beforeReset s p p)
  rw [resetParcel_eq, State.hub_upsets, State.updParcel_hub, hh]

/-- The link of the host port, its HUB_INT_EN and the dictionary are no part of the parcel's function (R335). -/
theorem resetParcel_port (s : State) (p : Nat) : (resetParcel s p).hub.port.linkUp = s.hub.port.linkUp ∧
    (resetParcel s p).hub.port.intEn = s.hub.port.intEn ∧ (resetParcel s p).hub.dict = s.hub.dict := by
  obtain ⟨_, hdict, hlink, hint, _⟩ := eq_of_hostView (hostView_drainParcel s p p)
  rw [resetParcel_hub]
  exact ⟨hlink, hint, hdict⟩

theorem resetParcel_datum (s : State) (p : Nat) : (resetParcel s p).datum = s.datum := by
  obtain ⟨hd, _, _, _⟩ := eq_of_storeView (storeView_beforeReset s p p)
  obtain ⟨hd', _⟩ := eq_of_hostView (hostView_drainParcel s p p)
  rw [resetParcel_eq, State.datum_upsets, State.updParcel_datum, hd, hd']

theorem SMap.find_map {α β : Type} (m : SMap α) (f : α → β) (k : Nat) :
    SMap.find (m.map (fun e => (e.1, f e.2))) k = (SMap.find m k).map f := by
  induction m with
  | nil => rfl
  | cons e m ih =>
    simp only [List.map_cons, SMap.find]
    split
    · rfl
    · split
      · rfl
      · exact ih

/-- A reach of the parcel is cleared. -/
theorem resetParcel_reach_same (s : State) (p l : Nat) :
    (resetParcel s p).reach p l = Reach.cleared (((beforeReset s p).reach p l)) := by
  unfold State.reach
  rw [resetParcel_parcel_same]
  simp only [Parcel.afterReset, SMap.get, SMap.find_map]
  cases SMap.find ((beforeReset s p).parcel p).reaches l <;> rfl

theorem resetParcel_reach_other (s : State) (p : Nat) {q : Nat} (hq : q ≠ p) (l : Nat) :
    (resetParcel s p).reach q l = (refuseAdds (drainParcel s p) p).reach q l := by
  rw [State.reach, resetParcel_parcel_other s hq]
  exact portsOff_reach_otherParcel _ p hq l

theorem drainParcel_adds (s : State) (p q : Nat) : ((drainParcel s p).parcel q).adds = (s.parcel q).adds := by
  obtain ⟨_, _, _, _, _, ha, _⟩ := eq_of_hostView (hostView_drainParcel s p q)
  exact ha

theorem drainParcel_reach (s : State) (p q l : Nat) : (drainParcel s p).reach q l = s.reach q l :=
  (drainIf_beside s _).1 q l

/-- A parcel without waiting adds is reset without a change in another (R24). -/
theorem resetParcel_reach_noAdds (s : State) (p : Nat) {q : Nat} (hq : q ≠ p) (l : Nat) (h : (s.parcel p).adds = []) :
    (resetParcel s p).reach q l = s.reach q l := by
  rw [resetParcel_reach_other s p hq, refuseAdds, drainParcel_adds, h]
  exact (State.updParcel_reach _ _ _ _ _ rfl).trans (drainParcel_reach ..)

/-- The flight of the one add that waits has its answer: refused (R22, R86). -/
theorem resetParcel_refuses (s : State) (p : Nat) (a : ConfAdd) (f : Flight) (k : Nat) (h : (s.parcel p).adds = [a])
    (hrow : a.rowId = none) (hp : a.parcel ≠ p) (hf : f ∈ (s.reach a.parcel a.reach).flights) (hno : f.no = a.flight)
    (hw : f.wait = .adds k) :
    ∃ g ∈ ((resetParcel s p).reach a.parcel a.reach).flights, g.no = a.flight ∧ g.wait = .adds (k - 1) ∧ g.status = 2 := by
  have hd : ((drainParcel s p).updParcel p (fun x => { x with adds := [] })).reach a.parcel a.reach =
      s.reach a.parcel a.reach := (State.updParcel_reach _ _ _ _ _ rfl).trans (drainParcel_reach ..)
  have hr : refuseAdds (drainParcel s p) p =
      answerAdd ((drainParcel s p).updParcel p (fun x => { x with adds := [] })) p a true := by
    rw [refuseAdds, drainParcel_adds, h]; rfl
  rw [resetParcel_reach_other s p hp, hr]
  simp only [answerAdd, hrow, answerAdds, updFlight, State.updReach_reach_same, hd, List.map_map]
  refine ⟨_, List.mem_map_of_mem hf, ?_⟩
  simp [hno, hw]

end Sys2Proof.Machine
end

section
/-!
Register accesses of any size: writes of half a word (12 R333), reads of one word and of a wider register with its latch
(00 R17), and the configuration space (R332, R347, R466).
-/

namespace Sys2Proof.Machine

/-! ### Fields of words -/

/-- A bit of a word with a field replaced. -/
theorem getLsbD_putField {k : Nat} (w : BitVec k) (lo n v i : Nat) (hi : i < k) :
    (putField w lo n v).getLsbD i = if lo ≤ i ∧ i < lo + n then v.testBit (i - lo) else w.getLsbD i := by
  simp only [putField, place, BitVec.getLsbD_or, BitVec.getLsbD_and, BitVec.getLsbD_not, BitVec.getLsbD_ofNat, hi,
    Nat.testBit_shiftLeft, Nat.testBit_mod_two_pow, Nat.testBit_two_pow_sub_one, decide_true, Bool.true_and]
  by_cases hlo : lo ≤ i
  · by_cases hn : i < lo + n
    · simp [hlo, hn, show i - lo < n by omega]
    · simp [hlo, hn, show ¬ i - lo < n by omega]
  · simp [hlo]

theorem bvb_eq_getLsbD {k : Nat} (w : BitVec k) (i : Nat) : bvb w i = w.getLsbD i := rfl

theorem bvb_putBit_same {k : Nat} (w : BitVec k) (i : Nat) (b : Bool) (hi : i < k) : bvb (putBit w i b) i = b := by
  rw [bvb_eq_getLsbD, putBit, getLsbD_putField _ _ _ _ _ hi, if_pos ⟨le_rfl, by omega⟩]
  cases b <;> simp [b2n]

theorem putField_low_half (w v : Word) :
    putField w 0 32 v.toNat = (w &&& 0xFFFFFFFF00000000#64) ||| (v &&& 0xFFFFFFFF#64) := by
  refine BitVec.eq_of_getLsbD_eq fun i hi => ?_
  rw [getLsbD_putField _ _ _ _ _ hi]
  have high : ∀ i < 64, (0xFFFFFFFF00000000#64).getLsbD i = decide (32 ≤ i) := by decide
  have low : ∀ i < 64, (0xFFFFFFFF#64).getLsbD i = decide (i < 32) := by decide
  rw [BitVec.getLsbD_or, BitVec.getLsbD_and, BitVec.getLsbD_and, high i hi, low i hi]
  by_cases h32 : i < 32
  · simp [h32, BitVec.testBit_toNat]
  · simp [h32, show 32 ≤ i by omega]

/-! ### Writes of part of a word (R333) -/

/-- An access of another size or alignment is refused (R333, R334). -/
theorem accessWrite_reach_refused (s : State) (rq : Requester) (p : ParcelId) (l : ReachId) (off size : Nat) (v : Word)
    (hrq : rqPresent s rq = true) (hgate : regGate s rq true (.reach p l off) = true) (hform : regForm off size = false) :
    accessWrite s rq (.reach p l off) size v = refuseAccess s rq (.reach p l off) size 4 := by
  simp [accessWrite, configRetry, hrq, hgate, hform, regOff]

theorem regForm_eq_false {off size : Nat} (h : size ≠ 4 ∧ size ≠ 8 ∨ off % size ≠ 0) : regForm off size = false := by
  rcases h with ⟨h4, h8⟩ | h <;> simp [regForm, *]

/-- Word `i` of the ACT_SEG table, which holds two words an entry (R108). -/
theorem reachWord_actSeg (r : Reach) (i : Nat) (h : i < 256) : reachWord r (0x2000 + 8 * i) = SMap.get 0 r.actSeg i := by
  unfold reachWord
  rw [if_neg (by omega), if_neg (by omega), if_neg (not_within (by omega)), if_neg (by omega), if_neg (by omega),
    if_neg (by omega), if_neg (by omega), if_neg (by omega), if_neg (by omega), if_neg (by omega),
    if_neg (not_within (by omega)), if_neg (not_within (by omega)), if_neg (not_within (by omega)),
    if_pos (within_eq_true (by omega)), show (0x2000 + 8 * i - 0x2000) / 8 = i by omega]

/-- A write of 4 B to the low half of an even word of ACT_SEG leaves the other half (R333). -/
theorem composed_actSeg_low (s : State) (rq : Requester) (p : ParcelId) (l : ReachId) (n : Fin 128) (v : Word) :
    composed s rq (.reach p l (0x2000 + 16 * n)) 4 v =
      (SMap.get 0 (s.reach p l).actSeg (2 * n) &&& 0xFFFFFFFF00000000#64) ||| (v &&& 0xFFFFFFFF#64) := by
  have hn := n.isLt
  have hoff : 0x2000 + 16 * n.val = 0x2000 + 8 * (2 * n.val) := by omega
  have hcur : regCurrent s rq (.reach p l (0x2000 + 16 * n)) = SMap.get 0 (s.reach p l).actSeg (2 * n) := by
    simp only [regCurrent, stagedAt_above (show 0x2000 ≤ 0x2000 + 16 * n.val by omega), regWord]
    rw [show (0x2000 + 16 * n.val) / 8 * 8 = 0x2000 + 8 * (2 * n.val) by omega, reachWord_actSeg _ _ (by omega)]
  have hact : actionBits (.reach p l (0x2000 + 16 * n)) = 0 := by
    simp only [actionBits, Bool.and_eq_true]
    rw [if_neg (by omega), if_neg fun h => not_within (by omega) h.1, if_neg (not_within (by omega))]
  rw [composed, if_neg (by decide)]
  simp only [hcur, hact, regOff, show 8 * ((0x2000 + 16 * n.val) % 8) = 0 by omega]
  rw [← putField_low_half]
  congr 1
  exact BitVec.and_allOnes

theorem State.updReach_congr (s : State) (p l : Nat) {f g : Reach → Reach} (h : f (s.reach p l) = g (s.reach p l)) :
    s.updReach p l f = s.updReach p l g := by rw [State.updReach, h, State.updReach]

theorem accessWrite_actSeg_low (s : State) (rq : Requester) (p : ParcelId) (l : ReachId) (n : Fin 128) (v : Word)
    (hrq : rqPresent s rq = true) (hgate : regGate s rq true (.reach p l (0x2000 + 16 * n)) = true)
    (hwait : mustWait s p (s.parcel p).held (.reg rq (.reach p l (0x2000 + 16 * n)) 4 v) = false) :
    accessWrite s rq (.reach p l (0x2000 + 16 * n)) 4 v = (portBytes s rq p true 4).updReach p l (fun r =>
      Reach.cleanWord { r with
        actSeg := SMap.put r.actSeg (2 * n) ((SMap.get 0 r.actSeg (2 * n) &&& 0xFFFFFFFF00000000#64) ||| (v &&& 0xFFFFFFFF#64))
      } .seg (2 * n) 1) := by
  have hn := n.isLt
  have hform : regForm (0x2000 + 16 * n.val) 4 = true := by simp [regForm]; omega
  have hstore (r : Reach) (x : Word) (set : Bool) : reachStore r rq (0x2000 + 16 * n.val) x set =
      Reach.cleanWord { r with actSeg := SMap.put r.actSeg (2 * n) x } .seg (2 * n) 1 := by
    have hmask : x &&& actMask (2 * n.val % 2) = x := by
      rw [Nat.mul_mod_right]; exact BitVec.and_allOnes
    rw [show 0x2000 + 16 * n.val = 0x2000 + 8 * (2 * n.val) by omega, reachStore_actSeg r rq _ x set (by omega), hmask]
  rw [accessWrite_reach_performed s rq p l _ 4 v hrq hgate hform hwait, composed_actSeg_low, portBytes_reach,
    regWrite_reach_stores _ _ _ _ _ _ _ _ (by omega) (by omega) (reachVerdict_actSeg _ _ _ _ _ _ (by omega))
      (fun r set => hstore r _ set)]
  exact State.updReach_congr _ _ _ (by rw [portBytes_reach])

/-! ### Reads of the host (R17, R333, R334) -/

section
variable (s : State) (p : ParcelId) (l : ReachId) (off size : Nat) (hlink : s.hub.port.linkUp = true)
include hlink

theorem accessRead_reach_open (hopen : functionOpen s p = true) (hform : regForm off size = true) :
    accessRead s .host (.reach p l off) size = holdOr s p (.read .host (.reach p l off) size) := by
  simp [accessRead, configRetry, rqPresent, hlink, regGate, hopen, regOff, hform]

theorem accessRead_reach_closed (hopen : functionOpen s p = false) :
    accessRead s .host (.reach p l off) size = reply s .abort := by
  simp [accessRead, configRetry, rqPresent, hlink, regGate, hopen, replyTo]

theorem accessWrite_reach_closed (hopen : functionOpen s p = false) (v : Word) :
    accessWrite s .host (.reach p l off) size v = s := by
  simp [accessWrite, configRetry, rqPresent, hlink, regGate, hopen]

end

/-- A register read of the host waits for nothing but an older access of the host (R359). -/
theorem mustWait_hostRead (s : State) (p : Nat) (older : List Held) (a : RegAddr) (size : Nat) :
    mustWait s p older (.read .host a size) = older.any hostHeld := by
  simp [mustWait, heldLocks, heldReach, hostHeld]

/-- With no older access of the host a read is performed at once. -/
theorem holdOr_hostRead (s : State) (p : Nat) (a : RegAddr) (size : Nat) (h : ∀ x ∈ (s.parcel p).held, hostHeld x = false) :
    holdOr s p (.read .host a size) = readNow (portBytes s .host p false size) .host a size := by
  have hfree : (s.parcel p).held.any hostHeld = false := by simpa using h
  rw [holdOr, mustWait_hostRead, hfree, performHeld]
  rfl

theorem readNow_eq {s t : State} {a : RegAddr} {size v : Nat} (h : regRead s .host a size = (t, v)) :
    readNow s .host a size = t.updPort (fun x => { x with reply := .data (leBytes size v) false }) := by
  simp only [readNow, h]
  rfl

/-- A register of one word is read as it stands. -/
theorem regRead_fuse (s : State) (rq : Requester) (p : ParcelId) (l : ReachId) :
    regRead s rq (.reach p l 0x40) 8 = (s, (s.reach p l).fuse.toNat) := by
  have hsize : regSize (.reach p l 0x40) = 8 := rfl
  have hword : regWord s (.reach p l 0x40) = (s.reach p l).fuse := rfl
  have hcut : field (s.reach p l).fuse.toNat 0 64 = (s.reach p l).fuse.toNat := Nat.mod_eq_of_lt (s.reach p l).fuse.isLt
  simp [regRead, hsize, hword, regOff, hcut]

/-! #### The entries of ACT_SEG, of two words (R17, R108) -/

/-- An ACT_SEG entry as a number. -/
def actSegWhole (r : Reach) (n : Nat) : Nat :=
  (SMap.get 0 r.actSeg (2 * n)).toNat + (SMap.get 0 r.actSeg (2 * n + 1)).toNat * 2 ^ 64

theorem field_actSegWhole_low (r : Reach) (n : Nat) : field (actSegWhole r n) 0 64 = (SMap.get 0 r.actSeg (2 * n)).toNat := by
  have h := (SMap.get 0 r.actSeg (2 * n)).isLt
  simp only [field, actSegWhole, Nat.shiftRight_zero]
  omega

theorem field_actSegWhole_high (r : Reach) (n : Nat) :
    field (actSegWhole r n) 64 64 = (SMap.get 0 r.actSeg (2 * n + 1)).toNat := by
  have h := (SMap.get 0 r.actSeg (2 * n)).isLt
  have h' := (SMap.get 0 r.actSeg (2 * n + 1)).isLt
  simp only [field, actSegWhole, Nat.shiftRight_eq_div_pow]
  omega

theorem regSize_actSeg (p : ParcelId) (l : ReachId) (off : Nat) (h : 0x2000 ≤ off ∧ off < 0x2800) :
    regSize (.reach p l off) = 16 := by
  simp only [regSize]
  rw [if_neg (not_within (by omega)), if_neg (not_within (by omega)), if_neg (not_within (by omega)),
    if_pos (within_eq_true (by omega))]

section
variable (s : State) (rq : Requester) (p : ParcelId) (l : ReachId) (n : Fin 128)

theorem regBase_actSeg (w : Fin 2) : regBase (.reach p l (0x2000 + 16 * n + 8 * w)) = 0x2000 + 16 * n := by
  have hn := n.isLt
  have hw := w.isLt
  rw [regBase, regSize_actSeg _ _ _ (by omega)]
  simp only [regOff]
  omega

theorem regWord_actSeg (w : Fin 2) (i : Nat) (hi : i < 2) :
    regWord s (regAt ((0x2000 + 16 * n.val) / 8 * 8 + 8 * i) (.reach p l (0x2000 + 16 * n + 8 * w))) =
      SMap.get 0 (s.reach p l).actSeg (2 * n + i) := by
  have hn := n.isLt
  have hoff : ((0x2000 + 16 * n.val) / 8 * 8 + 8 * i) / 8 * 8 = 0x2000 + 8 * (2 * n.val + i) := by omega
  rw [regAt, regWord, hoff, reachWord_actSeg _ _ (by omega)]

theorem regWhole_actSeg (w : Fin 2) :
    regWhole s (.reach p l (0x2000 + 16 * n + 8 * w)) = actSegWhole (s.reach p l) n := by
  have hn := n.isLt
  have hw := w.isLt
  rw [regWhole, regBase_actSeg, regSize_actSeg _ _ _ (by omega)]
  have hrange : List.range (ceilDiv 16 8) = [0, 1] := by decide
  rw [hrange, List.map_cons, List.map_cons, List.map_nil, regWord_actSeg s p l n w 0 (by omega),
    regWord_actSeg s p l n w 1 (by omega)]
  rw [List.foldl_cons, List.foldl_cons, List.foldl_nil]
  rw [actSegWhole, Nat.mul_zero, Nat.mul_one, Nat.pow_zero, Nat.mul_one, Nat.zero_add, Nat.add_zero]

/-- The read of its first word takes a latch (R17). -/
theorem regRead_actSeg_first : regRead s rq (.reach p l (0x2000 + 16 * n)) 8 =
    (takeLatch s rq (.reach p l (0x2000 + 16 * n)) (actSegWhole (s.reach p l) n),
      (SMap.get 0 (s.reach p l).actSeg (2 * n)).toNat) := by
  have hn := n.isLt
  have hsize : regSize (.reach p l (0x2000 + 16 * n)) = 16 := regSize_actSeg _ _ _ (by omega)
  have hb : regBase (.reach p l (0x2000 + 16 * n)) = 0x2000 + 16 * n := regBase_actSeg p l n 0
  have hw : regWhole s (.reach p l (0x2000 + 16 * n)) = actSegWhole (s.reach p l) n := regWhole_actSeg s p l n 0
  simp only [regRead, hb, hw, hsize, regOff, regAt]
  simp [field_actSegWhole_low]

/-- The read of its second word is served from the latch that the requester holds (R17). -/
theorem regRead_actSeg_second (v : Nat)
    (h : SMap.find (s.reach p l).latch (latchKey rq (.reach p l (0x2000 + 16 * n))) = some v) :
    regRead s rq (.reach p l (0x2000 + 16 * n + 8)) 8 = (s, field v 64 64) := by
  have hn := n.isLt
  have hb : regBase (.reach p l (0x2000 + 16 * n + 8)) = 0x2000 + 16 * n := regBase_actSeg p l n 1
  have hsize : regSize (.reach p l (0x2000 + 16 * n + 8)) = 16 := regSize_actSeg _ _ _ (by omega)
  simp only [regRead, hb, hsize, regOff, regAt, latches, h]
  simp

end

/-! ### The configuration space (R332, R347, R466) -/

/-- One vector of a function is sent if it is pending and not masked. -/
def releaseVector (fn : Nat) (s : State) (v : Nat) : State :=
  if SMap.get false s.hub.port.vecPend (fn * 4 + v) && !bvb s.hub.port.fnMask fn &&
    !SMap.get false s.hub.port.vecMask (fn * 4 + v)
  then s.updPort (fun h => { h with vecPend := SMap.put h.vecPend (fn * 4 + v) false, sent := (fn, v) :: h.sent }) else s

theorem msixRelease_eq (s : State) (fn : Nat) : msixRelease s fn = (List.range 4).foldl (releaseVector fn) s := rfl

theorem releaseVector_idle (fn : Nat) (s : State) (v : Nat) (h : SMap.get false s.hub.port.vecPend (fn * 4 + v) = false) :
    releaseVector fn s v = s := by simp [releaseVector, h]

theorem releaseVector_pending_other (fn : Nat) (s : State) {v j : Nat} (h : j ≠ v) :
    SMap.get false (releaseVector fn s v).hub.port.vecPend (fn * 4 + j) = SMap.get false s.hub.port.vecPend (fn * 4 + j) := by
  unfold releaseVector
  split
  · exact SMap.get_put_other _ _ _ _ _ (by omega)
  · rfl

/-- A masked vector stays pending (R347). -/
theorem releaseVector_masked (fn : Nat) (s : State) (v : Nat)
    (h : bvb s.hub.port.fnMask fn = true ∨ SMap.get false s.hub.port.vecMask (fn * 4 + v) = true) :
    releaseVector fn s v = s := by
  rcases h with h | h <;> simp [releaseVector, h]

/-- A vector that nothing masks is sent if it is pending (R347). -/
theorem releaseVector_unmasked (fn : Nat) (s : State) (v : Nat) (hf : bvb s.hub.port.fnMask fn = false)
    (hv : SMap.get false s.hub.port.vecMask (fn * 4 + v) = false) :
    SMap.get false (releaseVector fn s v).hub.port.vecPend (fn * 4 + v) = false ∧
    (releaseVector fn s v).hub.port.sent = if SMap.get false s.hub.port.vecPend (fn * 4 + v) = true
      then (fn, v) :: s.hub.port.sent else s.hub.port.sent := by
  cases hp : SMap.get false s.hub.port.vecPend (fn * 4 + v) with
  | false => simp [releaseVector, hp]
  | true => simp [releaseVector, hp, hf, hv]

/-- A release changes the host port alone, and no mask in it. -/
theorem releaseVector_eq_updPort (fn : Nat) (s : State) (v : Nat) :
    ∃ f, releaseVector fn s v = s.updPort f ∧ (f s.hub.port).vecMask = s.hub.port.vecMask := by
  unfold releaseVector
  split
  · exact ⟨_, rfl, rfl⟩
  · exact ⟨id, rfl, rfl⟩

/-- With at most vector `k` pending a release is that of `k`. -/
theorem foldl_releaseVector (fn : Nat) (k : Nat) (vs : List Nat) (hvs : vs.Nodup) (s : State)
    (h : ∀ j ∈ vs, j ≠ k → SMap.get false s.hub.port.vecPend (fn * 4 + j) = false) :
    vs.foldl (releaseVector fn) s = if k ∈ vs then releaseVector fn s k else s := by
  induction vs generalizing s with
  | nil => rfl
  | cons v vs ih =>
    obtain ⟨hv, hvs⟩ := List.nodup_cons.mp hvs
    rw [List.foldl_cons, ih hvs]
    · by_cases hk : k = v
      · subst hk; simp [hv]
      · rw [releaseVector_idle fn s v (h v List.mem_cons_self (Ne.symm hk))]
        simp [hk]
    · intro j hj hjk
      have hjv : j ≠ v := fun e => hv (e ▸ hj)
      rw [releaseVector_pending_other fn s hjv]
      exact h j (List.mem_cons_of_mem _ hj) hjk

theorem msixRelease_single (s : State) (fn : Nat) (k : Fin 4)
    (h : ∀ j < 4, j ≠ k.val → SMap.get false s.hub.port.vecPend (fn * 4 + j) = false) :
    msixRelease s fn = releaseVector fn s k := by
  rw [msixRelease_eq, foldl_releaseVector fn k _ List.nodup_range s (fun j hj => h j (List.mem_range.mp hj)),
    if_pos (List.mem_range.mpr k.isLt)]

/-- The mask of a vector is `b`. -/
def maskVector (s : State) (i : Nat) (b : Bool) : State := s.updPort (fun h => { h with vecMask := SMap.put h.vecMask i b })

section
variable (s : State) (fn : Fin 9) (r : ConfigReg) (size : Nat) (v : Word)

/-- Before the link is up the host's configuration requests are to be retried (R466). -/
theorem configRetry_config (h1 : s.hub.port.linkUp = false) (h2 : s.hub.state ≠ .off) (h3 : s.hub.state ≠ .identify)
    (h4 : s.hub.lands.perstN = false) (h5 : s.hub.lands.resetN = false) : configRetry s .host (.config fn r) = true := by
  simp [configRetry, *]

/-- The write of a vector's mask: the vector takes the mask, and is sent if it alone is pending and no longer masked (R347). -/
theorem accessWrite_msixMask (k : Fin 4) (hlink : s.hub.port.linkUp = true)
    (hidle : ∀ j < 4, j ≠ k.val → SMap.get false s.hub.port.vecPend (fn * 4 + j) = false) :
    accessWrite s .host (.config fn (.msixMask k)) 4 v =
      releaseVector fn (maskVector s (fn * 4 + k) (bvb v 0)) k := by
  have hbit : bvb (composed s .host (.config fn (.msixMask k)) 4 v) 0 = bvb v 0 := by
    rw [composed, if_neg (by decide), bvb_eq_getLsbD]
    exact getLsbD_putField _ _ _ _ _ (by decide)
  refine Eq.trans ?_ (msixRelease_single (maskVector s (fn * 4 + k) (bvb v 0)) fn k hidle)
  simp [accessWrite, configRetry, rqPresent, hlink, regGate, regForm, regOff, regWrite, regVerdict, regSet, configSet, hbit,
    maskVector]

end

/-! ### What a read of a register leaves -/

theorem portBytes_beside (s : State) (rq : Requester) (p : Nat) (w : Bool) (n : Nat) : Beside s (portBytes s rq p w n) := by
  unfold portBytes portCount
  split
  · exact .refl s
  · exact .ite (bumpBw_beside ..) ((bumpPcnt_beside ..).trans (bumpBw_beside ..))

@[simp] theorem portBytes_mem (s : State) (rq : Requester) (p : Nat) (w : Bool) (n q : Nat) :
    ((portBytes s rq p w n).parcel q).mem = (s.parcel q).mem := by
  unfold portBytes portCount; split <;> (try split) <;> simp

theorem portBytes_sameMemory (s : State) (rq : Requester) (p : Nat) (w : Bool) (n : Nat) :
    SameMemory s (portBytes s rq p w n) := fun k _ => by cases k <;> simp [rdByte, cells]

/-- A latch of a reach is no byte of a memory. -/
theorem takeLatch_reach_sameMemory (s : State) (rq : Requester) (p : ParcelId) (l : ReachId) (off v : Nat) :
    SameMemory s (takeLatch s rq (.reach p l off) v) := fun k _ => by
  cases k with
  | sm q => simp [takeLatch, rdByte, cells]
  | cb q c => simp [takeLatch, rdByte, cells]
  | sp q m => simp only [takeLatch, rdByte, cells, State.updReach_reach]; split <;> simp_all
  | imem q m => simp only [takeLatch, rdByte, cells, State.updReach_reach]; split <;> simp_all

theorem takeLatch_latch (s : State) (rq : Requester) (p : ParcelId) (l : ReachId) (off v : Nat) :
    ((takeLatch s rq (.reach p l off) v).reach p l).latch = SMap.put (s.reach p l).latch (latchKey rq (.reach p l off)) v := by
  simp [takeLatch]

theorem takeLatch_reach_frame (s : State) (rq : Requester) (p : ParcelId) (l : ReachId) (off v : Nat) :
    OtherReaches s (takeLatch s rq (.reach p l off) v) p l ∧ SameClusters s (takeLatch s rq (.reach p l off) v) :=
  ⟨fun _ _ h => State.updReach_reach_other _ _ _ _ _ _ h, fun _ _ => State.updReach_cluster ..⟩

theorem functionOpen_updReach (s : State) (p l : Nat) (f : Reach → Reach) (q : Nat) :
    functionOpen (s.updReach p l f) q = functionOpen s q := by simp [functionOpen, hubReaches, relays]

/-- A read of the host that nothing holds up: its bytes cross the hub port, and the host has the value. -/
theorem accessRead_reach_performed (s t : State) (p : ParcelId) (l : ReachId) (off size v : Nat)
    (hlink : s.hub.port.linkUp = true) (hopen : functionOpen s p = true) (hfree : ∀ x ∈ (s.parcel p).held, hostHeld x = false)
    (hform : regForm off size = true) (hread : regRead (portBytes s .host p false size) .host (.reach p l off) size = (t, v)) :
    accessRead s .host (.reach p l off) size = t.updPort (fun h => { h with reply := .data (leBytes size v) false }) := by
  rw [accessRead_reach_open s p l off size hlink hopen hform, holdOr_hostRead s p _ size hfree, readNow_eq hread]

/-- The first word of an ACT_SEG entry is read, and the rest of the entry latched for the host (R17). -/
theorem accessRead_actSeg_first (s : State) (p : ParcelId) (l : ReachId) (n : Fin 128) (hlink : s.hub.port.linkUp = true)
    (hopen : functionOpen s p = true) (hfree : ∀ x ∈ (s.parcel p).held, hostHeld x = false) :
    accessRead s .host (.reach p l (0x2000 + 16 * n)) 8 =
      (takeLatch (portBytes s .host p false 8) .host (.reach p l (0x2000 + 16 * n)) (actSegWhole (s.reach p l) n)).updPort
        (fun h => { h with reply := .data (leBytes 8 (SMap.get 0 (s.reach p l).actSeg (2 * n)).toNat) false }) :=
  accessRead_reach_performed s _ p l _ 8 _ hlink hopen hfree (regForm_eight _ (by omega))
    (by rw [regRead_actSeg_first, portBytes_reach])

/-- A later word of the entry comes from the host's latch (R17). -/
theorem accessRead_actSeg_second (s : State) (p : ParcelId) (l : ReachId) (n : Fin 128) (v : Nat)
    (hlink : s.hub.port.linkUp = true) (hopen : functionOpen s p = true) (hfree : ∀ x ∈ (s.parcel p).held, hostHeld x = false)
    (hlatch : SMap.find (s.reach p l).latch (latchKey .host (.reach p l (0x2000 + 16 * n))) = some v) :
    accessRead s .host (.reach p l (0x2000 + 16 * n + 8)) 8 =
      (portBytes s .host p false 8).updPort (fun h => { h with reply := .data (leBytes 8 (field v 64 64)) false }) :=
  accessRead_reach_performed s _ p l _ 8 _ hlink hopen hfree (regForm_eight _ (by omega))
    (regRead_actSeg_second _ _ _ _ _ _ (by rw [portBytes_reach]; exact hlatch))

end Sys2Proof.Machine
end

section
/-!
The function level resets (12 R335), and the obligation on them and on the accesses.
-/

namespace Sys2Proof.Machine

/-! ### The reset of a function of the host port (R335) -/

theorem msixReset_masks (s : State) (fn : Fin 9) :
    bvb (msixReset s fn).hub.port.fnMask fn = false ∧ ∀ e ∈ (msixReset s fn).hub.port.vecPend, e.1 / 4 ≠ fn.val :=
  ⟨bvb_putBit_same _ _ _ fn.isLt, fun e he => by
    have h := (List.mem_filter.mp he).2
    simpa using h⟩

@[simp] theorem hostView_msixReset (q : Nat) (s : State) (fn : Nat) : hostView q (msixReset s fn) = hostView q s := by
  simp [msixReset]

/-- The host port after a reset of the hub function whose transfers have ended in `d`. -/
def hubFunctionReset (d : State) : State :=
  (msixReset d 0).updPort (fun h => { h with
    intEn := 0, latch := h.latch.filter (fun e => !dmaLatch e.1), bars := h.bars.filter (fun e => decide (3 ≤ e.1)) })

theorem exec_functionLevelResetHub (s : State) (h : s.hub.port.linkUp = true) :
    exec .functionLevelResetHub s = .next (hubFunctionReset (dmaResetAll s)) := congrArg Host.Outcome.next (if_pos h)

/-- The package after a reset of the function of parcel `p`, which has left it as `r`. -/
def parcelFunctionReset (r : State) (p : Nat) : State :=
  (msixReset r (p + 1)).updPort (fun h => { h with bars := h.bars.filter (fun e => decide (e.1 / 3 ≠ p + 1)) })

theorem exec_functionLevelResetParcel (p : ParcelId) (s : State) (h : s.hub.port.linkUp = true)
    (hp : relays s p = true ∨ (s.parcel p).state = .train) :
    exec (.functionLevelResetParcel p) s = .next (parcelFunctionReset (resetParcel s p) p) :=
  congrArg Host.Outcome.next (if_pos (by simpa [h] using hp))

theorem parcelFunctionReset_port (r : State) (p : ParcelId) :
    bvb (parcelFunctionReset r p).hub.port.fnMask (p + 1) = false ∧
    (∀ e ∈ (parcelFunctionReset r p).hub.port.vecPend, e.1 / 4 ≠ p.val + 1) ∧
    ∀ e ∈ (parcelFunctionReset r p).hub.port.bars, e.1 / 3 ≠ p.val + 1 := by
  obtain ⟨hmask, hpend⟩ := msixReset_masks r ⟨p + 1, by omega⟩
  exact ⟨hmask, hpend, fun e he => by simpa using (List.mem_filter.mp he).2⟩

theorem hubFunctionReset_port (d : State) :
    bvb (hubFunctionReset d).hub.port.fnMask 0 = false ∧ (∀ e ∈ (hubFunctionReset d).hub.port.vecPend, e.1 / 4 ≠ 0) ∧
    (∀ e ∈ (hubFunctionReset d).hub.port.bars, 3 ≤ e.1) ∧
    ∀ e ∈ (hubFunctionReset d).hub.port.latch, dmaLatch e.1 = false := by
  obtain ⟨hmask, hpend⟩ := msixReset_masks d 0
  exact ⟨hmask, hpend, fun e he => by simpa using (List.mem_filter.mp he).2,
    fun e he => by simpa using (List.mem_filter.mp he).2⟩

/-- Every channel of the hub DMA is still, and one that was running says that it was aborted (R335). -/
theorem dmaResetAll_channels (s : State) (c : Nat) (hc : c < 8) :
    (dmaOf (dmaResetAll s) c).busy = false ∧ (dmaOf (dmaResetAll s) c).arm = false ∧
    ((dmaOf s c).busy = true → (dmaOf (dmaResetAll s) c).status = 4 ∧ (dmaOf (dmaResetAll s) c).done = true) := by
  rw [dmaOf_dmaResetAll s c hc, Dma.afterReset]
  cases (dmaOf s c).busy <;> simp

/-- Settles O50. The reset of a parcel is followed by what it leaves of the other parcels (`resetParcel_reach_other`) and of
the memories and the hub (`storeView`, `hostView`), that of the hub's function channel by channel (`dmaOf_dmaReset`). -/
theorem registerAccessAndFunctionReset : Obligations.RegisterAccessAndFunctionReset := by
  unfold Obligations.RegisterAccessAndFunctionReset
  refine ⟨fun rq p l v s => ⟨rfl, fun _ => rfl, fun n hrq hgate hwait => ?low,
      fun off size _ hsize hrq hgate src hsrc => ?refused, fun hlink hopen hheld => ?waits,
      fun hlink hopen hfree => ⟨?fuse, fun n => ?wide⟩, fun hlink hclosed => ⟨?readClosed, ?writeClosed⟩⟩,
    fun fn k r size v s => ⟨fun h1 h2 h3 h4 h5 => ?retry, fun hlink hidle => ?mask⟩,
    fun p s => ⟨fun hlink => ?unlinked, fun hlink hp => ?parcel, fun hlink => ?hub⟩⟩
  case low => exact congrArg Host.Outcome.next (accessWrite_actSeg_low s rq p l n v hrq hgate hwait)
  case refused =>
    have hsource : rqSource (.reach p l off) rq = src := by subst hsrc; cases rq <;> rfl
    have hrefused := accessWrite_reach_refused s rq p l off size v hrq hgate (regForm_eq_false hsize)
    refine congrArg Host.Outcome.next (hrefused.trans ?_)
    rw [refuseAccess, hsource]
    rfl
  case waits =>
    have hwait : mustWait s p (s.parcel p).held (.read .host (.reach p l 0x40) 8) = true := by
      rw [mustWait_hostRead]; simpa using hheld
    exact congrArg Host.Outcome.next ((accessRead_reach_open s p l 0x40 8 hlink hopen rfl).trans (if_pos hwait))
  case fuse =>
    exact congrArg Host.Outcome.next (accessRead_reach_performed s _ p l 0x40 8 _ hlink hopen hfree rfl
      (by rw [regRead_fuse, portBytes_reach]))
  case wide =>
    have hmem := portBytes_sameMemory s .host p false 8
    obtain ⟨hreach, hcluster, hdatum, hstay, hphase, hwall, _, hpending, _⟩ := portBytes_beside s .host p false 8
    have hlatched := takeLatch_reach_sameMemory (portBytes s .host p false 8) .host p l (0x2000 + 16 * n)
      (actSegWhole (s.reach p l) n)
    obtain ⟨hothers, hclusters⟩ :=
      takeLatch_reach_frame (portBytes s .host p false 8) .host p l (0x2000 + 16 * n) (actSegWhole (s.reach p l) n)
    refine ⟨_, congrArg Host.Outcome.next (accessRead_actSeg_first s p l n hlink hopen hfree), rfl, fun w x hx => ?_,
      fun k a => (hlatched k a).trans (hmem k a), fun q m h => (hothers q m h).trans (hreach q m),
      fun q c => (hclusters q c).trans (hcluster q c), hdatum, hstay, hpending, hphase, hwall⟩
    have hx' : (x.reach p l).latch = SMap.put ((portBytes s .host p false 8).reach p l).latch
        (latchKey .host (.reach p l (0x2000 + 16 * n))) (actSegWhole (s.reach p l) n) := by
      rw [hx, State.updReach_reach_same]
      exact takeLatch_latch ..
    have hsecond := accessRead_actSeg_second x p l n (actSegWhole (s.reach p l) n) (hx ▸ hlink)
      (by rw [hx, functionOpen_updReach, hopen]) (by rw [hx]; simpa using hfree) (by rw [hx', SMap.find_put_same])
    rw [field_actSegWhole_high] at hsecond
    exact ⟨_, congrArg Host.Outcome.next hsecond, rfl⟩
  case readClosed => exact congrArg Host.Outcome.next (accessRead_reach_closed s p l 0x40 8 hlink hclosed)
  case writeClosed => exact congrArg Host.Outcome.next (accessWrite_reach_closed s p l 0x40 8 hlink hclosed v)
  case retry =>
    have hr := configRetry_config s fn r h1 h2 h3 h4 h5
    exact ⟨congrArg Host.Outcome.next (if_pos hr), congrArg Host.Outcome.next (if_pos hr)⟩
  case mask =>
    have hmask : SMap.get false (maskVector s (fn * 4 + k) (bvb v 0)).hub.port.vecMask (fn * 4 + k) = bvb v 0 :=
      SMap.get_put_same ..
    obtain ⟨f, hf, hmasks⟩ := releaseVector_eq_updPort fn (maskVector s (fn * 4 + k) (bvb v 0)) k
    refine ⟨_, congrArg Host.Outcome.next (accessWrite_msixMask s fn v k hlink hidle), ?_, fun hv hfn => ?_, fun hm => ?_, ?_⟩
    · rw [hf, State.updPort_hub_port, hmasks, hmask]
    · exact releaseVector_unmasked fn _ k hfn (hmask.trans hv)
    · rw [releaseVector_masked fn (maskVector s (fn * 4 + k) (bvb v 0)) k (hm.symm.imp id hmask.trans)]; rfl
    · rw [hf]; exact ⟨fun _ _ => rfl, fun k _ => by cases k <;> rfl, rfl, rfl, rfl, rfl, rfl, rfl⟩
  case unlinked => exact ⟨congrArg Host.Outcome.next (by simp [hlink]), congrArg Host.Outcome.next (by simp [hlink])⟩
  case parcel =>
    refine ⟨_, exec_functionLevelResetParcel p s hlink hp, ?_⟩
    have hsame := resetParcel_parcel_same s p
    have hcleared := resetParcel_reach_same s p
    have hmem := resetParcel_mem s p
    have hgen := resetParcel_gen s p
    have hdatum := resetParcel_datum s p
    obtain ⟨hlink', hint, hdict⟩ := resetParcel_port s p
    have hno : (s.parcel p).adds = [] → ∀ q, q ≠ p.val → ∀ l, (resetParcel s p).reach q l = s.reach q l :=
      fun h q hq l => resetParcel_reach_noAdds s p hq l h
    have hone := resetParcel_refuses s p
    generalize (beforeReset s p).parcel p = x at hsame
    generalize resetParcel s p = r at *
    obtain ⟨hmask, hpend, hbars⟩ := parcelFunctionReset_port r p
    refine ⟨congrArg Parcel.state hsame, fun l _ n => ?_, fun q => ?_, hmem, congrArg Parcel.adds hsame, hgen, hmask, hpend,
      hbars, hno, hone, hlink'.trans hlink, hint, hdatum, hdict⟩
    · change (r.reach p l).scalar n = 0 ∧ (r.reach p l).task.run = false ∧ (r.reach p l).flights = [] ∧
        (r.reach p l).pool = [] ∧ (r.reach p l).prof = [] ∧ (r.reach p l).trv = []
      rw [hcleared]
      exact ⟨by simp [Reach.scalar, Reach.cleared, SMap.get, SMap.find], rfl, rfl, rfl, rfl, rfl⟩
    · have hlinks : (r.parcel p).links = [] := congrArg Parcel.links hsame
      change (r.link p q).state = .off
      rw [State.link, hlinks]
      rfl
  case hub =>
    refine ⟨_, exec_functionLevelResetHub s hlink, ?_⟩
    have hview : SameButDma 0 s (dmaResetAll s) := foldl_dmaReset_sameButDma ..
    have hchan := dmaResetAll_channels s
    have hidle := dmaResetAll_idle s
    generalize dmaResetAll s = d at *
    obtain ⟨hmask, hpend, hbars, hlatch⟩ := hubFunctionReset_port d
    refine ⟨rfl, hchan, hmask, hpend, hbars, hlatch, fun hb => ?_, congrArg HostView.datum hview,
      congrArg HostView.dict hview, (congrArg HostView.linkUp hview).trans hlink⟩
    obtain ⟨f, rfl⟩ := hidle hb
    exact ⟨fun _ _ => rfl, fun k _ => by cases k <;> rfl, rfl⟩

end Sys2Proof.Machine
end

section
/-!
The bit planes of two vectors (02 R34 to R40, 05 R136): a number from its planes, the count of a pair from its lanes, the
chunk register from its pairs; and the obligation on the dot product.
-/

namespace Sys2Proof.Machine

open Finset (range)

/-! ### A number from its planes (R34, R36) -/

/-- Lane `n` of plane `k` is bit `k` of code `n`; a lane past the codes is 0. -/
theorem testBit_planes {bits k : Nat} (codes : List Nat) (n : Nat) (hk : k < bits) :
    ((planes bits codes).getD k 0).testBit n = (codes.getD n 0).testBit k := by
  have hplane (cs : List Nat) : (planes bits cs).getD k 0 = cs.foldr (fun c acc => 2 * acc + (c >>> k) % 2) 0 := by
    simp [planes, List.getD, List.getElem?_range hk]
  rw [hplane]
  induction codes generalizing n with
  | nil => simp
  | cons c codes ih =>
    cases n with
    | zero => simp [Nat.testBit_eq_decide_div_mod_eq, Nat.shiftRight_eq_div_pow]
    | succ n =>
      have hhalf (x : Nat) : (2 * x + (c >>> k) % 2) / 2 = x := by omega
      rw [List.foldr_cons, Nat.testBit_succ, hhalf, ih n, List.getD_cons_succ]

theorem mod_two_pow_eq_sum (v n : Nat) : v % 2 ^ n = ∑ k ∈ range n, 2 ^ k * (v.testBit k).toNat := by
  induction n with
  | zero => simp [Nat.mod_one]
  | succ n ih => rw [Finset.sum_range_succ, ← ih, Nat.mod_pow_succ, Nat.toNat_testBit]

/-- In two's complement the top bit counts against the others. -/
theorem signed_succ (n v : Nat) : signed (n + 1) v = (v % 2 ^ n : Nat) - 2 ^ n * ((v.testBit n).toNat : Int) := by
  have hsplit : v % 2 ^ (n + 1) = v % 2 ^ n + 2 ^ n * (v.testBit n).toNat := by rw [Nat.toNat_testBit, Nat.mod_pow_succ]
  have hlt : v % 2 ^ n < 2 ^ n := Nat.mod_lt _ (by positivity)
  simp only [signed, hsplit, Nat.add_sub_cancel, if_neg (Nat.succ_ne_zero n)]
  cases v.testBit n
  · rw [if_neg (by simpa using hlt)]
    simp
  · rw [if_pos (by simp)]
    push_cast [Bool.toNat_true]
    ring

/-- The value of an operand's code (R36). -/
def operandValue (isSigned : Bool) (bits v : Nat) : Int := if isSigned then signed bits v else v

/-- What bit `k` of a code adds to the value, with the weight and the sign of its plane (R34). -/
def bitValue (isSigned : Bool) (bits v k : Nat) : Int := planeSign isSigned bits k * 2 ^ k * ((v.testBit k).toNat : Int)

theorem operandValue_eq_sum (isSigned : Bool) {bits v : Nat} (hb : 0 < bits) (hv : v < 2 ^ bits) :
    operandValue isSigned bits v = ∑ k ∈ range bits, bitValue isSigned bits v k := by
  obtain ⟨n, rfl⟩ := Nat.exists_eq_succ_of_ne_zero hb.ne'
  have hlow : ∑ k ∈ range n, bitValue isSigned (n + 1) v k = (v % 2 ^ n : Nat) := by
    rw [mod_two_pow_eq_sum, Nat.cast_sum]
    refine Finset.sum_congr rfl fun k hk => ?_
    have hkn : k ≠ n := (Finset.mem_range.mp hk).ne
    simp [bitValue, planeSign, hkn]
  rw [Finset.sum_range_succ, hlow]
  cases isSigned
  · have hsplit : v = v % 2 ^ n + 2 ^ n * (v.testBit n).toNat := by
      rw [Nat.toNat_testBit, ← Nat.mod_pow_succ, Nat.mod_eq_of_lt hv]
    simp only [operandValue, bitValue, planeSign, Bool.false_and, Bool.false_eq_true, if_false, one_mul]
    exact_mod_cast hsplit
  · simp [operandValue, bitValue, planeSign, signed_succ, sub_eq_add_neg]

/-! ### The count of a pair over the valid lanes (R37, R40) -/

theorem popcount_eq_sum (n x : Nat) : popcount n x = ∑ i ∈ range n, (x.testBit i).toNat := by
  induction n generalizing x with
  | zero => rfl
  | succ n ih =>
    have hlow : (x.testBit 0).toNat = x % 2 := by rw [Nat.toNat_testBit, pow_zero, Nat.div_one]
    rw [popcount, ih, Finset.sum_range_succ', add_comm, hlow]
    simp only [Nat.testBit_succ]

theorem testBit_laneMask (lo hi i : Nat) : (laneMask lo hi).testBit i = decide (lo ≤ i ∧ i < hi) := by
  rw [laneMask, Nat.testBit_mul_two_pow, Nat.testBit_two_pow_sub_one, ← Bool.decide_and]
  exact decide_eq_decide.mpr (by omega)

/-- The ones of a number over a window of lanes. -/
theorem popcount_laneMask {lanes lo nv : Nat} (x : Nat) (h : lo + nv ≤ lanes) :
    popcount lanes (laneMask lo (lo + nv) &&& x) = ∑ e ∈ range nv, (x.testBit (lo + e)).toNat := by
  obtain ⟨rest, rfl⟩ := Nat.exists_eq_add_of_le h
  have hbelow : ∑ i ∈ range lo, ((laneMask lo (lo + nv) &&& x).testBit i).toNat = 0 :=
    Finset.sum_eq_zero fun i hi => by
      have hi : ¬ lo ≤ i := by simpa using hi
      simp [testBit_laneMask, hi]
  have habove : ∑ i ∈ range rest, ((laneMask lo (lo + nv) &&& x).testBit (lo + nv + i)).toNat = 0 :=
    Finset.sum_eq_zero fun i _ => by simp [testBit_laneMask]
  rw [popcount_eq_sum, Finset.sum_range_add, Finset.sum_range_add, hbelow, habove, zero_add, add_zero]
  refine Finset.sum_congr rfl fun e he => ?_
  have he : e < nv := Finset.mem_range.mp he
  simp [testBit_laneMask, he]

/-- A MUL gate counts the lanes in which both planes have a 1 (R40). -/
theorem gateCount_mul {lanes lo nv : Nat} (a w : Nat) (h : lo + nv ≤ lanes) :
    gateCount 0 lanes (laneMask lo (lo + nv)) a w =
      ∑ e ∈ range nv, (a.testBit (lo + e)).toNat * (w.testBit (lo + e)).toNat := by
  rw [show gateCount 0 lanes (laneMask lo (lo + nv)) a w = popcount lanes (laneMask lo (lo + nv) &&& (a &&& w)) by
    simp [gateCount, Nat.and_assoc], popcount_laneMask _ h]
  refine Finset.sum_congr rfl fun e _ => ?_
  rw [Nat.testBit_and]
  cases a.testBit (lo + e) <;> cases w.testBit (lo + e) <;> rfl

/-- A pair of planes of two vectors counts the lanes in which both codes have their plane's bit. -/
theorem gateCount_planes {a w lanes lo nv i j : Nat} (A W : List Nat) (h : lo + nv ≤ lanes) (hi : i < a) (hj : j < w) :
    gateCount 0 lanes (laneMask lo (lo + nv)) ((planes a A).getD i 0) ((planes w W).getD j 0) =
      ∑ e ∈ range nv, ((A.getD (lo + e) 0).testBit i).toNat * ((W.getD (lo + e) 0).testBit j).toNat := by
  simp only [gateCount_mul _ _ h, testBit_planes A _ hi, testBit_planes W _ hj]

/-- A plane without a 1 among the valid lanes leaves nothing to count (R136). -/
theorem gateCount_mul_dry (lanes : Nat) {valid a w : Nat} (h : a &&& valid = 0 ∨ w &&& valid = 0) :
    gateCount 0 lanes valid a w = 0 := by
  have hgate : valid &&& a &&& w = 0 := by
    obtain h | h := h
    · rw [Nat.and_comm valid, h, Nat.zero_and]
    · rw [Nat.and_right_comm, Nat.and_comm valid, h, Nat.zero_and]
  simp [gateCount, hgate, popcount_eq_sum]

/-! ### The chunk register from its pairs (R38, R44) -/

/-- Both plane orders run every pair of planes once (R44). -/
theorem sum_pairSeq (msb : Bool) (a w : Nat) (f : Nat × Nat → Int) :
    ((pairSeq msb a w).map f).sum = ∑ j ∈ range w, ∑ i ∈ range a, f (i, j) := by
  have hlsb : ((pairSeq false a w).map f).sum = ∑ j ∈ range w, ∑ i ∈ range a, f (i, j) := by
    simp only [pairSeq, Bool.false_eq_true, if_false, List.flatMap_def, List.map_flatten, List.sum_flatten, List.map_map,
      Function.comp_def]
    rfl
  cases msb
  · exact hlsb
  · rw [← hlsb]
    simp [pairSeq, List.sum_reverse]

/-- Pairs that contribute nothing may be left out of the register (R136). -/
theorem chunkSum_eq_sum (q : Prof) (free : Nat → Nat) (A W : List Nat) (lanes valid nv : Nat) (seq : List (Nat × Nat))
    (dry : Dry) (hrun : ∀ i j, pairRuns q i j = true)
    (hdry : ∀ i j, dry i j = true → pairValue q free A W lanes valid nv (i, j) = 0) :
    chunkSum q free A W lanes valid nv seq dry = (seq.map (pairValue q free A W lanes valid nv)).sum := by
  rw [chunkSum, ← List.sum_eq_foldl]
  induction seq with
  | nil => rfl
  | cons ij seq ih =>
    cases hd : dry ij.1 ij.2
    · rw [List.filter_cons_of_pos (by simp [hrun, hd]), List.map_cons, List.map_cons, List.sum_cons, List.sum_cons, ih]
    · rw [List.filter_cons_of_neg (by simp [hd]), List.map_cons, List.sum_cons, hdry _ _ hd, zero_add, ih]

/-- A MUL pair that is not shallow contributes its exact count, with the weights and signs of its planes (R40). -/
theorem pairValue_mul (q : Prof) (free : Nat → Nat) (A W : List Nat) (lanes valid nv i j : Nat)
    (hfn : q.fn = 0) (hsplit : q.split = false) (hshal : q.shal = 0) :
    pairValue q free A W lanes valid nv (i, j) =
      (planeSign q.aNeg q.a' i * 2 ^ i) * (planeSign q.wSigned q.w j * 2 ^ j) *
        (gateCount 0 lanes valid (A.getD i 0) (W.getD j 0) : Nat) := by
  simp only [pairValue, pairShallow, contribution, hfn, hsplit, hshal, bne_self_eq_false, Bool.false_and, Bool.false_eq_true,
    if_false, zero_ne_one, OfNat.zero_ne_ofNat, or_self, pow_add]
  ring

/-- The planes' products over the lanes are the products of the operands: the sums over planes and lanes change places, and
the product of the sums of two operands' bits is the sum over their pairs. -/
theorem sum_planes_eq_dotProduct {a w : Nat} (aNeg wNeg : Bool) (x y : Nat → Nat) (nv : Nat)
    (ha : 0 < a) (hw : 0 < w) (hx : ∀ e, x e < 2 ^ a) (hy : ∀ e, y e < 2 ^ w) :
    ∑ j ∈ range w, ∑ i ∈ range a, (planeSign aNeg a i * 2 ^ i) * (planeSign wNeg w j * 2 ^ j) *
        ((∑ e ∈ range nv, ((x e).testBit i).toNat * ((y e).testBit j).toNat : Nat) : Int) =
      ∑ e ∈ range nv, operandValue aNeg a (x e) * operandValue wNeg w (y e) := by
  calc _ = ∑ j ∈ range w, ∑ i ∈ range a, ∑ e ∈ range nv, bitValue aNeg a (x e) i * bitValue wNeg w (y e) j := by
        push_cast
        simp only [bitValue, Finset.mul_sum, mul_mul_mul_comm]
    _ = ∑ e ∈ range nv, ∑ i ∈ range a, ∑ j ∈ range w, bitValue aNeg a (x e) i * bitValue wNeg w (y e) j :=
        Finset.sum_comm.trans ((Finset.sum_congr rfl fun i _ => Finset.sum_comm).trans Finset.sum_comm)
    _ = _ := by simp only [← Finset.sum_mul_sum, ← operandValue_eq_sum _ ha (hx _), ← operandValue_eq_sum _ hw (hy _)]

theorem getD_lt_of_forall_mem {l : List Nat} {b : Nat} (hb : 0 < b) (h : ∀ a ∈ l, a < b) (n : Nat) : l.getD n 0 < b := by
  rw [List.getD_eq_getElem?_getD]
  cases hn : l[n]? with
  | none => exact hb
  | some a => exact h a (List.mem_of_getElem? hn)

/-- Settles O18. Dry pairs contribute nothing (`chunkSum_eq_sum`), each other pair its count over the lanes
(`gateCount_planes`), and the counts add up to the products of the operands (`sum_planes_eq_dotProduct`). -/
theorem chunkIsDotProduct : Obligations.ChunkIsDotProduct := by
  unfold Obligations.ChunkIsDotProduct
  intro q free A W lanes lo nv dry hfn hsplit htrunc hshal hdry hlanes _ _ hA hW ha hw
  have hmask : (2 ^ nv - 1) * 2 ^ lo = laneMask lo (lo + nv) := by simp [laneMask]
  rw [hmask] at hdry ⊢
  have hvalue (i j : Nat) := pairValue_mul q free (planes q.a' A) (planes q.w W) lanes (laneMask lo (lo + nv)) nv i j
    hfn hsplit hshal
  have hnone (i j : Nat) (hd : dry i j = true) :
      pairValue q free (planes q.a' A) (planes q.w W) lanes (laneMask lo (lo + nv)) nv (i, j) = 0 := by
    rw [hvalue, gateCount_mul_dry lanes (hdry i j hd), Nat.cast_zero, mul_zero]
  have hsum : chunkSum q free (planes q.a' A) (planes q.w W) lanes (laneMask lo (lo + nv)) nv (pairSeq q.msb q.a' q.w) dry =
      ∑ e ∈ range nv, operandValue q.aNeg q.a' (A.getD (lo + e) 0) * operandValue q.wSigned q.w (W.getD (lo + e) 0) := by
    rw [chunkSum_eq_sum _ _ _ _ _ _ _ _ _ (by simp [pairRuns, htrunc]) hnone, sum_pairSeq,
      ← sum_planes_eq_dotProduct _ _ _ _ _ ha hw
        (fun _ => getD_lt_of_forall_mem (by positivity) hA _) (fun _ => getD_lt_of_forall_mem (by positivity) hW _)]
    refine Finset.sum_congr rfl fun j hj => Finset.sum_congr rfl fun i hi => ?_
    rw [hvalue, gateCount_planes A W hlanes (Finset.mem_range.mp hi) (Finset.mem_range.mp hj)]
  simp only [chunkVals, hsplit, Bool.false_eq_true, if_false, hsum]
  rfl

end Sys2Proof.Machine
end

section
/-!
What an instruction of a reach leaves of the package: the other reaches, the clusters, the memories and the time, and which
of the shared operations leave all of it.
-/

namespace Sys2Proof.Machine

/-! ### What surrounds an instruction -/

/-- The reaches, the clusters, the stacked memories, and what passes with the time. -/
structure World where
  reach : Nat → Nat → Reach
  cluster : Nat → Nat → Cluster
  mem : Nat → Mem
  datum : Datum
  stay : Stay
  pending : List Instr
  phase : Nat
  wall : Nat

/-- That part of a state. -/
def world (s : State) : World :=
  { reach := s.reach, cluster := s.cluster, mem := fun q => (s.parcel q).mem, datum := s.datum, stay := s.stay
    pending := s.pending, phase := s.phase, wall := s.wall }

/-- The registers and memories of a reach that only an instruction that names them writes. -/
def Reach.kept (r : Reach) : Reach :=
  { r with task := {}, flights := [], pool := [], paired := 0, stats := [], cnt := [], cntInc := [], line := {} }

/-- What an instruction of reach `l` leaves as it is: everything, but of its own reach the task, the instructions in flight,
the pool with its tags and statistics, and the counters. -/
def World.around (w : World) (p l : Nat) : World :=
  { w with reach := fun q m => if q = p ∧ m = l then (w.reach q m).kept else w.reach q m }

section
variable {s t : State} {p l : Nat}

theorem reach_of_world (h : world t = world s) (q m : Nat) : t.reach q m = s.reach q m :=
  congrFun (congrFun (congrArg World.reach h) q) m
theorem mem_of_world (h : world t = world s) (q : Nat) : (t.parcel q).mem = (s.parcel q).mem := congrFun (congrArg World.mem h) q
theorem sameClusters_of_world (h : world t = world s) : SameClusters s t :=
  fun q c => congrFun (congrFun (congrArg World.cluster h) q) c
theorem sameTime_of_world (h : world t = world s) : SameTime s t :=
  ⟨congrArg World.datum h, congrArg World.stay h, congrArg World.pending h, congrArg World.phase h, congrArg World.wall h⟩
theorem SameTime.trans {s t u : State} (h : SameTime s t) (k : SameTime t u) : SameTime s u := by
  obtain ⟨h1, h2, h3, h4, h5⟩ := h
  obtain ⟨k1, k2, k3, k4, k5⟩ := k
  exact ⟨k1.trans h1, k2.trans h2, k3.trans h3, k4.trans h4, k5.trans h5⟩

theorem sameReaches_of_world (h : world t = world s) : SameReaches s t := fun q m => reach_of_world h q m

theorem cells_congr (hm : ∀ q, (t.parcel q).mem = (s.parcel q).mem) (hc : ∀ q c, (t.cluster q c).buf = (s.cluster q c).buf)
    (hr : ∀ q m, (t.reach q m).spad = (s.reach q m).spad ∧ (t.reach q m).imem = (s.reach q m).imem) (k : Space) :
    cells t k = cells s k := by
  cases k <;> simp [cells, hm, hc, hr]

theorem cells_of_world (h : world t = world s) (k : Space) : cells t k = cells s k :=
  cells_congr (mem_of_world h) (fun q c => by rw [sameClusters_of_world h q c])
    (fun q m => by rw [reach_of_world h q m]; exact ⟨rfl, rfl⟩) k

theorem sameMemory_of_cells (h : ∀ k, cells t k = cells s k) : SameMemory s t := fun k a => by rw [rdByte, h, rdByte]

theorem sameMemory_of_world (h : world t = world s) : SameMemory s t := sameMemory_of_cells (cells_of_world h)

theorem around_of_world (h : world t = world s) : (world t).around p l = (world s).around p l := by rw [h]

theorem otherReaches_of_around (h : (world t).around p l = (world s).around p l) : OtherReaches s t p l := by
  intro q m hqm
  have := congrFun (congrFun (congrArg World.reach h) q) m
  simpa [World.around, world, hqm] using this

theorem kept_of_around (h : (world t).around p l = (world s).around p l) : (t.reach p l).kept = (s.reach p l).kept := by
  have := congrFun (congrFun (congrArg World.reach h) p) l
  simpa [World.around, world] using this

theorem sameClusters_of_around (h : (world t).around p l = (world s).around p l) : SameClusters s t :=
  fun q c => congrFun (congrFun (congrArg World.cluster h) q) c
theorem mem_of_around (h : (world t).around p l = (world s).around p l) (q : Nat) : (t.parcel q).mem = (s.parcel q).mem :=
  congrFun (congrArg World.mem h) q
theorem sameTime_of_around (h : (world t).around p l = (world s).around p l) : SameTime s t :=
  ⟨congrArg World.datum h, congrArg World.stay h, congrArg World.pending h, congrArg World.phase h, congrArg World.wall h⟩

theorem reachMemory_of_around (h : (world t).around p l = (world s).around p l) (q m : Nat) :
    (t.reach q m).spad = (s.reach q m).spad ∧ (t.reach q m).imem = (s.reach q m).imem := by
  by_cases hqm : q = p ∧ m = l
  · obtain ⟨rfl, rfl⟩ := hqm
    have hk := kept_of_around h
    exact ⟨(congrArg Reach.spad hk :), (congrArg Reach.imem hk :)⟩
  · rw [otherReaches_of_around h q m hqm]; exact ⟨rfl, rfl⟩

theorem cells_of_around (h : (world t).around p l = (world s).around p l) (k : Space) : cells t k = cells s k :=
  cells_congr (mem_of_around h) (fun q c => by rw [sameClusters_of_around h q c]) (reachMemory_of_around h) k

theorem sameMemory_of_around (h : (world t).around p l = (world s).around p l) : SameMemory s t :=
  sameMemory_of_cells (cells_of_around h)

theorem sameTables_of_around (h : (world t).around p l = (world s).around p l) : SameTables s t p l := by
  have hk := kept_of_around h
  exact ⟨(congrArg Reach.prof hk :), (congrArg Reach.trv hk :), (congrArg Reach.swz hk :), (congrArg Reach.spWin hk :),
    (congrArg Reach.cbWin hk :), (congrArg Reach.fuse hk :), (congrArg Reach.actSeg hk :)⟩

theorem scalars_of_around (h : (world t).around p l = (world s).around p l) : (t.reach p l).s = (s.reach p l).s :=
  (congrArg Reach.s (kept_of_around h) :)

end

/-! ### The operations that leave it -/

section
variable (s : State)

@[simp] theorem world_raise (src code : Nat) (b : List Byte) : world (raise s src code b) = world s := rfl
@[simp] theorem world_mark (b : HwBit) : world (s.mark b) = world s := rfl
@[simp] theorem world_updPort (f : HostPort → HostPort) : world (s.updPort f) = world s := rfl
@[simp] theorem world_posted (ws : List Posted) : world { s with posted := ws } = world s := rfl
@[simp] theorem world_upsets (us : List Upset) : world { s with upsets := us } = world s := rfl
@[simp] theorem world_free (n : Nat) : world { s with free := n } = world s := rfl

theorem World.ext' {v w : World} (hr : ∀ q m, v.reach q m = w.reach q m) (hc : ∀ q c, v.cluster q c = w.cluster q c)
    (hm : ∀ q, v.mem q = w.mem q) (hd : v.datum = w.datum) (hs : v.stay = w.stay) (hp : v.pending = w.pending)
    (hph : v.phase = w.phase) (hw : v.wall = w.wall) : v = w := by
  cases v; cases w
  simp only [World.mk.injEq]
  exact ⟨funext fun q => funext (hr q), funext fun q => funext (hc q), funext hm, hd, hs, hp, hph, hw⟩

@[simp] theorem world_updParcel (p : Nat) (f : Parcel → Parcel) (hr : (f (s.parcel p)).reaches = (s.parcel p).reaches)
    (hc : (f (s.parcel p)).clusters = (s.parcel p).clusters) (hm : (f (s.parcel p)).mem = (s.parcel p).mem) :
    world (s.updParcel p f) = world s := by
  have hb := Beside.updParcel s p f hr hc
  refine World.ext' hb.1 hb.2.1 (fun q => ?_) rfl rfl rfl rfl rfl
  simp only [world, State.updParcel_parcel]
  split
  · next h => rw [hm, h]
  · rfl

@[simp] theorem world_updLink (p : Nat) (q : Port) (f : Link → Link) : world (s.updLink p q f) = world s :=
  world_updParcel _ _ _ rfl rfl rfl
@[simp] theorem world_updMon (p : Nat) (f : Monitors → Monitors) : world (s.updMon p f) = world s :=
  world_updParcel _ _ _ rfl rfl rfl
@[simp] theorem world_updFab (p : Nat) (f : Fabric → Fabric) : world (s.updFab p f) = world s :=
  world_updParcel _ _ _ rfl rfl rfl

@[simp] theorem world_ite (c : Prop) [Decidable c] (a b : State) : world (if c then a else b) = if c then world a else world b :=
  apply_ite ..

theorem world_foldl {α : Type} (f : State → α → State) (h : ∀ s a, world (f s a) = world s) (l : List α) :
    world (l.foldl f s) = world s := by
  induction l generalizing s with
  | nil => rfl
  | cons a l ih => rw [List.foldl_cons, ih, h]

@[simp] theorem world_bumpPcnt (p k n : Nat) : world (bumpPcnt s p k n) = world s := by unfold bumpPcnt; split <;> simp
@[simp] theorem world_bumpBw (p k n : Nat) : world (bumpBw s p k n) = world s := by unfold bumpBw; split <;> simp

@[simp] theorem world_setInt (p n : Nat) : world (setInt s p n) = world s := by
  obtain ⟨_, h⟩ | ⟨_, h⟩ := setInt_cases s p n
  · rw [h]; simp
  · rw [h]
    obtain ⟨f, hf⟩ := msix_eq ((s.updMon p (fun m => { m with intStat := putBit m.intStat n true })).mark ‹_›) (p + 1) n
    rw [hf]; simp

/-! #### Packets -/

@[simp] theorem world_queuePacket (p : Nat) (r : Port) (vc : Nat) (k : Packet) : world (queuePacket s p r vc k) = world s := by
  simp [queuePacket]

@[simp] theorem world_forwardPacket (p leg : Nat) (k : Packet) : world (forwardPacket s p leg k) = world s := by
  unfold forwardPacket; split <;> simp

@[simp] theorem world_findRoute (p dst : Nat) : world (findRoute s p dst).1 = world s := by
  unfold findRoute
  dsimp only
  split
  · rfl
  · split <;> simp

@[simp] theorem world_sendPacket (p : Nat) (k : Packet) : world (sendPacket s p k).1 = world s := by
  have hr := world_findRoute s p k.dst.toNat
  unfold sendPacket
  dsimp only
  split
  · simp
  · split
    · next h => rw [h] at hr; exact hr
    · next h => rw [h] at hr; simpa using hr

@[simp] theorem world_takeId (p : Nat) : world (takeId s p).1 = world s := by simp [takeId]
@[simp] theorem world_countChan (p c lo n : Nat) : world (countChan s p c lo n) = world s := by simp [countChan]
@[simp] theorem world_addSum (p : Nat) (x : CascadeSum) : world (addSum s p x) = world s := by simp [addSum]
@[simp] theorem world_queueAdd (q : Nat) (a : ConfAdd) : world (queueAdd s q a) = world s := by simp [queueAdd]

/-! #### Reads and posted writes -/

@[simp] theorem world_snooped (p n : Nat) : world (snooped s p n) = world s := by simp [snooped]

@[simp] theorem world_smCount (k : Space) (w : Bool) (as : List Nat) : world (smCount s k w as) = world s := by
  cases k <;> simp [smCount]

@[simp] theorem world_backInvalidate (k : Space) (as : List Nat) : world (backInvalidate s k as) = world s := by
  cases k <;> simp [backInvalidate]

/-- With no error standing a read meets none (log 101). -/
theorem smMeet_sound (k : Space) (requester : Nat) (as : List Nat) (h : s.upsets = []) : smMeet s k requester as = s := by
  unfold smMeet
  split
  · simp only [h, List.filter_nil, List.foldl_nil]
    exact congrArg (fun us => { s with upsets := us }) h.symm
  · rfl

@[simp] theorem smCount_upsets (k : Space) (w : Bool) (as : List Nat) : (smCount s k w as).upsets = s.upsets := by
  cases k <;> simp [smCount]

@[simp] theorem backInvalidate_upsets (k : Space) (as : List Nat) : (backInvalidate s k as).upsets = s.upsets := by
  unfold backInvalidate
  split
  · dsimp only
    split <;> simp [snooped]
  · rfl

/-- With no error standing a read only counts, and takes lines out of the snoop filter (R348). -/
theorem devReadAt_sound (k : Space) (requester : Nat) (as : List Nat) (h : s.upsets = []) :
    devReadAt s k requester as = smCount (backInvalidate s k as) k false as := by
  rw [devReadAt, smMeet_sound _ _ _ _ (by simpa using h)]

theorem world_devReadAt (k : Space) (requester : Nat) (as : List Nat) (h : s.upsets = []) :
    world (devReadAt s k requester as) = world s := by simp [devReadAt_sound _ _ _ _ h]

/-! #### What changes the own reach alone -/

variable (p l : Nat)

theorem around_updReach (f : Reach → Reach) (h : (f (s.reach p l)).kept = (s.reach p l).kept) :
    (world (s.updReach p l f)).around p l = (world s).around p l := by
  refine World.ext' (fun q m => ?_) (fun q c => by simp [World.around, world]) (fun q => by simp [World.around, world])
    rfl rfl rfl rfl rfl
  simp only [World.around, world, State.updReach_reach]
  split
  · next hqm => obtain ⟨rfl, rfl⟩ := hqm; exact h
  · rfl

@[simp] theorem around_updTask (f : Task → Task) : (world (s.updTask p l f)).around p l = (world s).around p l :=
  around_updReach s p l _ rfl

@[simp] theorem around_updFlight (no : Nat) (f : Flight → Flight) :
    (world (updFlight s p l no f)).around p l = (world s).around p l := around_updReach s p l _ rfl

@[simp] theorem around_bumpCnt (k n : Nat) : (world (bumpCnt s p l k n)).around p l = (world s).around p l := by
  obtain h | h := bumpCnt_cases s p l k n
  · rw [h]
  · rw [h]; exact around_updReach s p l _ rfl

end

end Sys2Proof.Machine
end

section
/-!
An instruction of a unit enters it and runs: the state in which it runs, and what the end of its issue adds (06 R162, R164,
R167).
-/

namespace Sys2Proof.Machine

/-! ### Updates of one part, one after another -/

theorem SMap.put_put {α : Type} (m : SMap α) (k : Nat) (a b : α) : SMap.put (SMap.put m k a) k b = SMap.put m k b := by
  induction m with
  | nil => simp [SMap.put]
  | cons e m ih =>
    obtain ⟨j, v⟩ := e
    simp only [SMap.put]
    split
    · simp [SMap.put]
    · next hj =>
      split
      · simp [SMap.put]
      · next hk => simp [SMap.put, hj, hk, ih]

theorem State.updParcel_updParcel (s : State) (p : Nat) (f g : Parcel → Parcel) :
    (s.updParcel p f).updParcel p g = s.updParcel p (fun x => g (f x)) := by
  have h := State.updParcel_parcel_same s p f
  unfold State.updParcel at h ⊢
  rw [h]
  simp only [State.setParcel, SMap.put_put]

theorem State.updReach_updReach (s : State) (p l : Nat) (f g : Reach → Reach) :
    (s.updReach p l f).updReach p l g = s.updReach p l (fun r => g (f r)) := by
  have h := State.updReach_reach_same s p l f
  unfold State.updReach at h ⊢
  rw [h, State.setReach, State.setReach, State.updParcel_updParcel]
  simp only [SMap.put_put]
  rfl

theorem State.updTask_updTask (s : State) (p l : Nat) (f g : Task → Task) :
    (s.updTask p l f).updTask p l g = s.updTask p l (fun t => g (f t)) := State.updReach_updReach ..

/-! ### The state in which an instruction runs -/

/-- What an instruction becomes in its reach as it enters its unit: the youngest in flight, with the task moved on (R162).
`cd`, `tag`, `cnt` and `inc` are of the sampler and the counters. -/
def Reach.enter (r : Reach) (j : Job) (pl : Plan) (w : Await) (cd : Nat) (tag : Option SampleTag) (cnt : SMap Word)
    (inc : SMap Nat) : Reach :=
  { r with
    task := { r.task with
      pc := BitVec.ofNat 32 (j.pc.toNat + 16), issueNo := r.task.issueNo + 1, headCc := 0, sampleCd := cd, arm := none
      wait := .none, left := none, atOnce := false }
    cnt := cnt
    cntInc := inc
    flights := r.flights ++ [{ no := r.task.issueNo + 1, job := j, unit := pl.unit, wait := w, rd := pl.rd, wr := pl.wrAll j
                               inStep := r.task.step.isSome, tag := tag }] }

theorem enterUnit_eq (s : State) (p l : Nat) (j : Job) (pl : Plan) (w : Await) : ∃ cd tag cnt inc,
    (enterUnit s p l j pl w).1 = s.updReach p l (fun r => r.enter j pl w cd tag cnt inc) := by
  obtain ⟨cd, tag, k, hk⟩ : ∃ cd tag k, advance s p l j pl.addr (j.pc.toNat + 16) = (bumpCnt (s.updTask p l k) p l 1 1, tag) ∧
      k = fun t => { t with
        pc := BitVec.ofNat 32 (j.pc.toNat + 16), issueNo := t.issueNo + 1, headCc := 0, sampleCd := cd, arm := none
        wait := .none, left := none, atOnce := false } := ⟨_, _, _, rfl, rfl⟩
  obtain ⟨hadv, rfl⟩ := hk
  simp only [enterUnit, hadv]
  obtain h | h := bumpCnt_cases (s.updTask p l _) p l 1 1
  · rw [h]
    refine ⟨cd, tag, (s.reach p l).cnt, (s.reach p l).cntInc, ?_⟩
    rw [State.updTask, State.updReach_updReach]
    exact State.updReach_congr _ _ _ rfl
  · rw [h]
    refine ⟨cd, tag, cntBump (s.reach p l).cnt 1 1, incBump (s.reach p l).cntInc 1 1, ?_⟩
    rw [State.updTask, State.updReach_updReach, State.updReach_updReach]
    exact State.updReach_congr _ _ _ rfl

section
variable (r : Reach) (j : Job) (pl : Plan) (w : Await) (cd : Nat) (tag : Option SampleTag) (cnt : SMap Word) (inc : SMap Nat)

@[simp] theorem Reach.enter_kept : (r.enter j pl w cd tag cnt inc).kept = r.kept := rfl
@[simp] theorem Reach.enter_wait : (r.enter j pl w cd tag cnt inc).task.wait = .none := rfl
@[simp] theorem Reach.enter_pool : (r.enter j pl w cd tag cnt inc).pool = r.pool := rfl
@[simp] theorem Reach.enter_paired : (r.enter j pl w cd tag cnt inc).paired = r.paired := rfl
@[simp] theorem Reach.enter_stats : (r.enter j pl w cd tag cnt inc).stats = r.stats := rfl
@[simp] theorem Reach.enter_ruined : (r.enter j pl w cd tag cnt inc).ruined = r.ruined := rfl
@[simp] theorem Reach.enter_swz : (r.enter j pl w cd tag cnt inc).swz = r.swz := rfl
@[simp] theorem Reach.enter_spWin : (r.enter j pl w cd tag cnt inc).spWin = r.spWin := rfl
@[simp] theorem Reach.enter_cbWin : (r.enter j pl w cd tag cnt inc).cbWin = r.cbWin := rfl
@[simp] theorem Reach.enter_spad : (r.enter j pl w cd tag cnt inc).spad = r.spad := rfl
@[simp] theorem Reach.enter_spPoison : (r.enter j pl w cd tag cnt inc).spPoison = r.spPoison := rfl
@[simp] theorem Reach.enter_imem : (r.enter j pl w cd tag cnt inc).imem = r.imem := rfl
@[simp] theorem Reach.enter_imemPoison : (r.enter j pl w cd tag cnt inc).imemPoison = r.imemPoison := rfl

end

/-! ### What `Entered` says, kept through the run -/

section
variable {s t t' : State} {p l : Nat} {u : FuncUnit} {st : Nat} {w : Await}

/-- The instruction at the head has entered its unit. -/
theorem entered_enter (s : State) (p l : Nat) (pl : Plan) (w : Await) (cd : Nat) (tag : Option SampleTag) (cnt : SMap Word)
    (inc : SMap Nat) : Entered s (s.updReach p l (fun r => r.enter (headJob s p l) pl w cd tag cnt inc)) p l pl.unit 0 w := by
  refine ⟨?_, by simp [Reach.enter], (s.reach p l).flights, _, by rw [State.updReach_reach_same]; rfl, rfl, fun i g hg _ => hg,
    rfl, rfl, rfl, rfl, rfl⟩
  rw [State.updReach_reach_same]
  exact BitVec.eq_of_toNat_eq (by simp [Reach.enter, headJob])

/-- `Entered` speaks of the PC, the count of issued instructions and those in flight alone. -/
theorem Entered.congr (h : Entered s t p l u st w) (hpc : (t'.reach p l).task.pc = (t.reach p l).task.pc)
    (hno : (t'.reach p l).task.issueNo = (t.reach p l).task.issueNo) (hf : (t'.reach p l).flights = (t.reach p l).flights) :
    Entered s t' p l u st w := by
  unfold Entered at h ⊢
  rwa [hpc, hno, hf]

theorem Entered.of_reach (h : Entered s t p l u st w) (hr : t'.reach p l = t.reach p l) : Entered s t' p l u st w :=
  h.congr (by rw [hr]) (by rw [hr]) (by rw [hr])

theorem Entered.flights_ne_nil (h : Entered s t p l u st w) : (t.reach p l).flights ≠ [] := by
  obtain ⟨_, _, older, f, hf, _⟩ := h
  simp [hf]

/-- The unit changes the status of the instruction, or what it waits for. -/
theorem Entered.updFlight (h : Entered s t p l u st w) {f : Flight → Flight} {st' : Nat} {w' : Await}
    (hkeep : ∀ x, (f x).no = x.no ∧ (f x).job = x.job ∧ (f x).unit = x.unit)
    (hset : ∀ x, x.status = st → x.wait = w → (f x).status = st' ∧ (f x).wait = w') :
    Entered s (updFlight t p l ((s.reach p l).task.issueNo + 1) f) p l u st' w' := by
  obtain ⟨hpc, hno, older, x, hfl, hlen, hold, hx, hjob, hunit, hst, hw⟩ := h
  refine ⟨?_, ?_, older.map (fun y => if y.no == (s.reach p l).task.issueNo + 1 then f y else y), f x, ?_, ?_, ?_, ?_, ?_, ?_,
    (hset x hst hw).1, (hset x hst hw).2⟩
  · simpa [Machine.updFlight] using hpc
  · simpa [Machine.updFlight] using hno
  · simp [Machine.updFlight, hfl, hx]
  · simpa using hlen
  · intro i g hg hgno
    simp [hold i g hg hgno, hgno]
  · rw [(hkeep x).1, hx]
  · rw [(hkeep x).2.1, hjob]
  · rw [(hkeep x).2.2, hunit]

end

/-! ### The end of issue -/

/-- A task with an instruction in flight stops once that has ended (R164). -/
theorem stopTask_inFlight (s : State) (p l no code reason pc : Nat) (hf : (s.reach p l).flights ≠ [])
    (hw : (s.reach p l).task.wait = .none) : ∃ f : Task → Task, stopTask s p l no code reason pc = s.updTask p l f ∧
      ∀ t, (f t).pc = t.pc ∧ (f t).issueNo = t.issueNo ∧ (f t).stopFault = true ∧ (t.wait = .none → (f t).wait = .none) := by
  have hfin (u : State) (hu : (u.reach p l).flights = (s.reach p l).flights) : finishStop u p l = u := by
    simp [finishStop, hu, hf]
  have hwd : withdrawHead s p l = s.updTask p l (fun t => { t with wait := if t.wait = .fence then .fence else .none }) := by
    simp only [withdrawHead, hw]
  unfold stopTask
  dsimp only
  rw [hfin _ (by simp [hwd]), hwd, State.updTask_updTask]
  exact ⟨_, rfl, fun t => ⟨rfl, rfl, rfl, fun ht => by simp [ht]⟩⟩

/-- `t` is `u`, but that the task of reach `l` may be about to stop, with its event in the book. -/
structure AtMostStops (u t : State) (p l : Nat) : Prop where
  reach : t.reach p l = { u.reach p l with task := (t.reach p l).task }
  pc : (t.reach p l).task.pc = (u.reach p l).task.pc
  issueNo : (t.reach p l).task.issueNo = (u.reach p l).task.issueNo
  around : (world t).around p l = (world u).around p l
  parcel : ∀ q, t.parcel q = { u.parcel q with reaches := (t.parcel q).reaches }
  posted : t.posted = u.posted
  stopped : (u.reach p l).task.issuing = false → t = u

/-- After an instruction that has entered a unit a fetch past IMEM can only stop the task (R157). -/
theorem fetchCheck_atMostStops (u : State) (p l : Nat) (hf : (u.reach p l).flights ≠ [])
    (hw : (u.reach p l).task.wait = .none) : AtMostStops u (fetchCheck u p l) p l := by
  unfold fetchCheck
  dsimp only
  split
  · next hcheck =>
    obtain ⟨f, hstop, hkeep⟩ := stopTask_inFlight (raise u (srcReach p l) evBound
      (boundPayload (u.reach p l).task.pc.toNat 1 0xFF 3 0xFF (u.reach p l).task.pc.toNat (u.reach p l).task.pc.toNat
        Config.imemSize (srcReach p l))) p l ((u.reach p l).task.issueNo + 1) evBound 0 (u.reach p l).task.pc.toNat hf hw
    rw [hstop]
    refine ⟨by simp, by simp [hkeep], by simp [hkeep], by simp, fun q => ?_, by simp, fun h => ?_⟩
    · rw [State.updTask, State.updReach_parcel]
      split
      · next h => subst h; rfl
      · rfl
    · simp [h] at hcheck
  · exact ⟨rfl, rfl, rfl, rfl, fun _ => rfl, rfl, fun _ => rfl⟩

section
variable {s u t : State} {p l : Nat}

theorem AtMostStops.entered {un : FuncUnit} {st : Nat} {w : Await} (h : AtMostStops u t p l) (he : Entered s u p l un st w) :
    Entered s t p l un st w := he.congr h.pc h.issueNo (by rw [h.reach])

theorem AtMostStops.sums (h : AtMostStops u t p l) (q : Nat) : (t.parcel q).sums = (u.parcel q).sums := by rw [h.parcel q]
theorem AtMostStops.adds (h : AtMostStops u t p l) (q : Nat) : (t.parcel q).adds = (u.parcel q).adds := by rw [h.parcel q]
theorem AtMostStops.fab (h : AtMostStops u t p l) (q : Nat) : (t.parcel q).fab = (u.parcel q).fab := by rw [h.parcel q]
theorem AtMostStops.link (h : AtMostStops u t p l) (q : Nat) (r : Port) : t.link q r = u.link q r := by
  rw [State.link, h.parcel q, State.link]
theorem AtMostStops.pool (h : AtMostStops u t p l) : (t.reach p l).pool = (u.reach p l).pool := by rw [h.reach]
theorem AtMostStops.paired (h : AtMostStops u t p l) : (t.reach p l).paired = (u.reach p l).paired := by rw [h.reach]
theorem AtMostStops.stats (h : AtMostStops u t p l) : (t.reach p l).stats = (u.reach p l).stats := by rw [h.reach]

end

/-! ### Counters of the own reach -/

section
variable (s : State) (p l k n : Nat)

@[simp] theorem bumpCnt_task : ((bumpCnt s p l k n).reach p l).task = (s.reach p l).task := by rw [bumpCnt_reach]
@[simp] theorem bumpCnt_flights : ((bumpCnt s p l k n).reach p l).flights = (s.reach p l).flights := by rw [bumpCnt_reach]
@[simp] theorem bumpCnt_pool : ((bumpCnt s p l k n).reach p l).pool = (s.reach p l).pool := by rw [bumpCnt_reach]
@[simp] theorem bumpCnt_ruined : ((bumpCnt s p l k n).reach p l).ruined = (s.reach p l).ruined := by rw [bumpCnt_reach]

end

@[simp] theorem updFlight_posted (s : State) (p l no : Nat) (f : Flight → Flight) : (updFlight s p l no f).posted = s.posted :=
  State.updReach_posted ..

/-- What an instruction in flight becomes that a unit has changed. -/
theorem mem_flights_updFlight {s : State} {p l no : Nat} {f : Flight → Flight} {y : Flight}
    (hy : y ∈ ((updFlight s p l no f).reach p l).flights) (hno : y.no = no) : ∃ g ∈ (s.reach p l).flights, g.no = no ∧ y = f g := by
  rw [updFlight, State.updReach_reach_same] at hy
  obtain ⟨g, hg, rfl⟩ := List.mem_map.mp hy
  by_cases h : g.no = no
  · exact ⟨g, hg, h, by simp [h]⟩
  · simp [h] at hno

/-! ### Issue -/

/-- An instruction of a unit that issues enters it, in state `e`, and runs to `u`; where the run poisons no word and posts no
write behind a FENC.rel, the fetch that follows is all that is left of its issue. -/
theorem issueUnit_eq_fetchCheck (s : State) (p l : Nat) (sel : BitVec 128 → Bool) (plan : Job → Plan)
    (run : State → Job → Nat → State) (hs : sel (headJob s p l).word = true) (h : Issues s p l (plan (headJob s p l))) :
    ∃ cd tag cnt inc, ∀ e u, e = s.updReach p l (fun r => r.enter (headJob s p l) (plan (headJob s p l)) .none cd tag cnt inc) →
      u = run e (headJob s p l) ((s.reach p l).task.issueNo + 1) → (u.reach p l).ruined = [] →
      (∀ w ∈ u.posted, w.writer = srcReach p l → w.fenced = false) →
      issueUnit s p l sel plan run = fetchCheck u p l := by
  obtain ⟨cd, tag, cnt, inc, he⟩ := enterUnit_eq s p l (headJob s p l) (plan (headJob s p l)) .none
  refine ⟨cd, tag, cnt, inc, fun e u hee hu hr hp => ?_⟩
  rw [issueUnit_issues s p l sel plan run hs h, enterUnit_no, he, ← hee, ← hu, clearWords_clean _ _ _ _ hr,
    drainFenced_none _ _ _ _ hp]

/-- `e` is `s` with the instruction at the head of reach `l` in its unit, before the unit runs. -/
def Entering (s e : State) (p l : Nat) (pl : Plan) : Prop :=
  ∃ cd tag cnt inc, e = s.updReach p l (fun r => r.enter (headJob s p l) pl .none cd tag cnt inc)

section
variable {s e : State} {p l : Nat} {pl : Plan} (h : Entering s e p l pl)
include h

theorem Entering.entered : Entered s e p l pl.unit 0 .none := by
  obtain ⟨cd, tag, cnt, inc, rfl⟩ := h
  exact entered_enter ..

theorem Entering.around : (world e).around p l = (world s).around p l := by
  obtain ⟨cd, tag, cnt, inc, rfl⟩ := h
  exact around_updReach s p l _ rfl

theorem Entering.reach : ∃ cd tag cnt inc, e.reach p l = (s.reach p l).enter (headJob s p l) pl .none cd tag cnt inc := by
  obtain ⟨cd, tag, cnt, inc, rfl⟩ := h
  exact ⟨cd, tag, cnt, inc, State.updReach_reach_same ..⟩

theorem Entering.wait : (e.reach p l).task.wait = .none := by obtain ⟨_, _, _, _, hr⟩ := h.reach; rw [hr]; rfl
theorem Entering.pool : (e.reach p l).pool = (s.reach p l).pool := by obtain ⟨_, _, _, _, hr⟩ := h.reach; rw [hr]; rfl
theorem Entering.paired : (e.reach p l).paired = (s.reach p l).paired := by obtain ⟨_, _, _, _, hr⟩ := h.reach; rw [hr]; rfl
theorem Entering.stats : (e.reach p l).stats = (s.reach p l).stats := by obtain ⟨_, _, _, _, hr⟩ := h.reach; rw [hr]; rfl
theorem Entering.ruined : (e.reach p l).ruined = (s.reach p l).ruined := by obtain ⟨_, _, _, _, hr⟩ := h.reach; rw [hr]; rfl

/-- Besides the reaches every parcel stands as it did. -/
theorem Entering.parcel (q : Nat) : e.parcel q = { s.parcel q with reaches := (e.parcel q).reaches } := by
  obtain ⟨_, _, _, _, rfl⟩ := h
  rw [State.updReach_parcel]
  split
  · next hq => subst hq; rfl
  · rfl

theorem Entering.book : e.book = s.book := by obtain ⟨_, _, _, _, rfl⟩ := h; rfl
theorem Entering.hub : e.hub = s.hub := by obtain ⟨_, _, _, _, rfl⟩ := h; rfl
theorem Entering.posted : e.posted = s.posted := by obtain ⟨_, _, _, _, rfl⟩ := h; rfl
theorem Entering.upsets : e.upsets = s.upsets := by obtain ⟨_, _, _, _, rfl⟩ := h; rfl
theorem Entering.wall : e.wall = s.wall := by obtain ⟨_, _, _, _, rfl⟩ := h; rfl
theorem Entering.datum : e.datum = s.datum := by obtain ⟨_, _, _, _, rfl⟩ := h; rfl
theorem Entering.free : e.free = s.free := by obtain ⟨_, _, _, _, rfl⟩ := h; rfl
theorem Entering.phase : e.phase = s.phase := by obtain ⟨_, _, _, _, rfl⟩ := h; rfl

end

/-- The unit that runs from `e` to `u` poisons no word, posts no write behind a FENC.rel, and leaves the task and what is in
flight. -/
structure QuietRun (e u : State) (p l : Nat) : Prop where
  ruined : (u.reach p l).ruined = (e.reach p l).ruined
  posted : ∀ w ∈ u.posted, w ∈ e.posted ∨ w.fenced = false
  wait : (u.reach p l).task.wait = (e.reach p l).task.wait
  flights : (e.reach p l).flights ≠ [] → (u.reach p l).flights ≠ []

/-- An instruction of a unit that comes to issue ends where its unit ran to, but that the task may be about to stop. -/
theorem exec_atMostStops {s : State} {p l : Nat} {i : Instr} {sel : BitVec 128 → Bool} {plan : Job → Plan}
    {run : State → Job → Nat → State} (hexec : exec i s = .next (issueUnit s p l sel plan run))
    (hs : sel (headJob s p l).word = true) (hI : Issues s p l (plan (headJob s p l))) :
    ∃ e, Entering s e p l (plan (headJob s p l)) ∧
      ∀ u, u = run e (headJob s p l) ((s.reach p l).task.issueNo + 1) → QuietRun e u p l →
        ∃ t, exec i s = .next t ∧ AtMostStops u t p l := by
  obtain ⟨cd, tag, cnt, inc, hissue⟩ := issueUnit_eq_fetchCheck s p l sel plan run hs hI
  obtain ⟨_, _, _, _, _, _, _, hruined, _, hposted⟩ := hI
  obtain ⟨e, he⟩ : ∃ e, e = s.updReach p l (fun r => r.enter (headJob s p l) (plan (headJob s p l)) .none cd tag cnt inc) :=
    ⟨_, rfl⟩
  have hent : Entering s e p l (plan (headJob s p l)) := ⟨cd, tag, cnt, inc, he⟩
  refine ⟨e, hent, fun u hu hq => ⟨fetchCheck u p l, ?_, ?_⟩⟩
  · rw [hexec, hissue e u he hu ((hq.ruined.trans hent.ruined).trans hruined)]
    intro w hw hsrc
    exact (hq.posted w hw).elim (fun hwe => hposted w (hent.posted ▸ hwe) hsrc) id
  · exact fetchCheck_atMostStops u p l (hq.flights hent.entered.flights_ne_nil) (hq.wait.trans hent.wait)

end Sys2Proof.Machine
end

section
/-!
The pool (03 R66 to R70): what is read after an output has been set, and after every output of a slot has been set in turn.
-/

namespace Sys2Proof.Machine

/-! ### Two's complement (R8) -/

theorem signed_bounds {n : Nat} (hn : 0 < n) (v : Nat) :
    -(2 : Int) ^ (n - 1) ≤ signed n v ∧ signed n v < (2 : Int) ^ (n - 1) := by
  obtain ⟨m, rfl⟩ : ∃ m, n = m + 1 := ⟨n - 1, by omega⟩
  have hlt : v % 2 ^ (m + 1) < 2 ^ (m + 1) := Nat.mod_lt _ (by positivity)
  have hpow : 2 ^ (m + 1) = 2 * 2 ^ m := pow_succ' ..
  simp only [signed, Nat.add_sub_cancel, Nat.succ_ne_zero, if_false]
  generalize v % 2 ^ (m + 1) = u at *
  have hpow' : (2 : Int) ^ (m + 1) = 2 * 2 ^ m := pow_succ' ..
  have hcast : ((2 ^ m : Nat) : Int) = 2 ^ m := by push_cast; rfl
  split <;> omega

theorem unsignedBits_lt (n : Nat) (v : Int) : unsignedBits n v < 2 ^ n := by
  have hpos : (0 : Int) < 2 ^ n := by positivity
  have hlt := Int.emod_lt_of_pos v hpos
  have hcast : ((2 ^ n : Nat) : Int) = 2 ^ n := by push_cast; rfl
  have hnn := Int.emod_nonneg v hpos.ne'
  unfold unsignedBits
  omega

theorem signed_unsignedBits {n : Nat} (hn : 0 < n) {v : Int} (hlo : -(2 : Int) ^ (n - 1) ≤ v) (hhi : v < (2 : Int) ^ (n - 1)) :
    signed n (unsignedBits n v) = v := by
  obtain ⟨m, rfl⟩ : ∃ m, n = m + 1 := ⟨n - 1, by omega⟩
  have hpow : (2 : Int) ^ (m + 1) = 2 * 2 ^ m := pow_succ' ..
  have hcast : ((2 ^ m : Nat) : Int) = 2 ^ m := by push_cast; rfl
  simp only [Nat.add_sub_cancel] at hlo hhi
  simp only [signed, Nat.mod_eq_of_lt (unsignedBits_lt _ _), Nat.add_sub_cancel, Nat.succ_ne_zero, if_false]
  unfold unsignedBits
  obtain hneg | hpos := lt_or_ge v 0
  · have hmod : v % 2 ^ (m + 1) = v + 2 ^ (m + 1) := by
      rw [← Int.add_emod_right, Int.emod_eq_of_lt (by omega) (by omega)]
    rw [hmod, if_pos (by omega)]
    omega
  · rw [Int.emod_eq_of_lt hpos (by omega), if_neg (by omega)]
    omega

/-! ### Sorted maps -/

theorem SMap.sorted_iff_pairwise {α : Type} (m : SMap α) : SMap.sorted m = true ↔ m.Pairwise (fun c d => c.1 < d.1) := by
  induction m with
  | nil => simp [SMap.sorted]
  | cons e m ih =>
    cases m with
    | nil => simp [SMap.sorted]
    | cons f m =>
      have htrans : (e.1 < f.1 ∧ ∀ d ∈ m, f.1 < d.1) → ∀ d ∈ m, e.1 < d.1 := fun h d hd => h.1.trans (h.2 d hd)
      simp only [SMap.sorted, Bool.and_eq_true, decide_eq_true_eq, ih, List.pairwise_cons, List.mem_cons, forall_eq_or_imp]
      exact ⟨fun h => ⟨⟨h.1, htrans ⟨h.1, h.2.1⟩⟩, h.2⟩, fun h => ⟨h.1.1, h.2⟩⟩

theorem SMap.sorted_store {α : Type} [DecidableEq α] (d : α) {m : SMap α} (k : Nat) (a : α) (h : SMap.sorted m = true) :
    SMap.sorted (SMap.store d m k a) = true := by
  rw [SMap.sorted_iff_pairwise] at h ⊢
  unfold SMap.store
  split
  · exact pairwise_erase k h
  · exact pairwise_put k a h

theorem SMap.find_store_other {α : Type} [DecidableEq α] (d : α) {m : SMap α} {k i : Nat} (a : α) (h : SMap.sorted m = true)
    (hi : i ≠ k) : SMap.find (SMap.store d m k a) i = SMap.find m i := by
  unfold SMap.store
  split
  · rw [SMap.find_erase m k i h, if_neg hi]
  · exact SMap.find_put_other m k i a hi

/-! ### One output -/

/-- The value lies in the guarded range (R66). -/
def InGuard (paired : Bool) (v : Int) : Prop := guardLo paired ≤ v ∧ v ≤ guardHi paired

theorem inGuard_clamp (paired : Bool) (v : Int) : InGuard paired (guardClamp paired v).1 := by
  cases paired <;> simp only [InGuard, guardClamp, clampInt, guardLo, guardHi, guardBits] <;> split <;> (try split) <;> omega

theorem inGuard_poolGet (pool : SMap PoolEntry) (paired : Bool) (slot i : Nat) : InGuard paired (poolGet pool paired slot i).1 := by
  cases paired
  · have h := signed_bounds (n := 36) (by omega) (SMap.get {} pool (entryNo false slot i)).v.toNat
    simp only [InGuard, poolGet, guardLo, guardHi, guardBits, Bool.false_eq_true, if_false]
    omega
  · have h := signed_bounds (n := 72) (by omega) ((SMap.get {} pool (entryNo true slot i)).v.toNat +
      (SMap.get {} pool (entryNo true slot i + 1)).v.toNat * 2 ^ 36)
    simp only [InGuard, poolGet, guardLo, guardHi, guardBits, if_true]
    omega

/-- A value under the guard is in its range again, and so is a frozen one (R70). -/
theorem inGuard_guardAdd {paired : Bool} {old : Int × Bool} (pv : Int) (h : InGuard paired old.1) :
    InGuard paired (guardAdd paired old pv).1.1 := by
  unfold guardAdd
  split
  · exact h
  · dsimp only
    split
    · exact inGuard_clamp ..
    · exact inGuard_clamp ..

theorem sorted_poolSet {pool : SMap PoolEntry} (paired : Bool) (slot i : Nat) (v : Int) (ovf : Bool)
    (h : SMap.sorted pool = true) : SMap.sorted (poolSet pool paired slot i v ovf) = true := by
  cases paired
  · exact SMap.sorted_store _ _ _ h
  · exact SMap.sorted_store _ _ _ (SMap.sorted_store _ _ _ h)

theorem poolGet_poolSet {pool : SMap PoolEntry} {paired : Bool} (slot i k : Nat) {v : Int} (ovf : Bool)
    (h : SMap.sorted pool = true) (hv : InGuard paired v) :
    poolGet (poolSet pool paired slot i v ovf) paired slot k = if k = i then (v, ovf) else poolGet pool paired slot k := by
  cases paired
  · simp only [InGuard, guardLo, guardHi, guardBits, Bool.false_eq_true, if_false] at hv
    simp only [poolGet, poolSet, entryNo, Bool.false_eq_true, if_false, SMap.get_store _ _ _ _ _ h]
    by_cases hk : k = i
    · subst hk
      have hs := signed_unsignedBits (n := 36) (v := v) (by omega) (by omega) (by omega)
      rw [if_pos rfl, if_pos rfl, BitVec.toNat_ofNat, Nat.mod_eq_of_lt (unsignedBits_lt 36 v), hs]
    · rw [if_neg (by omega), if_neg hk]
  · simp only [InGuard, guardLo, guardHi, guardBits, if_true] at hv
    simp only [poolGet, poolSet, entryNo, if_true, SMap.get_store _ _ _ _ _ (SMap.sorted_store _ _ _ h),
      SMap.get_store _ _ _ _ _ h]
    by_cases hk : k = i
    · subst hk
      have hs := signed_unsignedBits (n := 72) (v := v) (by omega) (by omega) (by omega)
      have hlt := unsignedBits_lt 72 v
      have hsplit : unsignedBits 72 v % 2 ^ 36 + unsignedBits 72 v / 2 ^ 36 % 2 ^ 36 * 2 ^ 36 = unsignedBits 72 v := by omega
      simp only [if_true, if_neg (show ¬ 512 * slot + 2 * k = 512 * slot + 2 * k + 1 by omega), BitVec.toNat_ofNat, hsplit, hs]
    · rw [if_neg (by omega), if_neg (by omega), if_neg (by omega), if_neg (by omega), if_neg hk]

/-- An output occupies its own entries (R66, R67). -/
theorem find_poolSet_other {pool : SMap PoolEntry} (paired : Bool) (slot i : Nat) (v : Int) (ovf : Bool) {n : Nat}
    (h : SMap.sorted pool = true) (hn : n ≠ entryNo paired slot i) (hn' : paired = true → n ≠ entryNo paired slot i + 1) :
    SMap.find (poolSet pool paired slot i v ovf) n = SMap.find pool n := by
  cases paired
  · exact SMap.find_store_other _ _ h hn
  · simp only [poolSet, if_true]
    rw [SMap.find_store_other _ _ (SMap.sorted_store _ _ _ h) (hn' rfl), SMap.find_store_other _ _ h hn]

/-! ### Every output in turn -/

/-- A loop each of whose steps changes one output, by `g`, changes each output of the list once. -/
theorem poolGet_foldl {β : Type} (pool : β → SMap PoolEntry) (paired : Bool) (slot : Nat) (f : β → Nat → β)
    (g : Nat → Int × Bool → Int × Bool) (hsort : ∀ x i, SMap.sorted (pool x) = true → SMap.sorted (pool (f x i)) = true)
    (hget : ∀ x i k, SMap.sorted (pool x) = true → poolGet (pool (f x i)) paired slot k =
      if k = i then g k (poolGet (pool x) paired slot k) else poolGet (pool x) paired slot k)
    (is : List Nat) (hnd : is.Nodup) (x : β) (hx : SMap.sorted (pool x) = true) :
    SMap.sorted (pool (is.foldl f x)) = true ∧ ∀ k, poolGet (pool (is.foldl f x)) paired slot k =
      if k ∈ is then g k (poolGet (pool x) paired slot k) else poolGet (pool x) paired slot k := by
  induction is generalizing x with
  | nil => exact ⟨hx, fun k => by simp⟩
  | cons i is ih =>
    obtain ⟨hi, hnd⟩ := List.nodup_cons.mp hnd
    obtain ⟨hs, hg⟩ := ih hnd (f x i) (hsort x i hx)
    refine ⟨hs, fun k => ?_⟩
    rw [List.foldl_cons, hg k, hget x i k hx]
    by_cases hk : k = i
    · subst hk; simp [hi]
    · simp [hk]

theorem poolGet_fillSlot {pool : SMap PoolEntry} {paired : Bool} (slot : Nat) {v : Int} (h : SMap.sorted pool = true)
    (hv : InGuard paired v) : SMap.sorted (fillSlot pool paired slot v) = true ∧
      ∀ i < 256, poolGet (fillSlot pool paired slot v) paired slot i = (v, false) := by
  obtain ⟨hs, hg⟩ := poolGet_foldl id paired slot (fun p i => poolSet p paired slot i v false) (fun _ _ => (v, false))
    (fun x i hx => sorted_poolSet paired slot i v false hx) (fun x i k hx => poolGet_poolSet slot i k false hx hv)
    (List.range 256) List.nodup_range pool h
  exact ⟨hs, fun i hi => (hg i).trans (if_pos (List.mem_range.mpr hi))⟩

theorem poolAdd_pool (paired : Bool) (slot idx : Nat) (st : SMap PoolEntry × Option SatRec) (i : Nat) (pv : Int) :
    (poolAdd paired slot idx st i pv).1 = poolSet st.1 paired slot i (guardAdd paired (poolGet st.1 paired slot i) pv).1.1
      (guardAdd paired (poolGet st.1 paired slot i) pv).1.2 := rfl

theorem poolGet_poolAdd {pool : SMap PoolEntry} {paired : Bool} (slot idx : Nat) (rec : Option SatRec) (pv : Nat → Int)
    (h : SMap.sorted pool = true) : ∀ i < 256, poolGet ((List.range 256).foldl
      (fun st i => poolAdd paired slot idx st i (pv i)) (pool, rec)).1 paired slot i =
        (guardAdd paired (poolGet pool paired slot i) (pv i)).1 := by
  have hv (x : SMap PoolEntry × Option SatRec) (i : Nat) := inGuard_guardAdd (pv i) (inGuard_poolGet x.1 paired slot i)
  obtain ⟨_, hg⟩ := poolGet_foldl (β := SMap PoolEntry × Option SatRec) Prod.fst paired slot
    (fun st i => poolAdd paired slot idx st i (pv i)) (fun i old => (guardAdd paired old (pv i)).1)
    (fun x i hx => by rw [poolAdd_pool]; exact sorted_poolSet paired slot i _ _ hx)
    (fun x i k hx => by
      rw [poolAdd_pool, poolGet_poolSet _ _ _ _ hx (hv x i)]
      split
      · next hk => rw [hk]
      · rfl)
    (List.range 256) List.nodup_range (pool, rec) h
  exact fun i hi => (hg i).trans (if_pos (List.mem_range.mpr hi))

end Sys2Proof.Machine
end

section
/-!
A dense native MATB of one visit and one chunk (03 R63, R70; 06 R172; 07 R206): its operands, the chunk that it sums and
promotes, and the obligation on what it adds to the pool.
-/

namespace Sys2Proof.Machine

/-! ### Operands (R36, R93) -/

theorem field_lt (w lo n : Nat) : field w lo n < 2 ^ n := Nat.mod_lt _ (by positivity)

theorem MatCtx.codes_lt (c : MatCtx) (off : Int) (b n : Nat) : ∀ x ∈ c.codes off b n, x < 2 ^ b := by
  intro x hx
  obtain ⟨i, _, rfl⟩ := List.mem_map.mp hx
  exact field_lt ..

theorem Prof.actOperand_lt (q : Prof) {code : Nat} (h : code < 2 ^ q.a) : q.actOperand code < 2 ^ q.a' := by
  unfold Prof.actOperand Prof.a'
  split
  · exact unsignedBits_lt ..
  · exact h

/-- The reserved chunk length counts as 32, so no chunk is longer than 128. -/
theorem prof_chunkLen_le (b : BitVec 256) : (prof b).chunkLen ≤ 128 := by
  simp only [prof, chunkOf]
  split
  · exact le_rfl
  · split <;> omega

/-! ### The nest -/

/-- A dense native MUL whose nest is one visit of one chunk, over a scratchpad without poison. -/
structure MatCtx.OneChunk (c : MatCtx) : Prop where
  fn : c.q.fn = 0
  sp : c.q.sp = 0
  gs : c.q.gs = false
  split : c.q.split = false
  dziro : c.q.dziro = false
  paired : c.q.paired = false
  trunc : c.q.trunc = 0
  shal : c.q.shal = 0
  a : 0 < c.q.a
  w : 0 < c.q.w
  chunkLen : c.q.chunkLen ≤ 128
  K : 0 < c.K ∧ c.K ≤ c.q.chunk
  M : 0 < c.M
  N : 0 < c.N
  poison : c.poison = []
  bucketK : c.bucketK = 128
  tiles : c.tiles = [{}]

section
variable {c : MatCtx} (h : c.OneChunk)
include h

theorem MatCtx.OneChunk.is24 : c.q.is24 = false := by simp [Prof.is24, h.sp]
theorem MatCtx.OneChunk.actMap : c.q.actMap = false := by simp [Prof.actMap, h.sp]
theorem MatCtx.OneChunk.wgtMap : c.q.wgtMap = false := by simp [Prof.wgtMap, h.sp]
theorem MatCtx.OneChunk.whole : c.q.whole = false := by simp [Prof.whole, h.fn]
theorem MatCtx.OneChunk.kUnit : c.q.kUnit = 128 := by simp [Prof.kUnit, h.is24]
theorem MatCtx.OneChunk.K_le : c.K ≤ 128 := by
  have hK := h.K.2
  simp only [Prof.chunk, h.is24, h.whole, Bool.false_and, Bool.false_eq_true, if_false] at hK
  exact hK.trans h.chunkLen
theorem MatCtx.OneChunk.kValid : c.kValid {} = c.K := by
  have hK := h.K_le
  simp only [MatCtx.kValid, h.kUnit]
  omega

theorem MatCtx.OneChunk.tileNo : c.tileNo {} = 0 := by simp [MatCtx.tileNo, h.tiles]

/-- Without occupancy bitmaps a visit runs dense (R139). -/
theorem MatCtx.OneChunk.load_sparse (vno : Nat) : (c.load {} vno).sparse = false := by
  simp [MatCtx.load, MatCtx.sparse, h.actMap, h.wgtMap]

theorem MatCtx.OneChunk.load_kv (vno : Nat) : (c.load {} vno).kv = c.K := h.kValid

/-- The visit is one chunk of all its elements (R60). -/
theorem MatCtx.OneChunk.segs_load (vno : Nat) : c.segs (c.load {} vno) = [(0, 0, c.K)] := by
  obtain ⟨hpos, hle⟩ := h.K
  have hone : ceilDiv c.K c.q.chunk = 1 := by
    rw [ceilDiv, if_neg (by omega)]
    exact Nat.div_eq_of_lt_le (by omega) (by omega)
  simp [MatCtx.segs, h.load_kv, hone, hle]

/-- Nothing is poisoned and no metadata is read: the fill meets no fault (R145, R401). -/
theorem MatCtx.OneChunk.segFault_none (s : State) (slot vno lo hi : Nat) :
    c.segFault s {} slot (c.load {} vno) lo hi = none := by
  simp [MatCtx.segFault, MatCtx.poisonOf, h.poison, MatCtx.metaBad, h.sp, h.load_sparse]

theorem MatCtx.OneChunk.actRow_lt (r : Nat) : ∀ x ∈ c.actRow {} r, x < 2 ^ c.q.a' := by
  intro x hx
  unfold MatCtx.actRow at hx
  split at hx
  · obtain ⟨code, hc, rfl⟩ := List.mem_map.mp hx
    exact Prof.actOperand_lt _ (MatCtx.codes_lt _ _ _ _ code (by simpa [MatCtx.vector, h.sp] using hc))
  · simp at hx

theorem MatCtx.OneChunk.wgtCol_lt (n : Nat) : ∀ x ∈ c.wgtCol {} n, x < 2 ^ c.q.w := by
  intro x hx
  unfold MatCtx.wgtCol at hx
  split at hx
  · exact MatCtx.codes_lt _ _ _ _ x (by simpa [MatCtx.vector, h.sp] using hx)
  · simp at hx

theorem MatCtx.OneChunk.actRow_length (r : Nat) : (c.actRow {} r).length ≤ 128 := by
  unfold MatCtx.actRow
  split
  · simpa [MatCtx.vector, h.sp, MatCtx.codes, h.kValid] using h.K_le
  · simp

theorem MatCtx.OneChunk.wgtCol_length (n : Nat) : (c.wgtCol {} n).length ≤ 128 := by
  unfold MatCtx.wgtCol
  split
  · simpa [MatCtx.vector, h.sp, MatCtx.codes, h.kValid] using h.K_le
  · simp

end

/-! ### The chunk (R136, R63) -/

theorem getD_map_range {α : Type} (f : Nat → α) (d : α) {n i : Nat} (hi : i < n) : ((List.range n).map f).getD i d = f i := by
  simp [List.getD, hi]

/-- A plane that is dry in every row or column is dry in each. -/
theorem planeDry_getD {vs : List (List Nat)} {m n i r : Nat} (hlen : vs.length = n) (hr : r < n)
    (h : planeDry vs (List.replicate n m) i = true) : (vs.getD r []).getD i 0 &&& m = 0 := by
  have hmem : (vs.getD r [], m) ∈ vs.zip (List.replicate n m) := by
    rw [List.mem_iff_getElem?]
    exact ⟨r, by simp [List.getD, hlen, hr]⟩
  simpa using List.all_eq_true.mp h _ hmem

/-- In a dense visit every row and column is fed every valid lane, so a dry pair has no 1 there (R136). -/
theorem MatCtx.dry_dense (c : MatCtx) (v : Visit) (lo hi : Nat) {A W : List (List Nat)} (hA : A.length = 16)
    (hW : W.length = 16) {r n : Nat} (hr : r < 16) (hn : n < 16) (i j : Nat) (h : c.dry v false lo hi A W i j = true) :
    (A.getD r []).getD i 0 &&& laneMask lo hi = 0 ∨ (W.getD n []).getD j 0 &&& laneMask lo hi = 0 := by
  have hfed : c.fed v false lo hi = List.replicate 16 (laneMask lo hi) := rfl
  have hor : (List.replicate 16 (laneMask lo hi)).foldl (fun m x => m ||| x) 0 = laneMask lo hi := by
    simp [List.replicate]
  unfold MatCtx.dry at h
  split at h
  · simp [noDry] at h
  · simp only [hfed, hor, dryOf, Bool.and_eq_true, Bool.or_eq_true] at h
    exact h.2.imp (planeDry_getD hA hr) (planeDry_getD hW hn)

/-- The dot product of a row of activations and a column of weights over the reduction extent. -/
def MatCtx.dot (c : MatCtx) (r n : Nat) : Int :=
  ((List.range c.K).map (fun e =>
    (if c.q.aNeg then signed c.q.a' ((c.actRow {} r).getD e 0) else ((c.actRow {} r).getD e 0 : Int)) *
    (if c.q.wSigned then signed c.q.w ((c.wgtCol {} n).getD e 0) else ((c.wgtCol {} n).getD e 0 : Int)))).sum

/-- The chunk register of a cell is the dot product of its row and its column, by `chunkIsDotProduct`. -/
theorem MatCtx.OneChunk.chunkVals_eq {c : MatCtx} (h : c.OneChunk) (vno : Nat) (free : Nat → Nat) {i : Nat} (hi : i < 256) :
    chunkVals c.q free ((c.load {} vno).A.getD (i / 16) []) ((c.load {} vno).W.getD (i % 16) []) c.q.kUnit (laneMask 0 c.K)
      (c.K - 0) (c.dry {} (c.load {} vno).sparse 0 c.K (c.load {} vno).A (c.load {} vno).W) =
      [(1, c.dot (i / 16) (i % 16))] := by
  have hdot := chunkIsDotProduct
  unfold Obligations.ChunkIsDotProduct at hdot
  have hA : (c.load {} vno).A.getD (i / 16) [] = planes c.q.a' (c.actRow {} (i / 16)) := by
    simp only [MatCtx.load, List.map_map]
    exact getD_map_range _ _ (by omega)
  have hW : (c.load {} vno).W.getD (i % 16) [] = planes c.q.w (c.wgtCol {} (i % 16)) := by
    simp only [MatCtx.load, List.map_map]
    exact getD_map_range _ _ (by omega)
  have ha : 0 < c.q.a' := by have := h.a; unfold Prof.a'; split <;> omega
  have hdry (k m : Nat) (hd : c.dry {} (c.load {} vno).sparse 0 c.K (c.load {} vno).A (c.load {} vno).W k m = true) :
      (planes c.q.a' (c.actRow {} (i / 16))).getD k 0 &&& ((2 ^ c.K - 1) * 2 ^ 0) = 0 ∨
      (planes c.q.w (c.wgtCol {} (i % 16))).getD m 0 &&& ((2 ^ c.K - 1) * 2 ^ 0) = 0 := by
    rw [h.load_sparse] at hd
    rw [← hA, ← hW]
    exact c.dry_dense {} 0 c.K (by simp [MatCtx.load]) (by simp [MatCtx.load]) (by omega) (by omega) k m hd
  rw [hA, hW, h.kUnit, laneMask, Nat.sub_zero, MatCtx.dot]
  have hsum := hdot c.q free (c.actRow {} (i / 16)) (c.wgtCol {} (i % 16)) 128 0 c.K _ h.fn h.split h.trunc h.shal hdry
    (by have := h.K_le; omega) (h.actRow_length _) (h.wgtCol_length _) (h.actRow_lt _) (h.wgtCol_lt _) ha h.w
  simpa only [Nat.zero_add] using hsum

/-! ### The visit -/

@[simp] theorem MatCtx.init_fresh (c : MatCtx) (slot : Nat) (x : MatRun) : (c.init slot x).fresh = false := by
  unfold MatCtx.init; split <;> simp_all
@[simp] theorem MatCtx.init_fault (c : MatCtx) (slot : Nat) (x : MatRun) : (c.init slot x).fault = x.fault := by
  unfold MatCtx.init; split <;> rfl
theorem MatCtx.init_done (c : MatCtx) (slot : Nat) (x : MatRun) (h : x.fresh = false) : c.init slot x = x := by
  simp [MatCtx.init, h]

@[simp] theorem MatRun.clock_pool (x : MatRun) (q : Prof) (own : Bool) (a b : Nat) : (x.clock q own a b).1.pool = x.pool := by
  cases own <;> rfl
@[simp] theorem MatRun.clock_fault (x : MatRun) (q : Prof) (own : Bool) (a b : Nat) : (x.clock q own a b).1.fault = x.fault := by
  cases own <;> rfl
@[simp] theorem MatRun.clock_fresh (x : MatRun) (q : Prof) (own : Bool) (a b : Nat) : (x.clock q own a b).1.fresh = x.fresh := by
  cases own <;> rfl

/-- What the first chunk of an output is added to: what stands there, or 0 where the MATB initialises (R68, R172). -/
def MatCtx.before (c : MatCtx) (pool : SMap PoolEntry) (i : Nat) : Int × Bool :=
  if c.acc then poolGet pool false c.slot i else (0, false)

section
variable {c : MatCtx} (h : c.OneChunk)
include h

/-- An initialising MATB clears its slot before its first promotion. -/
theorem MatCtx.OneChunk.poolGet_init {x : MatRun} (hfresh : x.fresh = !c.acc) (hs : SMap.sorted x.pool = true) :
    SMap.sorted (c.init c.slot x).pool = true ∧
      ∀ i < 256, poolGet (c.init c.slot x).pool false c.slot i = c.before x.pool i := by
  have hempty : c.emptyValue = 0 := by simp [MatCtx.emptyValue, h.fn]
  cases hacc : c.acc
  · have hf : x.fresh = true := by simp [hfresh, hacc]
    obtain ⟨hsort, hget⟩ := poolGet_fillSlot (paired := false) c.slot (v := 0) hs (by unfold InGuard; decide)
    simp only [MatCtx.init, hf, if_true, h.paired, hempty, MatCtx.before, hacc]
    exact ⟨hsort, hget⟩
  · rw [MatCtx.init_done _ _ _ (by simp [hfresh, hacc])]
    exact ⟨hs, fun i _ => by simp [MatCtx.before, hacc]⟩

/-- The chunk adds to each output of the slot its promoted dot product, under the guard (R63, R70). -/
theorem MatCtx.OneChunk.poolGet_chunk {x : MatRun} (vno : Nat) (hfresh : x.fresh = !c.acc) (hs : SMap.sorted x.pool = true) :
    ∀ i < 256, poolGet (c.chunk {} c.slot 0 0 c.K (c.load {} vno).A (c.load {} vno).W
        (c.dry {} (c.load {} vno).sparse 0 c.K (c.load {} vno).A (c.load {} vno).W) x).pool false c.slot i =
      (guardAdd false (c.before x.pool i) (promote c.q.frac none 1 (c.dot (i / 16) (i % 16)))).1 := by
  obtain ⟨hsort, hget⟩ := h.poolGet_init (x := x.before) hfresh hs
  intro i hi
  unfold MatCtx.chunk
  simp only [h.dziro, h.split, h.gs, h.paired, Bool.false_eq_true, if_false, List.range_one, List.foldl_cons, List.foldl_nil]
  rw [poolGet_poolAdd _ _ _ _ hsort i hi, hget i hi, getD_map_range _ _ hi, h.chunkVals_eq vno _ hi]
  rfl

theorem MatCtx.OneChunk.chunk_keeps {x : MatRun} (ch lo hi : Nat) (A W : List (List Nat)) (dry : Dry) :
    (c.chunk {} c.slot ch lo hi A W dry x).fault = x.fault ∧ (c.chunk {} c.slot ch lo hi A W dry x).fresh = false := by
  simp [MatCtx.chunk, h.dziro, MatRun.before]

/-- The one visit is its chunk: it begins with the pool as it stands, meets no fault, and its end changes no output. -/
theorem MatCtx.OneChunk.visit_eq (s : State) {x : MatRun} (hx : x.fault = none) (hs : SMap.sorted x.pool = true) :
    (c.visit s x {}).fault = none ∧ ∀ i < 256, poolGet (c.visit s x {}).pool false c.slot i =
      (guardAdd false (c.before x.pool i) (promote c.q.frac none 1 (c.dot (i / 16) (i % 16)))).1 := by
  obtain ⟨y, hy⟩ : ∃ y, y = c.begin c.slot true x := ⟨_, rfl⟩
  have hyf : y.fault = none ∧ y.fresh = (!c.acc) ∧ y.pool = x.pool := by rw [hy]; exact ⟨hx, rfl, rfl⟩
  obtain ⟨hfault, hfresh, hpool⟩ := hyf
  have hget := h.poolGet_chunk y.vno hfresh (hpool ▸ hs)
  obtain ⟨hcf, hcr⟩ := h.chunk_keeps (x := y) 0 0 c.K (c.load {} y.vno).A (c.load {} y.vno).W
    (c.dry {} (c.load {} y.vno).sparse 0 c.K (c.load {} y.vno).A (c.load {} y.vno).W)
  rw [hpool] at hget
  have hchunks : ∃ z, c.chunks s {} c.slot (c.load {} y.vno) y = z ∧ z.fault = none ∧ z.fresh = false ∧
      z.pool = (c.chunk {} c.slot 0 0 c.K (c.load {} y.vno).A (c.load {} y.vno).W
        (c.dry {} (c.load {} y.vno).sparse 0 c.K (c.load {} y.vno).A (c.load {} y.vno).W) y).pool := by
    refine ⟨_, rfl, ?_⟩
    simp only [MatCtx.chunks, h.segs_load, List.foldl_cons, List.foldl_nil, hfault, Option.isSome_none, Bool.false_eq_true,
      if_false, h.segFault_none, MatRun.clock_fault, MatRun.clock_fresh, MatRun.clock_pool, hcf]
    exact ⟨trivial, hcr, trivial⟩
  obtain ⟨z, hz, hzf, hzr, hzp⟩ := hchunks
  have hfin : c.finish c.slot true {} z = z := by
    simp [MatCtx.finish, h.whole, h.dziro, MatCtx.init_done _ _ _ hzr]
  have hvisit : c.visit s x {} = { z with vno := z.vno + 1 } := by
    simp [MatCtx.visit, hx, h.tileNo, h.M, h.N, h.K.1, h.whole, h.bucketK, h.kUnit, ← hy, hz, hzf, hfin]
  rw [hvisit]
  exact ⟨hzf, fun i hi => by rw [← hget i hi, ← hzp]⟩

end

/-! ### The obligation -/

/-- What a MATB works with is what it took at issue. -/
theorem matCtx_entering {s e : State} {p l : Nat} {pl : Plan} (h : Entering s e p l pl) (j : Job) :
    matCtx e p l j = matCtx s p l j := by
  obtain ⟨_, _, _, _, hr⟩ := h.reach
  simp [matCtx, Reach.spBase, hr, h.free]

theorem oneChunk_matCtx (s : State) (p l : Nat) (j : Job) (hw : walked j.trv = []) (hfn : (prof j.prof).fn = 0)
    (hsp : (prof j.prof).sp = 0) (hgs : (prof j.prof).gs = false) (hsplit : (prof j.prof).split = false)
    (hdziro : (prof j.prof).dziro = false) (hpaired : (prof j.prof).paired = false) (htrunc : (prof j.prof).trunc = 0)
    (hshal : (prof j.prof).shal = 0) (ha : 0 < (prof j.prof).a) (hwd : 0 < (prof j.prof).w)
    (hK : 0 < (matCtx s p l j).K ∧ (matCtx s p l j).K ≤ (prof j.prof).chunk) (hM : 0 < (matCtx s p l j).M)
    (hN : 0 < (matCtx s p l j).N) (hpoison : (s.reach p l).spPoison = []) : (matCtx s p l j).OneChunk where
  fn := hfn
  sp := hsp
  gs := hgs
  split := hsplit
  dziro := hdziro
  paired := hpaired
  trunc := htrunc
  shal := hshal
  a := ha
  w := hwd
  chunkLen := prof_chunkLen_le _
  K := hK
  M := hM
  N := hN
  poison := hpoison
  bucketK := by simp [matCtx, hw, bucket, dimCount, matUnits, Units.of, Prof.kUnit, Prof.is24, hsp]
  tiles := by simp [matCtx, hw, tilesOf, visits]

theorem reach_updFlight_free (s : State) (p l n no : Nat) (f : Flight → Flight) :
    (updFlight { s with free := n } p l no f).reach p l =
      { s.reach p l with flights := (s.reach p l).flights.map (fun x => if x.no == no then f x else x) } :=
  State.updReach_reach_same ..

/-- A run without a fault leaves its pool, and posts and poisons nothing. -/
theorem runMatb_sound (p l : Nat) (s : State) (j : Job) (no : Nat) (h : (matRun s p l j no).fault = none) :
    ((runMatb p l s j no).reach p l).pool = (matRun s p l j no).pool ∧ QuietRun s (runMatb p l s j no) p l := by
  have hposted : (runMatb p l s j no).posted = s.posted := by
    simp only [runMatb, h]
    exact (updFlight_posted ..).trans (by simp)
  refine ⟨?_, ?_, fun w hw => .inl (hposted ▸ hw), ?_, fun hf => ?_⟩ <;> simp only [runMatb, h, reach_updFlight_free]
  · simp
  · simp
  · simp
  · simpa using hf

/-- Settles O20. The nest is one visit of one chunk (`oneChunk_matCtx`), whose cells hold the dot products (`chunkVals_eq`,
by the obligation on the chunk), and each is promoted into its output once (`visit_eq`). -/
theorem matbMultiplies : Obligations.MatbMultiplies := by
  unfold Obligations.MatbMultiplies
  intro p l s j q c hj hop hI hq hc hwalk hfn hsp hgs hsplit hdziro hpaired htrunc hshal ha hw hK0 hK hM hN hpoison hsort
  subst hq hc hj
  have hone := oneChunk_matCtx s p l _ hwalk hfn hsp hgs hsplit hdziro hpaired htrunc hshal ha hw ⟨hK0, hK⟩ hM hN hpoison
  have hexec : exec (.matb p l .none) s = .next (issueUnit s p l (fun w => wOp w == 0) (matPlan s p l) (runMatb p l)) := by
    have hplant : (if canIssue s p l && wOp (headJob s p l).word == 0 then plantIn s (.sp p l) 0 Config.spSize .none else s) = s :=
      ite_self s
    exact congrArg (fun x => Host.Outcome.next (issueUnit x p l (fun w => wOp w == 0) (matPlan x p l) (runMatb p l))) hplant
  obtain ⟨e, he, hissue⟩ := exec_atMostStops hexec (by simp [hop]) hI
  have hrun : ∃ x : MatRun, x.fault = none ∧ x.pool = (s.reach p l).pool ∧
      matRun e p l (headJob s p l) ((s.reach p l).task.issueNo + 1) = (matCtx s p l (headJob s p l)).visit e x {} := by
    simp only [matRun, matCtx_entering he, hwalk, visits, List.foldl_cons, List.foldl_nil, he.pool]
    exact ⟨_, rfl, rfl, rfl⟩
  obtain ⟨x, hxf, hxp, hrun⟩ := hrun
  obtain ⟨hfault, hvalue⟩ := hone.visit_eq e hxf (by rw [hxp]; exact hsort)
  rw [← hrun] at hfault hvalue
  obtain ⟨hpool, hquiet⟩ := runMatb_sound p l e _ _ hfault
  obtain ⟨t, ht, hstop⟩ := hissue _ rfl hquiet
  refine ⟨t, ht, fun i hi => ?_⟩
  rw [hstop.pool, hpool, hvalue i hi, MatCtx.before, hxp]
  rfl

end Sys2Proof.Machine
end

section
/-!
Cascades (03 R79 to R82, 06 R180, 11 R325): what a CASC does at issue, a hop, a broken chain, and what arrives over a river
link; the obligation on them.
-/

namespace Sys2Proof.Machine

/-! ### Issue -/

theorem AtMostStops.reaches_mem_time {s u t : State} {p l : Nat} (h : AtMostStops u t p l)
    (hr : ∀ q m, ¬ (q = p ∧ m = l) → u.reach q m = s.reach q m) (hm : SameMemory s u) (ht : SameTime s u) :
    OtherReaches s t p l ∧ SameMemory s t ∧ SameTime s t := by
  exact ⟨fun q m hqm => (otherReaches_of_around h.around q m hqm).trans (hr q m hqm),
    fun k a => (sameMemory_of_around h.around k a).trans (hm k a), ht.trans (sameTime_of_around h.around)⟩

/-- A count of a cluster leaves the reaches, the memories, the sums and the time. -/
theorem bumpCcnt_keeps (s : State) (p c k n : Nat) :
    (∀ q m, (bumpCcnt s p c k n).reach q m = s.reach q m) ∧ (∀ q, ((bumpCcnt s p c k n).parcel q).sums = (s.parcel q).sums) ∧
    (bumpCcnt s p c k n).posted = s.posted ∧ SameMemory s (bumpCcnt s p c k n) ∧ SameTime s (bumpCcnt s p c k n) := by
  unfold bumpCcnt
  split
  · exact ⟨fun _ _ => rfl, fun _ => rfl, rfl, fun _ _ => rfl, rfl, rfl, rfl, rfl, rfl⟩
  · refine ⟨fun q m => by simp, fun q => by simp, rfl, sameMemory_of_cells (cells_congr (fun q => by simp)
      (fun q d => ?_) (fun q m => by simp)), rfl, rfl, rfl, rfl, rfl⟩
    rw [State.updCluster_cluster]
    split
    · next h => obtain ⟨rfl, rfl⟩ := h; rfl
    · rfl

/-- The sum that a reach hands to the next one of its chain. -/
def nextSum (l : Nat) (j : Job) (hop : Nat) (vals : List (Int × Bool)) : CascadeSum :=
  { dest := l + 1, first := caFirst j, last := caLast j, tag := BitVec.ofNat 16 (caTag j), paired := caPaired j, hop := hop
    vals := vals }

@[simp] theorem addSum_sums (s : State) (p : Nat) (x : CascadeSum) :
    ((addSum s p x).parcel p).sums = (s.parcel p).sums ++ [x] := by simp [addSum]

/-- The first reach of a chain without a predecessor: its entries go to the next reach (R79, R80). -/
theorem passSum_next (s : State) (p l no : Nat) (j : Job) (vals : List (Int × Bool)) (hop : Nat) (hl : l ≠ caLast j) :
    ∃ u, passSum s p l no j vals hop = u ∧ (∀ q m, u.reach q m = s.reach q m) ∧ u.posted = s.posted ∧
      (u.parcel p).sums = (s.parcel p).sums ++ [nextSum l j hop vals] ∧ SameMemory s u ∧ SameTime s u := by
  obtain ⟨a, ha⟩ : ∃ a, a = addSum s p (nextSum l j hop vals) := ⟨_, rfl⟩
  have hpass : passSum s p l no j vals hop = if clusterOf (l + 1) = clusterOf l then bumpCcnt a p (clusterOf l) 9 1 else a := by
    rw [passSum, if_pos hl, ha]
    rfl
  have hw : world a = world s := by rw [ha, world_addSum]
  have hsums : (a.parcel p).sums = (s.parcel p).sums ++ [nextSum l j hop vals] := by rw [ha, addSum_sums]
  have hap : a.posted = s.posted := by rw [ha]; rfl
  refine ⟨_, rfl, ?_⟩
  rw [hpass]
  obtain ⟨hr, hs, hp, hm, ht⟩ := bumpCcnt_keeps a p (clusterOf l) 9 1
  split
  · exact ⟨fun q m => (hr q m).trans (reach_of_world hw q m), hp.trans hap, (hs p).trans hsums,
      fun k n => (hm k n).trans (sameMemory_of_world hw k n), (sameTime_of_world hw).trans ht⟩
  · exact ⟨reach_of_world hw, hap, hsums, sameMemory_of_world hw, sameTime_of_world hw⟩

/-- A CASC that waits for its predecessor only changes what it waits for, and the link that it asks over (R80, R325). -/
theorem runCasc_waits (s : State) (p l : Nat) (j : Job) (no : Nat) (h : ¬ (l = caFirst j ∧ caIn j = 0)) :
    ∃ u, runCasc p l s j no = u ∧ u.reach p l = (updFlight s p l no (fun f => { f with wait := .cascadeIn })).reach p l ∧
      (world u).around p l = (world s).around p l ∧ u.posted = s.posted ∧ (u.parcel p).sums = (s.parcel p).sums ∧
      ∀ q, l = caFirst j → riverCode (caIn j) = true → portOfCode (caIn j) = some q →
        (u.link p q).ctl = (s.link p q).ctl ++ [.ready (BitVec.ofNat 16 (caTag j))] := by
  refine ⟨_, rfl, ?_⟩
  have hwait : (world (updFlight s p l no (fun f => { f with wait := .cascadeIn }))).around p l = (world s).around p l := by simp
  have hsums : ((updFlight s p l no (fun f => { f with wait := .cascadeIn })).parcel p).sums = (s.parcel p).sums :=
    State.updReach_parcel_sums ..
  have hlink (q : Port) : (updFlight s p l no (fun f => { f with wait := .cascadeIn })).link p q = s.link p q :=
    State.updReach_link ..
  simp only [runCasc, if_neg h]
  split
  · split
    · next q hq =>
      refine ⟨by simp, (around_of_world (world_updLink ..)).trans hwait, by simp, by simpa using hsums, fun q' _ _ hq' => ?_⟩
      obtain rfl : q = q' := Option.some.inj (hq.symm.trans hq')
      simp [hlink]
    · next hq => exact ⟨rfl, hwait, by simp, hsums, fun q' _ _ hq' => by simp [hq] at hq'⟩
  · next hr => exact ⟨rfl, hwait, by simp, hsums, fun q' hl hriver _ => absurd ⟨hl, hriver⟩ hr⟩

/-- The issue of a CASC (R80, R180, R325). -/
theorem casc_issue (p : ParcelId) (l : ReachId) (s : State) (j : Job) (hj : j = headJob s p l) (hop : wOp j.word = 7)
    (hI : Issues s p l (cascPlan l j)) :
    (l.val = caFirst j → caIn j = 0 → l.val ≠ caLast j → Gives (.casc p l) s (fun t =>
      Entered s t p l .cascadePort 0 .none ∧
      (t.parcel p).sums = (s.parcel p).sums ++ [nextSum l j 0 (slotVals (s.reach p l) (caPaired j) (caSlot j))] ∧
      (t.reach p l).pool = (s.reach p l).pool ∧ OtherReaches s t p l ∧ SameMemory s t ∧ SameTime s t)) ∧
    (¬ (l.val = caFirst j ∧ caIn j = 0) → Gives (.casc p l) s (fun t =>
      Entered s t p l .cascadePort 0 .cascadeIn ∧
      (∀ q, l.val = caFirst j → riverCode (caIn j) = true → portOfCode (caIn j) = some q →
        (t.link p q).ctl = (s.link p q).ctl ++ [.ready (BitVec.ofNat 16 (caTag j))]) ∧
      (t.parcel p).sums = (s.parcel p).sums ∧ (t.reach p l).pool = (s.reach p l).pool ∧ OtherReaches s t p l ∧
      SameClusters s t ∧ SameMemory s t ∧ SameTime s t)) := by
  subst hj
  obtain ⟨e, he, hissue⟩ := exec_atMostStops (i := .casc p l) (sel := fun w => wOp w == 7) (run := runCasc p l) rfl
    (by simp [hop]) hI
  have hsums : (e.parcel p).sums = (s.parcel p).sums := by rw [he.parcel p]
  constructor
  · intro hfirst hin hlast
    obtain ⟨u, hu, hr, hp, hs, hm, ht⟩ := passSum_next e p l ((s.reach p l).task.issueNo + 1) (headJob s p l)
      (slotVals (e.reach p l) (caPaired (headJob s p l)) (caSlot (headJob s p l))) 0 hlast
    have hrun : u = runCasc p l e (headJob s p l) ((s.reach p l).task.issueNo + 1) := by
      rw [runCasc, if_pos ⟨hfirst, hin⟩, hu]
    obtain ⟨t, hexec, hstop⟩ := hissue u hrun ⟨by rw [hr], fun w hw => .inl (hp ▸ hw), by rw [hr], by rw [hr]; exact id⟩
    have hvals : slotVals (e.reach p l) = slotVals (s.reach p l) := by unfold slotVals; rw [he.pool]
    exact ⟨t, hexec, hstop.entered (he.entered.of_reach (hr p l)), by rw [hstop.sums, hs, hsums, hvals],
      by rw [hstop.pool, hr, he.pool],
      hstop.reaches_mem_time (fun q m hqm => (hr q m).trans (otherReaches_of_around he.around q m hqm))
        (fun k a => (hm k a).trans (sameMemory_of_around he.around k a)) ((sameTime_of_around he.around).trans ht)⟩
  · intro hwaits
    obtain ⟨u, hu, hr, ha, hp, hs, hctl⟩ := runCasc_waits e p l (headJob s p l) ((s.reach p l).task.issueNo + 1) hwaits
    obtain ⟨t, hexec, hstop⟩ := hissue u hu.symm ⟨by rw [hr]; simp [updFlight], fun w hw => .inl (hp ▸ hw),
      by rw [hr]; simp [updFlight], by rw [hr]; simp [updFlight]⟩
    have haround := (hstop.around.trans ha).trans he.around
    refine ⟨t, hexec, hstop.entered ((he.entered.updFlight (f := fun f => { f with wait := .cascadeIn }) (fun _ => ⟨rfl, rfl, rfl⟩) (fun _ hst _ => ⟨hst, rfl⟩)).of_reach hr),
      fun q hfirst hriver hq => ?_, by rw [hstop.sums, hs, hsums], by rw [hstop.pool, hr]; simp [updFlight, he.pool],
      otherReaches_of_around haround, sameClusters_of_around haround, sameMemory_of_around haround, sameTime_of_around haround⟩
    have hlink : e.link p q = s.link p q := by rw [State.link, he.parcel p, State.link]
    rw [hstop.link, hctl q hfirst hriver hq, hlink]

/-! ### A hop -/

theorem inGuard_zero (paired : Bool) : InGuard paired 0 := by
  cases paired <;> simp [InGuard, guardLo, guardHi, guardBits]

theorem inGuard_hopEntry {paired : Bool} {arr own : Int × Bool} (ha : InGuard paired arr.1) (ho : InGuard paired own.1) :
    InGuard paired (hopEntry paired arr own).1.1 := by
  unfold hopEntry
  split
  · exact ha
  · split
    · exact ho
    · exact inGuard_clamp ..

/-- The pool after the values `vals` have been set in a slot. -/
def setSlot (pool : SMap PoolEntry) (paired : Bool) (slot : Nat) (vals : List (Int × Bool)) : SMap PoolEntry :=
  (vals.mapIdx (fun i v => (i, v))).foldl (fun m iv => poolSet m paired slot iv.1 iv.2.1 iv.2.2) pool

theorem setSlot_eq_foldl (pool : SMap PoolEntry) (paired : Bool) (slot : Nat) (vals : List (Int × Bool)) :
    setSlot pool paired slot vals = (List.range vals.length).foldl
      (fun m i => poolSet m paired slot i (vals.getD i (0, false)).1 (vals.getD i (0, false)).2) pool := by
  have hidx : vals.mapIdx (fun i v => (i, v)) = (List.range vals.length).map (fun i => (i, vals.getD i (0, false))) :=
    List.ext_getElem (by simp) (fun i hi _ => by simp at hi; simp [List.getD, hi])
  rw [setSlot, hidx, List.foldl_map]

theorem poolGet_setSlot {pool : SMap PoolEntry} {paired : Bool} (slot : Nat) {vals : List (Int × Bool)}
    (h : SMap.sorted pool = true) (hv : ∀ v ∈ vals, InGuard paired v.1) {i : Nat} (hi : i < vals.length) :
    poolGet (setSlot pool paired slot vals) paired slot i = vals.getD i (0, false) := by
  have hguard (k : Nat) : InGuard paired (vals.getD k (0, false)).1 := by
    rcases lt_or_ge k vals.length with hk | hk
    · simpa [List.getD, hk] using hv _ (List.getElem_mem hk)
    · simpa [List.getD, hk] using inGuard_zero paired
  rw [setSlot_eq_foldl]
  obtain ⟨_, hg⟩ := poolGet_foldl id paired slot
    (fun m i => poolSet m paired slot i (vals.getD i (0, false)).1 (vals.getD i (0, false)).2)
    (fun i _ => vals.getD i (0, false)) (fun m i hm => sorted_poolSet paired slot i _ _ hm)
    (fun m i k hm => by
      refine (poolGet_poolSet slot i k _ hm (hguard i)).trans ?_
      split
      · next hk => rw [hk]
      · rfl)
    (List.range vals.length) List.nodup_range pool h
  exact (hg i).trans (if_pos (List.mem_range.mpr hi))

theorem find_setSlot_other {pool : SMap PoolEntry} (paired : Bool) (slot : Nat) (vals : List (Int × Bool)) {n : Nat}
    (h : SMap.sorted pool = true)
    (hn : ∀ i < vals.length, n ≠ entryNo paired slot i ∧ (paired = true → n ≠ entryNo paired slot i + 1)) :
    SMap.find (setSlot pool paired slot vals) n = SMap.find pool n := by
  rw [setSlot_eq_foldl]
  simp only [← List.mem_range] at hn
  generalize List.range vals.length = is at hn ⊢
  induction is generalizing pool with
  | nil => rfl
  | cons i is ih =>
    obtain ⟨hi, his⟩ := List.forall_mem_cons.mp hn
    rw [List.foldl_cons, ih (sorted_poolSet paired slot i _ _ h) his, find_poolSet_other paired slot i _ _ h hi.1 hi.2]

/-- What a hop forwards: entry by entry the arriving value and the own one. -/
theorem hopSum_getD {paired : Bool} (slot hop : Nat) {arr : List (Int × Bool)} (r : Reach) (hlen : arr.length = 256) :
    (hopSum paired slot hop arr (slotVals r paired slot)).1.length = 256 ∧
    ∀ i < 256, (hopSum paired slot hop arr (slotVals r paired slot)).1.getD i (0, false) =
      (hopEntry paired (arr.getD i (0, false)) (poolGet r.pool paired slot i)).1 := by
  refine ⟨by simp [hopSum, slotVals, hlen], fun i hi => ?_⟩
  simp [hopSum, slotVals, List.getD, hlen, hi]

theorem inGuard_hopSum {paired : Bool} (slot hop : Nat) {arr : List (Int × Bool)} (r : Reach)
    (h : ∀ v ∈ arr, InGuard paired v.1) : ∀ v ∈ (hopSum paired slot hop arr (slotVals r paired slot)).1, InGuard paired v.1 := by
  intro v hv
  simp only [hopSum, slotVals, List.mem_map] at hv
  obtain ⟨_, ⟨⟨a, o⟩, hmem, rfl⟩, rfl⟩ := hv
  obtain ⟨ha, ho⟩ := List.of_mem_zip hmem
  obtain ⟨i, _, rfl⟩ := List.mem_map.mp ho
  exact inGuard_hopEntry (h a ha) (inGuard_poolGet ..)

theorem passSum_slot (s : State) (p l no : Nat) (j : Job) (vals : List (Int × Bool)) (hop : Nat) (hl : l = caLast j)
    (ho : caOut j = 0) : passSum s p l no j vals hop = deliverSum s p l (caPaired j) (caSlot j) vals := by
  rw [passSum, if_neg (not_not.mpr hl), if_pos ho]

/-- The sums of a parcel once a waiting CASC has taken its own. -/
def takeSum (s : State) (p l : Nat) (j : Job) : State :=
  s.updParcel p (fun y => { y with sums := dropSum (fun x => sumFor s p l j x && !x.vals.isEmpty) y.sums })

/-- A hop whose arriving sum and slot are of the profile's mode (R80). -/
theorem cascadeHop_eq {s : State} {p l : Nat} {f : Flight} {x : CascadeSum} (hf : cascWaiting s p l = some f)
    (hx : (s.parcel p).sums.find? (fun y => sumFor s p l f.job y && !y.vals.isEmpty) = some x)
    (hpair : x.paired = caPaired f.job) (htag : tagDiffers (s.reach p l).paired x.paired (caSlot f.job) = false) :
    cascadeHop s p l = passSum (updFlight (updFlight (takeSum s p l f.job) p l f.no (fun f => { f with wait := .none }))
      p l f.no (fun g => { g with guard := (hopSum x.paired (caSlot f.job) (x.hop + 1) x.vals
        (slotVals (s.reach p l) x.paired (caSlot f.job))).2 })) p l f.no f.job
      (hopSum x.paired (caSlot f.job) (x.hop + 1) x.vals (slotVals (s.reach p l) x.paired (caSlot f.job))).1 (x.hop + 1) := by
  have hok : (x.paired != caPaired f.job || tagDiffers (s.reach p l).paired x.paired (caSlot f.job)) = false := by
    rw [htag, Bool.or_false, hpair, bne_self_eq_false]
  unfold cascadeHop
  simp only [hf, hx, hok]
  rfl

/-- The last reach of a chain that ends in its slot writes the sum there, and nothing else of its pool (R70, R80). -/
theorem cascadeHop_deliver (p : ParcelId) (l : ReachId) (s : State) (f : Flight) (j : Job) (x : CascadeSum)
    (hgate : s.datum.gated = none) (hf : cascWaiting s p l = some f) (hj : j = f.job) (hlast : l.val = caLast j)
    (hout : caOut j = 0) (hx : (s.parcel p).sums.find? (fun y => sumFor s p l j y && !y.vals.isEmpty) = some x)
    (hpair : x.paired = caPaired j) (htag : tagDiffers (s.reach p l).paired x.paired (caSlot j) = false)
    (hlen : x.vals.length = 256) (hv : ∀ v ∈ x.vals, guardLo x.paired ≤ v.1 ∧ v.1 ≤ guardHi x.paired)
    (hs : SMap.sorted (s.reach p l).pool = true) :
    Gives (.cascadeHop p l) s (fun t =>
      (∀ i < 256, poolGet (t.reach p l).pool x.paired (caSlot j) i =
        (hopEntry x.paired (x.vals.getD i (0, false)) (poolGet (s.reach p l).pool x.paired (caSlot j) i)).1) ∧
      (∀ n, (∀ i < 256, n ≠ entryNo x.paired (caSlot j) i ∧ (x.paired = true → n ≠ entryNo x.paired (caSlot j) i + 1)) →
        SMap.find (t.reach p l).pool n = SMap.find (s.reach p l).pool n) ∧
      (t.parcel p).sums = dropSum (fun y => sumFor s p l j y && !y.vals.isEmpty) (s.parcel p).sums ∧
      (t.reach p l).s = (s.reach p l).s ∧ (t.reach p l).task = (s.reach p l).task ∧
      (∀ g ∈ (t.reach p l).flights, g.no = f.no → g.wait = .none) ∧
      OtherReaches s t p l ∧ SameMemory s t ∧ t.book = s.book ∧ SameTime s t) := by
  subst hj
  obtain ⟨hvlen, hvget⟩ := hopSum_getD (paired := x.paired) (caSlot f.job) (x.hop + 1) (s.reach p l) hlen
  have hvg := inGuard_hopSum (paired := x.paired) (caSlot f.job) (x.hop + 1) (s.reach p l) hv
  obtain ⟨vals, hvals⟩ : ∃ y, y = (hopSum x.paired (caSlot f.job) (x.hop + 1) x.vals
    (slotVals (s.reach p l) x.paired (caSlot f.job))).1 := ⟨_, rfl⟩
  have hexec : exec (.cascadeHop p l) s = .next (cascadeHop s p l) :=
    congrArg Host.Outcome.next (if_neg (by simp [hgate]))
  rw [cascadeHop_eq hf hx hpair htag, passSum_slot _ _ _ _ _ _ _ hlast hout, ← hvals, ← hpair] at hexec
  rw [← hvals] at hvlen hvget hvg
  have hw : world (takeSum s p l f.job) = world s := by simp [takeSum]
  have hr (q m : Nat) : (takeSum s p l f.job).reach q m = s.reach q m := reach_of_world hw q m
  obtain ⟨u, hu⟩ : ∃ u, u = updFlight (updFlight (takeSum s p l f.job) p l f.no (fun f => { f with wait := .none })) p l f.no
    (fun g => { g with guard := (hopSum x.paired (caSlot f.job) (x.hop + 1) x.vals
      (slotVals (s.reach p l) x.paired (caSlot f.job))).2 }) := ⟨_, rfl⟩
  rw [← hu] at hexec
  have hur : u.reach p l = { s.reach p l with flights := (u.reach p l).flights } := by rw [hu]; simp [updFlight, hr]
  have hwait : ∀ g ∈ (u.reach p l).flights, g.no = f.no → g.wait = .none := by
    rw [hu]
    simp only [updFlight, State.updReach_reach_same, List.map_map, List.mem_map]
    rintro _ ⟨y, _, rfl⟩
    by_cases hy : y.no = f.no <;> simp [hy]
  have hdel : (deliverSum u p l x.paired (caSlot f.job) vals).reach p l = { u.reach p l with
      pool := setSlot (u.reach p l).pool x.paired (caSlot f.job) vals
      paired := setTag (u.reach p l).paired x.paired (caSlot f.job) } := State.updReach_reach_same ..
  have haround : (world (deliverSum u p l x.paired (caSlot f.job) vals)).around p l = (world s).around p l := by
    rw [deliverSum, around_updReach _ _ _ _ rfl, hu, around_updFlight, around_updFlight, hw]
  have hsums : ((deliverSum u p l x.paired (caSlot f.job) vals).parcel p).sums =
      dropSum (fun y => sumFor s p l f.job y && !y.vals.isEmpty) (s.parcel p).sums := by
    rw [deliverSum, State.updReach_parcel_sums, hu, updFlight, updFlight, State.updReach_parcel_sums,
      State.updReach_parcel_sums, takeSum, State.updParcel_parcel_same]
  have hpool : (u.reach p l).pool = (s.reach p l).pool := by rw [hur]
  refine ⟨_, hexec, fun i hi => ?_, fun n hn => ?_, hsums, by rw [hdel, hur], by rw [hdel, hur], by rw [hdel]; exact hwait,
    otherReaches_of_around haround, sameMemory_of_around haround, by rw [hu]; rfl, sameTime_of_around haround⟩
  · rw [hdel, hpool, poolGet_setSlot (caSlot f.job) hs hvg (by omega), hvget i hi]
  · rw [hdel, hpool]
    exact find_setSlot_other x.paired (caSlot f.job) vals hs (fun i hi => hn i (by omega))

/-! ### A broken chain -/

/-- The CASC ends with status broken; the mark goes on, and nothing else of the package changes (R82). -/
theorem breakCasc_keeps (s : State) (p l : Nat) (f : Flight) :
    (breakCasc s p l f).reach p l = (updFlight s p l f.no (fun g => { g with wait := .none, status := 1 })).reach p l ∧
    (world (breakCasc s p l f)).around p l = (world s).around p l ∧ (breakCasc s p l f).book = s.book := by
  have hw : (world (updFlight s p l f.no (fun g => { g with wait := .none, status := 1 }))).around p l = (world s).around p l :=
    around_updFlight ..
  unfold breakCasc
  dsimp only
  split
  · exact ⟨reach_of_world (world_addSum ..) p l, (around_of_world (world_addSum ..)).trans hw, rfl⟩
  · split
    · split
      · exact ⟨reach_of_world (world_addSum ..) p l, (around_of_world (world_addSum ..)).trans hw, rfl⟩
      · exact ⟨rfl, hw, rfl⟩
    · exact ⟨rfl, hw, rfl⟩

/-- What holds once the CASC `f` has ended broken. -/
theorem breakCasc_ends (s : State) {b : State} (p l : Nat) (f : Flight) (hb : world b = world s) :
    (∀ g ∈ ((breakCasc b p l f).reach p l).flights, g.no = f.no → g.status = 1 ∧ g.wait = .none) ∧
    ((breakCasc b p l f).reach p l).pool = (s.reach p l).pool ∧ ((breakCasc b p l f).reach p l).s = (s.reach p l).s ∧
    ((breakCasc b p l f).reach p l).task = (s.reach p l).task ∧ (breakCasc b p l f).book = b.book ∧
    OtherReaches s (breakCasc b p l f) p l ∧ SameMemory s (breakCasc b p l f) ∧ SameTime s (breakCasc b p l f) := by
  obtain ⟨hr, ha, hbook⟩ := breakCasc_keeps b p l f
  have haround := ha.trans (around_of_world hb)
  have hfl (g : Flight) (hg : g ∈ ((breakCasc b p l f).reach p l).flights) (hno : g.no = f.no) : g.status = 1 ∧ g.wait = .none := by
    rw [hr] at hg
    obtain ⟨_, _, _, rfl⟩ := mem_flights_updFlight hg hno
    exact ⟨rfl, rfl⟩
  refine ⟨hfl, ?_, ?_, ?_, hbook, otherReaches_of_around haround, sameMemory_of_around haround, sameTime_of_around haround⟩ <;>
    rw [hr, ← reach_of_world hb p l, updFlight, State.updReach_reach_same]

/-- The predecessor parcel of the waiting CASC is lost (R82). -/
theorem cascadeBroken_lost {s : State} {p l : Nat} {f : Flight} (hf : cascWaiting s p l = some f)
    (h : predecessorLost s p l f.job = true) :
    cascadeBroken s p l = breakCasc (raise s (srcReach p l) 0x5001 (linkDownPayload s p
      (if caIn f.job = 1 then .ringPlus else .ringMinus) 6
      (linkCode (s.link p (if caIn f.job = 1 then .ringPlus else .ringMinus)).state))) p l f := by
  simp only [cascadeBroken, hf, h, if_true]
  rfl

/-- Otherwise, and with no mark of a broken chain here, only a chain that comes over a river link can be broken. -/
theorem cascadeBroken_kept {s : State} {p l : Nat} {f : Flight} (hf : cascWaiting s p l = some f)
    (h : predecessorLost s p l f.job = false)
    (hs : (s.parcel p).sums.any (fun x => sumFor s p l f.job x && x.vals.isEmpty) = false) :
    cascadeBroken s p l = if l = caFirst f.job ∧ riverCode (caIn f.job) = true then breakCasc s p l f else s := by
  simp only [cascadeBroken, hf, h, hs, Bool.false_eq_true, if_false, Bool.and_eq_true, beq_iff_eq]

/-! ### Over a river link -/

/-- The first packet of a device is accepted; its generation is recorded (R307, R314, R320). -/
theorem acceptPacket_first {s : State} {p : Nat} {k : Packet} (hold : tooOld s k = false)
    (hver : k.pver.toNat ≤ (s.parcel p).fab.linkMax.toNat) (hgen : SMap.find (s.parcel p).fab.genRec k.src.toNat = none) :
    ∃ f : Fabric → Fabric, acceptPacket s p k = (s.updFab p f, true) ∧
      ∀ x, (f x).rows = x.rows ∧ (f x).rowAnswers = x.rowAnswers ∧ SMap.find (f x).genRec k.src.toNat = some k.gen := by
  simp only [acceptPacket, hold, if_neg (Nat.not_lt.mpr hver), hgen, Bool.false_eq_true, if_false, State.updFab,
    State.updParcel_updParcel]
  exact ⟨fun x => { x with inbox := dropInbox k x.inbox, genRec := SMap.put x.genRec k.src.toNat k.gen }, rfl,
    fun _ => ⟨rfl, rfl, SMap.find_put_same ..⟩⟩

theorem tileReach_congr {s t : State} (h : SameReaches s t) (p : Nat) (q : Port) (tag : Nat) :
    tileReach t p q tag = tileReach s p q tag := by
  have hw : cascWaiting t p = cascWaiting s p := funext fun l => by rw [cascWaiting, h p l, cascWaiting]
  unfold tileReach
  rw [hw]

/-- Settles O28. At issue `casc_issue`, by the two ways of `runCasc`; a hop into the slot `cascadeHop_deliver`; a broken chain
`breakCasc_ends`. -/
theorem cascadesSend : Obligations.CascadesSend := by
  unfold Obligations.CascadesSend
  refine ⟨fun p l s j hj hop hI => ?_, cascadeHop_deliver, fun p l s => ⟨?_, ?_, ?_, ?_, ?_, ?_⟩⟩
  · obtain ⟨hsends, hwaits⟩ := casc_issue p l s j hj hop hI
    refine ⟨hsends, fun h => ?_, fun q hfirst hriver hq => ?_⟩
    · obtain ⟨t, ht, hent, _, hrest⟩ := hwaits (by rintro ⟨h1, h2⟩; exact h.elim (fun h => h h1) (fun h => h.1 h2))
      exact ⟨t, ht, hent, hrest⟩
    · obtain ⟨t, ht, hent, hctl, hrest⟩ := hwaits (by rintro ⟨_, h0⟩; simp [h0, riverCode] at hriver)
      exact ⟨t, ht, hent, hctl q hfirst hriver hq, hrest⟩
  · intro f hf hlost
    exact ⟨_, congrArg Host.Outcome.next (cascadeBroken_lost hf hlost), breakCasc_ends s p l f (world_raise ..)⟩
  · intro f hf hlost hsums
    have hkept := cascadeBroken_kept hf hlost hsums
    refine ⟨fun h => ⟨_, congrArg Host.Outcome.next (hkept.trans (if_pos h)), breakCasc_ends s p l f rfl⟩, fun h => ?_⟩
    exact congrArg Host.Outcome.next (hkept.trans (if_neg h))
  · intro hf
    refine congrArg Host.Outcome.next ?_
    simp only [cascadeBroken, hf]
  · intro port k m f htype hold hver hgen htile
    obtain ⟨g, hacc, _⟩ := acceptPacket_first hold hver hgen
    have hw : world (s.updFab p g) = world s := world_updFab ..
    refine ⟨addSum (s.updFab p g) p { dest := m, first := caFirst f.job, last := caLast f.job, tag := k.tag
                                      paired := (tileVals k.body).1, hop := 0, vals := (tileVals k.body).2 },
      congrArg Host.Outcome.next ?_, by simp, sameReaches_of_world ((world_addSum ..).trans hw),
      sameMemory_of_world ((world_addSum ..).trans hw), rfl, sameTime_of_world ((world_addSum ..).trans hw)⟩
    rw [if_neg (not_not.mpr htype), hacc]
    simp only [tileReach_congr (sameReaches_of_world hw), htile]
  · intro port tag hup hriver hnone
    refine congrArg Host.Outcome.next ?_
    simp [hup, hriver, readyToken, hnone]
  · intro port tag hdown
    refine congrArg Host.Outcome.next ?_
    simp [hdown]

end Sys2Proof.Machine
end

section
/-!
Reads and writes of the stacked memory by the part itself, where nothing stands in their way: what they leave of the record
book, the regions and the adds that wait, and the bytes that are read after a write (R7, R348, R352).
-/

namespace Sys2Proof.Machine

/-! ### Bytes -/

theorem leBytes_length (n v : Nat) : (leBytes n v).length = n := by
  induction n generalizing v with
  | zero => rfl
  | succ n ih => simp [leBytes, ih]

theorem leVal_leBytes (n v : Nat) : leVal (leBytes n v) = v % 256 ^ n := by
  induction n generalizing v with
  | zero => simp [leBytes, leVal, Nat.mod_one]
  | succ n ih =>
    have hlow : (BitVec.ofNat 8 v).toNat = v % 256 := BitVec.toNat_ofNat ..
    rw [leBytes, leVal, ih, hlow, pow_succ', Nat.mod_mul]

theorem foldl_cellsOf (m : Mem) (a : Nat) (bs : List Byte) : (cellsOf a bs).foldl (fun m c => memSet m c.1 c.2) m = memWrite m a bs := by
  induction bs generalizing m a with
  | nil => rfl
  | cons b bs ih => exact ih ..

/-- A byte after a write of consecutive bytes. -/
theorem memByte_write {m : Mem} (a i : Nat) (bs : List Byte) (h : memWf m = true) :
    memByte (memWrite m a bs) i = if a ≤ i ∧ i < a + bs.length then bs.getD (i - a) 0 else memByte m i := by
  induction bs generalizing m a with
  | nil => rw [if_neg (by simp)]; rfl
  | cons b bs ih =>
    rw [memWrite, ih (a + 1) (memWf_set a b h), memByte_set a i b h, List.length_cons]
    rcases Nat.lt_trichotomy i a with hlt | rfl | hgt
    · rw [if_neg (by omega), if_neg (by omega), if_neg (by omega)]
    · rw [if_neg (by omega), if_pos rfl, if_pos (by omega), Nat.sub_self]; rfl
    · obtain ⟨d, rfl⟩ : ∃ d, i = a + 1 + d := ⟨i - a - 1, by omega⟩
      have h1 : a + 1 + d - (a + 1) = d := by omega
      have h2 : a + 1 + d - a = d + 1 := by omega
      rw [h1, h2, List.getD_cons_succ]
      by_cases hd : d < bs.length
      · rw [if_pos (by omega), if_pos (by omega)]
      · rw [if_neg (by omega), if_neg (by omega), if_neg (by omega)]

theorem memRead_getElem (m : Mem) (a n : Nat) {i : Nat} (hi : i < (memRead m a n).length) :
    (memRead m a n)[i] = memByte m (a + i) := by
  induction n generalizing a i with
  | zero => simp [memRead] at hi
  | succ n ih =>
    cases i with
    | zero => rfl
    | succ i =>
      simp only [memRead, List.getElem_cons_succ]
      rw [ih (a + 1) (by simpa [memRead] using hi), Nat.add_right_comm, Nat.add_assoc]

/-- What has been written is read back. -/
theorem memRead_write {m : Mem} (a : Nat) (bs : List Byte) (h : memWf m = true) : memRead (memWrite m a bs) a bs.length = bs := by
  refine List.ext_getElem (memRead_length ..) (fun i hi hb => ?_)
  rw [memRead_getElem, memByte_write _ _ _ h, if_pos (by omega), Nat.add_sub_cancel_left]
  simp [List.getD, hb]

/-! ### The book, the regions and what waits at the controllers -/

/-- The record book, and of each parcel what the adds of a confluence work with and the clock of its domain. -/
structure ConfView where
  book : Book
  region : Nat → SMap Word
  adds : Nat → List ConfAdd
  poison : Nat → List Nat
  pwr : Nat → Power

/-- That part of a state. -/
def confView (s : State) : ConfView :=
  { book := s.book, region := fun q => (s.parcel q).region, adds := fun q => (s.parcel q).adds
    poison := fun q => (s.parcel q).poison, pwr := fun q => (s.parcel q).pwr }

section
variable {s t : State}

theorem book_of_confView (h : confView t = confView s) : t.book = s.book := congrArg ConfView.book h
theorem region_of_confView (h : confView t = confView s) (q : Nat) : (t.parcel q).region = (s.parcel q).region :=
  congrFun (congrArg ConfView.region h) q
theorem adds_of_confView (h : confView t = confView s) (q : Nat) : (t.parcel q).adds = (s.parcel q).adds :=
  congrFun (congrArg ConfView.adds h) q
theorem poison_of_confView (h : confView t = confView s) (q : Nat) : (t.parcel q).poison = (s.parcel q).poison :=
  congrFun (congrArg ConfView.poison h) q

/-- The record that a state raises depends on its book, its datum and its clocks alone (R388, R390). -/
theorem raise_book_congr (hb : t.book = s.book) (hd : t.datum = s.datum) (hp : t.phase = s.phase)
    (hpwr : ∀ q, (t.parcel q).pwr = (s.parcel q).pwr) (src code : Nat) (b : List Byte) :
    (raise t src code b).book = (raise s src code b).book := by
  simp only [raise, State.offset, State.nc, State.nMax, hb, hd, hp, hpwr]

end

section
variable (s : State)

@[simp] theorem confView_updParcel (p : Nat) (f : Parcel → Parcel) (hr : (f (s.parcel p)).region = (s.parcel p).region)
    (ha : (f (s.parcel p)).adds = (s.parcel p).adds) (hp : (f (s.parcel p)).poison = (s.parcel p).poison)
    (hw : (f (s.parcel p)).pwr = (s.parcel p).pwr) : confView (s.updParcel p f) = confView s := by
  have hq (q : Nat) : ((s.updParcel p f).parcel q).region = (s.parcel q).region ∧
      ((s.updParcel p f).parcel q).adds = (s.parcel q).adds ∧ ((s.updParcel p f).parcel q).poison = (s.parcel q).poison ∧
      ((s.updParcel p f).parcel q).pwr = (s.parcel q).pwr := by
    rw [State.updParcel_parcel]
    split
    · next h => subst h; exact ⟨hr, ha, hp, hw⟩
    · exact ⟨rfl, rfl, rfl, rfl⟩
  simp only [confView, ConfView.mk.injEq]
  exact ⟨rfl, funext fun q => (hq q).1, funext fun q => (hq q).2.1, funext fun q => (hq q).2.2.1, funext fun q => (hq q).2.2.2⟩

@[simp] theorem confView_updReach (p l : Nat) (f : Reach → Reach) : confView (s.updReach p l f) = confView s :=
  confView_updParcel s p _ rfl rfl rfl rfl
@[simp] theorem confView_updMon (p : Nat) (f : Monitors → Monitors) : confView (s.updMon p f) = confView s :=
  confView_updParcel s p _ rfl rfl rfl rfl
@[simp] theorem confView_updFab (p : Nat) (f : Fabric → Fabric) : confView (s.updFab p f) = confView s :=
  confView_updParcel s p _ rfl rfl rfl rfl
@[simp] theorem confView_updPort (f : HostPort → HostPort) : confView (s.updPort f) = confView s := rfl
@[simp] theorem confView_mark (b : HwBit) : confView (s.mark b) = confView s := rfl
@[simp] theorem confView_upsets (us : List Upset) : confView { s with upsets := us } = confView s := rfl
@[simp] theorem confView_updFlight (p l no : Nat) (f : Flight → Flight) : confView (updFlight s p l no f) = confView s :=
  confView_updReach ..
@[simp] theorem confView_bumpPcnt (p k n : Nat) : confView (bumpPcnt s p k n) = confView s := by unfold bumpPcnt; split <;> simp
@[simp] theorem confView_bumpBw (p k n : Nat) : confView (bumpBw s p k n) = confView s := by unfold bumpBw; split <;> simp

@[simp] theorem confView_setInt (p n : Nat) : confView (setInt s p n) = confView s := by
  obtain ⟨_, h⟩ | ⟨_, h⟩ := setInt_cases s p n
  · rw [h]; simp
  · rw [h]
    obtain ⟨f, hf⟩ := msix_eq ((s.updMon p (fun m => { m with intStat := putBit m.intStat n true })).mark ‹_›) (p + 1) n
    rw [hf]; simp

@[simp] theorem confView_smCount (k : Space) (w : Bool) (as : List Nat) : confView (smCount s k w as) = confView s := by
  cases k <;> simp [smCount]

@[simp] theorem confView_backInvalidate (k : Space) (as : List Nat) : confView (backInvalidate s k as) = confView s := by
  unfold backInvalidate
  split
  · dsimp only
    split <;> simp [snooped]
  · rfl

end

/-! ### A write to clean memory -/

section
variable {s : State} {p : Nat}

/-- A write to stacked memory without poison writes its cells, in a state `u` that has counted it and taken its lines out of
the snoop filter (R348, R352). -/
theorem devWrite_clean (rq : Nat) (ws : List Host.Cell) (hp : (s.parcel p).poison = []) : ∃ (u : State) (us : List Upset),
    devWrite s (.sm p) rq ws = { setCells u (.sm p) (ws.foldl (fun m c => memSet m c.1 c.2) (s.parcel p).mem) with upsets := us } ∧
    world u = world s ∧ confView u = confView s := by
  obtain ⟨u, hu⟩ : ∃ u, u = smCount (backInvalidate s (.sm p) (ws.map (fun c => c.1))) (.sm p) true (ws.map (fun c => c.1)) :=
    ⟨_, rfl⟩
  have hw : world u = world s := by simp [hu]
  have hv : confView u = confView s := by simp [hu]
  have hclean : poisoned u (.sm p) = [] := (poison_of_confView hv p).trans hp
  have hmem : cells u (.sm p) = (s.parcel p).mem := mem_of_world hw p
  have hwrite : devWrite s (.sm p) rq ws = (writeCells u (.sm p) ws).1 := by simp [devWrite, ← hu, hclean]
  rw [hwrite, (writeCells_clean u (.sm p) ws hclean).1, hmem]
  exact ⟨u, _, rfl, hw, hv⟩

theorem cells_devWrite (rq a : Nat) (bs : List Byte) (hp : (s.parcel p).poison = []) (k : Space) :
    cells (devWrite s (.sm p) rq (cellsOf a bs)) k = if k = .sm p then memWrite (s.parcel p).mem a bs else cells s k := by
  obtain ⟨u, us, hwrite, hw, _⟩ := devWrite_clean rq (cellsOf a bs) hp
  rw [hwrite, cells_upsets, cells_setCells, foldl_cellsOf, cells_of_world hw]

theorem confView_devWrite (rq : Nat) (ws : List Host.Cell) (hp : (s.parcel p).poison = []) :
    confView (devWrite s (.sm p) rq ws) = confView s := by
  obtain ⟨u, us, hwrite, _, hv⟩ := devWrite_clean rq ws hp
  rw [hwrite, ← hv]
  exact confView_updParcel u p (fun x => { x with mem := _ }) rfl rfl rfl rfl

end

end Sys2Proof.Machine
end

section
/-!
Confluence (03 R83 to R86, 06 R181, 11 R324): the adds of a CONF and of a row, an add at its controller, the answers; the
obligation on them.
-/

namespace Sys2Proof.Machine

/-! ### Adds on their way -/

@[simp] theorem queueAdd_adds (s : State) (p : Nat) (a : ConfAdd) :
    ((queueAdd s p a).parcel p).adds = insertAdd { a with arrived := s.wall } (s.parcel p).adds := by simp [queueAdd]

/-- Adds that arrive one after another in one cycle join those that wait, in that order, and nothing else changes. -/
theorem foldl_queueAdd {β : Type} (g : β → ConfAdd) (os : List β) (s : State) (p : Nat) :
    ∃ t, os.foldl (fun t o => queueAdd t p (g o)) s = t ∧ world t = world s ∧ t.book = s.book ∧ t.posted = s.posted ∧
      (t.parcel p).fab = (s.parcel p).fab ∧
      (t.parcel p).adds = os.foldl (fun m o => insertAdd { g o with arrived := s.wall } m) (s.parcel p).adds := by
  induction os generalizing s with
  | nil => exact ⟨s, rfl, rfl, rfl, rfl, rfl, rfl⟩
  | cons o os ih =>
    obtain ⟨t, ht, hw, hb, hp, hf, ha⟩ := ih (queueAdd s p (g o))
    refine ⟨t, ht, hw.trans (world_queueAdd ..), hb, hp, hf.trans (by simp [queueAdd]), ?_⟩
    rw [ha, queueAdd_adds]
    rfl

/-- An add goes behind every earlier arrival, and in its cycle before the sources above its own (R84). -/
theorem insertAdd_behind (a : ConfAdd) {l : List ConfAdd} (h : ∀ y ∈ l, y.arrived ≠ a.arrived ∨ y.sourceKey ≤ a.sourceKey)
    (r : List ConfAdd) : insertAdd a (l ++ r) = l ++ insertAdd a r := by
  induction l with
  | nil => rfl
  | cons y l ih =>
    obtain ⟨hy, hl⟩ := List.forall_mem_cons.mp h
    have hno : ¬ (y.arrived = a.arrived ∧ a.sourceKey < y.sourceKey) := fun ⟨h1, h2⟩ => hy.elim (· h1) (by omega)
    rw [List.cons_append, insertAdd, if_neg hno, ih hl, List.cons_append]

/-- A parcel reaches itself, without a hop (R329). -/
theorem countRing_self (s : State) (p n : Nat) : countRing s p p n = s := by
  simp [countRing, ringWay, ringOpen, countHops]

theorem confOuts_length (r : Reach) (j : Job) : (confOuts r j).length = cfM j * cfN j := by
  simp [confOuts]

/-- The add that output `o` of a CONF sends. -/
def confAddOf (s : State) (p l no : Nat) (j : Job) (o : Nat × Nat × Int × Option Bool) : ConfAdd :=
  { addr := sysByte (cfAddr j o.1 o.2.1), wide := cfWide j, value := o.2.2.1, dev := BitVec.ofNat 14 s.dev
    parcel := p, reach := l, flight := no, col := 16 * o.1 + o.2.1 }

/-- A CONF within the parcel sends every output, and waits for as many answers (R84, R181). -/
theorem confLocal_eq (s : State) (p l no : Nat) (j : Job)
    (h : ∀ o ∈ confOuts (s.reach p l) j, sysParcel (cfAddr j o.1 o.2.1) = p) :
    confLocal s p l no j = updFlight ((confOuts (s.reach p l) j).foldl (fun t o => queueAdd t p (confAddOf s p l no j o)) s) p l no
      (fun f => { f with wait := .adds (cfM j * cfN j), out := confOut j (confOuts (s.reach p l) j) }) := by
  have hall : (confOuts (s.reach p l) j).findIdx (fun o => !reachable s p (sysParcel (cfAddr j o.1 o.2.1))) =
      (confOuts (s.reach p l) j).length :=
    List.findIdx_eq_length.mpr (fun o ho => by simp [h o ho, reachable])
  have hfold : ∀ (os : List (Nat × Nat × Int × Option Bool)) (t : State), (∀ o ∈ os, sysParcel (cfAddr j o.1 o.2.1) = p) →
      os.foldl (fun t o => countRing (queueAdd t (sysParcel (cfAddr j o.1 o.2.1)) (confAddOf s p l no j o)) p
        (sysParcel (cfAddr j o.1 o.2.1)) (if sysParcel (cfAddr j o.1 o.2.1) = p then 0 else wordBytes (cfWide j))) t =
      os.foldl (fun t o => queueAdd t p (confAddOf s p l no j o)) t := by
    intro os
    induction os with
    | nil => exact fun _ _ => rfl
    | cons o os ih =>
      intro t ho
      obtain ⟨hp, hos⟩ := List.forall_mem_cons.mp ho
      rw [List.foldl_cons, List.foldl_cons, hp, countRing_self, ih _ hos]
  unfold confLocal
  simp only [hall, List.take_length, List.getElem?_eq_none le_rfl]
  rw [confOuts_length]
  exact congrArg (fun x => updFlight x p l no (fun f => { f with
    wait := .adds (cfM j * cfN j), out := confOut j (confOuts (s.reach p l) j) })) (hfold _ s h)

/-- The issue of a CONF within the parcel. -/
theorem conf_issue (p : ParcelId) (l : ReachId) (s : State) (j : Job) (os : List (Nat × Nat × Int × Option Bool))
    (hj : j = headJob s p l) (hop : wOp j.word = 8) (hI : Issues s p l (confPlan s p l j)) (hlocal : cfRemote s j = false)
    (hos : os = confOuts (s.reach p l) j) (hp : ∀ o ∈ os, sysParcel (cfAddr j o.1 o.2.1) = p.val) :
    Gives (.conf p l) s (fun t => Entered s t p l .reachDma 0 (.adds (cfM j * cfN j)) ∧
      (t.parcel p).adds = os.foldl (fun m o => insertAdd
        { addr := sysByte (cfAddr j o.1 o.2.1), wide := cfWide j, value := o.2.2.1, dev := BitVec.ofNat 14 s.dev
          parcel := p, reach := l, flight := (s.reach p l).task.issueNo + 1, col := 16 * o.1 + o.2.1, arrived := s.wall } m)
        (s.parcel p).adds ∧
      (t.reach p l).pool = (s.reach p l).pool ∧ (t.reach p l).s = (s.reach p l).s ∧ SameTables s t p l ∧
      OtherReaches s t p l ∧ SameClusters s t ∧ SameMemory s t ∧ SameTime s t) := by
  subst hj hos
  obtain ⟨e, he, hissue⟩ := exec_atMostStops (i := .conf p l) (sel := fun w => wOp w == 8) (run := runConf p l) rfl
    (by simp [hop]) hI
  have hdev : e.dev = s.dev := by simp only [State.dev, he.hub]
  have houts : confOuts (e.reach p l) = confOuts (s.reach p l) := by unfold confOuts; rw [he.pool]
  have hremote : cfRemote e (headJob s p l) = false := by rw [cfRemote, hdev]; exact hlocal
  have hrun : runConf p l e (headJob s p l) ((s.reach p l).task.issueNo + 1) =
      confLocal e p l ((s.reach p l).task.issueNo + 1) (headJob s p l) := by simp [runConf, hremote]
  obtain ⟨q, hq, hw, hb, hpo, _, ha⟩ := foldl_queueAdd
    (confAddOf e p l ((s.reach p l).task.issueNo + 1) (headJob s p l)) (confOuts (e.reach p l) (headJob s p l)) e p
  rw [confLocal_eq _ _ _ _ _ (by rw [houts]; exact hp), hq] at hrun
  have hqr := reach_of_world hw p l
  obtain ⟨t, hexec, hstop⟩ := hissue _ hrun.symm ⟨by simp [updFlight, hqr], fun w hw => .inl (by simpa [hpo] using hw),
    by simp [updFlight, hqr], by simp [updFlight, hqr]⟩
  have haround := (hstop.around.trans ((around_updFlight ..).trans (around_of_world hw))).trans he.around
  refine ⟨t, hexec, hstop.entered ((he.entered.of_reach hqr).updFlight (fun _ => ⟨rfl, rfl, rfl⟩) (fun _ hst _ => ⟨hst, rfl⟩)),
    ?_, by rw [hstop.pool]; simp [updFlight, hqr, he.pool], scalars_of_around haround, sameTables_of_around haround,
    otherReaches_of_around haround, sameClusters_of_around haround, sameMemory_of_around haround, sameTime_of_around haround⟩
  have hadds : ∀ n f, ((updFlight q p l n f).parcel p).adds = (q.parcel p).adds := fun n f => State.updReach_parcel_adds ..
  rw [hstop.adds, hadds, ha, houts, he.parcel p]
  simp only [confAddOf, hdev, he.wall]

/-! ### An add at its controller -/

/-- What stands where nothing has gone wrong in a memory: the engine of an add meets no error there. -/
theorem settle_sound (s : State) (k : Space) (a n requester : Nat) (h : s.upsets = []) : settle s k a n requester = s := by
  simp [settle, h]

theorem wordAdd_saturates (wide : Bool) (old : Nat) (v : Int) : (wordAdd wide old v).2 = true ↔
    signed (8 * wordBytes wide) old + v < -(2 ^ (8 * wordBytes wide - 1) : Nat) ∨
    ((2 ^ (8 * wordBytes wide - 1) : Nat) : Int) ≤ signed (8 * wordBytes wide) old + v := by
  have hlo : signedLo (8 * wordBytes wide) = -((2 ^ (8 * wordBytes wide - 1) : Nat) : Int) := rfl
  have hhi : signedHi (8 * wordBytes wide) = ((2 ^ (8 * wordBytes wide - 1) : Nat) : Int) - 1 := rfl
  simp only [wordAdd, hlo, hhi, decide_eq_true_eq, clampInt]
  generalize ((2 ^ (8 * wordBytes wide - 1) : Nat) : Int) = m
  split <;> (try split) <;> omega

/-- The answer of an add of a CONF takes one from what the CONF waits for, and is refused or not (R84, R86). -/
theorem answerAdd_conf (s : State) (q : Nat) (a : ConfAdd) (refused : Bool) (hrow : a.rowId = none) :
    (world (answerAdd s q a refused)).around a.parcel a.reach = (world s).around a.parcel a.reach ∧
    confView (answerAdd s q a refused) = confView s ∧
    ∀ f ∈ ((answerAdd s q a refused).reach a.parcel a.reach).flights, f.no = a.flight →
      ∃ g ∈ (s.reach a.parcel a.reach).flights, g.no = a.flight ∧ f.status = (if refused then 2 else g.status) ∧
        ∀ n, g.wait = .adds n → f.wait = .adds (n - 1) := by
  have heq : answerAdd s q a refused = updFlight (answerAdds s a.parcel a.reach a.flight 1 refused) a.parcel a.reach a.flight
      (fun f => { f with sent := max f.sent (a.col + 1) }) := by simp only [answerAdd, hrow]
  rw [heq, answerAdds]
  refine ⟨by simp, by simp, fun f hf hno => ?_⟩
  obtain ⟨y, hy, hyno, rfl⟩ := mem_flights_updFlight hf hno
  obtain ⟨g, hg, hgno, rfl⟩ := mem_flights_updFlight hy hyno
  exact ⟨g, hg, hgno, rfl, fun n hn => by simp [hn]⟩

/-- The state in which the sum has been written and counted (R84, R85). -/
def wroteSum (s : State) (q : Nat) (a : ConfAdd) : State :=
  bumpBw (bumpPcnt (devWrite (devRead s (.sm q) (addSource a) a.addr (wordBytes a.wide)) (.sm q) (addSource a)
    (cellsOf a.addr (leBytes (wordBytes a.wide)
      (wordAdd a.wide (leVal (rdBytes s (.sm q) a.addr (wordBytes a.wide))) a.value).1))) q 3 1) q 21 (wordBytes a.wide)

/-- The saturation bit of region `k` is set (R85). -/
def flagRegion (t : State) (q k : Nat) : State :=
  t.updParcel q (fun x => { x with region := SMap.put x.region k (putBit (SMap.get 0 x.region k) 2 true) })

/-- The saturation of an add to region `k`: its bit, its interrupt and its record (R85). -/
def noteSat (s t : State) (q k : Nat) (a : ConfAdd) : State :=
  raise ((flagRegion (if bvb (SMap.get 0 (t.parcel q).region k) 2 then t else setInt t q 3) q k).mark (.sat q k))
    (srcParcel q 0) evConfSat (packFields [(1, k), (8, errAddress s (.sm q) a.addr), (2, addSource a)] [])

/-- The state in which an add to region `k` has taken effect, before its answer. -/
def addedTo (s : State) (q k : Nat) (a : ConfAdd) : State :=
  if (wordAdd a.wide (leVal (rdBytes s (.sm q) a.addr (wordBytes a.wide))) a.value).2
    then noteSat s (wroteSum s q a) q k a else wroteSum s q a

theorem applyAdd_writes {s : State} {q k : Nat} {a : ConfAdd} (hup : s.upsets = []) (hstate : (s.parcel q).state ≠ .contain)
    (hregion : addRegion s q a = some k) (hp : (s.parcel q).poison = []) :
    applyAdd s q a = answerAdd (addedTo s q k a) q a false := by
  have hpoison : poisonIn s (.sm q) a.addr (wordBytes a.wide) = none := by simp [poisonIn, poisoned, hp]
  unfold applyAdd
  simp only [settle_sound _ _ _ _ _ hup, ite_self, if_neg hstate, hregion, hpoison]
  rfl

theorem applyAdd_refused {s : State} {q : Nat} {a : ConfAdd} (hup : s.upsets = [])
    (h : (s.parcel q).state = .contain ∨ addRegion s q a = none) :
    applyAdd s q a = answerAdd (bumpPcnt (raise s (srcParcel q 0) evBound (boundPayload 0xFFFFFFFF
      (if (s.parcel q).state = .contain then 4 else 2) 0xFF 2 q a.addr (a.addr + wordBytes a.wide - 1) 0 (addSource a))) q 4 1)
      q a true := by
  unfold applyAdd
  simp only [settle_sound _ _ _ _ _ hup, ite_self]
  by_cases hc : (s.parcel q).state = .contain
  · rw [if_pos hc, if_pos hc]
    rfl
  · rw [if_neg hc, if_neg hc]
    simp only [h.resolve_left hc]
    rfl

/-- The sum stands in its word; besides it nothing of the memories has changed, and nothing of the book and the regions. -/
theorem wroteSum_keeps (s : State) (q : Nat) (a : ConfAdd) (hup : s.upsets = []) (hp : (s.parcel q).poison = []) :
    Beside s (wroteSum s q a) ∧ confView (wroteSum s q a) = confView s ∧
    ∀ k, cells (wroteSum s q a) k = if k = .sm q then memWrite (s.parcel q).mem a.addr (leBytes (wordBytes a.wide)
      (wordAdd a.wide (leVal (rdBytes s (.sm q) a.addr (wordBytes a.wide))) a.value).1) else cells s k := by
  obtain ⟨t, ht⟩ : ∃ t, t = devRead s (.sm q) (addSource a) a.addr (wordBytes a.wide) := ⟨_, rfl⟩
  rw [devRead, devReadAt_sound _ _ _ _ hup] at ht
  have htw : world t = world s := by rw [ht]; simp
  have htv : confView t = confView s := by rw [ht]; simp
  have htb : Beside s t := by rw [ht]; exact (backInvalidate_beside ..).trans (smCount_beside ..)
  have htp : (t.parcel q).poison = [] := (poison_of_confView htv q).trans hp
  have hsum : wroteSum s q a = bumpBw (bumpPcnt (devWrite t (.sm q) (addSource a) (cellsOf a.addr (leBytes (wordBytes a.wide)
      (wordAdd a.wide (leVal (rdBytes s (.sm q) a.addr (wordBytes a.wide))) a.value).1))) q 3 1) q 21 (wordBytes a.wide) := by
    rw [ht, ← devReadAt_sound _ _ (addSource a) _ hup]
    rfl
  rw [hsum]
  refine ⟨((htb.trans (devWrite_sm_beside ..)).trans (bumpPcnt_beside ..)).trans (bumpBw_beside ..), ?_, fun k => ?_⟩
  · rw [confView_bumpBw, confView_bumpPcnt, confView_devWrite _ _ htp, htv]
  · rw [cells_of_world ((world_bumpBw ..).trans (world_bumpPcnt ..)), cells_devWrite _ _ _ htp, mem_of_world htw, cells_of_world htw]

/-- A saturation sets the bit of its region and raises its record, and changes nothing else of what an add works with. -/
theorem noteSat_keeps (s t : State) (q k : Nat) (a : ConfAdd) (hb : Beside s t) (hv : confView t = confView s) :
    world (noteSat s t q k a) = world t ∧ ((noteSat s t q k a).parcel q).adds = (t.parcel q).adds ∧
    bvb (SMap.get 0 ((noteSat s t q k a).parcel q).region k) 2 = true ∧
    (noteSat s t q k a).book = (raise s (srcParcel q 0) evConfSat
      (packFields [(1, k), (8, errAddress s (.sm q) a.addr), (2, addSource a)] [])).book := by
  obtain ⟨u, hu⟩ : ∃ u, u = if bvb (SMap.get 0 (t.parcel q).region k) 2 then t else setInt t q 3 := ⟨_, rfl⟩
  have huw : world u = world t := by rw [hu]; split <;> simp
  have huv : confView u = confView t := by rw [hu]; split <;> simp
  obtain ⟨v, hvq⟩ : ∃ v, v = flagRegion u q k := ⟨_, rfl⟩
  have hnote : noteSat s t q k a = raise (v.mark (.sat q k)) (srcParcel q 0) evConfSat
      (packFields [(1, k), (8, errAddress s (.sm q) a.addr), (2, addSource a)] []) := by rw [hvq, hu]; rfl
  have hvw : world v = world t := by rw [hvq, flagRegion, world_updParcel u q _ rfl rfl rfl, huw]
  have hvparcel (r : Nat) : v.parcel r = { u.parcel r with region := (v.parcel r).region } := by
    rw [hvq, flagRegion, State.updParcel_parcel]
    split
    · next h => subst h; rfl
    · rfl
  have hvregion : (v.parcel q).region = SMap.put (u.parcel q).region k (putBit (SMap.get 0 (u.parcel q).region k) 2 true) := by
    rw [hvq, flagRegion, State.updParcel_parcel_same]
  have hvadds : (v.parcel q).adds = (t.parcel q).adds := by rw [hvparcel]; exact adds_of_confView huv q
  have hvpwr (r : Nat) : (v.parcel r).pwr = (s.parcel r).pwr := by
    rw [hvparcel]
    exact congrFun (congrArg ConfView.pwr (huv.trans hv)) r
  have hvbook : v.book = s.book := by
    rw [hvq]
    exact (book_of_confView (huv.trans hv) : u.book = s.book)
  obtain ⟨_, _, hd, _, hphase, _⟩ := hb
  rw [hnote]
  refine ⟨hvw, hvadds, ?_, raise_book_congr hvbook ((sameTime_of_world hvw).1.trans hd) ((congrArg World.phase hvw).trans hphase)
    hvpwr ..⟩
  exact (congrArg (fun m => bvb (SMap.get 0 m k) 2) hvregion).trans (by simp [bvb_putBit_same])

section
variable {s : State} {q : Nat} {a : ConfAdd} (k : Nat) (hup : s.upsets = []) (hp : (s.parcel q).poison = [])
include hup hp

theorem addedTo_keeps : (∀ r m, (addedTo s q k a).reach r m = s.reach r m) ∧ SameTime s (addedTo s q k a) ∧
    ((addedTo s q k a).parcel q).adds = (s.parcel q).adds ∧
    ∀ j, cells (addedTo s q k a) j = if j = .sm q then memWrite (s.parcel q).mem a.addr (leBytes (wordBytes a.wide)
      (wordAdd a.wide (leVal (rdBytes s (.sm q) a.addr (wordBytes a.wide))) a.value).1) else cells s j := by
  obtain ⟨hbeside, hview, hcells⟩ := wroteSum_keeps s q a hup hp
  obtain ⟨hnw, hnadds, _, _⟩ := noteSat_keeps s (wroteSum s q a) q k a hbeside hview
  have hw : world (addedTo s q k a) = world (wroteSum s q a) := by unfold addedTo; split <;> [exact hnw; rfl]
  have hadds : ((addedTo s q k a).parcel q).adds = ((wroteSum s q a).parcel q).adds := by
    unfold addedTo; split <;> [exact hnadds; rfl]
  obtain ⟨hreach, _, b1, b2, b4, b5, _, b3, _⟩ := hbeside
  obtain ⟨u1, u2, u3, u4, u5⟩ := sameTime_of_world hw
  exact ⟨fun r m => (reach_of_world hw r m).trans (hreach r m),
    ⟨u1.trans b1, u2.trans b2, u3.trans b3, u4.trans b4, u5.trans b5⟩, hadds.trans (adds_of_confView hview q),
    fun j => (cells_of_world hw j).trans (hcells j)⟩

/-- Only a saturation reaches the book and the region. -/
theorem addedTo_book :
    ((wordAdd a.wide (leVal (rdBytes s (.sm q) a.addr (wordBytes a.wide))) a.value).2 = false →
      (addedTo s q k a).book = s.book ∧ ((addedTo s q k a).parcel q).region = (s.parcel q).region) ∧
    ((wordAdd a.wide (leVal (rdBytes s (.sm q) a.addr (wordBytes a.wide))) a.value).2 = true →
      bvb (SMap.get 0 ((addedTo s q k a).parcel q).region k) 2 = true ∧ (addedTo s q k a).book = (raise s (srcParcel q 0) evConfSat
        (packFields [(1, k), (8, errAddress s (.sm q) a.addr), (2, addSource a)] [])).book) := by
  obtain ⟨hbeside, hview, _⟩ := wroteSum_keeps s q a hup hp
  obtain ⟨_, _, hnbit, hnbook⟩ := noteSat_keeps s (wroteSum s q a) q k a hbeside hview
  constructor
  · intro hno
    rw [addedTo, hno, if_neg Bool.false_ne_true]
    exact ⟨book_of_confView hview, region_of_confView hview q⟩
  · intro hsat
    rw [addedTo, hsat, if_pos rfl]
    exact ⟨hnbit, hnbook⟩

end

/-- A word that has been written is read back, cut to its bytes (R7). -/
theorem leVal_rdBytes_write {t : State} {k : Space} {m : Mem} {addr w x : Nat} (h : cells t k = memWrite m addr (leBytes w x))
    (hwf : memWf m = true) : leVal (rdBytes t k addr w) = x % 256 ^ w := by
  have hread := memRead_write addr (leBytes w x) hwf
  rw [leBytes_length] at hread
  rw [rdBytes, h, hread, leVal_leBytes]

/-- The adds that wait at the controllers of a parcel once the first has been taken. -/
def takeAdd (s : State) (p : Nat) (rest : List ConfAdd) : State := s.updParcel p (fun x => { x with adds := rest })

/-- Taking an add leaves everything else that it works with. -/
theorem takeAdd_parcel (s : State) (p : Nat) (rest : List ConfAdd) (q : Nat) : ((takeAdd s p rest).parcel p).adds = rest ∧
    ((takeAdd s p rest).parcel q).region = (s.parcel q).region ∧ ((takeAdd s p rest).parcel q).state = (s.parcel q).state ∧
    ((takeAdd s p rest).parcel q).poison = (s.parcel q).poison ∧ ((takeAdd s p rest).parcel q).pwr = (s.parcel q).pwr := by
  rw [takeAdd, State.updParcel_parcel, State.updParcel_parcel, if_pos rfl]
  split
  · next h => subst h; exact ⟨rfl, rfl, rfl, rfl, rfl⟩
  · exact ⟨rfl, rfl, rfl, rfl, rfl⟩

theorem raise_takeAdd_book (s : State) (p : Nat) (rest : List ConfAdd) (src code : Nat) (b : List Byte) :
    (raise (takeAdd s p rest) src code b).book = (raise s src code b).book :=
  raise_book_congr (s := s) (t := takeAdd s p rest) rfl rfl rfl (fun q => by
    obtain ⟨_, _, _, _, hpwr⟩ := takeAdd_parcel s p rest q
    exact hpwr) src code b

theorem addRegion_takeAdd (s : State) (p : Nat) (rest : List ConfAdd) (a : ConfAdd) :
    addRegion (takeAdd s p rest) p a = addRegion s p a := by
  obtain ⟨_, hregion, _⟩ := takeAdd_parcel s p rest p
  simp only [addRegion, regionOf, hregion]

theorem world_takeAdd (s : State) (p : Nat) (rest : List ConfAdd) : world (takeAdd s p rest) = world s :=
  world_updParcel s p _ rfl rfl rfl

theorem exec_confluenceAdd {p : ParcelId} {s : State} {a : ConfAdd} {rest : List ConfAdd} (h : (s.parcel p).adds = a :: rest) :
    exec (.confluenceAdd p) s = .next (applyAdd (takeAdd s p rest) p a) := by
  refine congrArg Host.Outcome.next ?_
  simp only [h]
  rfl

/-- An add that finds its word takes effect there (R83 to R85). -/
theorem confluenceAdd_adds (p : ParcelId) (s : State) (a : ConfAdd) (rest : List ConfAdd) (w : Nat) (v : Int) (k : Nat)
    (hadds : (s.parcel p).adds = a :: rest) (hw : w = wordBytes a.wide) (hrow : a.rowId = none)
    (hwf : memWf (s.parcel p).mem = true) (hup : s.upsets = [])
    (hv : v = signed (8 * w) (leVal (rdBytes s (.sm p) a.addr w)) + a.value) (hstate : (s.parcel p).state ≠ .contain)
    (hregion : addRegion s p a = some k) (hpoison : (s.parcel p).poison = []) :
    Gives (.confluenceAdd p) s (fun t =>
      leVal (rdBytes t (.sm p) a.addr w) =
        unsignedBits (8 * w) (clampInt (-(2 ^ (8 * w - 1) : Nat)) ((2 ^ (8 * w - 1) : Nat) - 1) v) ∧
      (∀ m i, ¬ (m = .sm p ∧ a.addr ≤ i ∧ i < a.addr + w) → rdByte t m i = rdByte s m i) ∧
      (t.parcel p).adds = rest ∧
      ((-(2 ^ (8 * w - 1) : Nat) : Int) ≤ v → v < (2 ^ (8 * w - 1) : Nat) →
        t.book = s.book ∧ (t.parcel p).region = (s.parcel p).region) ∧
      (v < (-(2 ^ (8 * w - 1) : Nat) : Int) ∨ ((2 ^ (8 * w - 1) : Nat) : Int) ≤ v →
        bvb (SMap.get 0 (t.parcel p).region k) 2 = true ∧
        t.book = (raise s (srcParcel p 0) 0x6003
          (packFields [(1, k), (8, errAddress s (.sm p) a.addr), (2, srcReach a.parcel a.reach)] [])).book) ∧
      (∀ f ∈ (t.reach a.parcel a.reach).flights, f.no = a.flight → ∃ g ∈ (s.reach a.parcel a.reach).flights,
        g.no = a.flight ∧ f.status = g.status ∧ ∀ n, g.wait = .adds n → f.wait = .adds (n - 1)) ∧
      SameTime s t) := by
  subst hw
  have hw := world_takeAdd s p rest
  obtain ⟨hrest, hregions, hst, hpo, _⟩ := takeAdd_parcel s p rest p
  have hsum : wordAdd a.wide (leVal (rdBytes (takeAdd s p rest) (.sm p) a.addr (wordBytes a.wide))) a.value =
      wordAdd a.wide (leVal (rdBytes s (.sm p) a.addr (wordBytes a.wide))) a.value := by
    rw [rdBytes, cells_of_world hw, rdBytes]
  have hsat := wordAdd_saturates a.wide (leVal (rdBytes s (.sm p) a.addr (wordBytes a.wide))) a.value
  rw [← hv] at hsat
  have hup' : (takeAdd s p rest).upsets = [] := hup
  have hp' := hpo.trans hpoison
  obtain ⟨hreach, htime, hadds', hcells⟩ := addedTo_keeps (a := a) k hup' hp'
  obtain ⟨hquiet, hloud⟩ := addedTo_book (a := a) k hup' hp'
  rw [hsum] at hcells hquiet hloud
  rw [mem_of_world hw p] at hcells
  obtain ⟨haround, hview, hans⟩ := answerAdd_conf (addedTo (takeAdd s p rest) p k a) p a false hrow
  have hmem (m : Space) : cells (answerAdd (addedTo (takeAdd s p rest) p k a) p a false) m =
      if m = .sm p then memWrite (s.parcel p).mem a.addr (leBytes (wordBytes a.wide)
        (wordAdd a.wide (leVal (rdBytes s (.sm p) a.addr (wordBytes a.wide))) a.value).1) else cells s m := by
    rw [cells_of_around haround, hcells, cells_of_world hw]
  refine ⟨_, (exec_confluenceAdd hadds).trans (congrArg Host.Outcome.next
      (applyAdd_writes hup' (by rw [hst]; exact hstate) ((addRegion_takeAdd s p rest a).trans hregion) hp')), ?_⟩
  refine ⟨?_, fun m i hmi => ?_, (adds_of_confView hview p).trans (hadds'.trans hrest), fun hlo hhi => ?_, fun hout => ?_,
    fun f hf hno => ?_, ?_⟩
  · refine (leVal_rdBytes_write ((hmem _).trans (if_pos rfl)) hwf).trans ?_
    rw [hv]
    exact Nat.mod_eq_of_lt ((unsignedBits_lt _ _).trans_eq (by rw [pow_mul]; rfl))
  · rw [rdByte]
    refine (congrArg (fun c => memByte c i) (hmem m)).trans ?_
    split
    · next h =>
      subst h
      rw [memByte_write _ _ _ hwf, leBytes_length, if_neg (fun h => hmi ⟨rfl, h.1, h.2⟩)]
      rfl
    · rfl
  · obtain ⟨hbook, hreg⟩ := hquiet (Bool.eq_false_iff.mpr (fun h => by have := hsat.mp h; omega))
    exact ⟨(book_of_confView hview).trans hbook, (region_of_confView hview p).trans (hreg.trans hregions)⟩
  · obtain ⟨hbit, hbook⟩ := hloud (hsat.mpr hout)
    have hsrc : addSource a = srcReach a.parcel a.reach := by simp [addSource, hrow]
    rw [hsrc, raise_takeAdd_book] at hbook
    exact ⟨by rw [← hbit]; exact congrArg (fun m => bvb (SMap.get 0 m k) 2) (region_of_confView hview p),
      (book_of_confView hview).trans hbook⟩
  · obtain ⟨g, hg, hgno, hgs, hgw⟩ := hans f hf hno
    rw [hreach, reach_of_world hw] at hg
    exact ⟨g, hg, hgno, hgs, hgw⟩
  · exact ((sameTime_of_world hw).trans htime).trans (sameTime_of_around haround)

/-- An add that finds no word of its width, or meets a parcel in CONTAIN, is refused (R86, R408). -/
theorem confluenceAdd_refuses (p : ParcelId) (s : State) (a : ConfAdd) (rest : List ConfAdd)
    (hadds : (s.parcel p).adds = a :: rest) (hrow : a.rowId = none) (hup : s.upsets = [])
    (h : (s.parcel p).state = .contain ∨ addRegion s p a = none) :
    Gives (.confluenceAdd p) s (fun t =>
      SameMemory s t ∧ (t.parcel p).adds = rest ∧ (t.parcel p).region = (s.parcel p).region ∧
      t.book = (raise s (srcParcel p 0) 0x3002 (boundPayload 0xFFFFFFFF (if (s.parcel p).state = .contain then 4 else 2) 0xFF 2
        p a.addr (a.addr + wordBytes a.wide - 1) 0 (srcReach a.parcel a.reach))).book ∧
      (∀ f ∈ (t.reach a.parcel a.reach).flights, f.no = a.flight → f.status = 2) ∧ SameTime s t) := by
  have hw := world_takeAdd s p rest
  obtain ⟨hrest, hregions, hst, _, _⟩ := takeAdd_parcel s p rest p
  have hrefuse := applyAdd_refused (s := takeAdd s p rest) (q := p) (a := a) hup
    (by rw [hst, addRegion_takeAdd]; exact h)
  have hsrc : addSource a = srcReach a.parcel a.reach := by simp [addSource, hrow]
  rw [hst, hsrc] at hrefuse
  obtain ⟨b, hb⟩ : ∃ b, b = boundPayload 0xFFFFFFFF (if (s.parcel p).state = .contain then 4 else 2) 0xFF 2 p a.addr
    (a.addr + wordBytes a.wide - 1) 0 (srcReach a.parcel a.reach) := ⟨_, rfl⟩
  rw [← hb] at hrefuse ⊢
  obtain ⟨haround, hview, hans⟩ := answerAdd_conf (bumpPcnt (raise (takeAdd s p rest) (srcParcel p 0) evBound b) p 4 1) p a true
    hrow
  have hview' : confView (answerAdd (bumpPcnt (raise (takeAdd s p rest) (srcParcel p 0) evBound b) p 4 1) p a true) =
      confView (raise (takeAdd s p rest) (srcParcel p 0) evBound b) := hview.trans (confView_bumpPcnt ..)
  have haround' := haround.trans (around_of_world ((world_bumpPcnt ..).trans ((world_raise ..).trans hw)))
  refine ⟨_, (exec_confluenceAdd hadds).trans (congrArg Host.Outcome.next hrefuse), sameMemory_of_around haround',
    (adds_of_confView hview' p).trans hrest, (region_of_confView hview' p).trans hregions,
    (book_of_confView hview').trans (raise_takeAdd_book ..), fun f hf hno => ?_, sameTime_of_around haround'⟩
  obtain ⟨_, _, _, hstatus, _⟩ := hans f hf hno
  exact hstatus

/-! ### Rows between devices -/

/-- A row of another device joins the controllers as one add for each column of its mask (R324). -/
theorem confluenceRowRx_adds (p : ParcelId) (s : State) (k : Packet) (cols : List Nat) (wide : Bool) (w : Nat)
    (htype : k.ptype = 2) (hold : tooOld s k = false) (hver : k.pver.toNat ≤ (s.parcel p).fab.linkMax.toNat)
    (hgen : SMap.find (s.parcel p).fab.genRec k.src.toNat = none)
    (hcols : cols = (List.range 16).filter (fun c => (leVal ((k.body.drop 8).take 2)).testBit c)) (hne : cols ≠ [])
    (hwide : wide = bit (leVal ((k.body.drop 10).take 1)) 0) (hw : w = if wide then 8 else 4) :
    Gives (.confluenceRowRx p k) s (fun t =>
      (t.parcel p).adds = cols.foldl (fun m c => insertAdd
        { addr := (leVal (k.body.take 8) + c * w) % 2 ^ 35, wide := wide
          value := signed (8 * w) (leVal ((k.body.drop (16 + c * w)).take w)), dev := k.src, parcel := p, reach := 0
          flight := 0, rowId := some k.id, col := c, arrived := s.wall
          via := srcParcel p ((entryPort k).elim 11 (fun q => 2 + portNo q)) } m) (s.parcel p).adds ∧
      (t.parcel p).fab.rowAnswers =
        (s.parcel p).fab.rowAnswers ++ [{ src := k.src, id := k.id, left := cols.length, mask := 0 }] ∧
      SMap.find (t.parcel p).fab.genRec k.src.toNat = some k.gen ∧
      SameReaches s t ∧ SameMemory s t ∧ t.book = s.book ∧ SameTime s t) := by
  obtain ⟨f, hacc, hfab⟩ := acceptPacket_first hold hver hgen
  obtain ⟨_, hanswers, hrec⟩ := hfab (s.parcel p).fab
  obtain ⟨a, ha⟩ : ∃ a : RowAnswer, a = { src := k.src, id := k.id, left := cols.length, mask := 0 } := ⟨_, rfl⟩
  obtain ⟨r, hr⟩ : ∃ r, r = (s.updFab p f).updFab p (fun x => { x with rowAnswers := x.rowAnswers ++ [a] }) := ⟨_, rfl⟩
  have hrw : world r = world s := by rw [hr]; simp
  have hrf : (r.parcel p).fab = { f (s.parcel p).fab with rowAnswers := (f (s.parcel p).fab).rowAnswers ++ [a] } := by
    rw [hr]; simp
  have hra : (r.parcel p).adds = (s.parcel p).adds := by rw [hr]; simp
  obtain ⟨t, ht, htw, htb, _, htf, hta⟩ := foldl_queueAdd (fun c => ({
    addr := sysByte (leVal (k.body.take 8) + c * wordBytes wide), wide := wide
    value := signed (8 * wordBytes wide) (leVal ((k.body.drop (16 + c * wordBytes wide)).take (wordBytes wide))), dev := k.src
    parcel := p, reach := 0, flight := 0, rowId := some k.id, col := c
    via := srcParcel p ((entryPort k).elim 11 (fun q => 2 + portNo q)) } : ConfAdd)) cols r p
  have hrow : confluenceRow (s.updFab p f) p k = t := by
    have hempty : cols.isEmpty = false := by simpa using hne
    rw [← ht, hr, ha]
    simp only [confluenceRow, ← hcols, ← hwide, hempty, Bool.false_eq_true, if_false]
  have hall := htw.trans hrw
  refine ⟨t, congrArg Host.Outcome.next ?_, ?_, ?_, ?_, sameReaches_of_world hall, sameMemory_of_world hall, ?_,
    sameTime_of_world hall⟩
  · rw [if_pos htype, hacc]
    exact hrow
  · have hwall : r.wall = s.wall := congrArg World.wall hrw
    rw [hta, hra, hwall, hw]
    rfl
  · rw [htf, hrf, ← hanswers, ha]
  · rw [htf, hrf]
    exact hrec
  · rw [htb, hr]
    rfl

/-- The end of a row takes it from those that wait, and its adds from what its CONF waits for (R324). -/
theorem endRow_ends {s t : State} {p : Nat} {id : BitVec 16} {bad : Bool} {x : Outstanding} (hw : world t = world s)
    (hrows : (t.parcel p).fab.rows = (s.parcel p).fab.rows) (hbook : t.book = s.book) (hhub : t.hub = s.hub)
    (h : (s.parcel p).fab.rows.find? (fun y => y.id == id) = some x) :
    ((endRow t p id bad).parcel p).fab.rows = (s.parcel p).fab.rows.filter (fun y => y.id != id) ∧
    (∀ f ∈ ((endRow t p id bad).reach p x.reach).flights, f.no = x.flight → ∃ g ∈ (s.reach p x.reach).flights, g.no = x.flight ∧
      f.status = (if bad then 2 else g.status) ∧ ∀ n, g.wait = .adds n → f.wait = .adds (n - x.adds)) ∧
    SameMemory s (endRow t p id bad) ∧ (endRow t p id bad).book = s.book ∧ (endRow t p id bad).hub = s.hub ∧
    SameTime s (endRow t p id bad) := by
  obtain ⟨u, hu⟩ : ∃ u, u = t.updFab p (fun f => { f with rows := f.rows.filter (fun y => y.id != id) }) := ⟨_, rfl⟩
  have hend : endRow t p id bad = answerAdds u p x.reach x.flight x.adds bad := by
    rw [hu]
    simp only [endRow, hrows, h]
  have huw : world u = world s := by rw [hu, world_updFab, hw]
  rw [hend, answerAdds]
  have haround := (around_updFlight u p x.reach x.flight (fun f => { f with
    wait := (match f.wait with | .adds m => .adds (m - x.adds) | w => w)
    status := if bad then 2 else f.status })).trans (around_of_world huw)
  refine ⟨?_, fun f hf hno => ?_, sameMemory_of_around haround, by rw [← hbook, hu]; rfl, by rw [← hhub, hu]; rfl,
    sameTime_of_around haround⟩
  · rw [updFlight, State.updReach_parcel_fab, hu, State.updFab_fab_same, hrows]
  · obtain ⟨g, hg, hgno, rfl⟩ := mem_flights_updFlight hf hno
    rw [reach_of_world huw] at hg
    exact ⟨g, hg, hgno, rfl, fun n hn => by simp [hn]⟩

/-- The answer of an outstanding row ends it, refused where the mask or the time says so (R324). -/
theorem rowAnswered_eq {s t : State} {p : Nat} {id mask : BitVec 16} {x : Outstanding}
    (hrows : (t.parcel p).fab.rows = (s.parcel p).fab.rows) (hhub : t.hub = s.hub) (hd : t.datum = s.datum)
    (h : (s.parcel p).fab.rows.find? (fun y => y.id == id) = some x) :
    rowAnswered t p id mask = endRow t p id (!decide (mask = 0 ∧ s.datum.count < x.count + 2 * bvf s.hub.torus 32 8)) := by
  have hbad : (mask != 0 || decide (x.count + t.qTicks ≤ t.datum.count)) =
      !decide (mask = 0 ∧ s.datum.count < x.count + 2 * bvf s.hub.torus 32 8) := by
    rw [State.qTicks, State.expiry, hhub, hd, Bool.eq_iff_iff]
    simp only [Bool.or_eq_true, bne_iff_ne, decide_eq_true_eq, Bool.not_eq_true', decide_eq_false_iff_not, not_and_or, not_lt]
  simp only [rowAnswered, hrows, h, hbad]

/-- An answer that the package gives itself is no packet. -/
theorem exec_confluenceAnswerRx_own {s : State} {p : ParcelId} {id : BitVec 16} (mask : BitVec 16)
    (h : inInbox s p 3 id = none) : exec (.confluenceAnswerRx p id mask) s = .next (rowAnswered s p id mask) := by
  show execConfluenceAnswerRx p id mask s = _
  rw [execConfluenceAnswerRx, h]

/-- An answer that has come as a packet is checked like any other (R307, R314, R320). -/
theorem exec_confluenceAnswerRx_packet {s : State} {p : ParcelId} {id : BitVec 16} (mask : BitVec 16) {k : Packet}
    (h : inInbox s p 3 id = some k) : exec (.confluenceAnswerRx p id mask) s = .next
      (if (acceptPacket s p k).2 then rowAnswered (acceptPacket s p k).1 p id mask else (acceptPacket s p k).1) := by
  show execConfluenceAnswerRx p id mask s = _
  -- the check stands as a variable here: the kernel would evaluate it on the way through the match
  obtain ⟨accept, haccept⟩ : ∃ accept, accept = acceptPacket s p := ⟨_, rfl⟩
  rw [execConfluenceAnswerRx, h, ← haccept]
  dsimp only
  rcases accept k with ⟨t, _ | _⟩ <;> rfl

/-- What holds once an answer, taken into account in `t`, has ended its row. -/
theorem confluenceAnswerRx_ends {s t : State} {p : ParcelId} {id mask : BitVec 16} {x : Outstanding} (hw : world t = world s)
    (hrows : (t.parcel p).fab.rows = (s.parcel p).fab.rows) (hbook : t.book = s.book) (hhub : t.hub = s.hub)
    (h : (s.parcel p).fab.rows.find? (fun y => y.id == id) = some x)
    (hexec : exec (.confluenceAnswerRx p id mask) s = .next (rowAnswered t p id mask)) :
    Gives (.confluenceAnswerRx p id mask) s (fun t =>
      (t.parcel p).fab.rows = (s.parcel p).fab.rows.filter (fun y => y.id != id) ∧
      (∀ f ∈ (t.reach p x.reach).flights, f.no = x.flight → ∃ g ∈ (s.reach p x.reach).flights, g.no = x.flight ∧
        f.status = (if mask = 0 ∧ s.datum.count < x.count + 2 * bvf s.hub.torus 32 8 then g.status else 2) ∧
        ∀ n, g.wait = .adds n → f.wait = .adds (n - x.adds)) ∧
      SameMemory s t ∧ t.book = s.book ∧ t.hub = s.hub ∧ SameTime s t) := by
  obtain ⟨hd, _⟩ := sameTime_of_world hw
  obtain ⟨hgone, hfl, hrest⟩ := endRow_ends (id := id)
    (bad := !decide (mask = 0 ∧ s.datum.count < x.count + 2 * bvf s.hub.torus 32 8)) hw hrows hbook hhub h
  rw [rowAnswered_eq hrows hhub hd h] at hexec
  refine ⟨_, hexec, hgone, fun f hf hno => ?_, hrest⟩
  obtain ⟨g, hg, hgno, hst, hwait⟩ := hfl f hf hno
  refine ⟨g, hg, hgno, hst.trans ?_, hwait⟩
  by_cases hc : mask = 0 ∧ s.datum.count < x.count + 2 * bvf s.hub.torus 32 8
  · rw [if_pos hc, decide_eq_true hc]
    rfl
  · rw [if_neg hc, decide_eq_false hc]
    rfl

/-- Settles O29. The issue `conf_issue`; an add at its controller `confluenceAdd_adds` and `confluenceAdd_refuses`; a row that
arrives `confluenceRowRx_adds`, and one that ends `endRow_ends`. -/
theorem confluencesAdd : Obligations.ConfluencesAdd := by
  unfold Obligations.ConfluencesAdd
  refine ⟨conf_issue, fun a x l r hl hx hk => ?_, fun p s a rest w v hadds hw hrow hwf hup hv => ⟨fun k hstate hregion hpoison =>
      confluenceAdd_adds p s a rest w v k hadds hw hrow hwf hup hv hstate hregion hpoison, fun h => ?_⟩,
    fun p s => ⟨fun k cols wide w => confluenceRowRx_adds p s k cols wide w, fun id mask x hrow => ⟨fun h => ?_, fun k hk hold => ?_⟩,
      fun id x hrow => ⟨fun h => ?_, fun h => ?_⟩⟩⟩
  · have hbefore := insertAdd_behind a hl []
    have hamong := insertAdd_behind a hl (x :: r)
    rw [List.append_nil] at hbefore
    rw [hbefore, hamong, insertAdd, insertAdd, if_pos ⟨hx, hk⟩]
    exact ⟨rfl, rfl⟩
  · rw [hw]
    exact confluenceAdd_refuses p s a rest hadds hrow hup h
  · obtain hnone | ⟨k, hk, hold, hver, hgen⟩ := h
    · exact confluenceAnswerRx_ends rfl rfl rfl rfl hrow (exec_confluenceAnswerRx_own mask hnone)
    · obtain ⟨f, hacc, hfab⟩ := acceptPacket_first hold hver hgen
      obtain ⟨hrows, _, _⟩ := hfab (s.parcel p).fab
      have hexec := exec_confluenceAnswerRx_packet mask hk
      rw [hacc] at hexec
      exact confluenceAnswerRx_ends (t := s.updFab p f) (world_updFab ..) (by rw [State.updFab_fab_same, hrows]) rfl rfl hrow hexec
  · have hdrop : acceptPacket s p k = (bumpPcnt (s.updFab p (fun f => { f with inbox := dropInbox k f.inbox })) p 10 1, false) := by
      simp only [acceptPacket, hold, if_true]
    have hw : world (bumpPcnt (s.updFab p (fun f => { f with inbox := dropInbox k f.inbox })) p 10 1) = world s :=
      (world_bumpPcnt ..).trans (world_updFab ..)
    have hexec := exec_confluenceAnswerRx_packet mask hk
    rw [hdrop] at hexec
    exact ⟨_, hexec, by simp, sameReaches_of_world hw, by simp, sameMemory_of_world hw, by simp, sameTime_of_world hw⟩
  · obtain ⟨hgone, hfl, hrest⟩ := endRow_ends (t := s) (bad := true) rfl rfl rfl rfl hrow
    refine ⟨endRow s p id true, congrArg Host.Outcome.next ?_, hgone, fun f hf hno => ?_, hrest⟩
    · simp only [hrow]
      exact if_pos h
    · obtain ⟨_, _, _, hst, _⟩ := hfl f hf hno
      exact hst
  · refine congrArg Host.Outcome.next ?_
    simp only [hrow]
    exact if_neg (Nat.not_le.mpr h)

end Sys2Proof.Machine
end

section
/-!
What a MOVE works with, and that it does not change as the MOVE enters its unit: its sides, their memories as its queue sees
them, and the parcels that it reaches (06 R177; 08 R229, R230; 09 R259; 12 R356).
-/

namespace Sys2Proof.Machine

/-! ### What an update of a reach keeps -/

/-- What the operands of a movement of parcel `p` are made of. -/
structure SameOperands (s e : State) (p : Nat) : Prop where
  kept : ∀ m, (e.reach p m).kept = (s.reach p m).kept
  cells : ∀ k, cells e k = cells s k
  poisoned : ∀ k, poisoned e k = poisoned s k
  posted : e.posted = s.posted
  torus : e.hub.torus = s.hub.torus
  reachable : ∀ q, reachable e p q = reachable s p q
  fab : (e.parcel p).fab = (s.parcel p).fab
  datum : e.datum = s.datum

theorem ringOpen_updReach (s : State) (p l : Nat) (f : Reach → Reach) (minus : Bool) (n q : Nat) :
    ringOpen (s.updReach p l f) minus n q = ringOpen s minus n q := by
  induction n generalizing q with
  | zero => rfl
  | succ n ih => simp [ringOpen, ringHop, relays, ih]

theorem reachable_updReach (s : State) (p l : Nat) (f : Reach → Reach) (a b : Nat) :
    reachable (s.updReach p l f) a b = reachable s a b := by
  simp [reachable, ringWay, ringOpen_updReach, relays]

theorem sameOperands_updReach (s : State) (p l : Nat) {f : Reach → Reach} (h : (f (s.reach p l)).kept = (s.reach p l).kept) :
    SameOperands s (s.updReach p l f) p where
  kept m := by
    rw [State.updReach_reach]
    split
    · next hm => obtain ⟨_, rfl⟩ := hm; exact h
    · rfl
  cells := cells_of_around (around_updReach s p l f h)
  poisoned k := by
    cases k with
    | sm q => simp [poisoned]
    | cb q c => simp [poisoned]
    | sp q m =>
      rw [poisoned, poisoned, State.updReach_reach]
      split
      · next hm => obtain ⟨rfl, rfl⟩ := hm; exact (congrArg Reach.spPoison h :)
      · rfl
    | imem q m =>
      rw [poisoned, poisoned, State.updReach_reach]
      split
      · next hm => obtain ⟨rfl, rfl⟩ := hm; exact (congrArg Reach.imemPoison h :)
      · rfl
  posted := rfl
  torus := rfl
  reachable := reachable_updReach s p l f p
  fab := State.updReach_parcel_fab ..
  datum := rfl

theorem Entering.sameOperands {s e : State} {p l : Nat} {pl : Plan} (h : Entering s e p l pl) : SameOperands s e p := by
  obtain ⟨_, _, _, _, rfl⟩ := h
  exact sameOperands_updReach s p l rfl

/-! ### What a movement makes of them -/

section
variable {s e : State} {p : Nat} (h : SameOperands s e p)
include h

theorem SameOperands.swzKey (l k : Nat) : swzKey (e.reach p l) k = swzKey (s.reach p l) k := by
  have hswz : (e.reach p l).swz = (s.reach p l).swz := (congrArg Reach.swz (h.kept l) :)
  rw [Machine.swzKey, hswz, Machine.swzKey]

theorem SameOperands.mvSrc (l : Nat) (j : Job) : mvSrc e p l j = mvSrc s p l j := by
  unfold Machine.mvSrc
  rw [h.swzKey]

theorem SameOperands.mvDst (l : Nat) (j : Job) : mvDst e p l j = mvDst s p l j := by
  unfold Machine.mvDst
  rw [h.swzKey]

theorem SameOperands.mvSrcIv (l : Nat) (j : Job) : mvSrcIv e p l j = mvSrcIv s p l j := by
  unfold Machine.mvSrcIv
  rw [h.mvSrc]

theorem SameOperands.mvDstIv (l : Nat) (j : Job) : mvDstIv e p l j = mvDstIv s p l j := by
  unfold Machine.mvDstIv
  rw [h.mvDst]

theorem SameOperands.phys (l : Nat) (d : MvSide) : d.phys e p l = d.phys s p l := by
  have hsp (m : Nat) : (e.reach p m).spBase = (s.reach p m).spBase := (congrArg Reach.spBase (h.kept m) :)
  have hcb : (e.reach p l).cbBase = (s.reach p l).cbBase := (congrArg Reach.cbBase (h.kept l) :)
  unfold MvSide.phys MvSide.base
  rw [hsp, hcb]

theorem SameOperands.viewOf (k : Space) (writer : Nat) (u : FuncUnit) : viewOf e k writer u = viewOf s k writer u := by
  unfold Machine.viewOf
  rw [h.posted, h.cells]

theorem SameOperands.viewPoison (k : Space) (writer : Nat) (u : FuncUnit) : viewPoison e k writer u = viewPoison s k writer u := by
  unfold Machine.viewPoison
  rw [h.posted, h.poisoned]

theorem SameOperands.mvBlocked (l : Nat) (j : Job) : mvBlocked e p l j = mvBlocked s p l j := by
  simp only [Machine.mvBlocked, h.mvSrc, h.mvDst, h.mvSrcIv, h.mvDstIv, h.reachable]

theorem SameOperands.messageRun (l : Nat) (j : Job) : messageRun e p l j = messageRun s p l j := by
  simp only [Machine.messageRun, mvDense, h.mvSrc, h.mvDst, h.phys, h.viewOf, h.viewPoison]

theorem SameOperands.idFree : idFree e p = idFree s p := by
  have hq : e.qTicks = s.qTicks := by rw [State.qTicks, State.expiry, h.torus, State.qTicks, State.expiry]
  unfold Machine.idFree
  rw [h.fab, hq, h.datum]

theorem SameOperands.messageHeld (l : Nat) (j : Job) : messageHeld e p l j = messageHeld s p l j := by
  unfold Machine.messageHeld messageChan
  rw [h.fab, h.mvDstIv, h.idFree]

end

end Sys2Proof.Machine
end

section
/-!
A MOVE that saves or restores the pool (03 R77, R78; 06 R178): its checks, its bytes on the memory as its queue sees it, and
the image.
-/

namespace Sys2Proof.Machine

/-! ### The checks that it has passed (R163, R177) -/

theorem firstFail_none {cs : List (Option Fail)} (h : firstFail cs = none) : ∀ c ∈ cs, c = none :=
  List.findSome?_eq_none_iff.mp h

theorem mvRoute_of_poolSave {s : State} {p : Nat} {j : Job} (h : mvForm s p j = .poolSave) : mvRoute j = 10 := by
  by_contra hr
  revert h
  rw [mvForm, if_neg hr]
  repeat' split
  all_goals simp

theorem mvRoute_of_poolRestore {s : State} {p : Nat} {j : Job} (h : mvForm s p j = .poolRestore) : mvRoute j = 11 := by
  by_contra hr
  revert h
  rw [mvForm, if_neg hr]
  repeat' split
  all_goals simp

/-- Only routes between memories of the parcel run on the parcel DMA (R177). -/
theorem mvParcel_of_poolRoute {s : State} {p l : Nat} {j : Job} (h : mvIllegal s p l j = none)
    (hr : mvRoute j = 10 ∨ mvRoute j = 11) : mvParcel j = false := by
  have hcheck := firstFail_none h (failIllegal j (if mvParcel j then !(mvRoute j == 4 || mvRoute j == 5 || mvRoute j == 7)
    else mvRoute j == 7) 0xFFFF) (by simp)
  cases hp : mvParcel j
  · rfl
  · obtain hr | hr := hr <;> simp [hp, hr, failIllegal, mkFail] at hcheck

/-- An interval is not empty once it has been widened for a swizzle (R230). -/
theorem widen_nonempty (k : Option SwzKey) {a b : Int} (h : a ≤ b) : ¬ (widen k (a, b)).2 < (widen k (a, b)).1 := by
  cases k with
  | none => simpa [widen] using h
  | some k =>
    have hg : (0 : Int) < 2 ^ (k.tgt + k.n) := by positivity
    simp only [widen, if_neg (not_lt.mpr h)]
    have hlo := Int.ediv_mul_le a hg.ne'
    have hhi := Int.lt_ediv_add_one_mul_self b hg
    omega

/-- A side in stacked memory that the reach DMA may name lies in the own parcel (R177). -/
theorem parcel_of_sideBound {s : State} {p l : Nat} {j : Job} {d : MvSide} {opnd : Nat} {iv : Int × Int} {write : Bool}
    (h : sideBound s p l j false d opnd iv write = none) (hmem : d.mem = .sm) (hiv : ¬ iv.2 < iv.1) : d.parcel = p := by
  by_contra hp
  simp [sideBound, hiv, hmem, hp, failAddress, mkFail] at h

section
variable {s : State} {p l : Nat} {j : Job} (hc : firstFail (mvPlan s p l j).checks = none)
include hc

theorem mvIllegal_of_checks : mvIllegal s p l j = none := firstFail_none hc _ (by simp [mvPlan])
theorem mvBound_of_checks : mvBound s p l j = none := firstFail_none hc _ (by simp [mvPlan])

theorem mvDst_of_poolSave (hf : mvForm s p j = .poolSave) :
    (mvDst s p l j).mem = .sm ∧ (mvDst s p l j).parcel = p ∧ (mvSrc s p l j).mem = .pool := by
  have hr := mvRoute_of_poolSave hf
  have hmem : (mvDst s p l j).mem = .sm := by simp [mvDst, hr, routeDst, mkSide, smSide]
  have hside := firstFail_none (mvBound_of_checks hc) (if decide (mvForm s p j = .message) then none
    else sideBound s p l j (mvParcel j) (mvDst s p l j) 1 (mvDstIv s p l j) true) (by simp)
  rw [hf, mvParcel_of_poolRoute (mvIllegal_of_checks hc) (.inl hr)] at hside
  refine ⟨hmem, parcel_of_sideBound (by simpa using hside) hmem ?_, by simp [mvSrc, hr, routeSrc, mkSide]⟩
  rw [mvDstIv, hr]
  exact widen_nonempty _ (by simp [poolImageBytes])

theorem mvSrc_of_poolRestore (hf : mvForm s p j = .poolRestore) :
    (mvSrc s p l j).mem = .sm ∧ (mvSrc s p l j).parcel = p ∧ (mvDst s p l j).mem = .pool := by
  have hr := mvRoute_of_poolRestore hf
  have hmem : (mvSrc s p l j).mem = .sm := by simp [mvSrc, hr, routeSrc, mkSide, smSide]
  have hside := firstFail_none (mvBound_of_checks hc) (sideBound s p l j (mvParcel j) (mvSrc s p l j) 0 (mvSrcIv s p l j) false)
    (by simp)
  rw [mvParcel_of_poolRoute (mvIllegal_of_checks hc) (.inr hr)] at hside
  refine ⟨hmem, parcel_of_sideBound hside hmem ?_, by simp [mvDst, hr, routeDst, mkSide]⟩
  rw [mvSrcIv, hr]
  exact widen_nonempty _ (by simp [poolImageBytes])

end

/-- The own parcel is always in reach (R408). -/
theorem mvBlocked_own {s : State} {p l : Nat} {j : Job} (hsrc : (mvSrc s p l j).mem = .sm → (mvSrc s p l j).parcel = p)
    (hdst : (mvDst s p l j).mem = .sm → (mvDst s p l j).parcel = p) : mvBlocked s p l j = none := by
  have hself : reachable s p p = true := by simp [reachable]
  have hside (d : MvSide) (hd : d.mem = .sm → d.parcel = p) : (decide (d.mem = .sm) && !reachable s p d.parcel) = false := by
    by_cases hm : d.mem = .sm
    · simp [hm, hd hm, hself]
    · simp [hm]
  simp only [mvBlocked, hside _ hsrc, hside _ hdst, Bool.false_eq_true, if_false]
  rfl

/-! ### Swizzled addresses (R229, R230) -/

/-- A swizzle whose source field lies above the field that it changes is its own inverse. -/
theorem swizzle_swizzle (k : SwzKey) (h : k.tgt + k.n ≤ k.src) (o : Nat) : swizzle (some k) (swizzle (some k) o) = o := by
  have hlt : field o k.src k.n * 2 ^ k.tgt < 2 ^ k.src :=
    calc field o k.src k.n * 2 ^ k.tgt < 2 ^ k.n * 2 ^ k.tgt := Nat.mul_lt_mul_of_pos_right (field_lt ..) (by positivity)
      _ = 2 ^ (k.tgt + k.n) := by rw [Nat.add_comm, pow_add]
      _ ≤ 2 ^ k.src := Nat.pow_le_pow_right (by omega) h
  have hfield : field (o ^^^ (field o k.src k.n * 2 ^ k.tgt)) k.src k.n = field o k.src k.n := by
    rw [field, Nat.shiftRight_xor_distrib, Nat.shiftRight_eq_div_pow (field o k.src k.n * 2 ^ k.tgt), Nat.div_eq_of_lt hlt,
      Nat.xor_zero, ← field]
  rw [swizzle, swizzle, hfield, Nat.xor_assoc, Nat.xor_self, Nat.xor_zero]

theorem swizzle_inj {key : Option SwzKey} (h : ∀ k, key = some k → k.tgt + k.n ≤ k.src) {a b : Nat}
    (hab : swizzle key a = swizzle key b) : a = b := by
  cases key with
  | none => exact hab
  | some k => rw [← swizzle_swizzle k (h k rfl) a, hab, swizzle_swizzle k (h k rfl) b]

theorem phys_inj {s : State} {p l : Nat} {d : MvSide} (h : ∀ k, d.key = some k → k.tgt + k.n ≤ k.src) {a i k : Nat}
    (hab : d.phys s p l (a + i) = d.phys s p l (a + k)) : i = k := by
  have hcast (n : Nat) : ((a : Int) + n).toNat = a + n := by omega
  simp only [MvSide.phys, hcast] at hab
  have := swizzle_inj h (Nat.add_left_cancel hab)
  omega

/-! ### The bytes of a write -/

section
variable (ph : Int → Nat)

theorem find_putBytes_other (bs : List Byte) (ov : Overlay) (o : Int) {b : Nat} (h : ∀ i < bs.length, b ≠ ph (o + i)) :
    SMap.find (putBytes ph ov o bs) b = SMap.find ov b := by
  induction bs generalizing ov o with
  | nil => rfl
  | cons x bs ih =>
    have h0 : b ≠ ph o := by simpa using h 0 (by simp)
    rw [putBytes, ih (putByte ov (ph o) x) (o + 1) (fun i hi => ?_), putByte, SMap.find_put_other _ _ _ _ h0]
    have := h (i + 1) (by simpa using hi)
    rwa [Nat.cast_add, Nat.cast_one, add_comm (i : Int) 1, ← add_assoc] at this

theorem find_putBytes (bs : List Byte) (ov : Overlay) (o : Int)
    (hinj : ∀ i < bs.length, ∀ k < bs.length, ph (o + i) = ph (o + k) → i = k) {i : Nat} (hi : i < bs.length) :
    SMap.find (putBytes ph ov o bs) (ph (o + i)) = some (bs.getD i 0) := by
  induction bs generalizing ov o i with
  | nil => simp at hi
  | cons x bs ih =>
    have hshift (k : Nat) : o + 1 + (k : Int) = o + (k + 1 : Nat) := by push_cast; ring
    rw [putBytes]
    cases i with
    | zero =>
      rw [find_putBytes_other ph bs _ _ (fun k hk heq => ?_), putByte, Nat.cast_zero, add_zero, SMap.find_put_same]
      · rfl
      · rw [hshift] at heq
        exact absurd (hinj 0 (by simp) (k + 1) (by simpa using hk) heq) (by omega)
    | succ i =>
      rw [← hshift, ih (putByte ov (ph o) x) (o + 1) (fun a ha b hb hab => ?_) (by simpa using hi), List.getD_cons_succ]
      rw [hshift, hshift] at hab
      exact Nat.succ_injective (hinj (a + 1) (by simpa using ha) (b + 1) (by simpa using hb) hab)

theorem sorted_putBytes (bs : List Byte) {ov : Overlay} (o : Int) (h : SMap.sorted ov = true) :
    SMap.sorted (putBytes ph ov o bs) = true := by
  induction bs generalizing ov o with
  | nil => exact h
  | cons x bs ih =>
    refine ih (o + 1) ?_
    rw [SMap.sorted_iff_pairwise] at h ⊢
    exact pairwise_put _ _ h

end

/-- A byte after the bytes of an overlay have been written. -/
theorem memByte_overlay {ov : Overlay} {m : Mem} (a : Nat) (hs : SMap.sorted ov = true) (hm : memWf m = true) :
    memByte (ov.foldl (fun m c => memSet m c.1 c.2) m) a = (SMap.find ov a).getD (memByte m a) := by
  induction ov generalizing m with
  | nil => rfl
  | cons c ov ih =>
    obtain ⟨k, v⟩ := c
    rw [List.foldl_cons, ih (SMap.sorted_tail hs) (memWf_set k v hm), memByte_set k a v hm, SMap.find]
    by_cases hka : k = a
    · subst hka
      rw [SMap.find_none_of_lt ov k v hs k le_rfl, if_pos rfl, if_pos rfl]
      rfl
    · rw [if_neg hka, if_neg (Ne.symm hka)]
      split
      · next hlt => rw [SMap.find_none_of_lt ov k v hs a hlt.le]
      · rfl

/-! ### Memory as a queue sees it (R356) -/

/-- A write that is posted shows to its own queue at once, and to no other. -/
theorem viewOf_posted {s t : State} {w : Posted} (hp : t.posted = s.posted ++ [w]) (hc : ∀ k, cells t k = cells s k)
    (k : Space) (writer : Nat) (u : FuncUnit) : viewOf t k writer u =
      if k = .sm w.p ∧ w.writer = writer ∧ w.unit = u then w.cells.foldl (fun m c => memSet m c.1 c.2) (viewOf s k writer u)
      else viewOf s k writer u := by
  cases k with
  | sm q =>
    simp only [viewOf, hp, hc, List.filter_append, List.foldl_append]
    by_cases h : q = w.p ∧ w.writer = writer ∧ w.unit = u
    · obtain ⟨rfl, rfl, rfl⟩ := h
      simp
    · rw [if_neg (by simpa using h), List.filter_cons_of_neg (by simp; tauto)]
      rfl
  | _ => simp [viewOf, hc]

theorem memWf_viewOf {s : State} {p : Nat} (writer : Nat) (u : FuncUnit) (h : memWf (s.parcel p).mem = true) :
    memWf (viewOf s (.sm p) writer u) = true := by
  rw [viewOf]
  generalize s.posted.filter (fun w => w.p == p && w.writer == writer && w.unit == u) = ws
  have hm : memWf (cells s (.sm p)) = true := h
  generalize cells s (.sm p) = m at hm ⊢
  induction ws generalizing m with
  | nil => exact hm
  | cons w ws ih => exact ih _ (memWf_foldl _ hm)

/-! ### Save (R77, R178) -/

theorem entryWords_length (pool : SMap PoolEntry) (k n : Nat) : (entryWords pool k n).length = 8 * k := by
  induction k generalizing n with
  | zero => rfl
  | succ k ih => rw [entryWords, List.length_append, entryWord, leBytes_length, ih]; omega

theorem poolImage_length (r : Reach) : (poolImage r).length = 65856 := by
  simp [poolImage, entryWords_length, statBytes, leBytes_length]

/-- What a save to parcel `p` posts, counts and notes. -/
def savedPool (s : State) (p l no : Nat) (src : Space) (ov : Overlay) (ws : List (Space × Nat)) : State :=
  bumpCnt (postWrite (devReadAt (noteUndo s p l no .reachDma ws) src (srcReach p l) []) (.sm p) (srcReach p l) .reachDma ov)
    p l 15 ov.length

theorem finishMove_save (s : State) (p l no : Nat) (j : Job) {src dst : MvSide} (hsrc : src.mem = .pool) (hdst : dst.mem = .sm)
    (hp : dst.parcel = p) (ov : Overlay) (ws : List (Space × Nat)) :
    finishMove s p l no j src dst false { ov := ov, ws := ws.reverse } = savedPool s p l no (src.space p l) ov ws := by
  have hspace : dst.space p l = .sm p := by simp [MvSide.space, hdst, hp]
  simp [finishMove, savedPool, countMove, sideParcel, dmaUnitOf, hsrc, hdst, hp, hspace]

/-- A save posts its one write; besides the counters and what the instruction notes it leaves the package as it is. -/
theorem savedPool_keeps (s : State) (p l no : Nat) (src : Space) {ov : Overlay} (ws : List (Space × Nat)) (hup : s.upsets = [])
    (hov : ov ≠ []) :
    (savedPool s p l no src ov ws).posted =
      s.posted ++ [{ p := p, writer := srcReach p l, unit := .reachDma, cells := ov, fenced := false }] ∧
    (world (savedPool s p l no src ov ws)).around p l = (world s).around p l ∧
    ((savedPool s p l no src ov ws).reach p l).task = (s.reach p l).task ∧
    ((savedPool s p l no src ov ws).reach p l).pool = (s.reach p l).pool ∧
    ((savedPool s p l no src ov ws).reach p l).ruined = (s.reach p l).ruined ∧
    ((savedPool s p l no src ov ws).reach p l).flights = ((noteUndo s p l no .reachDma ws).reach p l).flights := by
  obtain ⟨n, hn⟩ : ∃ n, n = noteUndo s p l no .reachDma ws := ⟨_, rfl⟩
  obtain ⟨r, hr⟩ : ∃ r, r = devReadAt n src (srcReach p l) [] := ⟨_, rfl⟩
  have hnup : n.upsets = [] := by rw [hn]; exact hup
  have hrw : world r = world n := by rw [hr]; exact world_devReadAt _ _ _ _ hnup
  have hrp : r.posted = s.posted := by
    rw [hr, devReadAt_sound _ _ _ _ hnup, smCount_posted, backInvalidate_posted, hn]
    rfl
  obtain ⟨t, ht⟩ : ∃ t, t = postWrite r (.sm p) (srcReach p l) .reachDma ov := ⟨_, rfl⟩
  have htp : t = { r with posted := r.posted ++ [{ p := p, writer := srcReach p l, unit := .reachDma, cells := ov }] } := by
    rw [ht, postWrite, if_neg (by simpa using hov)]
  have htw : world t = world n := by rw [htp, world_posted, hrw]
  have hsave : savedPool s p l no src ov ws = bumpCnt t p l 15 ov.length := by rw [savedPool, ← hn, ← hr, ← ht]
  have hnr : n.reach p l = { s.reach p l with flights := (n.reach p l).flights } := by rw [hn]; simp [noteUndo, updFlight]
  rw [hsave]
  refine ⟨?_, ?_, ?_, ?_, ?_, ?_⟩
  · rw [bumpCnt_posted, htp, hrp]
  · rw [around_bumpCnt, htw, hn, noteUndo, around_updFlight]
  · rw [bumpCnt_task, reach_of_world htw, hnr]
  · rw [bumpCnt_pool, reach_of_world htw, hnr]
  · rw [bumpCnt_ruined, reach_of_world htw, hnr]
  · rw [bumpCnt_flights, reach_of_world htw, hn]

section
variable {ph : Int → Nat} {r : Reach} {o : Int}

/-- The image that a save writes, over addresses that no two of its bytes share. -/
theorem find_image (h : ∀ i k : Nat, ph (o + i) = ph (o + k) → i = k) {i : Nat} (hi : i < 65856) :
    SMap.find (putBytes ph [] o (poolImage r)) (ph (o + i)) = some ((poolImage r).getD i 0) :=
  find_putBytes ph _ _ _ (fun i _ k _ => h i k) (by rw [poolImage_length]; exact hi)

theorem find_image_outside {b : Nat} (h : ¬ ∃ i : Nat, i < 65856 ∧ b = ph (o + i)) :
    SMap.find (putBytes ph [] o (poolImage r)) b = none :=
  find_putBytes_other ph _ _ _ (fun i hi heq => h ⟨i, by rwa [poolImage_length] at hi, heq⟩)

end

/-- The issue of a MOVE that saves the pool. -/
theorem movePoolSave_saves (p : ParcelId) (l : ReachId) (s : State) (j : Job) (hj : j = headJob s p l) (hop : wOp j.word = 4)
    (hI : Issues s p l (mvPlan s p l j)) (a : Nat) (ph : Int → Nat) (hform : mvForm s p j = .poolSave)
    (hwf : memWf (s.parcel p).mem = true) (ha : a = (mvDst s p l j).addr) (hph : ph = (mvDst s p l j).phys s p l)
    (hkey : ∀ k, (mvDst s p l j).key = some k → k.tgt + k.n ≤ k.src) :
    Gives (.movePoolSave p l) s (fun t => Entered s t p l .reachDma 0 .none ∧
      (∀ i : Nat, i < 65856 → seenByte t p l .reachDma (.sm p) (ph (a + i)) = (poolImage (s.reach p l)).getD i 0) ∧
      (∀ k b, ¬ (k = .sm p ∧ ∃ i : Nat, i < 65856 ∧ b = ph (a + i)) →
        seenByte t p l .reachDma k b = seenByte s p l .reachDma k b) ∧
      SameMemory s t ∧ (∃ w, t.posted = s.posted ++ [w] ∧ w.writer = srcReach p l ∧ w.fenced = false) ∧
      (t.reach p l).pool = (s.reach p l).pool ∧ (t.reach p l).s = (s.reach p l).s ∧ SameTables s t p l ∧
      OtherReaches s t p l ∧ SameClusters s t ∧ SameTime s t) := by
  subst hj
  obtain ⟨e, he, hissue⟩ := exec_atMostStops (i := .movePoolSave p l)
    (sel := fun w => wOp w == 4 && decide (mvForm s p (headJob s p l) = .poolSave)) (plan := mvPlan s p l)
    (run := runPoolSave p l) rfl (by simp [hop, hform]) hI
  obtain ⟨_, _, hchecks, _, _, _, hup, _⟩ := hI
  obtain ⟨hmem, hparcel, hsrc⟩ := mvDst_of_poolSave hchecks hform
  have hsame := he.sameOperands
  have hpar : mvParcel (headJob s p l) = false :=
    mvParcel_of_poolRoute (mvIllegal_of_checks hchecks) (.inl (mvRoute_of_poolSave hform))
  have hunit : (mvPlan s p l (headJob s p l)).unit = .reachDma := by simp [mvPlan, hpar]
  obtain ⟨ov, hov⟩ : ∃ ov, ov = putBytes ph [] a (poolImage (s.reach p l)) := ⟨_, rfl⟩
  obtain ⟨ws, hws⟩ : ∃ ws, ws = ov.map (fun c => (Space.sm p, c.1)) := ⟨_, rfl⟩
  have himage : poolImage (e.reach p l) = poolImage (s.reach p l) := by
    unfold poolImage
    rw [he.pool, he.paired, he.stats]
  have hrun : runPoolSave p l e (headJob s p l) ((s.reach p l).task.issueNo + 1) =
      savedPool e p l ((s.reach p l).task.issueNo + 1) ((mvSrc s p l (headJob s p l)).space p l) ov ws := by
    have hspace : (mvDst s p l (headJob s p l)).space p l = .sm p := by simp [MvSide.space, hmem, hparcel]
    have hblocked := mvBlocked_own (s := s) (j := headJob s p l) (by simp [hsrc]) (fun _ => hparcel)
    rw [runPoolSave, hsame.mvBlocked, hblocked]
    simp only [hsame.mvDst, hsame.mvSrc, hsame.phys, himage, hspace, ← hph, ← ha, ← hov, ← hws]
    exact finishMove_save e p l _ _ hsrc hmem hparcel ov ws
  have hinj : ∀ i k : Nat, ph (a + i) = ph (a + k) → i = k := fun i k h => by rw [hph] at h; exact phys_inj hkey h
  have hne : ov ≠ [] := by
    intro hnil
    have hfirst := find_image (r := s.reach p l) hinj (i := 0) (by omega)
    rw [← hov, hnil] at hfirst
    simp [SMap.find] at hfirst
  obtain ⟨hpo, haround, htask, hpool, hru, hfl⟩ := savedPool_keeps e p l ((s.reach p l).task.issueNo + 1)
    ((mvSrc s p l (headJob s p l)).space p l) ws (he.upsets.trans hup) hne
  obtain ⟨t, hexec, hstop⟩ := hissue _ hrun.symm ⟨hru, fun w hw => by
    rw [hpo, List.mem_append, List.mem_singleton] at hw
    exact hw.imp id (fun h => by rw [h]), by rw [htask], fun h => by rw [hfl]; simpa [noteUndo, updFlight] using h⟩
  have hentn := he.entered.updFlight (f := fun f => { f with undo := f.undo ++ (piecesOf 512 ws.length ws).map (fun g =>
    { bytes := bytesBefore e (srcReach p l) .reachDma g }) }) (fun _ => ⟨rfl, rfl, rfl⟩) (fun _ hst hw => ⟨hst, hw⟩)
  have hentu := hentn.congr (t' := savedPool e p l ((s.reach p l).task.issueNo + 1)
    ((mvSrc s p l (headJob s p l)).space p l) ov ws) (by rw [htask]; simp [updFlight]) (by rw [htask]; simp [updFlight]) hfl
  have hall := (hstop.around.trans haround).trans he.around
  have hposted := hstop.posted.trans (hpo.trans (by rw [he.posted]))
  have hview := viewOf_posted hposted (cells_of_around hall)
  have hsorted : SMap.sorted ov = true := by
    rw [hov]
    exact sorted_putBytes ph (poolImage (s.reach p l)) (ov := []) a rfl
  have hseen (b : Nat) : seenByte t p l .reachDma (.sm p) b =
      (SMap.find ov b).getD (seenByte s p l .reachDma (.sm p) b) := by
    rw [seenByte, hview, if_pos ⟨rfl, rfl, rfl⟩,
      memByte_overlay b hsorted (memWf_viewOf _ _ hwf)]
    rfl
  refine ⟨t, hexec, hunit ▸ hstop.entered hentu, fun i hi => ?_, fun k b hkb => ?_, sameMemory_of_around hall,
    ⟨_, hposted, rfl, rfl⟩, by rw [hstop.pool, hpool, he.pool], scalars_of_around hall, sameTables_of_around hall,
    otherReaches_of_around hall, sameClusters_of_around hall, sameTime_of_around hall⟩
  · rw [hseen, hov, find_image hinj hi]
    rfl
  · by_cases hk : k = .sm p
    · subst hk
      rw [hseen, hov, find_image_outside (fun h => hkb ⟨rfl, h⟩)]
      rfl
    · rw [seenByte, hview, if_neg (fun h => hk h.1)]
      rfl

end Sys2Proof.Machine
end

section
/-!
A MOVE that restores the pool (03 R78; 06 R178): the entries, tags and statistics that it takes from an image, and the image
whose tags do not pair.
-/

namespace Sys2Proof.Machine

/-! ### Maps that list what is not the default -/

section
variable {α : Type} [DecidableEq α] {d e : α} {rest : SMap α} {n : Nat}

theorem find_listed_below (h : ∀ i ≤ n, SMap.find rest i = none) {i : Nat} (hi : i < n) :
    SMap.find (if e = d then rest else (n, e) :: rest) i = none := by
  split
  · exact h i hi.le
  · rw [SMap.find, if_neg (by omega), if_pos hi]

theorem get_listed (h : ∀ i ≤ n, SMap.find rest i = none) (i : Nat) :
    SMap.get d (if e = d then rest else (n, e) :: rest) i = if i = n then e else SMap.get d rest i := by
  split
  · next he =>
    split
    · next hi => rw [SMap.get, h i hi.le, he]; rfl
    · rfl
  · rw [SMap.get, SMap.find]
    rcases Nat.lt_trichotomy i n with hlt | rfl | hgt
    · rw [if_neg (by omega), if_pos hlt, if_neg (by omega), SMap.get, h i hlt.le]
    · rw [if_pos rfl, if_pos rfl]; rfl
    · rw [if_neg (by omega), if_neg (by omega), if_neg (by omega), SMap.get]

end

/-! ### The image (R77, R78) -/

/-- Entry `n` as an image with these tags gives it, from its bytes on. -/
def entryOf (tags : BitVec 32) (n : Nat) (bs : List Byte) : PoolEntry :=
  { v := BitVec.ofNat 36 (leVal (bs.take 8)), ovf := bit (leVal (bs.take 8)) 36 && !(bvb tags (n / 256) && n % 2 == 1) }

/-- The statistics of one row as an image gives them. -/
def statOf (bs : List Byte) : RowStat :=
  { mx := signed 64 (leVal (bs.take 8)), sum := BitVec.ofNat 64 (leVal ((bs.drop 8).take 8)) }

/-- The map of `k` items from number `n` on, each `w` bytes of an image, that lists what is not the default `d`. -/
def itemsOf {α : Type} [DecidableEq α] (d : α) (item : Nat → List Byte → α) (w : Nat) : Nat → Nat → List Byte → SMap α
  | 0, _, _ => []
  | k + 1, n, bs =>
    if item n bs = d then itemsOf d item w k (n + 1) (bs.drop w) else (n, item n bs) :: itemsOf d item w k (n + 1) (bs.drop w)

theorem poolOf_eq_itemsOf (tags : BitVec 32) (k n : Nat) (bs : List Byte) :
    poolOf tags k n bs = itemsOf {} (entryOf tags) 8 k n bs := by
  induction k generalizing n bs with
  | zero => rfl
  | succ k ih => rw [itemsOf, ← ih]; rfl

theorem statsOf_eq_itemsOf (k n : Nat) (bs : List Byte) : statsOf k n bs = itemsOf {} (fun _ => statOf) 16 k n bs := by
  induction k generalizing n bs with
  | zero => rfl
  | succ k ih => rw [itemsOf, ← ih]; rfl

theorem get_itemsOf {α : Type} [DecidableEq α] (d : α) (item : Nat → List Byte → α) (w k n : Nat) (bs : List Byte) :
    (∀ i < n, SMap.find (itemsOf d item w k n bs) i = none) ∧
    ∀ i < k, SMap.get d (itemsOf d item w k n bs) (n + i) = item (n + i) (bs.drop (w * i)) := by
  induction k generalizing n bs with
  | zero => exact ⟨fun _ _ => rfl, fun i hi => absurd hi (by omega)⟩
  | succ k ih =>
    obtain ⟨hbelow, hget⟩ := ih (n + 1) (bs.drop w)
    have hrest : ∀ i ≤ n, SMap.find (itemsOf d item w k (n + 1) (bs.drop w)) i = none := fun i hi => hbelow i (by omega)
    refine ⟨fun i hi => find_listed_below hrest hi, fun i hi => ?_⟩
    rw [itemsOf, get_listed hrest]
    cases i with
    | zero => simp
    | succ i =>
      have hnext := hget i (by omega)
      rw [List.drop_drop, Nat.add_right_comm, Nat.add_assoc, Nat.add_comm w, ← Nat.mul_succ] at hnext
      rw [if_neg (by omega), hnext]

theorem take_drop_map_range {α : Type} (g : Nat → α) {m o n : Nat} (h : o + n ≤ m) :
    (((List.range m).map g).drop o).take n = (List.range n).map (fun i => g (o + i)) :=
  List.ext_getElem (by simp; omega) (fun i _ _ => by simp)

theorem bvb_ofNat (w x : Nat) {i : Nat} (hi : i < w) : bvb (BitVec.ofNat w x) i = x.testBit i := by
  rw [bvb, BitVec.toNat_ofNat, Nat.testBit_mod_two_pow, decide_eq_true hi, Bool.true_and]

theorem tagsOk_iff (x : Nat) : tagsOk (BitVec.ofNat 32 x) = true ↔ ∀ i < 16, x.testBit (2 * i) = x.testBit (2 * i + 1) := by
  simp only [tagsOk, List.all_eq_true, List.mem_range, beq_iff_eq]
  refine forall₂_congr (fun i hi => ?_)
  rw [bvb_ofNat _ _ (by omega), bvb_ofNat _ _ (by omega)]

section
variable {g : Nat → Byte} {b : Nat → Nat → Nat} (h : ∀ o n, b o n = leVal ((List.range n).map (fun i => g (o + i))))
include h

theorem leVal_image {o n : Nat} (hn : o + n ≤ 65856) : leVal ((((List.range 65856).map g).drop o).take n) = b o n := by
  rw [take_drop_map_range g hn, h]

/-- What a reach takes from an image whose tags pair (R78). -/
theorem restorePool_some (r : Reach) (hok : ∀ i < 16, (b 65536 4).testBit (2 * i) = (b 65536 4).testBit (2 * i + 1)) :
    ∃ r', restorePool r ((List.range 65856).map g) = some r' ∧ r'.paired = BitVec.ofNat 32 (b 65536 4) ∧
      (∀ n < 8192, (SMap.get {} r'.pool n).v = BitVec.ofNat 36 (b (8 * n) 8) ∧ (SMap.get {} r'.pool n).ovf =
        ((b (8 * n) 8).testBit 36 && !((b 65536 4).testBit (n / 256) && n % 2 == 1))) ∧
      ∀ i < 16, (SMap.get {} r'.stats i).mx = signed 64 (b (65600 + 16 * i) 8) ∧
        (SMap.get {} r'.stats i).sum = BitVec.ofNat 64 (b (65608 + 16 * i) 8) := by
  have htags := leVal_image h (o := 65536) (n := 4) (by omega)
  refine ⟨_, by rw [restorePool, htags]; exact if_pos ((tagsOk_iff _).mpr hok), rfl, fun n hn => ?_, fun i hi => ?_⟩
  · obtain ⟨_, hget⟩ := get_itemsOf {} (entryOf (BitVec.ofNat 32 (b 65536 4))) 8 8192 0 ((List.range 65856).map g)
    have hentry := hget n hn
    rw [← poolOf_eq_itemsOf, Nat.zero_add, entryOf, leVal_image h (by omega), bvb_ofNat _ _ (by omega)] at hentry
    rw [hentry]
    exact ⟨rfl, rfl⟩
  · obtain ⟨_, hget⟩ := get_itemsOf {} (fun _ => statOf) 16 16 0 (((List.range 65856).map g).drop 65600)
    have hrow := hget i hi
    rw [← statsOf_eq_itemsOf, Nat.zero_add, statOf, List.drop_drop, List.drop_drop, leVal_image h (by omega), leVal_image h (by omega),
      show 65600 + 16 * i + 8 = 65608 + 16 * i by omega] at hrow
    rw [hrow]
    exact ⟨rfl, rfl⟩

theorem restorePool_none (r : Reach) (hbad : ∃ i < 16, (b 65536 4).testBit (2 * i) ≠ (b 65536 4).testBit (2 * i + 1)) :
    restorePool r ((List.range 65856).map g) = none := by
  have htags := leVal_image h (o := 65536) (n := 4) (by omega)
  obtain ⟨i, hi, hne⟩ := hbad
  rw [restorePool, htags]
  exact if_neg (fun hok => hne ((tagsOk_iff _).mp hok i hi))

end

/-! ### Restore (R78, R178) -/

/-- The read of a movement from clean memory leaves everything but what it counts and the snoop filter. -/
theorem devReadAt_keeps {s : State} (k : Space) (requester : Nat) (as : List Nat) (h : s.upsets = []) :
    world (devReadAt s k requester as) = world s ∧ confView (devReadAt s k requester as) = confView s ∧
    (devReadAt s k requester as).posted = s.posted := by
  rw [devReadAt_sound _ _ _ _ h]
  exact ⟨by simp, by simp, by simp⟩

theorem unitAt_nil (k : Space) (as : List Nat) : unitAt [] k as = none := rfl

/-- The addresses that a restore reads. -/
def imageAddrs (s : State) (p l : Nat) (j : Job) : List Nat :=
  sideAddrs ((mvSrc s p l j).phys s p l) (mvSrc s p l j).addr poolImageBytes

/-- A reach with another pool. -/
def tookPool (s : State) (p l no : Nat) (r : Reach) (u : Undo) : State :=
  updFlight (s.updReach p l (fun x => { x with pool := r.pool, paired := r.paired, stats := r.stats })) p l no
    (fun f => { f with undo := [u] })

section
variable {s : State} {p l no : Nat} {j : Job} {bs : List Byte} (hblocked : mvBlocked s p l j = none)
  (hspace : (mvSrc s p l j).space p l = .sm p) (hpoison : (s.parcel p).poison = [])
  (hbs : sideBytes (viewOf s (.sm p) (srcReach p l) .reachDma) ((mvSrc s p l j).phys s p l) (mvSrc s p l j).addr poolImageBytes = bs)
include hblocked hspace hpoison hbs

theorem runPoolRestore_some {r : Reach} (hr : restorePool (s.reach p l) bs = some r) :
    ∃ u, runPoolRestore p l s j no = tookPool (devReadAt s (.sm p) (srcReach p l) (imageAddrs s p l j)) p l no r u := by
  have hclean : viewPoison s (.sm p) (srcReach p l) .reachDma = [] := by simp [viewPoison, poisoned, hpoison]
  refine ⟨{ pool := (s.reach p l).poolNow, rows := some ((s.reach p l).stats, (s.reach p l).calAcc) }, ?_⟩
  unfold runPoolRestore imageAddrs
  generalize mvSrc s p l j = src, poolImageBytes = n at hspace hbs ⊢
  rw [hblocked]
  dsimp only
  rw [hspace, hclean, hbs, hr]
  rfl

theorem runPoolRestore_none (hr : restorePool (s.reach p l) bs = none) :
    runPoolRestore p l s j no = lateFault (devReadAt s (.sm p) (srcReach p l) (imageAddrs s p l j)) p l no j
      (restoreFail (mvSrc s p l j).full) := by
  have hclean : viewPoison s (.sm p) (srcReach p l) .reachDma = [] := by simp [viewPoison, poisoned, hpoison]
  unfold runPoolRestore imageAddrs
  generalize mvSrc s p l j = src, poolImageBytes = n at hspace hbs ⊢
  rw [hblocked]
  dsimp only
  rw [hspace, hclean, hbs, hr]
  rfl

end

/-- A late fault of an instruction in flight ends it with status faulted, and stops issue (R164). -/
theorem lateFault_inFlight (s : State) (p l no : Nat) (j : Job) (f : Fail) (hf : (s.reach p l).flights ≠ [])
    (hw : (s.reach p l).task.wait = .none) : ∃ g : Task → Task,
    lateFault s p l no j f = (updFlight (raise s (srcReach p l) f.code f.payload) p l no (fun x => { x with status := 3 })).updTask
      p l g ∧ ∀ t, (g t).pc = t.pc ∧ (g t).issueNo = t.issueNo ∧ (g t).stopFault = true ∧ (t.wait = .none → (g t).wait = .none) := by
  rw [lateFault, lateFaultFrom]
  exact stopTask_inFlight _ _ _ _ _ _ _ (by simpa [updFlight] using hf) (by simpa [updFlight] using hw)

/-- The issue of a MOVE that restores the pool. -/
theorem movePoolRestore_restores (p : ParcelId) (l : ReachId) (s : State) (j : Job) (hj : j = headJob s p l) (hop : wOp j.word = 4)
    (hI : Issues s p l (mvPlan s p l j)) (hpoison : (s.parcel p).poison = []) (a : Nat) (b : Nat → Nat → Nat)
    (hform : mvForm s p j = .poolRestore) (ha : a = (mvSrc s p l j).addr)
    (hb : b = (fun (o n : Nat) => leVal ((List.range n).map (fun (i : Nat) =>
      seenByte s p l .reachDma (.sm p) ((mvSrc s p l j).phys s p l ((a + o + i : Nat) : Int)))))) :
    ((∀ i < 16, (b 65536 4).testBit (2 * i) = (b 65536 4).testBit (2 * i + 1)) →
      Gives (.movePoolRestore p l) s (fun t => Entered s t p l .reachDma 0 .none ∧
        (∀ n < 8192, (SMap.get {} (t.reach p l).pool n).v = BitVec.ofNat 36 (b (8 * n) 8) ∧
          (SMap.get {} (t.reach p l).pool n).ovf =
            ((b (8 * n) 8).testBit 36 && !((b 65536 4).testBit (n / 256) && n % 2 == 1))) ∧
        (t.reach p l).paired = BitVec.ofNat 32 (b 65536 4) ∧
        (∀ i < 16, (SMap.get {} (t.reach p l).stats i).mx = signed 64 (b (65600 + 16 * i) 8) ∧
          (SMap.get {} (t.reach p l).stats i).sum = BitVec.ofNat 64 (b (65608 + 16 * i) 8)) ∧
        (t.reach p l).s = (s.reach p l).s ∧ SameTables s t p l ∧ OtherReaches s t p l ∧ SameClusters s t ∧ SameMemory s t ∧
        SameTime s t)) ∧
    ((∃ i < 16, (b 65536 4).testBit (2 * i) ≠ (b 65536 4).testBit (2 * i + 1)) →
      Gives (.movePoolRestore p l) s (fun t => (∃ w, Entered s t p l .reachDma 3 w) ∧
        (t.reach p l).task.issuing = false ∧ (t.reach p l).pool = (s.reach p l).pool ∧
        (t.reach p l).paired = (s.reach p l).paired ∧ (t.reach p l).stats = (s.reach p l).stats ∧
        t.book = (raise s (srcReach p l) 0x1011
          (illegalPayload 4 0xFF 0xFFFF 0xFFFFFFFF (mvSrc s p l j).full 0)).book ∧
        OtherReaches s t p l ∧ SameClusters s t ∧ SameMemory s t ∧ SameTime s t)) := by
  subst hj
  obtain ⟨e, he, hissue⟩ := exec_atMostStops (i := .movePoolRestore p l)
    (sel := fun w => wOp w == 4 && decide (mvForm s p (headJob s p l) = .poolRestore)) (plan := mvPlan s p l)
    (run := runPoolRestore p l) rfl (by simp [hop, hform]) hI
  obtain ⟨_, _, hchecks, _, _, _, hup, _⟩ := hI
  obtain ⟨hmem, hparcel, hdst⟩ := mvSrc_of_poolRestore hchecks hform
  have hsame := he.sameOperands
  have hpar : mvParcel (headJob s p l) = false :=
    mvParcel_of_poolRoute (mvIllegal_of_checks hchecks) (.inr (mvRoute_of_poolRestore hform))
  have hunit : (mvPlan s p l (headJob s p l)).unit = .reachDma := by simp [mvPlan, hpar]
  obtain ⟨g, hg⟩ : ∃ g : Nat → Byte, g = fun i =>
    seenByte s p l .reachDma (.sm p) ((mvSrc s p l (headJob s p l)).phys s p l ((a + i : Nat) : Int)) := ⟨_, rfl⟩
  have hbg (o n : Nat) : b o n = leVal ((List.range n).map (fun i => g (o + i))) := by
    rw [hb, hg]
    simp only [Nat.add_assoc]
  have hblocked : mvBlocked e p l (headJob s p l) = none := by
    rw [hsame.mvBlocked]
    exact mvBlocked_own (fun _ => hparcel) (by simp [hdst])
  have hspace : (mvSrc e p l (headJob s p l)).space p l = .sm p := by
    rw [hsame.mvSrc]
    simp [MvSide.space, hmem, hparcel]
  have hpoison' : (e.parcel p).poison = [] := by rw [he.parcel p]; exact hpoison
  have hbytes : sideBytes (viewOf e (.sm p) (srcReach p l) .reachDma) ((mvSrc e p l (headJob s p l)).phys e p l)
      (mvSrc e p l (headJob s p l)).addr poolImageBytes = (List.range 65856).map g := by
    rw [hsame.viewOf, hsame.mvSrc, hsame.phys, hg, ← ha]
    simp only [sideBytes, seenByte, poolImageBytes, Nat.cast_add]
  obtain ⟨hrw, hrv, hrp⟩ := devReadAt_keeps (s := e) (.sm p) (srcReach p l) (imageAddrs e p l (headJob s p l))
    (he.upsets.trans hup)
  constructor
  · intro hok
    obtain ⟨r, hr, hpaired, hpool, hstats⟩ := restorePool_some hbg (e.reach p l) hok
    obtain ⟨u, hrun⟩ := runPoolRestore_some (no := (s.reach p l).task.issueNo + 1) hblocked hspace hpoison' hbytes hr
    obtain ⟨v, hv⟩ : ∃ v, v = devReadAt e (.sm p) (srcReach p l) (imageAddrs e p l (headJob s p l)) := ⟨_, rfl⟩
    rw [← hv] at hrw hrp hrun
    have hvr := reach_of_world hrw p l
    obtain ⟨t, hexec, hstop⟩ := hissue _ hrun.symm ⟨by simp [tookPool, updFlight, hvr],
      fun w hw => .inl (by simpa [tookPool, hrp] using hw), by simp [tookPool, updFlight, hvr],
      fun h => by simpa [tookPool, updFlight, hvr] using h⟩
    have htook : (world (tookPool v p l ((s.reach p l).task.issueNo + 1) r u)).around p l = (world v).around p l := by
      rw [tookPool, around_updFlight, around_updReach _ _ _ _ rfl]
    have hall := ((hstop.around.trans htook).trans (around_of_world hrw)).trans he.around
    have hent := (he.entered.congr (t' := v.updReach p l (fun x => { x with pool := r.pool, paired := r.paired, stats := r.stats }))
      (by simp [hvr]) (by simp [hvr]) (by simp [hvr])).updFlight (f := fun f => { f with undo := [u] }) (fun _ => ⟨rfl, rfl, rfl⟩)
      (fun _ hst hw => ⟨hst, hw⟩)
    have htpool : (t.reach p l).pool = r.pool := by rw [hstop.pool]; simp [tookPool, updFlight]
    have htpaired : (t.reach p l).paired = r.paired := by rw [hstop.paired]; simp [tookPool, updFlight]
    have htstats : (t.reach p l).stats = r.stats := by rw [hstop.stats]; simp [tookPool, updFlight]
    rw [← htpool] at hpool
    rw [← htstats] at hstats
    exact ⟨t, hexec, hunit ▸ hstop.entered hent, hpool, htpaired.trans hpaired, hstats, scalars_of_around hall,
      sameTables_of_around hall, otherReaches_of_around hall, sameClusters_of_around hall, sameMemory_of_around hall,
      sameTime_of_around hall⟩
  · intro hbad
    have hr := restorePool_none hbg (e.reach p l) hbad
    have hrun := runPoolRestore_none (no := (s.reach p l).task.issueNo + 1) hblocked hspace hpoison' hbytes hr
    obtain ⟨v, hv⟩ : ∃ v, v = devReadAt e (.sm p) (srcReach p l) (imageAddrs e p l (headJob s p l)) := ⟨_, rfl⟩
    rw [← hv] at hrw hrp hrv hrun
    have hvr := reach_of_world hrw p l
    obtain ⟨g', hlate, hg'⟩ := lateFault_inFlight v p l ((s.reach p l).task.issueNo + 1) (headJob s p l)
      (restoreFail (mvSrc e p l (headJob s p l)).full) (by rw [hvr]; exact he.entered.flights_ne_nil) (by rw [hvr]; exact he.wait)
    rw [hlate, hsame.mvSrc] at hrun
    obtain ⟨f, hf⟩ : ∃ f, f = restoreFail (mvSrc s p l (headJob s p l)).full := ⟨_, rfl⟩
    rw [← hf] at hrun
    obtain ⟨w, hw⟩ : ∃ w, w = updFlight (raise v (srcReach p l) f.code f.payload) p l ((s.reach p l).task.issueNo + 1)
      (fun x => { x with status := 3 }) := ⟨_, rfl⟩
    rw [← hw] at hrun
    obtain ⟨fl, hwr, hfl⟩ : ∃ fl, w.reach p l = { e.reach p l with flights := fl } ∧ ((e.reach p l).flights ≠ [] → fl ≠ []) :=
      ⟨_, by rw [hw, updFlight, State.updReach_reach_same, raise_reach, hvr], by simp⟩
    obtain ⟨t, hexec, hstop⟩ := hissue _ hrun.symm ⟨by simp [hwr], fun x hx => .inl (by simpa [hw, hrp] using hx),
      by simp [hg', hwr, he.wait], fun h => by simpa [hwr] using hfl h⟩
    have hstopped : ((w.updTask p l g').reach p l).task.issuing = false := by simp [Task.issuing, hg']
    have ht : t = w.updTask p l g' := hstop.stopped hstopped
    have hall : (world t).around p l = (world s).around p l := by
      rw [ht, around_updTask, hw, around_updFlight, world_raise, around_of_world hrw, he.around]
    have hent := (he.entered.of_reach (t' := raise v (srcReach p l) f.code f.payload) hvr).updFlight
      (f := fun x => { x with status := 3 }) (fun _ => ⟨rfl, rfl, rfl⟩) (fun _ _ hwt => ⟨rfl, hwt⟩)
    rw [← hw] at hent
    have hentt : Entered s t p l .reachDma 3 .none := by
      rw [ht, ← hunit]
      exact hent.congr (by simp [hg']) (by simp [hg']) (by simp)
    have hbook : t.book = (raise s (srcReach p l) f.code f.payload).book := by
      rw [ht, State.updTask_book, hw]
      have hpwr (q : Nat) : (v.parcel q).pwr = (s.parcel q).pwr :=
        (congrFun (congrArg ConfView.pwr hrv) q).trans (congrArg Parcel.pwr (he.parcel q) :)
      obtain ⟨hd, _, _, hph, _⟩ := sameTime_of_world hrw
      exact raise_book_congr ((book_of_confView hrv).trans he.book) (hd.trans he.datum) (hph.trans he.phase) hpwr _ _ _
    refine ⟨t, hexec, ⟨_, hentt⟩, ht ▸ hstopped, ?_, ?_, ?_, ?_,
      otherReaches_of_around hall, sameClusters_of_around hall, sameMemory_of_around hall, sameTime_of_around hall⟩
    · rw [ht, State.updTask, State.updReach_reach_same, hwr, ← he.pool]
    · rw [ht, State.updTask, State.updReach_reach_same, hwr, ← he.paired]
    · rw [ht, State.updTask, State.updReach_reach_same, hwr, ← he.stats]
    · rw [hbook, hf]
      rfl

end Sys2Proof.Machine
end

section
/-!
A MOVE into the send aperture (13 R317 to R319, R323): a packet leaves, the channel that does not send counts, and the MOVE that
waits for an identifier goes on.
-/

namespace Sys2Proof.Machine

/-! ### What a message works with, and what a read leaves of it -/

/-- The fabric of a parcel with what a message takes besides it, and what no message changes: the posted writes and the book. -/
structure Sending where
  fab : Fabric
  gen : BitVec 4
  torus : Word
  datum : Datum
  posted : List Posted
  book : Book

/-- That part of a state, for parcel `p`. -/
def sending (p : Nat) (s : State) : Sending :=
  { fab := (s.parcel p).fab, gen := (s.parcel p).gen, torus := s.hub.torus, datum := s.datum, posted := s.posted, book := s.book }

section
variable (p : Nat) (s : State)

@[simp] theorem sending_updParcel (q : Nat) (f : Parcel → Parcel) (hf : (f (s.parcel q)).fab = (s.parcel q).fab)
    (hg : (f (s.parcel q)).gen = (s.parcel q).gen) : sending p (s.updParcel q f) = sending p s := by
  have hp : ((s.updParcel q f).parcel p).fab = (s.parcel p).fab ∧ ((s.updParcel q f).parcel p).gen = (s.parcel p).gen := by
    rw [State.updParcel_parcel]
    split
    · next h => subst h; exact ⟨hf, hg⟩
    · exact ⟨rfl, rfl⟩
  simp only [sending, Sending.mk.injEq]
  exact ⟨hp.1, hp.2, rfl, rfl, rfl, rfl⟩

@[simp] theorem sending_updReach (q l : Nat) (f : Reach → Reach) : sending p (s.updReach q l f) = sending p s :=
  sending_updParcel p s q _ rfl rfl
@[simp] theorem sending_updMon (q : Nat) (f : Monitors → Monitors) : sending p (s.updMon q f) = sending p s :=
  sending_updParcel p s q _ rfl rfl
@[simp] theorem sending_updLink (q : Nat) (r : Port) (f : Link → Link) : sending p (s.updLink q r f) = sending p s :=
  sending_updParcel p s q _ rfl rfl
@[simp] theorem sending_updPort (f : HostPort → HostPort) : sending p (s.updPort f) = sending p s := rfl

@[simp] theorem sending_updFab (f : Fabric → Fabric) :
    sending p (s.updFab p f) = { sending p s with fab := f (sending p s).fab } := by simp [sending]

@[simp] theorem sending_bumpPcnt (q k n : Nat) : sending p (bumpPcnt s q k n) = sending p s := by unfold bumpPcnt; split <;> simp
@[simp] theorem sending_bumpBw (q k n : Nat) : sending p (bumpBw s q k n) = sending p s := by unfold bumpBw; split <;> simp

@[simp] theorem sending_smCount (k : Space) (w : Bool) (as : List Nat) : sending p (smCount s k w as) = sending p s := by
  cases k <;> simp [smCount]

@[simp] theorem sending_backInvalidate (k : Space) (as : List Nat) : sending p (backInvalidate s k as) = sending p s := by
  unfold backInvalidate
  split
  · dsimp only
    split <;> simp [snooped]
  · rfl

theorem sending_devReadAt (k : Space) (requester : Nat) (as : List Nat) (h : s.upsets = []) :
    sending p (devReadAt s k requester as) = sending p s := by simp [devReadAt_sound _ _ _ _ h]

@[simp] theorem sending_queuePacket (q : Nat) (r : Port) (vc : Nat) (k : Packet) :
    sending p (queuePacket s q r vc k) = sending p s := by unfold queuePacket; split <;> simp

@[simp] theorem sending_forwardPacket (q leg : Nat) (k : Packet) : sending p (forwardPacket s q leg k) = sending p s := by
  unfold forwardPacket
  split
  · rfl
  · simp

end

section
variable {p : Nat} {s t : State} (h : sending p t = sending p s)
include h

theorem fab_of_sending : (t.parcel p).fab = (s.parcel p).fab := congrArg Sending.fab h
theorem gen_of_sending : (t.parcel p).gen = (s.parcel p).gen := congrArg Sending.gen h
theorem torus_of_sending : t.hub.torus = s.hub.torus := congrArg Sending.torus h
theorem datum_of_sending : t.datum = s.datum := congrArg Sending.datum h
theorem dev_of_sending : t.dev = s.dev := by rw [State.dev, torus_of_sending h, State.dev]

theorem sendable_of_sending (dst : Nat) : Sendable t p dst ↔ Sendable s p dst := by
  rw [Sendable, fab_of_sending h, torus_of_sending h, dev_of_sending h, Sendable]

theorem messageSent_of_sending (u : State) (l no off : Nat) (bytes : List Byte) :
    MessageSent t u p l no off bytes ↔ MessageSent s u p l no off bytes := by
  rw [MessageSent, fab_of_sending h, gen_of_sending h, datum_of_sending h, dev_of_sending h, MessageSent]

end

/-- Where the fabric alone has changed. -/
theorem of_newFab {p : Nat} {s t : State} {f : Fabric} (h : sending p t = { sending p s with fab := f }) :
    (t.parcel p).fab = f ∧ (t.parcel p).gen = (s.parcel p).gen ∧ t.dev = s.dev ∧ t.datum = s.datum ∧ t.posted = s.posted ∧
      t.book = s.book := by
  simp only [sending, Sending.mk.injEq] at h
  obtain ⟨hf, hg, ht, hd, hp, hb⟩ := h
  exact ⟨hf, hg, by rw [State.dev, ht, State.dev], hd, hp, hb⟩

theorem messageSent_of_fab {p : Nat} {t u : State} (h : (t.parcel p).fab = (u.parcel p).fab) (s : State) (l no off : Nat)
    (bytes : List Byte) : MessageSent s t p l no off bytes ↔ MessageSent s u p l no off bytes := by
  rw [MessageSent, h, MessageSent]

/-! ### A packet leaves -/

/-- A route is found in the cache or fixed now; nothing but the cache changes (R313). -/
theorem findRoute_found {s : State} {p dst : Nat}
    (h : (SMap.find (s.parcel p).fab.routes dst).isSome ∨ (routeOf (s.parcel p).fab.down s.hub.torus s.dev dst).isSome) :
    ∃ s1 r rts, findRoute s p dst = (s1, some r) ∧
      sending p s1 = { sending p s with fab := { (s.parcel p).fab with routes := rts } } := by
  unfold findRoute
  dsimp only
  cases hc : SMap.find (s.parcel p).fab.routes dst with
  | some r => exact ⟨s, _, (s.parcel p).fab.routes, rfl, rfl⟩
  | none =>
    cases hr : routeOf (s.parcel p).fab.down s.hub.torus s.dev dst with
    | none => simp [hc, hr] at h
    | some r =>
      obtain ⟨v, a, b, c⟩ := r
      by_cases hlen : (s.parcel p).fab.routes.length < 256
      · exact ⟨_, _, _, rfl, by rw [if_pos hlen, sending_updFab]; rfl⟩
      · exact ⟨_, _, (s.parcel p).fab.routes, rfl, by rw [if_neg hlen]; rfl⟩

/-- The packet as it leaves its parcel (R313, R320). -/
def stamped (s : State) (p : Nat) (k : Packet) : Packet :=
  { k with src := BitVec.ofNat 14 s.dev, gen := (s.parcel p).gen, stamp := BitVec.ofNat 32 s.datum.count
           pver := (s.parcel p).fab.pkt }

/-- A packet that can leave does; at home it has looped back (R320). -/
theorem sendPacket_sent {s : State} {p : Nat} {k : Packet} (h : Sendable s p k.dst.toNat) : ∃ u inbox rts,
    sendPacket s p k = (u, true) ∧ sending p u = { sending p s with fab := { (s.parcel p).fab with inbox := inbox, routes := rts } } ∧
    (k.dst.toNat = s.dev → inbox = (s.parcel p).fab.inbox ++ [(BitVec.ofNat 3 (vcOf (stamped s p k) 0 false), stamped s p k)]) := by
  unfold sendPacket
  dsimp only
  by_cases hd : k.dst.toNat = s.dev
  · rw [if_pos hd]
    exact ⟨_, _, (s.parcel p).fab.routes, rfl, by rw [sending_updFab]; rfl, fun _ => rfl⟩
  · rw [if_neg hd]
    obtain ⟨s1, ⟨v, a, b, c⟩, rts, hroute, hs1⟩ := findRoute_found (h.resolve_left hd)
    rw [hroute]
    exact ⟨_, (s.parcel p).fab.inbox, rts, rfl, by rw [sending_forwardPacket, hs1], fun h => absurd h hd⟩

/-! ### A message leaves -/

/-- A fabric whose next message identifier is taken. -/
def Fabric.tookId (f : Fabric) (count : Nat) : Fabric :=
  { f with nextId := f.nextId + 1, idLast := SMap.put f.idLast f.nextId.toNat count }

theorem sending_takeId (s : State) (p : Nat) :
    sending p (takeId s p).1 = { sending p s with fab := (s.parcel p).fab.tookId s.datum.count } := by
  rw [takeId, sending_updFab]
  rfl

/-- The packet of a message on a channel with register `w`, before it leaves. -/
def messagePacket (w : BitVec 128) (id : BitVec 16) (off : Nat) (bytes : List Byte) : Packet :=
  { ptype := 0, dst := BitVec.ofNat 14 (bvf w 1 14), src := 0, via := 0, viaEn := false, dir0 := 0, dir1 := 0, id := id
    gen := 0, win := BitVec.ofNat 6 (bvf w 16 6), off := BitVec.ofNat 24 off, stamp := 0, tag := 0, pver := 0, body := bytes }

theorem messagePacket_dst (w : BitVec 128) (id : BitVec 16) (off : Nat) (bytes : List Byte) :
    (messagePacket w id off bytes).dst.toNat = bvf w 1 14 := by
  rw [messagePacket, BitVec.toNat_ofNat]
  exact Nat.mod_eq_of_lt (Nat.mod_lt _ (by decide))

/-- The record of a message that has no answer yet (R319). -/
def outstanding (s : State) (p l no c : Nat) : Outstanding :=
  { id := (s.parcel p).fab.nextId, chan := c, count := s.datum.count, reach := l, flight := no, adds := 0 }

theorem sendMessage_eq {s u : State} {p l no c off : Nat} {bytes : List Byte} {w : BitVec 128}
    (hw : SMap.get 0 (s.parcel p).fab.chan c = w) (hen : bvb w 0 = true)
    (hu : sendPacket (takeId s p).1 p (messagePacket w (s.parcel p).fab.nextId off bytes) = (u, true)) :
    sendMessage s p l no c off bytes =
      bumpPcnt (u.updFab p (fun f => { f with msgs := f.msgs ++ [outstanding s p l no c] })) p 5 1 := by
  unfold messagePacket at hu
  unfold sendMessage
  dsimp only [takeId] at hu ⊢
  rw [hw, hen, hu]
  rfl

/-- The channel sends, and its packet can leave. -/
theorem sendMessage_sent {s : State} {p l no off : Nat} {bytes : List Byte} {w : BitVec 128}
    (hw : w = SMap.get 0 (s.parcel p).fab.chan (field off 24 6)) (hen : bvb w 0 = true) (hs : Sendable s p (bvf w 1 14)) :
    ∃ t, sendMessage s p l no (field off 24 6) (off % 2 ^ 24) bytes = t ∧ MessageSent s t p l no off bytes ∧
      world t = world s ∧ t.posted = s.posted ∧ t.book = s.book := by
  have hoff : messagePacket w (s.parcel p).fab.nextId (off % 2 ^ 24) bytes = messagePacket w (s.parcel p).fab.nextId off bytes := by
    have hmod : BitVec.ofNat 24 (off % 2 ^ 24) = BitVec.ofNat 24 off := BitVec.eq_of_toNat_eq (by simp)
    rw [messagePacket, hmod, messagePacket]
  obtain ⟨s1, hs1⟩ : ∃ s1, s1 = (takeId s p).1 := ⟨_, rfl⟩
  obtain ⟨k, hk⟩ : ∃ k, k = messagePacket w (s.parcel p).fab.nextId off bytes := ⟨_, rfl⟩
  have hkd : k.dst.toNat = bvf w 1 14 := by rw [hk, messagePacket_dst]
  have hv1 : sending p s1 = _ := hs1 ▸ sending_takeId s p
  obtain ⟨hf1, hg1, hdev, hd1, hp1, hb1⟩ := of_newFab hv1
  have hsend : Sendable s1 p k.dst.toNat := by
    have htorus : s1.hub.torus = s.hub.torus := congrArg Sending.torus hv1
    rwa [Sendable, hf1, hdev, htorus, hkd]
  obtain ⟨u, inbox, rts, hsent, hu, hinbox⟩ := sendPacket_sent hsend
  obtain ⟨hf, _, _, _, hp, hb⟩ := of_newFab hu
  rw [hf1] at hf
  have hworld : world u = world s := by
    have h := world_sendPacket s1 p k
    rw [hsent] at h
    rw [h, hs1, world_takeId]
  have hpacket : bvf w 1 14 = s.dev → inbox = (s.parcel p).fab.inbox ++ [(0, { k with
      src := BitVec.ofNat 14 s.dev, gen := (s.parcel p).gen, stamp := BitVec.ofNat 32 s.datum.count
      pver := (s.parcel p).fab.pkt })] := by
    intro hhome
    have hvc : BitVec.ofNat 3 (vcOf (stamped s1 p k) 0 false) = 0 := by rw [hk]; rfl
    rw [hinbox (hkd.trans (hhome.trans hdev.symm)), hvc, stamped, hf1, hg1, hdev, hd1]
    rfl
  refine ⟨_, sendMessage_eq hw.symm hen (by rw [← hs1, hoff, ← hk]; exact hsent), ⟨?_, ?_, ?_, ?_, ?_, ?_⟩, by simp [hworld],
    by simp [hp, hp1], by simp [hb, hb1]⟩
  · simp [hf, Fabric.tookId, outstanding]
  · simp [hf, Fabric.tookId]
  · simp [hf, Fabric.tookId, SMap.find_put_same]
  · simp [hf, Fabric.tookId]
  · simp [hf, Fabric.tookId]
  · intro x hx hhome
    rw [← hw] at hx
    subst hx
    simp [hf, hpacket hhome, hk, messagePacket]

/-- The channel does not send: it counts the message as refused (R318). -/
theorem sendMessage_refused {s : State} {p l no c off : Nat} {bytes : List Byte} {w : BitVec 128}
    (hw : w = SMap.get 0 (s.parcel p).fab.chan c) (hen : bvb w 0 = false) : ∃ t, sendMessage s p l no c off bytes = t ∧
      (t.parcel p).fab =
        { (s.parcel p).fab with chan := SMap.put (s.parcel p).fab.chan c (putField w 96 16 (min (bvf w 96 16 + 1) 65535)) } ∧
      world t = world s ∧ t.posted = s.posted ∧ t.book = s.book := by
  have hrun : sendMessage s p l no c off bytes = countRefused s p c := by
    unfold sendMessage
    dsimp only
    rw [← hw, hen]
    rfl
  refine ⟨_, hrun, ?_, world_countChan .., rfl, rfl⟩
  rw [countRefused, countChan, State.updFab_fab_same, ← hw]
  rfl

/-! ### A MOVE that sends -/

/-- The message of a MOVE that nothing stops, after the reads that it counts. -/
theorem runMessage_sends {s : State} {p l no off : Nat} {j : Job} {x : MvRun} (hempty : mvEmpty j = false)
    (hblocked : mvBlocked s p l j = none) (hx : messageRun s p l j = x) (hbad : x.bad = none)
    (hoff : (x.ov.head?).elim 0 (fun c => c.1) = off) (hup : s.upsets = []) : ∃ u,
    runMessage p l s j no = sendMessage u p l no (field off 24 6) (off % 2 ^ 24) (x.ov.map (fun c => c.2)) ∧
      sending p u = sending p s ∧ world u = world s := by
  refine ⟨devReadAt s ((mvSrc s p l j).space p l) (srcReach p l) x.reads.reverse, ?_, sending_devReadAt _ _ _ _ _ hup,
    world_devReadAt _ _ _ _ hup⟩
  unfold runMessage
  dsimp only
  rw [hempty, hblocked, hx, hbad, hoff]
  rfl

/-- The MOVE sends its message. -/
theorem runMessage_sent {s : State} {p l no off : Nat} {j : Job} {x : MvRun} {w : BitVec 128} (hempty : mvEmpty j = false)
    (hblocked : mvBlocked s p l j = none) (hx : messageRun s p l j = x) (hbad : x.bad = none)
    (hoff : (x.ov.head?).elim 0 (fun c => c.1) = off) (hup : s.upsets = [])
    (hw : w = SMap.get 0 (s.parcel p).fab.chan (field off 24 6)) (hen : bvb w 0 = true) (hs : Sendable s p (bvf w 1 14)) :
    ∃ t, runMessage p l s j no = t ∧ MessageSent s t p l no off (x.ov.map (fun c => c.2)) ∧ world t = world s ∧
      t.posted = s.posted ∧ t.book = s.book := by
  obtain ⟨u, hrun, hu, hworld⟩ := runMessage_sends (no := no) hempty hblocked hx hbad hoff hup
  obtain ⟨t, ht, hsent, hwt, hpt, hbt⟩ := sendMessage_sent (l := l) (no := no) (bytes := x.ov.map (fun c => c.2))
    (by rwa [fab_of_sending hu]) hen ((sendable_of_sending hu _).mpr hs)
  exact ⟨t, hrun.trans ht, (messageSent_of_sending hu ..).mp hsent, hwt.trans hworld, hpt.trans (congrArg Sending.posted hu),
    hbt.trans (congrArg Sending.book hu)⟩

/-- The channel of the MOVE does not send. -/
theorem runMessage_refused {s : State} {p l no off : Nat} {j : Job} {x : MvRun} {w : BitVec 128} (hempty : mvEmpty j = false)
    (hblocked : mvBlocked s p l j = none) (hx : messageRun s p l j = x) (hbad : x.bad = none)
    (hoff : (x.ov.head?).elim 0 (fun c => c.1) = off) (hup : s.upsets = [])
    (hw : w = SMap.get 0 (s.parcel p).fab.chan (field off 24 6)) (hen : bvb w 0 = false) : ∃ t, runMessage p l s j no = t ∧
      (t.parcel p).fab = { (s.parcel p).fab with
        chan := SMap.put (s.parcel p).fab.chan (field off 24 6) (putField w 96 16 (min (bvf w 96 16 + 1) 65535)) } ∧
      world t = world s ∧ t.posted = s.posted := by
  obtain ⟨u, hrun, hu, hworld⟩ := runMessage_sends (no := no) hempty hblocked hx hbad hoff hup
  obtain ⟨t, ht, hfab, hwt, hpt, _⟩ := sendMessage_refused (l := l) (no := no) (off := off % 2 ^ 24)
    (bytes := x.ov.map (fun c => c.2)) (c := field off 24 6) (by rwa [fab_of_sending hu]) hen
  rw [fab_of_sending hu] at hfab
  exact ⟨t, hrun.trans ht, hfab, hwt.trans hworld, hpt.trans (congrArg Sending.posted hu)⟩

theorem Entering.sending {s e : State} {p l : Nat} {pl : Plan} (h : Entering s e p l pl) :
    Machine.sending p e = Machine.sending p s := by
  obtain ⟨_, _, _, _, rfl⟩ := h
  exact sending_updReach ..

/-! ### Its issue -/

section
variable {p : ParcelId} {l : ReachId} {s : State} (hop : wOp (headJob s p l).word = 4)
  (hI : Issues s p l (mvPlan s p l (headJob s p l))) (hform : mvForm s p (headJob s p l) = .message)
include hop hI hform

/-- What the issue of a message MOVE comes to where it does not wait. -/
theorem moveMessageSend_runs (hheld : messageHeld s p l (headJob s p l) = false) :
    ∃ e, Entering s e p l (mvPlan s p l (headJob s p l)) ∧ SameOperands s e p ∧ e.upsets = [] ∧
      ∀ u, runMessage p l e (headJob s p l) ((s.reach p l).task.issueNo + 1) = u → world u = world e → u.posted = e.posted →
        ∃ t, exec (.moveMessageSend p l) s = .next t ∧
          Entered s t p l (if mvParcel (headJob s p l) then .parcelDma else .reachDma) 0 .none ∧
          (t.parcel p).fab = (u.parcel p).fab ∧ OtherReaches s t p l ∧ SameClusters s t ∧ SameMemory s t ∧ SameTime s t := by
  obtain ⟨e, he, hissue⟩ := exec_atMostStops (i := .moveMessageSend p l)
    (sel := fun w => wOp w == 4 && decide (mvForm s p (headJob s p l) = .message)) (plan := mvPlan s p l)
    (run := startMessage p l) rfl (by simp [hop, hform]) hI
  obtain ⟨_, _, _, _, _, _, hup, _⟩ := hI
  refine ⟨e, he, he.sameOperands, he.upsets.trans hup, fun u hu hworld hposted => ?_⟩
  have hstart : startMessage p l e (headJob s p l) ((s.reach p l).task.issueNo + 1) = u := by
    rw [startMessage, he.sameOperands.messageHeld, hheld, ← hu]
    rfl
  have hr := reach_of_world hworld p l
  obtain ⟨t, hexec, hstop⟩ := hissue u hstart.symm ⟨by rw [hr], fun w hw => .inl (hposted ▸ hw), by rw [hr], by rw [hr]; exact id⟩
  have hall := (hstop.around.trans (around_of_world hworld)).trans he.around
  exact ⟨t, hexec, hstop.entered (he.entered.of_reach hr), hstop.fab p, otherReaches_of_around hall, sameClusters_of_around hall,
    sameMemory_of_around hall, sameTime_of_around hall⟩

/-- It waits while no identifier is free (R319). -/
theorem moveMessageSend_held (hheld : messageHeld s p l (headJob s p l) = true) :
    Gives (.moveMessageSend p l) s (fun t =>
      Entered s t p l (if mvParcel (headJob s p l) then .parcelDma else .reachDma) 0 .msgId ∧
      (t.parcel p).fab = (s.parcel p).fab ∧ OtherReaches s t p l ∧ SameClusters s t ∧ SameMemory s t ∧ SameTime s t) := by
  obtain ⟨e, he, hissue⟩ := exec_atMostStops (i := .moveMessageSend p l)
    (sel := fun w => wOp w == 4 && decide (mvForm s p (headJob s p l) = .message)) (plan := mvPlan s p l)
    (run := startMessage p l) rfl (by simp [hop, hform]) hI
  obtain ⟨u, hu⟩ : ∃ u, u = updFlight e p l ((s.reach p l).task.issueNo + 1) (fun f => { f with wait := .msgId }) := ⟨_, rfl⟩
  have hstart : u = startMessage p l e (headJob s p l) ((s.reach p l).task.issueNo + 1) := by
    rw [startMessage, he.sameOperands.messageHeld, hheld, hu]
    rfl
  obtain ⟨t, hexec, hstop⟩ := hissue u hstart ⟨by simp [hu, updFlight], fun w hw => .inl (by simpa [hu] using hw),
    by simp [hu, updFlight], fun h => by simpa [hu, updFlight] using h⟩
  have hent := he.entered.updFlight (f := fun f => { f with wait := .msgId }) (fun _ => ⟨rfl, rfl, rfl⟩)
    (fun _ hst _ => ⟨hst, rfl⟩)
  rw [← hu] at hent
  have hall : (world t).around p l = (world s).around p l := by rw [hstop.around, hu, around_updFlight, he.around]
  have hfab : (u.parcel p).fab = (e.parcel p).fab := by rw [hu]; exact fab_of_sending (sending_updReach ..)
  exact ⟨t, hexec, hstop.entered hent, ((hstop.fab p).trans hfab).trans he.sameOperands.fab, otherReaches_of_around hall,
    sameClusters_of_around hall, sameMemory_of_around hall, sameTime_of_around hall⟩

variable {x : MvRun} {off : Nat} {w : BitVec 128} (hempty : mvEmpty (headJob s p l) = false)
  (hblocked : mvBlocked s p l (headJob s p l) = none) (hx : x = messageRun s p l (headJob s p l)) (hbad : x.bad = none)
  (hoff : off = (x.ov.head?).elim 0 (fun c => c.1)) (hw : w = SMap.get 0 (s.parcel p).fab.chan (field off 24 6))
  (hheld : messageHeld s p l (headJob s p l) = false)
include hempty hblocked hx hbad hoff hw hheld

theorem moveMessageSend_sends (hen : bvb w 0 = true) (hs : Sendable s p (bvf w 1 14)) :
    Gives (.moveMessageSend p l) s (fun t =>
      Entered s t p l (if mvParcel (headJob s p l) then .parcelDma else .reachDma) 0 .none ∧
      MessageSent s t p l ((s.reach p l).task.issueNo + 1) off (x.ov.map (fun c => c.2)) ∧
      OtherReaches s t p l ∧ SameClusters s t ∧ SameMemory s t ∧ SameTime s t) := by
  obtain ⟨e, he, hsame, hup, hruns⟩ := moveMessageSend_runs hop hI hform hheld
  obtain ⟨u, hu, hsent, hworld, hposted, _⟩ := runMessage_sent (no := (s.reach p l).task.issueNo + 1) hempty
    (by rwa [hsame.mvBlocked]) (by rw [hsame.messageRun, ← hx]) hbad hoff.symm hup (by rwa [hsame.fab]) hen
    ((sendable_of_sending he.sending _).mpr hs)
  obtain ⟨t, hexec, hent, hfab, hrest⟩ := hruns u hu hworld hposted
  exact ⟨t, hexec, hent, (messageSent_of_fab hfab ..).mpr ((messageSent_of_sending he.sending ..).mp hsent), hrest⟩

theorem moveMessageSend_refused (hen : bvb w 0 = false) :
    Gives (.moveMessageSend p l) s (fun t =>
      Entered s t p l (if mvParcel (headJob s p l) then .parcelDma else .reachDma) 0 .none ∧
      (t.parcel p).fab = { (s.parcel p).fab with
        chan := SMap.put (s.parcel p).fab.chan (field off 24 6) (putField w 96 16 (min (bvf w 96 16 + 1) 65535)) } ∧
      OtherReaches s t p l ∧ SameClusters s t ∧ SameMemory s t ∧ SameTime s t) := by
  obtain ⟨e, he, hsame, hup, hruns⟩ := moveMessageSend_runs hop hI hform hheld
  obtain ⟨u, hu, hfabu, hworld, hposted⟩ := runMessage_refused (no := (s.reach p l).task.issueNo + 1) hempty
    (by rwa [hsame.mvBlocked]) (by rw [hsame.messageRun, ← hx]) hbad hoff.symm hup (by rwa [hsame.fab]) hen
  rw [hsame.fab] at hfabu
  obtain ⟨t, hexec, hent, hfab, hrest⟩ := hruns u hu hworld hposted
  exact ⟨t, hexec, hent, hfab.trans hfabu, hrest⟩

end

/-! ### An identifier becomes free (R319) -/

/-- With no instruction that waits for its turn none starts. -/
theorem startTurns_none {s : State} {p l : Nat} (h : ∀ g ∈ (s.reach p l).flights, g.wait ≠ .turn) (n : Nat) :
    startTurns n s p l = s := by
  cases n with
  | zero => rfl
  | succ n =>
    have hnone : nextTurn (s.reach p l) = none := by
      rw [nextTurn, List.find?_eq_none]
      intro g hg
      simp [h g hg]
    rw [startTurns, hnone]

theorem exec_messageIdAvailable (p : ParcelId) (l : ReachId) (s : State) :
    exec (.messageIdAvailable p l) s = .next (startTurns 16 (resumeMessage s p l) p l) := rfl

theorem messageIdAvailable_idle {p : ParcelId} {l : ReachId} {s : State}
    (hf : (s.reach p l).flights.find? (fun f => decide (f.wait = .msgId)) = none)
    (hturn : ∀ g ∈ (s.reach p l).flights, g.wait ≠ .turn) : exec (.messageIdAvailable p l) s = .next s := by
  have hres : resumeMessage s p l = s := by rw [resumeMessage, hf]
  rw [exec_messageIdAvailable, hres, startTurns_none hturn]

/-- The first MOVE that waits for an identifier sends. -/
theorem messageIdAvailable_sends {p : ParcelId} {l : ReachId} {s : State} {f : Flight} {x : MvRun} {off : Nat} {w : BitVec 128}
    (hf : (s.reach p l).flights.find? (fun f => decide (f.wait = .msgId)) = some f)
    (hturn : ∀ g ∈ (s.reach p l).flights, g.wait ≠ .turn) (hup : s.upsets = []) (hheld : messageHeld s p l f.job = false)
    (hempty : mvEmpty f.job = false) (hblocked : mvBlocked s p l f.job = none) (hx : x = messageRun s p l f.job)
    (hbad : x.bad = none) (hoff : off = (x.ov.head?).elim 0 (fun c => c.1))
    (hw : w = SMap.get 0 (s.parcel p).fab.chan (field off 24 6)) (hen : bvb w 0 = true) (hs : Sendable s p (bvf w 1 14)) :
    Gives (.messageIdAvailable p l) s (fun t =>
      (t.reach p l).flights = (s.reach p l).flights.map (fun g => if g.no = f.no then { g with wait := .none } else g) ∧
      (t.reach p l).task = (s.reach p l).task ∧ (t.reach p l).s = (s.reach p l).s ∧
      MessageSent s t p l f.no off (x.ov.map (fun c => c.2)) ∧
      OtherReaches s t p l ∧ SameClusters s t ∧ SameMemory s t ∧ t.book = s.book ∧ SameTime s t) := by
  obtain ⟨e, he⟩ : ∃ e, e = updFlight s p l f.no (fun x => { x with wait := .none }) := ⟨_, rfl⟩
  have hsame : SameOperands s e p := he ▸ sameOperands_updReach s p l rfl
  have hsend : sending p e = sending p s := by rw [he]; exact sending_updReach ..
  have hreach : e.reach p l = { s.reach p l with
      flights := (s.reach p l).flights.map (fun g => if g.no = f.no then { g with wait := .none } else g) } := by
    rw [he, updFlight, State.updReach_reach_same]
    simp only [beq_iff_eq]
  obtain ⟨t, hrun, hsent, hworld, _, hbook⟩ := runMessage_sent (no := f.no) hempty (by rwa [hsame.mvBlocked])
    (by rw [hsame.messageRun, ← hx]) hbad hoff.symm (by rw [he]; exact hup) (by rwa [hsame.fab]) hen
    ((sendable_of_sending hsend _).mpr hs)
  have hr : t.reach p l = _ := (reach_of_world hworld p l).trans hreach
  have hres : resumeMessage s p l = t := by
    rw [resumeMessage, hf]
    dsimp only
    rw [hheld, ← hrun, he]
    rfl
  have hexec : exec (.messageIdAvailable p l) s = .next t := by
    rw [exec_messageIdAvailable, hres, startTurns_none]
    intro g hg
    rw [hr] at hg
    obtain ⟨g', hg', rfl⟩ := List.mem_map.mp hg
    split
    · simp
    · exact hturn g' hg'
  have hall : (world t).around p l = (world s).around p l := by
    rw [around_of_world hworld, he, around_updFlight]
  exact ⟨t, hexec, by rw [hr], by rw [hr], by rw [hr], (messageSent_of_sending hsend ..).mp hsent, otherReaches_of_around hall,
    sameClusters_of_around hall, sameMemory_of_around hall, hbook.trans (congrArg Sending.book hsend), sameTime_of_around hall⟩

/-! ### The obligation -/

/-- Settles O30: a save posts the image of the pool and a restore takes it back, and a message MOVE sends, counts or waits as
its channel and the identifiers are. -/
theorem poolsAndMessagesLeave : Obligations.PoolsAndMessagesLeave := by
  unfold Obligations.PoolsAndMessagesLeave
  constructor
  · intro p l s j hj hop hI hpoison
    exact ⟨fun a ph => movePoolSave_saves p l s j hj hop hI a ph,
      fun a b => movePoolRestore_restores p l s j hj hop hI hpoison a b⟩
  · intro p l s
    refine ⟨?_, ?_, messageIdAvailable_idle⟩
    · intro j x off w hj hop hI hform hempty hblocked hx hbad hoff hw
      subst hj
      exact ⟨moveMessageSend_sends hop hI hform hempty hblocked hx hbad hoff hw,
        moveMessageSend_refused hop hI hform hempty hblocked hx hbad hoff hw, moveMessageSend_held hop hI hform⟩
    · intro f x off w hf hturn hup hheld hempty hblocked hx hbad hoff hw hen hs
      exact messageIdAvailable_sends hf hturn hup hheld hempty hblocked hx hbad hoff hw hen hs

end Sys2Proof.Machine
end

section
/-!
The Hadamard transform (04 R113): a stage as a map of the elements by their index, where it replaces each element and the one
whose index differs in one bit; stages of different bits commute, and two of the same bit double.
-/

namespace Sys2Proof.Machine

/-! ### A stage by index -/

/-- Stage `a` on elements given by their index: the pairs differ in bit `a` of the index. -/
def stage (a : Nat) (f : Nat → Int) (i : Nat) : Int := (if i.testBit a then -f i else f i) + f (i ^^^ 2 ^ a)

/-- Stages `a` to `a + n - 1`. -/
def stages : Nat → Nat → (Nat → Int) → Nat → Int
  | 0, _, f => f
  | n + 1, a, f => stages n (a + 1) (stage a f)

/-- Stages of different bits commute: neither changes the other's bit. -/
theorem stage_comm {a b : Nat} (h : a ≠ b) (f : Nat → Int) : stage a (stage b f) = stage b (stage a f) := by
  funext i
  have ha : (i ^^^ 2 ^ b).testBit a = i.testBit a := by simp [Nat.testBit_xor, Nat.testBit_two_pow_of_ne h.symm]
  have hb : (i ^^^ 2 ^ a).testBit b = i.testBit b := by simp [Nat.testBit_xor, Nat.testBit_two_pow_of_ne h]
  simp only [stage, ha, hb, Nat.xor_right_comm i (2 ^ a) (2 ^ b)]
  split <;> split <;> ring

/-- A stage twice doubles: of a pair, the sums cancel the other element. -/
theorem stage_stage (a : Nat) (f : Nat → Int) : stage a (stage a f) = fun i => 2 * f i := by
  funext i
  have hflip : (i ^^^ 2 ^ a).testBit a = !i.testBit a := by simp [Nat.testBit_xor]
  simp only [stage, hflip, Nat.xor_xor_cancel_right]
  cases i.testBit a <;> simp <;> ring

theorem stage_mul (a : Nat) (c : Int) (f : Nat → Int) : stage a (fun i => c * f i) = fun i => c * stage a f i := by
  funext i
  simp only [stage]
  split <;> ring

theorem stages_stage (n : Nat) {a b : Nat} (h : a < b) (f : Nat → Int) : stages n b (stage a f) = stage a (stages n b f) := by
  induction n generalizing b f with
  | zero => rfl
  | succ n ih => rw [stages, stage_comm h.ne', ih (by omega), stages]

theorem stages_stages (n a : Nat) (f : Nat → Int) : stages n a (stages n a f) = fun i => 2 ^ n * f i := by
  induction n generalizing a f with
  | zero => simp [stages]
  | succ n ih =>
    have hcomm := stages_stage n (Nat.lt_succ_self a)
    calc stages (n + 1) a (stages (n + 1) a f)
        = stage a (stages n (a + 1) (stages n (a + 1) (stage a f))) := by rw [stages, stages, hcomm]
      _ = fun i => 2 ^ n * stage a (stage a f) i := by rw [ih, stage_mul]
      _ = fun i => 2 ^ (n + 1) * f i := by rw [stage_stage]; funext i; ring

/-! ### The transform of a list -/

/-- The index that differs in bit `a` lies `2 ^ a` above or below. -/
theorem xor_two_pow (i a : Nat) : i ^^^ 2 ^ a = if i.testBit a then i - 2 ^ a else i + 2 ^ a := by
  have hpos : 0 < 2 ^ a := by positivity
  have hdiv : (i ^^^ 2 ^ a) / 2 ^ a = i / 2 ^ a ^^^ 1 := by rw [Nat.xor_div_two_pow, Nat.div_self hpos]
  have hmod : (i ^^^ 2 ^ a) % 2 ^ a = i % 2 ^ a := by rw [Nat.xor_mod_two_pow, Nat.mod_self, Nat.xor_zero]
  have hx := Nat.div_add_mod (i ^^^ 2 ^ a) (2 ^ a)
  have hi := Nat.div_add_mod i (2 ^ a)
  rw [hdiv, hmod] at hx
  rw [Nat.testBit_eq_decide_div_mod_eq]
  rcases Nat.mod_two_eq_zero_or_one (i / 2 ^ a) with h | h
  · rw [Nat.xor_one_of_even (Nat.even_iff.mpr h), Nat.mul_add] at hx
    simp only [h, Nat.zero_ne_one, decide_false, Bool.false_eq_true, if_false]
    omega
  · obtain ⟨m, hm⟩ : ∃ m, i / 2 ^ a = m + 1 := Nat.exists_eq_succ_of_ne_zero (fun h0 => by simp [h0] at h)
    rw [Nat.xor_one_of_odd (Nat.odd_iff.mpr h), hm, Nat.add_sub_cancel] at hx
    rw [hm, Nat.mul_add] at hi
    simp only [h, decide_true, if_true]
    omega

theorem butterfly_length (h : Nat) (v : List Int) : (butterfly h v).length = v.length := by simp [butterfly]

theorem hadamard_length (n h : Nat) (v : List Int) : (hadamard n h v).length = v.length := by
  induction n generalizing h v with
  | zero => rfl
  | succ n ih => rw [hadamard, ih, butterfly_length]

/-- Past its end a vector reads 0, and so does its transform. -/
theorem getD_butterfly {m a : Nat} {v : List Int} (hv : v.length = 2 ^ m) (ha : a < m) :
    (fun i => (butterfly (2 ^ a) v).getD i 0) = stage a (fun i => v.getD i 0) := by
  funext i
  have hpow : 2 ^ a < 2 ^ m := Nat.pow_lt_pow_right (by omega) ha
  rw [stage]
  by_cases hi : i < v.length
  · have hget : v.getD i 0 = v[i] := by simp [List.getD, hi]
    have hbut : (butterfly (2 ^ a) v).getD i 0 =
        if i / 2 ^ a % 2 = 0 then v[i] + v.getD (i + 2 ^ a) 0 else v.getD (i - 2 ^ a) 0 - v[i] := by
      simp [butterfly, List.getD, hi]
    rw [hbut, hget, xor_two_pow, Nat.testBit_eq_decide_div_mod_eq]
    rcases Nat.mod_two_eq_zero_or_one (i / 2 ^ a) with h | h
    · simp [h]
    · simp [h]; ring
  · have hpair : v.length ≤ i ^^^ 2 ^ a := by
      by_contra hlt
      have := Nat.xor_lt_two_pow (hv ▸ Nat.lt_of_not_le hlt) hpow
      rw [Nat.xor_xor_cancel_right] at this
      omega
    have hout : (butterfly (2 ^ a) v).length ≤ i := by rw [butterfly_length]; omega
    rw [List.getD_eq_default _ _ hout, List.getD_eq_default _ _ (Nat.le_of_not_lt hi), List.getD_eq_default _ _ hpair]
    simp

theorem getD_hadamard (n : Nat) {m a : Nat} {v : List Int} (hv : v.length = 2 ^ m) (ha : a + n ≤ m) :
    (fun i => (hadamard n (2 ^ a) v).getD i 0) = stages n a (fun i => v.getD i 0) := by
  induction n generalizing a v with
  | zero => rfl
  | succ n ih =>
    rw [hadamard, ← pow_succ', ih (by rw [butterfly_length, hv]) (by omega), stages, getD_butterfly hv (by omega)]

/-- Settles O22: by index the transform is its stages (`getD_hadamard`), and each of them, twice, doubles. -/
theorem hadamardTwice : Obligations.HadamardTwice := by
  unfold Obligations.HadamardTwice
  intro n v hv
  have honce {w : List Int} (hw : w.length = 2 ^ n) : (fun i => (hadamard n 1 w).getD i 0) = stages n 0 (fun i => w.getD i 0) :=
    getD_hadamard n (a := 0) hw (by omega)
  have htwice : (fun i => (hadamard n 1 (hadamard n 1 v)).getD i 0) = fun i => 2 ^ n * v.getD i 0 := by
    rw [honce (by rw [hadamard_length, hv]), honce hv, stages_stages]
  refine List.ext_getElem (by simp [hadamard_length]) (fun i hi hi' => ?_)
  rw [List.length_map] at hi'
  have hget := congrFun htwice i
  simpa [List.getD, hi, hi'] using hget

end Sys2Proof.Machine
end

section
/-!
The writes of the registers of a cluster and of a parcel (04 R96; 03 R83; 08 R244; 11 R306, R318, R321; 12 R345, R347;
16 R445, R449): the verdict and the effect of each register, and what the fold over the reaches or the interrupts comes to.
-/

namespace Sys2Proof.Machine

/-! ### What the bytes at the hub port leave of a parcel (R443) -/

theorem State.updParcel_congr (s : State) (p : Nat) {f g : Parcel → Parcel} (h : f (s.parcel p) = g (s.parcel p)) :
    s.updParcel p f = s.updParcel p g := by rw [State.updParcel, h, State.updParcel]

/-- The bytes of a write count in the bandwidth port of the hub alone (R448). -/
theorem portBytes_parcel (s : State) (rq : Requester) (p n : Nat) : ∃ acc inc, ∀ q,
    (portBytes s rq p true n).parcel q = if q = p then { s.parcel p with
      mon := { (s.parcel p).mon with bwAcc := acc, bwInc := inc } } else s.parcel q := by
  have hsame (q : Nat) : s.parcel q = if q = p then s.parcel p else s.parcel q := by
    split
    · next h => rw [h]
    · rfl
  unfold portBytes portCount bumpBw
  split
  · exact ⟨_, _, hsame⟩
  · rw [if_pos rfl]
    split
    · exact ⟨_, _, hsame⟩
    · exact ⟨SMap.put (s.parcel p).mon.bwAcc 19 (SMap.get 0 (s.parcel p).mon.bwAcc 19 + n),
        incBump (s.parcel p).mon.bwInc 19 n, fun q => State.updParcel_parcel ..⟩

theorem portBytes_mon (s : State) (rq : Requester) (p n : Nat) : ∃ acc inc,
    ((portBytes s rq p true n).parcel p).mon = { (s.parcel p).mon with bwAcc := acc, bwInc := inc } := by
  obtain ⟨acc, inc, h⟩ := portBytes_parcel s rq p n
  exact ⟨acc, inc, by rw [h, if_pos rfl]⟩

/-- Apart from its monitors the parcel is as it was, and so is every other. -/
theorem portBytes_parcel_mon (s : State) (rq : Requester) (p n q : Nat) : (portBytes s rq p true n).parcel q =
    if q = p then { s.parcel p with mon := ((portBytes s rq p true n).parcel p).mon } else s.parcel q := by
  obtain ⟨acc, inc, h⟩ := portBytes_parcel s rq p n
  simp only [h, if_true]

theorem portBytes_book (s : State) (rq : Requester) (p n : Nat) : (portBytes s rq p true n).book = s.book := by
  unfold portBytes portCount; split <;> simp

theorem portBytes_sameTime (s : State) (rq : Requester) (p n : Nat) : SameTime s (portBytes s rq p true n) := by
  obtain ⟨_, _, hdatum, hstay, hphase, hwall, _, hpending, _⟩ := portBytes_beside s rq p true n
  exact ⟨hdatum, hstay, hpending, hphase, hwall⟩

/-! ### A write that arrives at a parcel -/

/-- A discarded write leaves only the bytes that were counted (R19). -/
theorem accessWrite_parcel_discards (s : State) (rq : Requester) (p : ParcelId) (off : Nat) (v : Word)
    (h : Arrives s rq p (.parcel p off) v) (h8 : off % 8 = 0) (hv : parcelVerdict s p off v = .discard) :
    accessWrite s rq (.parcel p off) 8 v = portBytes s rq p true 8 := by
  obtain ⟨hrq, hgate, hwait⟩ := h
  have hoff : off / 8 * 8 = off := by omega
  simp [accessWrite, configRetry, hrq, hgate, regForm, regOff, h8, holdOr, hwait, performHeld, composed, regWrite, regVerdict,
    hoff, hv]

/-- A register whose verdict only says whether the write is discarded. -/
theorem accessWrite_parcel_discardIf (s : State) (rq : Requester) (p : ParcelId) (off : Nat) (v : Word) (bad : Bool)
    (h : Arrives s rq p (.parcel p off) v) (h8 : off % 8 = 0) (hv : parcelVerdict s p off v = discardIf bad) :
    accessWrite s rq (.parcel p off) 8 v =
      if bad then portBytes s rq p true 8 else parcelSet (portBytes s rq p true 8) p off v := by
  cases bad with
  | true => exact accessWrite_parcel_discards s rq p off v h h8 hv
  | false => exact accessWrite_parcel s rq p off v h h8 hv

/-! ### The code books of a cluster (R96) -/

theorem clusterSet_bookKind (s : State) (p c : Nat) (k : Fin 8) (v : Word) : clusterSet s p c (0x100 + 8 * k) v =
    s.updCluster p c (fun x => { x with cbCfg := SMap.put x.cbCfg k (v &&& 3#64) }) := by
  have hk := k.isLt
  unfold clusterSet
  rw [if_neg (not_within (by omega))]
  refine congrArg (s.updCluster p c) (funext fun x => ?_)
  rw [if_neg (not_within (by omega)), if_pos (within_eq_true (by omega)),
    show (0x100 + 8 * k.val - 0x100) / 8 = k.val by omega]
  rfl

theorem clusterSet_bookLevel (s : State) (p c : Nat) (k : Fin 8) (i : Fin 16) (v : Word) :
    clusterSet s p c (0x200 + 128 * k + 8 * i) v =
      s.updCluster p c (fun x => { x with cbLvl := SMap.put x.cbLvl (16 * k + i) (v &&& 0xFFFF#64) }) := by
  have hk := k.isLt
  have hi := i.isLt
  unfold clusterSet
  rw [if_neg (not_within (by omega))]
  refine congrArg (s.updCluster p c) (funext fun x => ?_)
  rw [if_neg (not_within (by omega)), if_neg (not_within (by omega)), if_pos (within_eq_true (by omega)),
    show (0x200 + 128 * k.val + 8 * i.val - 0x200) / 8 = 16 * k.val + i.val by omega]

/-! ### Confluence regions (R83) -/

theorem parcelVerdict_region (s : State) (p : Nat) (k : Fin 64) (v : Word) :
    parcelVerdict s p (8 * k) v = discardIf (regionBad v) := by
  have hk := k.isLt
  unfold parcelVerdict
  dsimp only
  rw [if_pos (within_eq_true (by omega))]

theorem parcelSet_region (s : State) (p : Nat) (k : Fin 64) (v : Word) : parcelSet s p (8 * k) v =
    s.updParcel p (fun x => regionSet x k v (s.marked (.sat p k))) := by
  have hk := k.isLt
  unfold parcelSet
  rw [if_pos (within_eq_true (by omega)), show 8 * k.val / 8 = k.val by omega]

theorem regionBad_eq_false {v : Word}
    (h : bvb v 0 = false ∨ bvf v 40 24 = 0 ∨ bvf v 12 23 * 4096 + bvf v 40 24 * 4096 ≤ 25769803776) : regionBad v = false := by
  rcases h with h | h | h
  · simp [regionBad, h]
  · simp [regionBad, h]
  · simp only [regionBad, Bool.and_eq_false_iff, decide_eq_false_iff_not]
    exact .inr (Nat.not_lt.mpr h)

theorem regionBad_eq_true {v : Word} (hen : bvb v 0 = true) (hlen : bvf v 40 24 ≠ 0)
    (htop : 25769803776 < bvf v 12 23 * 4096 + bvf v 40 24 * 4096) : regionBad v = true := by
  simp only [regionBad, hen, Bool.true_and, Bool.and_eq_true, decide_eq_true_eq]
  exact ⟨Nat.pos_of_ne_zero hlen, htop⟩

/-! ### The registers of the fabric (R306, R318, R321) -/

theorem parcelVerdict_open (s : State) (p off : Nat) (v : Word) (h : 0x800 ≤ off ∧ off < 0xC00 ∨ 0x1000 ≤ off) :
    parcelVerdict s p off v = .ok := by
  unfold parcelVerdict
  dsimp only
  rw [if_neg (not_within (by omega)), if_neg (not_within (by omega)), if_neg (by omega), if_neg (not_within (by omega))]

/-- Between the monitors' registers and those of the ports a write changes the fabric alone. -/
theorem parcelSet_fabric (s : State) (p off : Nat) (v : Word) (h : off = 0x480 ∨ 0x800 ≤ off ∧ off < 0x1000) :
    parcelSet s p off v = s.updFab p (fun f => fabSet f off v) := by
  have hport : portAt off = none := by
    rw [portAt, if_neg (not_within (by omega)), if_neg (not_within (by omega))]
  have hmon (m : Monitors) : monSet m off v = m := by
    rw [monSet, if_neg (by omega), if_neg (by omega), if_neg (not_within (by omega))]
  unfold parcelSet
  rw [if_neg (not_within (by omega)), if_neg (not_within (by omega)), if_neg (by omega), if_neg (by omega),
    if_neg (not_within (by omega)), if_neg (by omega), if_neg (by omega), if_neg (by omega), if_neg (by omega),
    if_neg (by omega), if_neg (by omega), hport]
  simp only [hmon]
  exact State.updParcel_updParcel ..

theorem fabSet_chan (f : Fabric) (k : Fin 64) (w : Fin 2) (v : Word) : fabSet f (0x800 + 16 * k + 8 * w) v =
    { f with chan := SMap.put f.chan k (putField (SMap.get 0 f.chan k) (64 * w) 64
      (v &&& (if w = 0 then 0x3F7FFF#64 else 0xFFFFFFFFFFFFFFFF#64)).toNat) } := by
  have hk := k.isLt
  have hw := w.isLt
  have hmask : chanMask w = if w = 0 then 0x3F7FFF#64 else 0xFFFFFFFFFFFFFFFF#64 := by
    obtain rfl | rfl : w = 0 ∨ w = 1 := by omega
    · rfl
    · rfl
  unfold fabSet
  rw [if_neg (by omega), if_pos (within_eq_true (by omega)), show (0x800 + 16 * k.val + 8 * w.val - 0x800) / 16 = k.val by omega,
    show (0x800 + 16 * k.val + 8 * w.val) % 16 / 8 = w.val by omega, hmask]
  rfl

theorem rxMask_eq (w : Fin 2) : rxMask w = if w = 0 then 0x7FFFFF001FFFFF#64 else 0xFFFFFFFF00FFFFFF#64 := by
  obtain rfl | rfl : w = 0 ∨ w = 1 := by omega
  · rfl
  · rfl

theorem fabSet_rxWin (f : Fabric) (k : Fin 64) (w : Fin 2) (v : Word) : fabSet f (0xC00 + 16 * k + 8 * w) v =
    { f with rxWin := SMap.put f.rxWin k (setWord (SMap.get 0 f.rxWin k) w (v &&& rxMask w)) } := by
  have hk := k.isLt
  have hw := w.isLt
  unfold fabSet
  rw [if_neg (by omega), if_neg (not_within (by omega)), if_pos (within_eq_true (by omega)),
    show (0xC00 + 16 * k.val + 8 * w.val - 0xC00) / 16 = k.val by omega,
    show (0xC00 + 16 * k.val + 8 * w.val) % 16 / 8 = w.val by omega]

theorem parcelVerdict_rxWin (s : State) (p : Nat) (k : Fin 64) (w : Fin 2) (v : Word) :
    parcelVerdict s p (0xC00 + 16 * k + 8 * w) v = discardIf (rxWinBad (rxWinNew s p k w v)) := by
  have hk := k.isLt
  have hw := w.isLt
  unfold parcelVerdict
  dsimp only
  rw [if_neg (not_within (by omega)), if_neg (not_within (by omega)), if_neg (by omega), if_pos (within_eq_true (by omega)),
    show (0xC00 + 16 * k.val + 8 * w.val - 0xC00) / 16 = k.val by omega,
    show (0xC00 + 16 * k.val + 8 * w.val) % 16 / 8 = w.val by omega]

theorem rxWinBad_iff (e : BitVec 128) : rxWinBad e = true ↔
    bvb e 0 = true ∧ bvf e 64 24 ≠ 0 ∧ 25769803776 < bvf e 32 23 * 4096 + bvf e 64 24 * 4096 := by
  simp only [rxWinBad, Bool.and_eq_true, decide_eq_true_eq, Nat.pos_iff_ne_zero, and_assoc]
  rfl

theorem accessWrite_rxWin (s : State) (rq : Requester) (p : ParcelId) (k : Fin 64) (w : Fin 2) (v : Word)
    (h : Arrives s rq p (.parcel p (0xC00 + 16 * k + 8 * w)) v) : accessWrite s rq (.parcel p (0xC00 + 16 * k + 8 * w)) 8 v =
      if rxWinBad (rxWinNew s p k w v) then portBytes s rq p true 8
      else (portBytes s rq p true 8).updFab p (fun f => { f with rxWin := SMap.put f.rxWin k (rxWinNew s p k w v) }) := by
  have hk := k.isLt
  have hw := w.isLt
  rw [accessWrite_parcel_discardIf s rq p _ v _ h (by omega) (parcelVerdict_rxWin s p k w v),
    parcelSet_fabric _ _ _ _ (by omega)]
  simp only [fabSet_rxWin]
  refine congrArg (fun x => if rxWinBad (rxWinNew s p k w v) = true then portBytes s rq p true 8 else x) ?_
  exact State.updParcel_congr _ _ (by rw [portBytes_fab]; rfl)

/-- A packet version is four bits of its word (R306). -/
theorem bvf_pktWord (pkt : BitVec 4) : bvf (word (pkt.toNat * 256)) 8 4 = pkt.toNat := by
  have hpkt := pkt.isLt
  rw [bvf, field, word, BitVec.toNat_ofNat, Nat.shiftRight_eq_div_pow]
  omega

theorem accessWrite_linkVerPkt (s : State) (rq : Requester) (p : ParcelId) (pkt : BitVec 4)
    (h : Arrives s rq p (.parcel p 0x480) (word (pkt.toNat * 256))) :
    accessWrite s rq (.parcel p 0x480) 8 (word (pkt.toNat * 256)) =
      if (s.parcel p).fab.linkMin.toNat ≤ pkt.toNat ∧ pkt.toNat ≤ (s.parcel p).fab.linkMax.toNat
      then (portBytes s rq p true 8).updFab p (fun f => { f with pkt := pkt }) else portBytes s rq p true 8 := by
  have hv : parcelVerdict s p 0x480 (word (pkt.toNat * 256)) =
      discardIf (decide ((s.parcel p).fab.linkMax.toNat < bvf (word (pkt.toNat * 256)) 8 4) ||
        decide (bvf (word (pkt.toNat * 256)) 8 4 < (s.parcel p).fab.linkMin.toNat)) := rfl
  have hset : (fun f => fabSet f 0x480 (word (pkt.toNat * 256))) = fun f => { f with pkt := pkt } := by
    funext f
    rw [fabSet, if_pos rfl, bvf_pktWord, BitVec.ofNat_toNat, BitVec.setWidth_eq]
  rw [accessWrite_parcel_discardIf s rq p _ _ _ h (by decide) hv, parcelSet_fabric _ _ _ _ (.inl rfl), hset, bvf_pktWord]
  simp only [Bool.or_eq_true, decide_eq_true_eq]
  split
  · rw [if_neg (by omega)]
  · rw [if_pos (by omega)]

/-! ### The rotation of the channel key (R244) -/

theorem parcelVerdict_rotate (s : State) (p : Nat) (w : Fin 2) (v : Word) :
    parcelVerdict s p (0x310 + 8 * w) v = discardIf (s.parcel p).keys.busy := by
  have hw := w.isLt
  unfold parcelVerdict
  dsimp only
  rw [if_neg (not_within (by omega)), if_pos (within_eq_true (by omega))]

theorem parcelSet_rotate (s : State) (p : Nat) (w : Fin 2) (v : Word) :
    parcelSet s p (0x310 + 8 * w) v = chanRotateSet s p w v := by
  have hw := w.isLt
  unfold parcelSet
  rw [if_neg (not_within (by omega)), if_neg (not_within (by omega)), if_neg (by omega), if_neg (by omega),
    if_pos (within_eq_true (by omega)), show (0x310 + 8 * w.val - 0x310) / 8 = w.val by omega]

theorem chanRotateSet_idle (s : State) (p : Nat) (w : Fin 2) (v : Word) (h : (s.parcel p).keys.busy = false) :
    chanRotateSet s p w v = s.updParcel p (fun x => { x with keys :=
      if w = 0 then { x.keys with arm := bvb v 0, done := x.keys.done && (!bvb v 2 || s.marked (.rotated p)) }
      else { x.keys with tick := v } }) := by
  unfold chanRotateSet updKeys
  refine State.updParcel_congr _ _ ?_
  simp only [h, Bool.false_eq_true, if_false, Fin.val_eq_zero_iff, w1c]

/-! ### The monitors (R445, R449) -/

/-- The word that a freeze writes. -/
theorem bits_freezeWord (b : Bool) : bvb (word (b2n b)) 0 = b ∧ bvb (word (b2n b)) 1 = false ∧ bvb (word (b2n b)) 2 = false := by
  cases b <;> decide

/-- The word that a snapshot request writes: it keeps the freeze. -/
theorem bits_snapWord (b : Bool) :
    bvb (word (2 + b2n b)) 0 = b ∧ bvb (word (2 + b2n b)) 1 = true ∧ bvb (word (2 + b2n b)) 2 = false := by
  cases b <;> decide

theorem parcelSet_intEn (s : State) (p : Nat) (v : Word) : parcelSet s p 0x1008 v = intEnSet s p v := rfl

theorem perfCtlSet_freeze (s : State) (p : Nat) (b : Bool) :
    perfCtlSet s p (word (b2n b)) = s.updMon p (fun m => { m with freezeAsked := b }) := by
  obtain ⟨h0, h1, h2⟩ := bits_freezeWord b
  simp [perfCtlSet, h0, h1, h2, w1c]

theorem perfCtlSet_snap (s : State) (p : Nat) (b : Bool) (h : (s.parcel p).mon.freezeAsked = b) :
    perfCtlSet s p (word (2 + b2n b)) = s.updMon p (fun m => { m with snapAsked := true }) := by
  obtain ⟨h0, h1, h2⟩ := bits_snapWord b
  unfold perfCtlSet State.updMon
  refine State.updParcel_congr _ _ ?_
  simp [h0, h1, h2, w1c, h]

/-- A fold over distinct reaches of a parcel changes the task of each of them once, and nothing else. -/
theorem foldl_updTask (p : Nat) (f : Task → Task) (is : List Nat) (hnd : is.Nodup) (s : State) : ∃ t,
    is.foldl (fun s l => s.updTask p l f) s = t ∧ t = { s with parcels := t.parcels } ∧ (t.parcel p).mon = (s.parcel p).mon ∧
      (∀ q, q ≠ p → t.parcel q = s.parcel q) ∧
      ∀ l, t.reach p l = if l ∈ is then { s.reach p l with task := f (s.reach p l).task } else s.reach p l := by
  induction is generalizing s with
  | nil => exact ⟨s, rfl, rfl, rfl, fun _ _ => rfl, fun l => by simp⟩
  | cons i is ih =>
    obtain ⟨hi, hnd⟩ := List.nodup_cons.mp hnd
    obtain ⟨t, ht, hrest, hmon, hother, hreach⟩ := ih hnd (s.updTask p i f)
    refine ⟨t, ht, hrest, hmon.trans (State.updTask_parcel_mon ..), fun q hq => ?_, fun l => ?_⟩
    · rw [hother q hq, State.updTask, State.updReach_parcel, if_neg hq]
    · rw [hreach l]
      by_cases hl : l = i
      · subst hl; simp [hi]
      · rw [State.updTask_reach_other _ _ _ _ _ _ (fun h => hl h.2)]
        simp [hl]

/-- The countdown stands in the writable bits (R449). -/
theorem bvf_sampleCountdown (v : Word) : bvf (v &&& sampleMask) 32 20 = bvf v 32 20 := by
  have h : BitVec.extractLsb' 32 20 (v &&& sampleMask) = BitVec.extractLsb' 32 20 v := by
    unfold sampleMask
    ext i hi
    simp only [BitVec.getElem_extractLsb', BitVec.getLsbD_and]
    have hm : (0xFFFFFFFFFFFFF#64).getLsbD (32 + i) = true := by
      interval_cases i <;> rfl
    rw [hm, Bool.and_true]
  simpa [bvf, field, BitVec.extractLsb'_toNat] using congrArg BitVec.toNat h

/-- A write that does not start sampling only sets the register. -/
theorem sampleCfgSet_holds (s : State) (p : Nat) (v : Word) (h : bvb v 0 = false ∨ bvb (s.parcel p).mon.smpCfg 0 = true) :
    sampleCfgSet s p v = s.updMon p (fun m => { m with smpCfg := v &&& 0xFFFFFFFFFFFFF#64 }) := by
  have hstart : (bvb v 0 && !bvb (s.parcel p).mon.smpCfg 0) = false := by rcases h with h | h <;> simp [h]
  simp only [sampleCfgSet, hstart, Bool.false_eq_true, if_false]
  rfl

/-- A write that starts sampling begins a new record file and loads the countdown of every reach. -/
theorem sampleCfgSet_starts (s : State) (p : Nat) (v : Word) (hen : bvb v 0 = true)
    (hoff : bvb (s.parcel p).mon.smpCfg 0 = false) : ∃ t, sampleCfgSet s p v = t ∧ t = { s with parcels := t.parcels } ∧
      (t.parcel p).mon = { (s.parcel p).mon with
        smpCfg := v &&& 0xFFFFFFFFFFFFF#64, smpNext := 0, smpFull := false, smpWritten := 0, smpDropped := 0 } ∧
      (∀ q, q ≠ p → t.parcel q = s.parcel q) ∧
      ∀ l < 128, t.reach p l = { s.reach p l with task := { (s.reach p l).task with sampleCd := bvf v 32 20 + 1 } } := by
  obtain ⟨u, hu⟩ : ∃ u, u = (s.updMon p (fun m => { m with smpCfg := v &&& sampleMask })).updMon p
      (fun m => { m with smpNext := 0, smpFull := false, smpWritten := 0, smpDropped := 0 }) := ⟨_, rfl⟩
  obtain ⟨t, ht, hrest, hmon, hother, hreach⟩ := foldl_updTask p
    (fun t => { t with sampleCd := bvf (v &&& sampleMask) 32 20 + 1 }) (List.range 128) List.nodup_range u
  have hset : sampleCfgSet s p v = t := by
    rw [← ht, hu]
    simp only [sampleCfgSet, hen, hoff, Bool.not_false, Bool.and_self, if_true]
    rfl
  refine ⟨t, hset, ?_, ?_, fun q hq => ?_, fun l hl => ?_⟩
  · rw [hu] at hrest; exact hrest
  · rw [hmon, hu]; simp [sampleMask]
  · rw [hother q hq, hu]; simp [State.updMon, State.updParcel_parcel_other _ _ _ _ hq]
  · rw [hreach l, if_pos (List.mem_range.mpr hl), bvf_sampleCountdown, hu]; simp

/-! ### Interrupts that stand as they are enabled (R347) -/

/-- What the messages of a parcel do to the host port, one after another, by whether the host has a link. -/
theorem msix_port (s : State) (fn n : Nat) : (msix s fn n).hub.port.linkUp = s.hub.port.linkUp ∧
    (msix s fn n).hub.port.fnMask = s.hub.port.fnMask ∧ (msix s fn n).hub.port.vecMask = s.hub.port.vecMask ∧
    (∀ i, SMap.get false s.hub.port.vecPend i = true → SMap.get false (msix s fn n).hub.port.vecPend i = true) ∧
    (∀ x ∈ s.hub.port.sent, x ∈ (msix s fn n).hub.port.sent) := by
  simp only [msix, State.updPort_hub_port]
  split
  · exact ⟨rfl, rfl, rfl, fun _ h => h, fun _ h => h⟩
  · split
    · refine ⟨rfl, rfl, rfl, fun i h => ?_, fun _ h => h⟩
      rw [SMap.get_put]
      split <;> simp_all
    · exact ⟨rfl, rfl, rfl, fun _ h => h, fun _ h => List.mem_cons_of_mem _ h⟩

/-- With a link a message is sent, or waits where it is masked. -/
theorem msix_sends (s : State) (fn n : Nat) (h : s.hub.port.linkUp = true) :
    if bvb s.hub.port.fnMask fn || SMap.get false s.hub.port.vecMask (fn * 4 + n)
    then SMap.get false (msix s fn n).hub.port.vecPend (fn * 4 + n) = true else (fn, n) ∈ (msix s fn n).hub.port.sent := by
  simp only [msix, State.updPort_hub_port, h, Bool.not_true, Bool.false_eq_true, if_false]
  split <;> simp_all

theorem msix_noLink (s : State) (fn n : Nat) (h : s.hub.port.linkUp = false) : (msix s fn n).hub = s.hub := by
  simp [msix, State.updPort, h]

/-- The messages of the interrupts `ns` that are due, in turn. -/
def sendDue (fn : Nat) (due : Nat → Bool) (ns : List Nat) (s : State) : State :=
  ns.foldl (fun s n => if due n then msix s fn n else s) s

theorem sendDue_keeps (fn : Nat) (due : Nat → Bool) (ns : List Nat) (s : State) :
    sendDue fn due ns s = { s with hub := { s.hub with port := (sendDue fn due ns s).hub.port } } := by
  induction ns generalizing s with
  | nil => rfl
  | cons n ns ih =>
    have hstep := ih (if due n then msix s fn n else s)
    rw [show sendDue fn due (n :: ns) s = sendDue fn due ns (if due n then msix s fn n else s) from rfl, hstep]
    split <;> rfl

/-- What has been sent stays sent, and what waits goes on waiting. -/
theorem sendDue_port (fn : Nat) (due : Nat → Bool) (ns : List Nat) (s : State) :
    (sendDue fn due ns s).hub.port.linkUp = s.hub.port.linkUp ∧ (sendDue fn due ns s).hub.port.fnMask = s.hub.port.fnMask ∧
    (sendDue fn due ns s).hub.port.vecMask = s.hub.port.vecMask ∧
    (∀ i, SMap.get false s.hub.port.vecPend i = true → SMap.get false (sendDue fn due ns s).hub.port.vecPend i = true) ∧
    (∀ x ∈ s.hub.port.sent, x ∈ (sendDue fn due ns s).hub.port.sent) := by
  induction ns generalizing s with
  | nil => exact ⟨rfl, rfl, rfl, fun _ h => h, fun _ h => h⟩
  | cons n ns ih =>
    rw [show sendDue fn due (n :: ns) s = sendDue fn due ns (if due n then msix s fn n else s) from rfl]
    split
    · obtain ⟨h1, h2, h3, h4, h5⟩ := msix_port s fn n
      obtain ⟨k1, k2, k3, k4, k5⟩ := ih (msix s fn n)
      exact ⟨k1.trans h1, k2.trans h2, k3.trans h3, fun i h => k4 i (h4 i h), fun x h => k5 x (h5 x h)⟩
    · exact ih s

theorem sendDue_sends (fn : Nat) (due : Nat → Bool) (ns : List Nat) (s : State) (h : s.hub.port.linkUp = true) :
    ∀ n ∈ ns, due n = true → if bvb s.hub.port.fnMask fn || SMap.get false s.hub.port.vecMask (fn * 4 + n)
      then SMap.get false (sendDue fn due ns s).hub.port.vecPend (fn * 4 + n) = true
      else (fn, n) ∈ (sendDue fn due ns s).hub.port.sent := by
  induction ns generalizing s with
  | nil => simp
  | cons i ns ih =>
    intro n hn hdue
    rw [show sendDue fn due (i :: ns) s = sendDue fn due ns (if due i then msix s fn i else s) from rfl]
    rcases List.mem_cons.mp hn with rfl | hn
    · rw [if_pos hdue]
      have hsend := msix_sends s fn n h
      obtain ⟨_, _, _, hpend, hsent⟩ := sendDue_port fn due ns (msix s fn n)
      split
      · next hm => rw [if_pos hm] at hsend; exact hpend _ hsend
      · next hm => rw [if_neg hm] at hsend; exact hsent _ hsend
    · by_cases hi : due i = true
      · obtain ⟨hup, hfn, hvec, _, _⟩ := msix_port s fn i
        rw [if_pos hi, ← hfn, ← hvec]
        exact ih _ (hup.trans h) n hn hdue
      · rw [if_neg hi]
        exact ih s h n hn hdue

theorem sendDue_silent (fn : Nat) (due : Nat → Bool) (ns : List Nat) (s : State)
    (h : s.hub.port.linkUp = false ∨ ∀ n ∈ ns, due n = false) : (sendDue fn due ns s).hub = s.hub := by
  induction ns generalizing s with
  | nil => rfl
  | cons n ns ih =>
    rw [show sendDue fn due (n :: ns) s = sendDue fn due ns (if due n then msix s fn n else s) from rfl]
    rcases h with h | h
    · split
      · rw [ih _ (.inl ((msix_port s fn n).1.trans h)), msix_noLink s fn n h]
      · exact ih s (.inl h)
    · rw [h n List.mem_cons_self, if_neg Bool.false_ne_true]
      exact ih s (.inr fun m hm => h m (List.mem_cons_of_mem _ hm))

/-- A message leaves the status that decides on the next one. -/
theorem foldl_msix_eq_sendDue (p : Nat) (v : Word) (st : BitVec 4) (ns : List Nat) (s : State) (h : (s.parcel p).mon.intStat = st) :
    ns.foldl (fun s n => if bvb v n && bvb (s.parcel p).mon.intStat n then msix s (p + 1) n else s) s =
      sendDue (p + 1) (fun n => bvb v n && bvb st n) ns s := by
  induction ns generalizing s with
  | nil => rfl
  | cons n ns ih =>
    rw [List.foldl_cons, h, sendDue, List.foldl_cons]
    exact ih _ (by split <;> exact h)

theorem intEnSet_eq (s : State) (p : Nat) (v : Word) : intEnSet s p v =
    sendDue (p + 1) (fun n => bvb v n && bvb (s.parcel p).mon.intStat n) (List.range 4)
      (s.updMon p (fun m => { m with intEn := BitVec.ofNat 4 (bvf v 0 4) })) :=
  foldl_msix_eq_sendDue _ _ _ _ _ (by simp [State.updMon])

/-! ### The obligation -/

theorem codebookWrite_stores (rq : Requester) (p : ParcelId) (c : ClusterId) (k : Fin 8) (v : Word) (s : State) :
    (Arrives s rq p (.cluster p c (0x100 + 8 * k)) v → exec (.codebookWrite rq p c k none v) s =
      .next ((portBytes s rq p true 8).updCluster p c (fun x => { x with cbCfg := SMap.put x.cbCfg k (v &&& 3#64) }))) ∧
    (∀ i : Fin 16, Arrives s rq p (.cluster p c (0x200 + 128 * k + 8 * i)) v → exec (.codebookWrite rq p c k (some i) v) s =
      .next ((portBytes s rq p true 8).updCluster p c
        (fun x => { x with cbLvl := SMap.put x.cbLvl (16 * k + i) (v &&& 0xFFFF#64) }))) := by
  refine ⟨fun h => congrArg Host.Outcome.next ?_, fun i h => congrArg Host.Outcome.next ?_⟩
  · exact (accessWrite_cluster s rq p c _ v h (by omega)).trans (clusterSet_bookKind ..)
  · exact (accessWrite_cluster s rq p c _ v h (by omega)).trans (clusterSet_bookLevel ..)

theorem sampleEnable_starts (rq : Requester) (p : ParcelId) (v : Word) (s : State) (h : Arrives s rq p (.parcel p 0x8008) v)
    (hen : bvb v 0 = true) (hoff : bvb (s.parcel p).mon.smpCfg 0 = false) :
    Gives (.sampleEnable rq p v) s (fun t =>
      (t.parcel p).mon = { ((portBytes s rq p true 8).parcel p).mon with
        smpCfg := v &&& 0xFFFFFFFFFFFFF#64, smpNext := 0, smpFull := false, smpWritten := 0, smpDropped := 0 } ∧
      (∀ l < 128, t.reach p l = { s.reach p l with task := { (s.reach p l).task with sampleCd := bvf v 32 20 + 1 } }) ∧
      (∀ q, q ≠ p.val → t.parcel q = s.parcel q) ∧ t.book = s.book ∧ t.hub = s.hub ∧ SameTime s t) := by
  obtain ⟨acc, inc, hbytes⟩ := portBytes_mon s rq p 8
  obtain ⟨t, ht, hrest, hmon, hother, hreach⟩ := sampleCfgSet_starts (portBytes s rq p true 8) p v hen (by rw [hbytes]; exact hoff)
  have hexec : exec (.sampleEnable rq p v) s = .next t := congrArg Host.Outcome.next <|
    (accessWrite_parcel s rq p _ v h (by decide) (parcelVerdict_open _ _ _ _ (.inr (by decide)))).trans ht
  refine ⟨t, hexec, hmon, fun l hl => ?_, fun q hq => ?_, ?_, ?_, (portBytes_sameTime s rq p 8).trans ?_⟩
  · rw [hreach l hl, portBytes_reach]
  · rw [hother q hq, portBytes_parcel_mon, if_neg hq]
  · rw [hrest]; exact portBytes_book ..
  · rw [hrest]; exact portBytes_hub ..
  · rw [hrest]; exact ⟨rfl, rfl, rfl, rfl, rfl⟩

theorem intEnWrite_sends (rq : Requester) (p : ParcelId) (v : Word) (s : State) (h : Arrives s rq p (.parcel p 0x1008) v) :
    Gives (.intEnWrite rq p v) s (fun t =>
      (∀ q, t.parcel q = if q = p then { s.parcel p with mon := { ((portBytes s rq p true 8).parcel p).mon with
        intEn := BitVec.ofNat 4 (bvf v 0 4) } } else s.parcel q) ∧
      (∀ n < 4, s.hub.port.linkUp = true → bvb v n = true → bvb (s.parcel p).mon.intStat n = true →
        if bvb s.hub.port.fnMask (p + 1) || SMap.get false s.hub.port.vecMask ((p + 1) * 4 + n)
        then SMap.get false t.hub.port.vecPend ((p + 1) * 4 + n) = true
        else (p.val + 1, n) ∈ t.hub.port.sent) ∧
      (s.hub.port.linkUp = false ∨ (∀ n < 4, bvb v n = true → bvb (s.parcel p).mon.intStat n = false) → t.hub = s.hub) ∧
      t.book = s.book ∧ SameTime s t ∧ SameHub s t) := by
  obtain ⟨u, hu⟩ : ∃ u, u = (portBytes s rq p true 8).updMon p (fun m => { m with intEn := BitVec.ofNat 4 (bvf v 0 4) }) :=
    ⟨_, rfl⟩
  obtain ⟨due, hdue⟩ : ∃ due : Nat → Bool, due = fun n => bvb v n && bvb (s.parcel p).mon.intStat n := ⟨_, rfl⟩
  obtain ⟨t, ht⟩ : ∃ t, t = sendDue (p + 1) due (List.range 4) u := ⟨_, rfl⟩
  have huh : u.hub = s.hub := by rw [hu]; exact portBytes_hub ..
  have hexec : exec (.intEnWrite rq p v) s = .next t := by
    obtain ⟨acc, inc, hbytes⟩ := portBytes_mon s rq p 8
    refine congrArg Host.Outcome.next ?_
    rw [accessWrite_parcel s rq p _ v h (by decide) (parcelVerdict_open _ _ _ _ (.inr (by decide))), parcelSet_intEn,
      intEnSet_eq, ht, hu, hdue, hbytes]
  have hkeep := sendDue_keeps (p + 1) due (List.range 4) u
  rw [← ht] at hkeep
  refine ⟨t, hexec, fun q => ?_, fun n hn hup hv hst => ?_, fun hno => ?_, ?_, (portBytes_sameTime s rq p 8).trans ?_, ?_⟩
  · have hq : t.parcel q = u.parcel q := by rw [hkeep]; rfl
    rw [hq, hu, State.updMon, State.updParcel_parcel, portBytes_parcel_mon s rq p 8 q, portBytes_parcel_mon s rq p 8 p, if_pos rfl]
    split <;> rfl
  · have hsend := sendDue_sends (p + 1) due (List.range 4) u (by rw [huh, hup]) n (List.mem_range.mpr hn) (by simp [hdue, hv, hst])
    rwa [← ht, huh] at hsend
  · rw [ht, sendDue_silent _ _ _ _ ?_, huh]
    refine hno.imp (fun h => by rw [huh, h]) (fun h n hn => ?_)
    simp only [hdue, Bool.and_eq_false_imp]
    exact h n (List.mem_range.mp hn)
  · rw [hkeep, hu]; exact portBytes_book ..
  · rw [hkeep, hu]; exact ⟨rfl, rfl, rfl, rfl, rfl⟩
  · rw [hkeep, huh]; exact ⟨rfl, rfl, rfl, rfl, rfl, rfl, rfl, rfl⟩

/-- Settles O3: a write that arrives has the verdict of its register, and the effect that the verdict lets through. -/
theorem registersOfAParcelAreWritten : Obligations.RegistersOfAParcelAreWritten := by
  unfold Obligations.RegistersOfAParcelAreWritten
  refine ⟨codebookWrite_stores,
    fun rq p k v s => ⟨fun h hok => ?region, fun h hen hlen htop => ?regionOut, fun w h => ?chan, fun w e h he => ?rxWin⟩,
    fun rq p v s => ⟨fun pkt h => ?pkt, fun w h => ?rotate, fun b h => ?freeze, fun h => ?snap, fun h hon => ?sample,
      sampleEnable_starts rq p v s⟩,
    fun rq p v s => intEnWrite_sends rq p v s⟩
  case region =>
    refine congrArg Host.Outcome.next ?_
    rw [accessWrite_parcel_discardIf s rq p _ v _ h (by omega) (parcelVerdict_region s p k v), regionBad_eq_false hok,
      if_neg Bool.false_ne_true, parcelSet_region, portBytes_marked]
    rfl
  case regionOut =>
    refine congrArg Host.Outcome.next ?_
    rw [accessWrite_parcel_discardIf s rq p _ v _ h (by omega) (parcelVerdict_region s p k v),
      regionBad_eq_true hen hlen htop, if_pos rfl]
  case chan =>
    have hk := k.isLt
    have hw := w.isLt
    refine congrArg Host.Outcome.next ?_
    rw [accessWrite_parcel s rq p _ v h (by omega) (parcelVerdict_open _ _ _ _ (.inl (by omega))),
      parcelSet_fabric _ _ _ _ (.inr (by omega))]
    simp only [fabSet_chan]
  case rxWin =>
    have hnew : rxWinNew s p k w v = e := by rw [he, rxWinNew, rxMask_eq]; rfl
    refine congrArg Host.Outcome.next ?_
    rw [accessWrite_rxWin s rq p k w v h, hnew]
    simp only [rxWinBad_iff]
  case pkt => exact congrArg Host.Outcome.next (accessWrite_linkVerPkt s rq p pkt h)
  case rotate =>
    have hw := w.isLt
    refine congrArg Host.Outcome.next ?_
    rw [accessWrite_parcel_discardIf s rq p _ v _ h (by omega) (parcelVerdict_rotate s p w v), parcelSet_rotate]
    cases hbusy : (s.parcel p).keys.busy with
    | true => rfl
    | false => rw [chanRotateSet_idle _ _ _ _ (by rw [portBytes_keys, hbusy]), portBytes_marked]
  case freeze =>
    refine congrArg Host.Outcome.next ?_
    exact (accessWrite_parcel s rq p _ _ h (by decide) (parcelVerdict_open _ _ _ _ (.inr (by decide)))).trans
      (perfCtlSet_freeze ..)
  case snap =>
    obtain ⟨acc, inc, hbytes⟩ := portBytes_mon s rq p 8
    refine congrArg Host.Outcome.next ?_
    exact (accessWrite_parcel s rq p _ _ h (by decide) (parcelVerdict_open _ _ _ _ (.inr (by decide)))).trans
      (perfCtlSet_snap _ _ _ (by rw [hbytes]))
  case sample =>
    obtain ⟨acc, inc, hbytes⟩ := portBytes_mon s rq p 8
    refine congrArg Host.Outcome.next ?_
    exact (accessWrite_parcel s rq p _ _ h (by decide) (parcelVerdict_open _ _ _ _ (.inr (by decide)))).trans
      (sampleCfgSet_holds _ _ _ (by rw [hbytes]; exact hon))

end Sys2Proof.Machine
end

section
/-!
What an instruction leaves that writes the clusters or an on-die memory (06 R173 to R175; 09 R245): the reaches, the stacked
memories and the time beside the clusters, a write to an on-die memory, and records written at places of their own.
-/

namespace Sys2Proof.Machine

/-! ### Beside the clusters -/

/-- What surrounds an instruction, without the clusters. -/
def World.noClusters (w : World) : World := { w with cluster := fun _ _ => {} }

@[simp] theorem noClusters_updCluster (s : State) (p c : Nat) (f : Cluster → Cluster) :
    (world (s.updCluster p c f)).noClusters = (world s).noClusters :=
  World.ext' (fun _ _ => State.updCluster_reach ..) (fun _ _ => rfl) (fun _ => State.updCluster_parcel_mem ..) rfl rfl rfl rfl rfl

@[simp] theorem noClusters_bumpCcnt (s : State) (p c k n : Nat) :
    (world (bumpCcnt s p c k n)).noClusters = (world s).noClusters := by
  unfold bumpCcnt
  split
  · rfl
  · exact noClusters_updCluster ..

/-- A count of a cluster leaves everything else of it. -/
theorem bumpCcnt_cluster (s : State) (p c k n : Nat) : ∃ cnt inc, ∀ q d, (bumpCcnt s p c k n).cluster q d =
    if q = p ∧ d = c then { s.cluster p c with cnt := cnt, cntInc := inc } else s.cluster q d := by
  unfold bumpCcnt
  split
  · refine ⟨(s.cluster p c).cnt, (s.cluster p c).cntInc, fun q d => ?_⟩
    split
    · next h => rw [h.1, h.2]
    · rfl
  · exact ⟨cntBump (s.cluster p c).cnt k n, incBump (s.cluster p c).cntInc k n, fun q d => State.updCluster_cluster ..⟩

@[simp] theorem bumpCcnt_poison (s : State) (p c k n q d : Nat) :
    ((bumpCcnt s p c k n).cluster q d).poison = (s.cluster q d).poison := by
  obtain ⟨cnt, inc, h⟩ := bumpCcnt_cluster s p c k n
  rw [h]
  split
  · next hq => rw [hq.1, hq.2]
  · rfl

@[simp] theorem bumpCcnt_posted (s : State) (p c k n : Nat) : (bumpCcnt s p c k n).posted = s.posted :=
  (bumpCcnt_keeps s p c k n).2.2.1

theorem cells_bumpCcnt (s : State) (p c k n : Nat) (j : Space) : cells (bumpCcnt s p c k n) j = cells s j := by
  obtain ⟨cnt, inc, h⟩ := bumpCcnt_cluster s p c k n
  have hworld := noClusters_bumpCcnt s p c k n
  refine cells_congr (congrFun (congrArg World.mem hworld)) (fun q d => ?_) (fun q m => ?_) j
  · rw [h]
    split
    · next hq => rw [hq.1, hq.2]
    · rfl
  · rw [(bumpCcnt_keeps s p c k n).1]
    exact ⟨rfl, rfl⟩

section
variable {s t : State} {p l : Nat}

theorem reach_of_noClusters (h : (world t).noClusters = (world s).noClusters) (q m : Nat) : t.reach q m = s.reach q m :=
  congrFun (congrFun (congrArg World.reach h) q) m

theorem noClusters_of_around (h : (world t).around p l = (world s).around p l) :
    (world t).noClusters.around p l = (world s).noClusters.around p l := congrArg World.noClusters h

theorem around_of_noClusters (h : (world t).noClusters = (world s).noClusters) :
    (world t).noClusters.around p l = (world s).noClusters.around p l := by rw [h]

variable (h : (world t).noClusters.around p l = (world s).noClusters.around p l)
include h

theorem otherReaches_of_noClusters : OtherReaches s t p l := by
  intro q m hqm
  have := congrFun (congrFun (congrArg World.reach h) q) m
  simpa [World.around, World.noClusters, world, hqm] using this

theorem kept_of_noClusters : (t.reach p l).kept = (s.reach p l).kept := by
  have := congrFun (congrFun (congrArg World.reach h) p) l
  simpa [World.around, World.noClusters, world] using this

theorem sameTime_of_noClusters : SameTime s t :=
  ⟨congrArg World.datum h, congrArg World.stay h, congrArg World.pending h, congrArg World.phase h, congrArg World.wall h⟩

theorem sameTables_of_noClusters : SameTables s t p l := by
  have hk := kept_of_noClusters h
  exact ⟨(congrArg Reach.prof hk :), (congrArg Reach.trv hk :), (congrArg Reach.swz hk :), (congrArg Reach.spWin hk :),
    (congrArg Reach.cbWin hk :), (congrArg Reach.fuse hk :), (congrArg Reach.actSeg hk :)⟩

theorem scalars_of_noClusters : (t.reach p l).s = (s.reach p l).s := (congrArg Reach.s (kept_of_noClusters h) :)

end

/-! ### A write to an on-die memory -/

/-- A write to an on-die memory without poison writes its cells (R248, R401). -/
theorem devWrite_onDie {s : State} {k : Space} (hk : ∀ q, k ≠ .sm q) (hp : poisoned s k = []) (rq : Nat) (ws : List Host.Cell) :
    ∃ us, devWrite s k rq ws = { setCells s k (ws.foldl (fun m c => memSet m c.1 c.2) (cells s k)) with upsets := us } := by
  have hcount : smCount (backInvalidate s k (ws.map (fun c => c.1))) k true (ws.map (fun c => c.1)) = s := by
    cases k with
    | sm q => exact absurd rfl (hk q)
    | _ => rfl
  have hwrite : devWrite s k rq ws = (writeCells s k ws).1 := by simp [devWrite, hcount, hp]
  rw [hwrite, (writeCells_clean s k ws hp).1]
  exact ⟨_, rfl⟩

/-- A write of consecutive bytes to a cluster buffer. -/
theorem devWrite_cb {s : State} {p c : Nat} (hp : (s.cluster p c).poison = []) (rq a : Nat) (bs : List Byte) :
    ∃ us, devWrite s (.cb p c) rq (cellsOf a bs) =
      { s.updCluster p c (fun x => { x with buf := memWrite x.buf a bs }) with upsets := us } := by
  obtain ⟨us, h⟩ := devWrite_onDie (k := .cb p c) (by simp) hp rq (cellsOf a bs)
  rw [foldl_cellsOf] at h
  exact ⟨us, h⟩

/-- A write of consecutive bytes to a scratchpad. -/
theorem devWrite_sp {s : State} {p l : Nat} (hp : (s.reach p l).spPoison = []) (rq a : Nat) (bs : List Byte) :
    ∃ us, devWrite s (.sp p l) rq (cellsOf a bs) =
      { s.updReach p l (fun x => { x with spad := memWrite x.spad a bs }) with upsets := us } := by
  obtain ⟨us, h⟩ := devWrite_onDie (k := .sp p l) (by simp) hp rq (cellsOf a bs)
  rw [foldl_cellsOf] at h
  exact ⟨us, h⟩

/-! ### Records at places of their own -/

theorem memRead_congr {m m' : Mem} {a n : Nat} (h : ∀ i < n, memByte m (a + i) = memByte m' (a + i)) :
    memRead m a n = memRead m' a n := by
  refine List.ext_getElem (by simp [memRead_length]) (fun i hi hi' => ?_)
  rw [memRead_getElem, memRead_getElem, h i (by rwa [memRead_length] at hi)]

/-- A memory after records `0` to `n - 1` have been written, record `i` at `place i`. -/
def writeRecords (m : Mem) (place : Nat → Nat) (bs : Nat → List Byte) (n : Nat) : Mem :=
  (List.range n).foldl (fun m i => memWrite m (place i) (bs i)) m

section
variable {m : Mem} {place : Nat → Nat} {bs : Nat → List Byte}

theorem writeRecords_succ (n : Nat) :
    writeRecords m place bs (n + 1) = memWrite (writeRecords m place bs n) (place n) (bs n) := by
  simp [writeRecords, List.range_succ]

theorem memWf_writeRecords (h : memWf m = true) (n : Nat) : memWf (writeRecords m place bs n) = true := by
  induction n with
  | zero => exact h
  | succ n ih => rw [writeRecords_succ]; exact memWf_write _ _ ih

theorem memByte_writeRecords_outside (h : memWf m = true) {a n : Nat}
    (ha : ∀ i < n, a < place i ∨ place i + (bs i).length ≤ a) : memByte (writeRecords m place bs n) a = memByte m a := by
  induction n with
  | zero => rfl
  | succ n ih =>
    rw [writeRecords_succ, memByte_write_outside _ _ _ (memWf_writeRecords h n) (ha n (by omega))]
    exact ih (fun i hi => ha i (by omega))

/-- Each record is read back where no two of them overlap. -/
theorem memRead_writeRecords (h : memWf m = true) {n : Nat}
    (hsep : ∀ i < n, ∀ k < n, i ≠ k → place i + (bs i).length ≤ place k ∨ place k + (bs k).length ≤ place i) :
    ∀ i < n, memRead (writeRecords m place bs n) (place i) (bs i).length = bs i := by
  induction n with
  | zero => simp
  | succ n ih =>
    intro i hi
    rw [writeRecords_succ]
    by_cases hin : i = n
    · subst hin
      exact memRead_write _ _ (memWf_writeRecords h i)
    · have hlast := hsep i hi n (by omega) hin
      rw [memRead_congr (m' := writeRecords m place bs n) (fun k hk =>
        memByte_write_outside _ _ _ (memWf_writeRecords h n) (by omega))]
      exact ih (fun i hi k hk => hsep i (by omega) k (by omega)) i (by omega)

end

end Sys2Proof.Machine
end

section
/-!
RIFL (04 R113; 06 R174): one vector, the run over all of them, whose reads and writes do not meet, and the obligation.
-/

namespace Sys2Proof.Machine

/-! ### One vector -/

/-- The vector at address `a`, transformed and rounded (R113 steps 1 to 3). -/
def riflOf (s : State) (k : Space) (q : Prof) (a : Nat) : List Int :=
  riffleVector q ((List.range (2 ^ q.rfN)).map (fun e =>
    signed q.rfIn (field (leVal (rdBytes s k a (riflIn q))) (e * q.rfIn) q.rfIn)))

/-- A vector clamped to its width and packed (R113 step 4, R174). -/
def riflBytes (q : Prof) (v : List Int) : List Byte :=
  packBytes q.rfOut (v.map (fun e => unsignedBits q.rfOut (clampInt (signedLo q.rfOut) (signedHi q.rfOut) e)))

/-- No value of the vector needs the clamp. -/
def RiflFits (q : Prof) (v : List Int) : Prop := ∀ e ∈ v, signedLo q.rfOut ≤ e ∧ e ≤ signedHi q.rfOut

theorem riflOf_length (s : State) (k : Space) (q : Prof) (a : Nat) : (riflOf s k q a).length = 2 ^ q.rfN := by
  rw [riflOf, riffleVector, List.length_map, hadamard_length]
  split <;> simp

theorem riflBytes_length {q : Prof} {v : List Int} (hv : v.length = 2 ^ q.rfN) (hq : 2 ^ q.rfN * q.rfOut % 8 = 0) :
    (riflBytes q v).length = riflOut q := by
  rw [riflBytes, packBytes, leBytes_length, List.length_map, hv, riflOut]
  omega

theorem clampInt_inside {lo hi x : Int} (h : lo ≤ x ∧ x ≤ hi) : clampInt lo hi x = x := by
  rw [clampInt, if_neg (by omega), if_neg (by omega)]

/-- A vector that fits clamps nothing. -/
theorem clamped_of_fits {q : Prof} {v : List Int} (h : RiflFits q v) :
    (v.zip (v.map (clampInt (signedLo q.rfOut) (signedHi q.rfOut)))).filter (fun e => e.1 != e.2) = [] := by
  have hid : v.map (clampInt (signedLo q.rfOut) (signedHi q.rfOut)) = v :=
    (List.map_congr_left (g := id) (fun e he => clampInt_inside (h e he))).trans (List.map_id v)
  rw [hid, List.filter_eq_nil_iff]
  intro e he
  obtain ⟨i, _, rfl⟩ := List.getElem_of_mem he
  simp

/-- One vector of a buffer without poison: it is written at its place and counted, and noted where a clamp changed it. -/
theorem riflStep_writes {p l : Nat} {j : Job} {x : RiflRun} (i : Nat) {q : Prof} {src dst : Nat} (hq : q = prof j.prof)
    (hsrc : src = (x.s.reach p l).cbBase + j.sv 24 + i * riflIn q) (hdst : dst = (x.s.reach p l).cbBase + j.sv 29 + i * riflOut q)
    (hx : x.fault = none) (hp : (x.s.cluster p (clusterOf l)).poison = []) : ∃ y, riflStep p l j x i = y ∧ y.fault = none ∧
      y.s = devWrite (bumpCcnt x.s p (clusterOf l) 4 (2 ^ q.rfN)) (.cb p (clusterOf l)) (srcReach p l)
        (cellsOf dst (riflBytes q (riflOf x.s (.cb p (clusterOf l)) q src))) ∧
      (RiflFits q (riflOf x.s (.cb p (clusterOf l)) q src) → y.out = x.out) := by
  have hclean : poisonIn x.s (.cb p (clusterOf l)) src (riflIn q) = none := by simp [poisonIn, poisoned, hp]
  obtain ⟨v, hv⟩ : ∃ v, v = riflOf x.s (.cb p (clusterOf l)) q src := ⟨_, rfl⟩
  unfold riflStep
  simp only [hx, ← hq, ← hsrc, ← hdst, hclean]
  refine ⟨_, rfl, rfl, ?_, fun hfit => ?_⟩
  · simp only [List.map_map]
    rfl
  · have hnone := clamped_of_fits hfit
    simp only [riflOf] at hnone
    simp only [hnone, List.head?_nil]

/-! ### All of them -/

/-- What the vectors so far have done to the state `e` in which the RIFL began: the buffer is `m`. -/
structure RiflWrote (p l : Nat) (e : State) (m : Mem) (x : RiflRun) : Prop where
  fault : x.fault = none
  poison : (x.s.cluster p (clusterOf l)).poison = []
  posted : x.s.posted = e.posted
  beside : (world x.s).noClusters = (world e).noClusters
  cells : ∀ k, cells x.s k = if k = .cb p (clusterOf l) then m else cells e k

theorem RiflWrote.step {p l : Nat} {e : State} {m : Mem} {j : Job} {x : RiflRun} (h : RiflWrote p l e m x) (i : Nat) {q : Prof}
    {src dst : Nat} (hq : q = prof j.prof) (hsrc : src = (e.reach p l).cbBase + j.sv 24 + i * riflIn q)
    (hdst : dst = (e.reach p l).cbBase + j.sv 29 + i * riflOut q) :
    RiflWrote p l e (memWrite m dst (riflBytes q (riflOf x.s (.cb p (clusterOf l)) q src))) (riflStep p l j x i) ∧
    (RiflFits q (riflOf x.s (.cb p (clusterOf l)) q src) → (riflStep p l j x i).out = x.out) := by
  have hreach := reach_of_noClusters h.beside p l
  obtain ⟨y, hy, hfault, hs, hout⟩ := riflStep_writes (src := src) (dst := dst) i hq
    (by rw [hreach]; exact hsrc) (by rw [hreach]; exact hdst) h.fault h.poison
  obtain ⟨bs, hbs⟩ : ∃ bs, bs = riflBytes q (riflOf x.s (.cb p (clusterOf l)) q src) := ⟨_, rfl⟩
  rw [← hbs] at hs ⊢
  obtain ⟨u, hu⟩ : ∃ u, u = bumpCcnt x.s p (clusterOf l) 4 (2 ^ q.rfN) := ⟨_, rfl⟩
  have hup : (u.cluster p (clusterOf l)).poison = [] := by rw [hu, bumpCcnt_poison, h.poison]
  have hum : (u.cluster p (clusterOf l)).buf = m := by
    have hc := cells_bumpCcnt x.s p (clusterOf l) 4 (2 ^ q.rfN) (.cb p (clusterOf l))
    rw [← hu, h.cells, if_pos rfl] at hc
    exact hc
  obtain ⟨us, hwrite⟩ := devWrite_cb hup (srcReach p l) dst bs
  rw [← hu, hwrite] at hs
  rw [hy]
  refine ⟨⟨hfault, ?_, ?_, ?_, fun k => ?_⟩, hout⟩
  · rw [hs]
    exact (congrArg Cluster.poison (State.updCluster_cluster_same u p (clusterOf l)
      (fun c => { c with buf := memWrite c.buf dst bs }))).trans hup
  · rw [hs]
    simp only [State.updCluster_posted, hu, bumpCcnt_posted, h.posted]
  · rw [hs, world_upsets, noClusters_updCluster, hu, noClusters_bumpCcnt, h.beside]
  · rw [hs, cells_upsets]
    refine (cells_setCells u (.cb p (clusterOf l)) k (memWrite (u.cluster p (clusterOf l)).buf dst bs)).trans ?_
    rw [hum, hu, cells_bumpCcnt, h.cells]
    split <;> rfl

section
variable {p l : Nat} {e : State} {j : Job} {q : Prof} {n src dst : Nat} (hq : q = prof j.prof)
  (hsrc : src = (e.reach p l).cbBase + j.sv 24) (hdst : dst = (e.reach p l).cbBase + j.sv 29)
  (hfar : src + n * riflIn q ≤ dst ∨ dst + n * riflOut q ≤ src) (hbits : 2 ^ q.rfN * q.rfOut % 8 = 0)
  (hpoison : (e.cluster p (clusterOf l)).poison = []) (hwf : memWf (e.cluster p (clusterOf l)).buf = true)
include hq hsrc hdst hfar hbits hpoison hwf

/-- After `i` of its vectors, which read what stood at first, since no write reaches what is still to be read. -/
theorem riflWrote_vectors (i : Nat) (hi : i ≤ n) :
    RiflWrote p l e (writeRecords (e.cluster p (clusterOf l)).buf (fun i => dst + i * riflOut q)
      (fun i => riflBytes q (riflOf e (.cb p (clusterOf l)) q (src + i * riflIn q))) i)
      ((List.range i).foldl (riflStep p l j) { s := e }) ∧
    ((∀ k < i, RiflFits q (riflOf e (.cb p (clusterOf l)) q (src + k * riflIn q))) →
      ((List.range i).foldl (riflStep p l j) { s := e }).out = none) := by
  induction i with
  | zero =>
    refine ⟨⟨rfl, hpoison, rfl, rfl, fun k => ?_⟩, fun _ => rfl⟩
    split
    · next hk => subst hk; rfl
    · rfl
  | succ i ih =>
    obtain ⟨hwrote, hout⟩ := ih (by omega)
    obtain ⟨x, hx⟩ : ∃ x, x = (List.range i).foldl (riflStep p l j) { s := e } := ⟨_, rfl⟩
    have hin : (i + 1) * riflIn q ≤ n * riflIn q := Nat.mul_le_mul_right _ hi
    have hout' : (i + 1) * riflOut q ≤ n * riflOut q := Nat.mul_le_mul_right _ hi
    have hread : riflOf x.s (.cb p (clusterOf l)) q (src + i * riflIn q) =
        riflOf e (.cb p (clusterOf l)) q (src + i * riflIn q) := by
      have hbytes : rdBytes x.s (.cb p (clusterOf l)) (src + i * riflIn q) (riflIn q) =
          rdBytes e (.cb p (clusterOf l)) (src + i * riflIn q) (riflIn q) := by
        rw [rdBytes, hx, hwrote.cells, if_pos rfl]
        refine memRead_congr (fun b hb => memByte_writeRecords_outside hwf fun k hk => ?_)
        have hk' : (k + 1) * riflOut q ≤ i * riflOut q := Nat.mul_le_mul_right _ hk
        rw [riflBytes_length (riflOf_length ..) hbits]
        rw [Nat.add_mul] at hin hout' hk'
        omega
      rw [riflOf, hbytes, riflOf]
    have hstep := hwrote.step i hq (by rw [← hsrc]) (by rw [← hdst])
    rw [← hx, hread] at hstep
    rw [writeRecords_succ, List.range_succ, List.foldl_append, List.foldl_cons, List.foldl_nil, ← hx]
    refine ⟨hstep.1, fun hfit => ?_⟩
    rw [hstep.2 (hfit i (by omega)), hx]
    exact hout (fun k hk => hfit k (by omega))

end

/-- The vectors in the buffer, and every byte beside them. -/
theorem riflWrote_bytes {p l : Nat} {e : State} {q : Prof} {n src dst : Nat} (hbits : 2 ^ q.rfN * q.rfOut % 8 = 0)
    (hwf : memWf (e.cluster p (clusterOf l)).buf = true) {x : RiflRun}
    (h : RiflWrote p l e (writeRecords (e.cluster p (clusterOf l)).buf
      (fun i => dst + i * riflOut q) (fun i => riflBytes q (riflOf e (.cb p (clusterOf l)) q (src + i * riflIn q))) n) x) :
    (∀ i < n, rdBytes x.s (.cb p (clusterOf l)) (dst + i * riflOut q) (riflOut q) =
      riflBytes q (riflOf e (.cb p (clusterOf l)) q (src + i * riflIn q))) ∧
    ∀ k a, ¬ (k = .cb p (clusterOf l) ∧ dst ≤ a ∧ a < dst + n * riflOut q) → rdByte x.s k a = rdByte e k a := by
  have hlen (i : Nat) : (riflBytes q (riflOf e (.cb p (clusterOf l)) q (src + i * riflIn q))).length = riflOut q :=
    riflBytes_length (riflOf_length ..) hbits
  have hle {a b : Nat} (hab : a < b) : a * riflOut q + riflOut q ≤ b * riflOut q := by
    rw [← Nat.succ_mul]; exact Nat.mul_le_mul_right _ hab
  refine ⟨fun i hi => ?_, fun k a hka => ?_⟩
  · have hsep := memRead_writeRecords (place := fun i => dst + i * riflOut q)
      (bs := fun i => riflBytes q (riflOf e (.cb p (clusterOf l)) q (src + i * riflIn q))) hwf (n := n) (fun i _ k _ hik => by
        rw [hlen, hlen]
        rcases Nat.lt_or_gt_of_ne hik with h | h
        · have := hle h; omega
        · have := hle h; omega) i hi
    rw [hlen] at hsep
    rwa [rdBytes, h.cells, if_pos rfl]
  · rw [rdByte, h.cells]
    split
    · next hk =>
      subst hk
      refine memByte_writeRecords_outside hwf fun i hi => ?_
      have := hle hi
      rw [hlen]
      by_contra hin
      exact hka ⟨rfl, by omega, by omega⟩
    · rfl

/-! ### The obligation -/

/-- Settles O23: the vectors read what stood at first (`riflWrote_vectors`), and each stays where it was written
(`riflWrote_bytes`). -/
theorem riffleRuns : Obligations.RiffleRuns := by
  unfold Obligations.RiffleRuns
  intro p l s j q n src dst vec hj hop hI hq hn hsrc hdst hfar hbits hvec hpoison hwf
  subst hj
  obtain ⟨e, he, hissue⟩ := exec_atMostStops (i := .rifl p l) (sel := fun w => wOp w == 2) (plan := riflPlan s p l)
    (run := runRifl p l) rfl (by simp [hop]) hI
  have hclusters := sameClusters_of_around he.around
  have hbase : (e.reach p l).cbBase = (s.reach p l).cbBase := by
    obtain ⟨_, _, _, _, hr⟩ := he.reach
    rw [hr]; rfl
  obtain ⟨x, hx⟩ : ∃ x, x = (List.range n).foldl (riflStep p l (headJob s p l)) { s := e } := ⟨_, rfl⟩
  have hep : (e.cluster p (clusterOf l)).poison = [] := by rw [hclusters]; exact hpoison
  have hew : memWf (e.cluster p (clusterOf l)).buf = true := by rw [hclusters]; exact hwf
  have hes : src = (e.reach p l).cbBase + (headJob s p l).sv 24 := by rw [hbase]; exact hsrc
  have hed : dst = (e.reach p l).cbBase + (headJob s p l).sv 29 := by rw [hbase]; exact hdst
  obtain ⟨hwrote, hout⟩ := riflWrote_vectors (n := n) hq hes hed hfar hbits hep hew n le_rfl
  obtain ⟨hvectors, hothers⟩ := riflWrote_bytes hbits hew hwrote
  rw [← hx] at hwrote hout hvectors hothers
  obtain ⟨u, hu⟩ : ∃ u, u = updFlight { x.s with free := x.s.free + 3 } p l ((s.reach p l).task.issueNo + 1)
      (fun f => { f with out := x.out, undo := x.undo.reverse }) := ⟨_, rfl⟩
  have hrun : u = runRifl p l e (headJob s p l) ((s.reach p l).task.issueNo + 1) := by
    simp only [runRifl, ← hn, ← hx, hwrote.fault, hu]
  have hxr := reach_of_noClusters hwrote.beside p l
  have hur := reach_updFlight_free x.s p l (x.s.free + 3) ((s.reach p l).task.issueNo + 1)
    (fun f => { f with out := x.out, undo := x.undo.reverse })
  rw [← hu, hxr] at hur
  obtain ⟨t, hexec, hstop⟩ := hissue u hrun ⟨by rw [hur], fun w hw => .inl (by
    rw [hu, updFlight_posted] at hw
    exact hwrote.posted ▸ hw), by rw [hur], fun h => by rw [hur]; simpa using h⟩
  have hux : (world u).around p l = (world x.s).around p l := by rw [hu, around_updFlight, world_free]
  have hall : (world t).noClusters.around p l = (world s).noClusters.around p l :=
    (noClusters_of_around (hstop.around.trans hux)).trans
      ((around_of_noClusters hwrote.beside).trans (noClusters_of_around he.around))
  have hent : Entered s u p l .riffle 0 .none := by
    have hex : Entered s { x.s with free := x.s.free + 3 } p l .riffle 0 .none := he.entered.of_reach hxr
    rw [hu]
    exact hex.updFlight (fun _ => ⟨rfl, rfl, rfl⟩) (fun _ hst hw => ⟨hst, hw⟩)
  have hmem (k : Space) (a : Nat) : rdByte t k a = rdByte x.s k a := by
    rw [rdByte, cells_of_around (hstop.around.trans hux), rdByte]
  have hsame (i : Nat) : riflOf e (.cb p (clusterOf l)) q (src + i * riflIn q) = vec i := by
    rw [hvec, riflOf, rdBytes, cells_of_around he.around, ← rdBytes]
  refine ⟨t, hexec, hstop.entered hent, fun i hi => ?_, fun k a hka => ?_, fun hfit f hf => ?_, ?_,
    scalars_of_noClusters hall, sameTables_of_noClusters hall, otherReaches_of_noClusters hall, sameTime_of_noClusters hall⟩
  · rw [← riflBytes, ← hsame, ← hvectors i hi, rdBytes, cells_of_around (hstop.around.trans hux), rdBytes]
  · rw [hmem, hothers k a hka, rdByte, cells_of_around he.around, rdByte]
  · have hnone := hout (fun k hk => by rw [RiflFits, hsame]; exact hfit k hk)
    obtain ⟨_, _, older, g, hfl, _, _, hno, _⟩ := hstop.entered hent
    have hg : g = f := by simpa [hfl] using hf
    have hmemf : g ∈ (u.reach p l).flights := by
      have : (t.reach p l).flights = (u.reach p l).flights := by rw [hstop.reach]
      rw [← this, hfl]
      simp
    rw [hu] at hmemf
    obtain ⟨y, _, _, hy⟩ := mem_flights_updFlight hmemf hno
    rw [← hg, hy, ← hnone]
  · rw [hstop.pool, hur, he.pool]

end Sys2Proof.Machine
end

section
/-!
DLTA (04 R100, R101; 06 R175, R200, R206): the packed codes of a row, one row in the scratchpad, the rows of a tile, and the
obligation.
-/

namespace Sys2Proof.Machine

/-! ### Packed codes (R93) -/

theorem leVal_lt (bs : List Byte) : leVal bs < 256 ^ bs.length := by
  induction bs with
  | nil => simp [leVal]
  | cons b bs ih =>
    rw [leVal, List.length_cons, pow_succ']
    have := b.isLt
    omega

theorem packNat_lt (b : Nat) (cs : List Nat) : packNat b cs < 2 ^ (cs.length * b) := by
  induction cs with
  | nil => simp [packNat]
  | cons c cs ih =>
    have hlow : c % 2 ^ b < 2 ^ b := Nat.mod_lt _ (by positivity)
    have hhigh : 2 ^ b * (packNat b cs + 1) ≤ 2 ^ b * 2 ^ (cs.length * b) := Nat.mul_le_mul_left _ ih
    rw [packNat, List.length_cons, Nat.succ_mul, Nat.add_comm _ b, pow_add]
    rw [Nat.mul_add] at hhigh
    omega

/-- Element `c` of packed codes. -/
theorem field_packNat (b : Nat) (cs : List Nat) (c : Nat) : field (packNat b cs) (c * b) b = cs.getD c 0 % 2 ^ b := by
  induction cs generalizing c with
  | nil => simp [packNat, field]
  | cons x cs ih =>
    cases c with
    | zero => simp [packNat, field]
    | succ c =>
      have hrest : (x % 2 ^ b + 2 ^ b * packNat b cs) >>> b = packNat b cs := by
        rw [Nat.shiftRight_eq_div_pow, Nat.add_mul_div_left _ _ (by positivity),
          Nat.div_eq_of_lt (Nat.mod_lt _ (by positivity)), Nat.zero_add]
      rw [List.getD_cons_succ, ← ih, field, field, packNat, Nat.succ_mul, Nat.add_comm _ b, Nat.shiftRight_add, hrest]

/-! ### Beside a reach -/

/-- What surrounds an instruction, without its reach. -/
def World.noReach (w : World) (p l : Nat) : World :=
  { w with reach := fun q m => if q = p ∧ m = l then {} else w.reach q m }

@[simp] theorem noReach_updReach (s : State) (p l : Nat) (f : Reach → Reach) :
    (world (s.updReach p l f)).noReach p l = (world s).noReach p l := by
  refine World.ext' (fun q m => ?_) (fun _ _ => State.updReach_cluster ..) (fun _ => State.updReach_parcel_mem ..) rfl rfl rfl rfl rfl
  simp only [World.noReach, world, State.updReach_reach]
  split
  · rfl
  · rfl

section
variable {s t : State} {p l : Nat}

theorem noReach_of_around (h : (world t).around p l = (world s).around p l) : (world t).noReach p l = (world s).noReach p l := by
  refine World.ext' (fun q m => ?_) (fun q c => sameClusters_of_around h q c) (mem_of_around h) (congrArg World.datum h :)
    (congrArg World.stay h :) (congrArg World.pending h :) (congrArg World.phase h :) (congrArg World.wall h :)
  simp only [World.noReach]
  split
  · rfl
  · next hqm => exact otherReaches_of_around h q m hqm

variable (h : (world t).noReach p l = (world s).noReach p l)
include h

theorem otherReaches_of_noReach : OtherReaches s t p l := by
  intro q m hqm
  have := congrFun (congrFun (congrArg World.reach h) q) m
  simpa [World.noReach, world, hqm] using this

theorem sameClusters_of_noReach : SameClusters s t := fun q c => congrFun (congrFun (congrArg World.cluster h) q) c

theorem sameTime_of_noReach : SameTime s t :=
  ⟨congrArg World.datum h, congrArg World.stay h, congrArg World.pending h, congrArg World.phase h, congrArg World.wall h⟩

/-- Only the own scratchpad and IMEM can differ. -/
theorem cells_of_noReach {m : Mem} (hs : (t.reach p l).spad = m) (hi : (t.reach p l).imem = (s.reach p l).imem) (k : Space) :
    cells t k = if k = .sp p l then m else cells s k := by
  refine .trans (cells_congr (s := setCells s (.sp p l) m) (fun q => ?_) (fun q c => ?_) (fun q n => ?_) k) (cells_setCells ..)
  · exact (congrFun (congrArg World.mem h) q).trans (State.updReach_parcel_mem ..).symm
  · rw [sameClusters_of_noReach h q c]
    exact congrArg Cluster.buf (State.updReach_cluster ..).symm
  · simp only [setCells, State.updReach_reach]
    split
    · next hqn => rw [hqn.1, hqn.2]; exact ⟨hs, hi⟩
    · next hqn => rw [otherReaches_of_noReach h q n hqn]; exact ⟨rfl, rfl⟩

end

/-! ### A row in the scratchpad -/

/-- Bits that fill whole bytes of a scratchpad without poison. -/
theorem writeBits_whole {s : State} {p l : Nat} (hp : (s.reach p l).spPoison = []) {n : Nat} (hn : 0 < n)
    (h8 : n % 8 = 0) (a v : Nat) :
    ∃ us, writeBits s p l a n v =
      { s.updReach p l (fun x => { x with spad := memWrite x.spad a (leBytes (n / 8) v) }) with upsets := us } := by
  have hbytes : (n + 7) / 8 = n / 8 := by omega
  have hold : leVal (rdBytes s (.sp p l) a (n / 8)) / 2 ^ n = 0 := by
    refine Nat.div_eq_of_lt ?_
    have hlt := leVal_lt (rdBytes s (.sp p l) a (n / 8))
    have hpow : (256 : Nat) ^ (n / 8) = 2 ^ n := by rw [show (256 : Nat) = 2 ^ 8 from rfl, ← pow_mul]; congr 1; omega
    rwa [rdBytes, memRead_length, hpow] at hlt
  have hmerge : mergeBits (rdBytes s (.sp p l) a (n / 8)) n v = leBytes (n / 8) v := by
    rw [mergeBits, hold, hbytes, Nat.zero_mul, Nat.zero_add]
  unfold writeBits
  rw [if_neg (by omega)]
  dsimp only
  rw [hbytes, hmerge]
  exact devWrite_sp hp _ _ _

/-- The code of an output that is not normalised does not depend on the free value of its error. -/
theorem convert_code_free (c : Cluster) (q : Prof) (seg : SMap Word) (f u : Nat) (g g' : Int) (v : Int × Bool) :
    (convert c q seg f none u g v).code = (convert c q seg f none u g' v).code := by
  unfold convert
  by_cases hraw : q.outKind = 4
  · simp [hraw]
  · by_cases huni : q.outKind = 0
    · cases hv : v.2 <;> simp [huni]
    · simp [hraw, huni]

/-- What the rows so far have done to the state `e` in which the DLTA began: the scratchpad is `m`, and besides it only
the calibration monitors and the counters of the reach have changed. -/
structure DltWrote (p l : Nat) (e : State) (m : Mem) (s : State) : Prop where
  own : ∃ acc cnt inc, s.reach p l = { e.reach p l with spad := m, calAcc := acc, cnt := cnt, cntInc := inc }
  others : (world s).noReach p l = (world e).noReach p l
  posted : s.posted = e.posted

theorem DltWrote.start (p l : Nat) (e : State) : DltWrote p l e (e.reach p l).spad e := ⟨⟨_, _, _, rfl⟩, rfl, rfl⟩

section
variable {p l : Nat} {e s : State} {m : Mem} (h : DltWrote p l e m s)
include h

theorem DltWrote.updReach {m' : Mem} {f : Reach → Reach}
    (hf : ∃ acc cnt inc, f (s.reach p l) = { s.reach p l with spad := m', calAcc := acc, cnt := cnt, cntInc := inc }) :
    DltWrote p l e m' (s.updReach p l f) := by
  obtain ⟨acc, cnt, inc, hf⟩ := hf
  obtain ⟨_, _, _, hr⟩ := h.own
  refine ⟨⟨acc, cnt, inc, ?_⟩, (noReach_updReach ..).trans h.others, (State.updReach_posted ..).trans h.posted⟩
  rw [State.updReach_reach_same, hf, hr]

theorem DltWrote.bumpCnt (k n : Nat) : DltWrote p l e m (bumpCnt s p l k n) := by
  obtain hb | hb := bumpCnt_cases s p l k n
  · rwa [hb]
  · obtain ⟨acc, cnt, inc, hr⟩ := h.own
    rw [hb]
    exact h.updReach ⟨acc, _, _, by rw [hr]⟩

theorem DltWrote.writeBits (hp : (e.reach p l).spPoison = []) {n : Nat} (hn : 0 < n) (h8 : n % 8 = 0) (a v : Nat) :
    DltWrote p l e (memWrite m a (leBytes (n / 8) v)) (writeBits s p l a n v) := by
  obtain ⟨acc, cnt, inc, hr⟩ := h.own
  obtain ⟨us, hw⟩ := writeBits_whole (s := s) (by rw [hr]; exact hp) hn h8 a v
  have hu := h.updReach (f := fun x => { x with spad := memWrite x.spad a (leBytes (n / 8) v) }) ⟨acc, cnt, inc, by rw [hr]⟩
  rw [hw]
  exact ⟨hu.own, hu.others, hu.posted⟩

end

/-- The records of a row change only the calibration monitors. -/
theorem DltWrote.noteRow {p l : Nat} {e : State} {m : Mem} {x : DltRun} (h : DltWrote p l e m x.s) (j : Job) (slot row : Nat)
    (os : List OutVal) : DltWrote p l e m (noteRow p l j slot row x os).s ∧ (noteRow p l j slot row x os).fault = x.fault := by
  refine ⟨?_, rfl⟩
  unfold Machine.noteRow
  dsimp only
  split
  · obtain ⟨acc, cnt, inc, hr⟩ := h.own
    exact h.updReach ⟨_, cnt, inc, by rw [hr]⟩
  · exact h

/-- A row without zero bitmap is written at its address. -/
theorem DltWrote.storeRow {p l : Nat} {e : State} {m : Mem} {x : DltRun} (h : DltWrote p l e m x.s) {j : Job} {v : Visit}
    (slot row : Nat) (os : List OutVal) {b : Nat} (hb : b = outBits (e.cluster p (clusterOf l)) (prof j.prof))
    (hzb : (prof j.prof).zb = false) (hp : (e.reach p l).spPoison = []) (hn : 0 < os.length * b) (h8 : os.length * b % 8 = 0) :
    DltWrote p l e (memWrite m (spAddr (e.reach p l) (j.sv 34 + v.o + row * trvStride j.trv 2))
      (leBytes (os.length * b / 8) (packNat b (os.map (fun o => o.code))))) (storeRow p l j v slot row x os).s ∧
    (storeRow p l j v slot row x os).fault = x.fault := by
  obtain ⟨acc, cnt, inc, hr⟩ := h.own
  have hbase : spAddr (x.s.reach p l) = spAddr (e.reach p l) := by rw [hr]; rfl
  unfold Machine.storeRow
  dsimp only
  rw [hzb, if_neg Bool.false_ne_true, sameClusters_of_noReach h.others, ← hb, hbase]
  have hw := (h.writeBits hp hn h8 (spAddr (e.reach p l) (j.sv 34 + v.o + row * trvStride j.trv 2))
    (packNat b (os.map (fun o => o.code)))).bumpCnt 14 1
  exact DltWrote.noteRow (x := { x with s := _ }) hw j slot row os

/-! ### The rows of a tile -/

/-- The codes of a row inside the extents (R100), without normalisation and stochastic rounding. -/
def rowCodes (cl : Cluster) (q : Prof) (r : Reach) (f slot cols row : Nat) : List Nat :=
  (List.range cols).map (fun c => (convert cl q r.actSeg f none 0 0 (poolGet r.pool q.paired slot (16 * row + c))).code)

/-- A row as it is stored. -/
def rowImage (cl : Cluster) (q : Prof) (r : Reach) (f slot cols b row : Nat) : List Byte :=
  leBytes (cols * b / 8) (packNat b (rowCodes cl q r f slot cols row))

/-- The outputs of a row, from the pool of `z1` (R100, R176). -/
def rowOuts (p l : Nat) (j : Job) (v : Visit) (slot f : Nat) (draws : List Nat) (z1 : DltRun) (row : Nat) : List OutVal :=
  let q := prof j.prof
  let r := z1.s.reach p l
  let vals := (rowVals r q.paired slot row).take (dltCols j v)
  if dltStat j = 3 then expRow q (SMap.get {} r.stats row).mx vals
  else vals.mapIdx (fun c v =>
    convert (z1.s.cluster p (clusterOf l)) q r.actSeg f
      ((normWidth r j).map (fun bp => (rowSum q (Config.free (z1.s.free + 16)) (SMap.get {} r.stats row).sum, bp)))
      (draws.getD (16 * row + c) 0) (Config.free (z1.s.free + c)) v)

/-- One row of a tile (R100, R206). -/
def dltRow (p l : Nat) (j : Job) (v : Visit) (slot f : Nat) (draws : List Nat) (z0 : DltRun) (row : Nat) : DltRun :=
  let z1 := statRow p l j slot row (dltCols j v) (z0.before p l (rowBytes p l j v row (dltCols j v) z0.s))
  storeRow p l j v slot row { z1 with s := { z1.s with free := z1.s.free + 17 } } (rowOuts p l j v slot f draws z1 row)

/-- A tile without stochastic rounding whose factor is sound is its rows. -/
theorem dltTileRun_rows {p l : Nat} {j : Job} {x : DltRun} {i : Nat} {v : Visit} {slot : Nat} (hv : v = dltTile j i)
    (hslot : slot = j.f 24 5 + i) (hx : x.fault = none) (hstoch : (prof j.prof).stoch = false)
    (hfac : factorFault x.s p l j v slot = none) (hrows : 0 < dltRows j v) (hcols : 0 < dltCols j v) :
    dltTileRun p l j x i = (List.range (dltRows j v)).foldl (dltRow p l j v slot (factorOf x.s p l j v) []) x := by
  obtain ⟨s, gen, guard, out, fault, undo⟩ := x
  obtain rfl : fault = none := hx
  unfold dltTileRun
  simp only [hstoch, ← hv, ← hslot, hfac, dltInside, hrows, hcols, decide_true, Bool.and_self, Bool.not_true,
    Bool.false_eq_true, if_false]
  rfl

theorem statRow_off {p l : Nat} {j : Job} (h : dltStat j = 0) (slot row nc : Nat) (x : DltRun) :
    statRow p l j slot row nc x = x := by
  simp [statRow, h]

theorem rowOuts_length {p l : Nat} {j : Job} {v : Visit} {slot f : Nat} {draws : List Nat} {z : DltRun} {row : Nat}
    (h : dltStat j = 0) : (rowOuts p l j v slot f draws z row).length = dltCols j v := by
  simp [rowOuts, h, rowVals, dltCols]

section
variable {p l : Nat} {e : State} {j : Job} {v : Visit} {q : Prof} {cl : Cluster} {r : Reach} {b slot f : Nat}
  (hq : q = prof j.prof) (hcl : cl = e.cluster p (clusterOf l)) (hr : r = e.reach p l) (hb : b = outBits cl q)
  (hstat : dltStat j = 0) (hzb : q.zb = false) (hnorm : normWidth r j = none) (hpoison : r.spPoison = [])
  (h8 : dltCols j v * b % 8 = 0) (hpos : 0 < dltCols j v * b)

section
include hq hcl hr hstat hnorm

theorem rowOuts_codes {m : Mem} {z : DltRun} (h : DltWrote p l e m z.s) (row : Nat) :
    (rowOuts p l j v slot f [] z row).map (fun o => o.code) = rowCodes cl q r f slot (dltCols j v) row := by
  obtain ⟨_, _, _, hown⟩ := h.own
  rw [← hr] at hown
  have hnorm' : normWidth (z.s.reach p l) j = none := by rw [hown]; exact hnorm
  refine List.ext_getElem (by simp [rowOuts_length hstat, rowCodes]) (fun c hc hc' => ?_)
  have hfree := convert_code_free cl q r.actSeg f 0 (Config.free (z.s.free + c)) 0 (poolGet r.pool q.paired slot (16 * row + c))
  simp only [rowOuts, hstat, hnorm', ← hq, sameClusters_of_noReach h.others p (clusterOf l), ← hcl]
  simp [hown, rowCodes, rowVals, hfree]

end

include hq hcl hr hb hstat hzb hnorm hpoison h8 hpos

theorem DltWrote.row {m : Mem} {z : DltRun} (h : DltWrote p l e m z.s) (row : Nat) :
    DltWrote p l e (memWrite m (spAddr r (j.sv 34 + v.o + row * trvStride j.trv 2)) (rowImage cl q r f slot (dltCols j v) b row))
      (dltRow p l j v slot f [] z row).s ∧ (dltRow p l j v slot f [] z row).fault = z.fault := by
  obtain ⟨y, hy⟩ : ∃ y, y = z.before p l (rowBytes p l j v row (dltCols j v) z.s) := ⟨_, rfl⟩
  have hys : DltWrote p l e m y.s := by rw [hy]; exact h
  have hyf : y.fault = z.fault := by rw [hy]; rfl
  have hlen := rowOuts_length (p := p) (l := l) (v := v) (slot := slot) (f := f) (draws := []) (z := y) (row := row) hstat
  have hcodes := rowOuts_codes (v := v) (slot := slot) (f := f) hq hcl hr hstat hnorm hys row
  have hstore := DltWrote.storeRow (x := { y with s := { y.s with free := y.s.free + 17 } }) (v := v)
    ⟨hys.own, hys.others, hys.posted⟩ slot row (rowOuts p l j v slot f [] y row) (b := b) (by rw [hb, hq, hcl])
    (by rw [← hq]; exact hzb) (by rw [← hr]; exact hpoison) (by rwa [hlen]) (by rwa [hlen])
  rw [hcodes, hlen, ← hr] at hstore
  rw [← hyf, dltRow, ← hy, statRow_off hstat]
  exact hstore

/-- After `n` rows of a tile. -/
theorem dltWrote_rows {x : DltRun} (hx : x.s = e) (n : Nat) :
    DltWrote p l e (writeRecords r.spad (fun row => spAddr r (j.sv 34 + v.o + row * trvStride j.trv 2))
      (rowImage cl q r f slot (dltCols j v) b) n) ((List.range n).foldl (dltRow p l j v slot f []) x).s ∧
    ((List.range n).foldl (dltRow p l j v slot f []) x).fault = x.fault := by
  induction n with
  | zero => subst hx hr; exact ⟨.start .., rfl⟩
  | succ n ih =>
    obtain ⟨hwrote, hfault⟩ := ih
    rw [writeRecords_succ, List.range_succ, List.foldl_append, List.foldl_cons, List.foldl_nil, ← hfault]
    exact DltWrote.row hq hcl hr hb hstat hzb hnorm hpoison h8 hpos hwrote n

/-- A DLTA of one tile writes its rows, and its records into its own entry among those in flight. -/
theorem runDlta_rows (hv : v = dltTile j 0) (hslot : slot = j.f 24 5) (hf : f = factorOf e p l j v) (htiles : dltTiles j = 1)
    (hgq : q.gqMode = 0) (hstoch : q.stoch = false) (h76 : bvb j.word 76 = false) (hfac : factorFault e p l j v slot = none)
    (hrows : 0 < dltRows j v) (hcols : 0 < dltCols j v) (no : Nat) : ∃ (x : State) (g : Flight → Flight),
    DltWrote p l e (writeRecords r.spad (fun row => spAddr r (j.sv 34 + v.o + row * trvStride j.trv 2))
      (rowImage cl q r f slot (dltCols j v) b) (dltRows j v)) x ∧ runDlta p l e j no = updFlight x p l no g ∧
    ∀ y, (g y).no = y.no ∧ (g y).job = y.job ∧ (g y).unit = y.unit ∧ (g y).status = y.status ∧ (g y).wait = y.wait := by
  obtain ⟨x0, hx0⟩ : ∃ x0 : DltRun, x0 = { s := e, gen := xsSeed (q.seed ^^^ BitVec.ofNat 64 (j.sv 54)) } := ⟨_, rfl⟩
  obtain ⟨hs0, hf0⟩ : x0.s = e ∧ x0.fault = none := by rw [hx0]; exact ⟨rfl, rfl⟩
  obtain ⟨x, hx⟩ : ∃ x, x = (List.range (dltRows j v)).foldl (dltRow p l j v slot f []) x0 := ⟨_, rfl⟩
  obtain ⟨hwrote, hfault⟩ := dltWrote_rows (v := v) (slot := slot) (f := f) hq hcl hr hb hstat hzb hnorm hpoison h8 hpos hs0
    (dltRows j v)
  rw [← hx] at hwrote hfault
  have hrun : (List.range (dltTiles j)).foldl (dltTileRun p l j) x0 = x := by
    rw [htiles, List.range_one, List.foldl_cons, List.foldl_nil, hx, hf, ← hs0]
    exact dltTileRun_rows hv hslot hf0 (by rw [← hq]; exact hstoch) (by rw [hs0]; exact hfac) hrows hcols
  rw [hx0] at hrun
  refine ⟨x.s, fun y => { y with guard := x.guard, out := x.out, undo := x.undo.reverse }, hwrote, ?_,
    fun _ => ⟨rfl, rfl, rfl, rfl, rfl⟩⟩
  simp only [runDlta, h76, Bool.false_eq_true, if_false, ← hq, hgq, if_true, hrun, hfault, hf0]

end

/-- The factor of a tile of a scratchpad without poison faults by its own bits alone (R101). -/
theorem factorFault_clean {s : State} {p l : Nat} (h : (s.reach p l).spPoison = []) (j : Job) (v : Visit) (slot : Nat) :
    factorFault s p l j v slot =
      if tileUsesFactor (s.reach p l) j v slot && fp32BadFactor (factorOf s p l j v) then
        mkFail evIllegalEncoding 0 (illegalPayload 3 slot 0xFFFF j.pc.toNat (factorOff j v) (factorOf s p l j v))
      else none := by
  have hclean : poisonIn s (.sp p l) (spAddr (s.reach p l) (factorOff j v)) 4 = none := by simp [poisonIn, poisoned, h]
  unfold factorFault
  cases tileUsesFactor (s.reach p l) j v slot with
  | false => rfl
  | true => simp only [hclean]; rfl

/-! ### The obligation -/

theorem rowImage_field {cl : Cluster} {q : Prof} {r : Reach} {f slot cols b row : Nat} (h8 : cols * b % 8 = 0) {c : Nat}
    (hc : c < cols) : field (leVal (rowImage cl q r f slot cols b row)) (c * b) b =
      (convert cl q r.actSeg f none 0 0 (poolGet r.pool q.paired slot (16 * row + c))).code % 2 ^ b := by
  have hlt := packNat_lt b (rowCodes cl q r f slot cols row)
  have hpow : (256 : Nat) ^ (cols * b / 8) = 2 ^ (cols * b) := by
    rw [show (256 : Nat) = 2 ^ 8 from rfl, ← pow_mul]; congr 1; omega
  rw [show (rowCodes cl q r f slot cols row).length = cols by simp [rowCodes], ← hpow] at hlt
  rw [rowImage, leVal_leBytes, Nat.mod_eq_of_lt hlt, field_packNat, rowCodes, getD_map_range _ _ hc]

/-- Settles O24: each row is written at its own address from the pool, which no row changes (`dltWrote_rows`), and stays
there, since no two rows meet (`memRead_writeRecords`). -/
theorem deltaConverts : Obligations.DeltaConverts := by
  unfold Obligations.DeltaConverts
  intro p l s j q v r cl b addr hj hop hI hq hv hr hcl hb htiles hstat hgq hstoch hzb h76 hnorm hfac hrows hcols h8 hb0 haddr
    hsep hpoison hwf
  subst hj
  obtain ⟨e, he, hissue⟩ := exec_atMostStops (i := .dlta p l) (sel := fun w => wOp w == 3) (plan := dltPlan s p l)
    (run := runDlta p l) rfl (by simp [hop]) hI
  obtain ⟨cd, tag, cnt, inc, her⟩ := he.reach
  rw [← hr] at her
  obtain ⟨f, hf⟩ : ∃ f, f = factorOf s p l (headJob s p l) v := ⟨_, rfl⟩
  have hef : factorOf e p l (headJob s p l) v = f := by
    rw [hf, factorOf, rdBytes, cells_of_around he.around, her, factorOf, rdBytes, ← hr]
    rfl
  have hefac : factorFault e p l (headJob s p l) v ((headJob s p l).f 24 5) = none := by
    rw [factorFault_clean (by rw [← hr]; exact hpoison), ← hf, ← hr] at hfac
    rw [factorFault_clean (by rw [her]; exact hpoison), hef, her]
    exact hfac
  have hecl : cl = e.cluster p (clusterOf l) := by rw [sameClusters_of_around he.around, hcl]
  obtain ⟨x, g, hwrote, hrun, hg⟩ := runDlta_rows (slot := (headJob s p l).f 24 5) hq hecl rfl hb hstat hzb
    (by rw [her]; exact hnorm) (by rw [her]; exact hpoison) h8 (Nat.mul_pos hcols hb0) hv rfl hef.symm htiles hgq hstoch h76
    hefac hrows hcols ((s.reach p l).task.issueNo + 1)
  have hplace : (fun row : Nat => spAddr (e.reach p l) ((headJob s p l).sv 34 + v.o + row * trvStride (headJob s p l).trv 2)) =
    addr := by rw [haddr, her]; rfl
  have himage : rowImage cl q (e.reach p l) f ((headJob s p l).f 24 5) (dltCols (headJob s p l) v) b =
    rowImage cl q r f ((headJob s p l).f 24 5) (dltCols (headJob s p l) v) b := by rw [her]; rfl
  have hspad : (e.reach p l).spad = r.spad := by rw [her]; rfl
  rw [hplace, himage, hspad] at hwrote
  obtain ⟨acc, cnt', inc', hxr⟩ := hwrote.own
  obtain ⟨u, hu⟩ : ∃ u, u = updFlight x p l ((s.reach p l).task.issueNo + 1) g := ⟨_, rfl⟩
  have hur : u.reach p l = { x.reach p l with flights := (u.reach p l).flights } := by
    rw [hu, updFlight, State.updReach_reach_same]
  obtain ⟨t, hexec, hstop⟩ := hissue u (hu.trans hrun.symm) ⟨by rw [hur, hxr], fun w hw => .inl (by
    rw [hu, updFlight_posted] at hw
    exact hwrote.posted ▸ hw), by rw [hur, hxr], fun h => by
      rw [hu, updFlight, State.updReach_reach_same, hxr]
      simpa using h⟩
  have hux : (world t).around p l = (world x).around p l := by rw [hstop.around, hu, around_updFlight]
  have hall : (world t).noReach p l = (world s).noReach p l :=
    (noReach_of_around hux).trans (hwrote.others.trans (noReach_of_around he.around))
  have hkept : (t.reach p l).kept = { r with spad := (x.reach p l).spad, calAcc := acc }.kept := by
    rw [kept_of_around hux, hxr, her]
    rfl
  have hent : Entered s u p l .delta 0 .none := by
    have hex : Entered s x p l .delta 0 .none := he.entered.congr (by rw [hxr]) (by rw [hxr]) (by rw [hxr])
    rw [hu]
    refine hex.updFlight (fun y => ?_) (fun y hst hw => ?_)
    · obtain ⟨hno, hjob, hunit, _, _⟩ := hg y
      exact ⟨hno, hjob, hunit⟩
    · obtain ⟨_, _, _, hst', hw'⟩ := hg y
      exact ⟨hst'.trans hst, hw'.trans hw⟩
  have hcells (k : Space) : cells t k = if k = .sp p l then writeRecords r.spad addr
      (rowImage cl q r f ((headJob s p l).f 24 5) (dltCols (headJob s p l) v) b) (dltRows (headJob s p l) v) else cells s k := by
    rw [cells_of_around hux, cells_of_noReach hwrote.others (by rw [hxr]) (by rw [hxr]), cells_of_around he.around]
  have hlen (row : Nat) : (rowImage cl q r f ((headJob s p l).f 24 5) (dltCols (headJob s p l) v) b row).length =
    dltCols (headJob s p l) v * b / 8 := leBytes_length ..
  refine ⟨t, hexec, hstop.entered hent, fun row hrow c hc => ⟨0, ?_⟩, fun k a hka => ?_, ?_, ?_, ?_,
    otherReaches_of_noReach hall, sameClusters_of_noReach hall, sameTime_of_noReach hall⟩
  · rw [← hf, ← rowImage_field h8 hc, ← hlen row, rdBytes, hcells, if_pos rfl]
    rw [memRead_writeRecords hwf (fun i hi k hk hik => by rw [hlen, hlen]; exact hsep i hi k hk hik) row hrow]
  · rw [rdByte, hcells, rdByte]
    split
    · next hk =>
      subst hk hr
      refine memByte_writeRecords_outside hwf fun row hrow => ?_
      rw [hlen]
      by_contra hin
      exact hka ⟨rfl, row, hrow, by omega, by omega⟩
    · rfl
  · rw [hstop.pool, hur, hxr, her]
    rfl
  · exact (congrArg Reach.s hkept :)
  · subst hr
    exact ⟨(congrArg Reach.prof hkept :), (congrArg Reach.trv hkept :), (congrArg Reach.swz hkept :),
      (congrArg Reach.spWin hkept :), (congrArg Reach.cbWin hkept :), (congrArg Reach.fuse hkept :),
      (congrArg Reach.actSeg hkept :)⟩

end Sys2Proof.Machine
end

section
/-!
What a step of the rating-table engine leaves (04 R119 to R121): beside its own reach and the tables and counters of a cluster
everything but the records.
-/

namespace Sys2Proof.Machine

/-- From `s` to `t` the memories, the posted writes, the other reaches and the time are as they were. -/
structure RatingFrame (p l : Nat) (s t : State) : Prop where
  others : OtherReaches s t p l
  memory : ∀ k, cells t k = cells s k
  time : SameTime s t
  posted : t.posted = s.posted

section
variable {p l : Nat} {s t u : State}

theorem RatingFrame.trans (h : RatingFrame p l s t) (k : RatingFrame p l t u) : RatingFrame p l s u :=
  ⟨fun q m hqm => (k.others q m hqm).trans (h.others q m hqm), fun j => (k.memory j).trans (h.memory j), h.time.trans k.time,
    k.posted.trans h.posted⟩

theorem ratingFrame_of_around (h : (world t).around p l = (world s).around p l) (hp : t.posted = s.posted) : RatingFrame p l s t :=
  ⟨otherReaches_of_around h, cells_of_around h, sameTime_of_around h, hp⟩

end

section
variable (s : State) (p l : Nat)

theorem ratingFrame_updReach {f : Reach → Reach} (hs : (f (s.reach p l)).spad = (s.reach p l).spad)
    (hi : (f (s.reach p l)).imem = (s.reach p l).imem) : RatingFrame p l s (s.updReach p l f) := by
  refine ⟨fun q m h => State.updReach_reach_other _ _ _ _ _ _ h,
    cells_congr (fun q => State.updReach_parcel_mem ..) (fun q c => by simp) (fun q m => ?_), ⟨rfl, rfl, rfl, rfl, rfl⟩, rfl⟩
  rw [State.updReach_reach]
  split
  · next h => rw [h.1, h.2]; exact ⟨hs, hi⟩
  · exact ⟨rfl, rfl⟩

theorem ratingFrame_updFlight (no : Nat) (f : Flight → Flight) : RatingFrame p l s (updFlight s p l no f) :=
  ratingFrame_updReach s p l rfl rfl

theorem ratingFrame_updCluster (c : Nat) {f : Cluster → Cluster} (h : (f (s.cluster p c)).buf = (s.cluster p c).buf) :
    RatingFrame p l s (s.updCluster p c f) := by
  refine ⟨fun q m _ => State.updCluster_reach .., cells_congr (fun q => State.updCluster_parcel_mem ..) (fun q d => ?_)
    (fun q m => by simp), ⟨rfl, rfl, rfl, rfl, rfl⟩, rfl⟩
  rw [State.updCluster_cluster]
  split
  · next hq => rw [hq.1, hq.2]; exact h
  · rfl

theorem ratingFrame_bumpCcnt (c k n : Nat) : RatingFrame p l s (bumpCcnt s p c k n) := by
  obtain ⟨hreach, _, hposted, _, htime⟩ := bumpCcnt_keeps s p c k n
  exact ⟨fun q m _ => hreach q m, cells_bumpCcnt s p c k n, htime, hposted⟩

end

end Sys2Proof.Machine
end

section
/-!
MATL build (04 R119, R121; 06 R173): the two banks, the table that a build makes, the number that its issue takes, and
RT_BUILD_START.
-/

namespace Sys2Proof.Machine

/-! ### The banks -/

section
variable (c : Cluster) (g : Nat) (b : RtBank)

@[simp] theorem bank_setBank : (c.setBank g b).bank g = b := by
  unfold Cluster.setBank Cluster.bank
  split <;> simp

@[simp] theorem bank_setBank_next : (c.setBank g b).bank (g + 1) = c.bank (g + 1) := by
  unfold Cluster.setBank Cluster.bank
  by_cases h : g % 2 = 0
  · rw [if_pos h, if_neg (by omega), if_neg (by omega)]
  · rw [if_neg h, if_pos (by omega), if_pos (by omega)]

@[simp] theorem setBank_buf : (c.setBank g b).buf = c.buf := by unfold Cluster.setBank; split <;> rfl
@[simp] theorem setBank_rtGen : (c.setBank g b).rtGen = c.rtGen := by unfold Cluster.setBank; split <;> rfl

end

@[simp] theorem bumpCcnt_bank (s : State) (p c k n q d g : Nat) :
    ((bumpCcnt s p c k n).cluster q d).bank g = (s.cluster q d).bank g := by
  obtain ⟨cnt, inc, h⟩ := bumpCcnt_cluster s p c k n
  rw [h]
  split
  · next hq => rw [hq.1, hq.2]; rfl
  · rfl

@[simp] theorem bumpCcnt_rtGen (s : State) (p c k n q d : Nat) : ((bumpCcnt s p c k n).cluster q d).rtGen = (s.cluster q d).rtGen := by
  obtain ⟨cnt, inc, h⟩ := bumpCcnt_cluster s p c k n
  rw [h]
  split
  · next hq => rw [hq.1, hq.2]
  · rfl

@[simp] theorem bumpCcnt_book (s : State) (p c k n : Nat) : (bumpCcnt s p c k n).book = s.book := by
  unfold bumpCcnt; split <;> rfl

/-! ### A build -/

/-- The bank of generation `g` while its build runs: every product of an element and a level (R119). -/
def builtBank (c : Cluster) (q : Prof) (g e : Nat) (es : List Int) : RtBank :=
  { gen := BitVec.ofNat 16 g, live := true, complete := false, failed := false, e := e, wc := (wGrid c q).1
    grid := (wGrid c q).2, table := es.map (fun e => (wGrid c q).2.map (fun lv => e * lv)) }

/-- The elements of a build, at address `a` of the buffer. -/
def elemsAt (s : State) (p c : Nat) (j : Job) (a : Nat) : List Int :=
  buildElems (prof j.prof) (rdBytes s (.cb p c) a (buildBytes j)) (j.sv 41)

/-- A build of sound activations fills the bank of its generation, and counts. -/
theorem runBuild_clean {s : State} {p l c : Nat} (hc : clusterOf l = c) (h : (s.cluster p c).poison = []) (g no : Nat) (j : Job) :
    runBuild p l g s j no = (bumpCcnt s p c 2 1).updCluster p c (fun x => x.setBank g
      (builtBank (s.cluster p c) (prof j.prof) g (j.sv 41) (elemsAt s p c j ((s.reach p l).cbBase + j.sv 31)))) := by
  have hclean : poisonIn s (.cb p c) ((s.reach p l).cbBase + j.sv 31) (buildBytes j) = none := by simp [poisonIn, poisoned, h]
  simp only [runBuild, hc, hclean]
  rfl

/-- What such a build leaves. -/
theorem runBuild_keeps {s : State} {p l c : Nat} (hc : clusterOf l = c) (h : (s.cluster p c).poison = []) (g no : Nat) (j : Job) :
    RatingFrame p l s (runBuild p l g s j no) ∧ (∀ q m, (runBuild p l g s j no).reach q m = s.reach q m) ∧
    ((runBuild p l g s j no).cluster p c).rtGen = (s.cluster p c).rtGen ∧
    ((runBuild p l g s j no).cluster p c).bank g =
      builtBank (s.cluster p c) (prof j.prof) g (j.sv 41) (elemsAt s p c j ((s.reach p l).cbBase + j.sv 31)) ∧
    ((runBuild p l g s j no).cluster p c).bank (g + 1) = (s.cluster p c).bank (g + 1) := by
  rw [runBuild_clean hc h]
  refine ⟨(ratingFrame_bumpCcnt s p l c 2 1).trans (ratingFrame_updCluster _ p l c (setBank_buf ..)), fun q m => ?_, ?_, ?_, ?_⟩
  · rw [State.updCluster_reach, (bumpCcnt_keeps s p c 2 1).1]
  all_goals rw [State.updCluster_cluster_same]; simp

/-! ### Issue -/

/-- The number of a build and the scalar register that receives it (R121). -/
def numberBuild (p l g no : Nat) (s : State) (j : Job) : State :=
  updFlight (setScalar (s.updCluster p (clusterOf l) (fun x => { x with rtGen := BitVec.ofNat 16 g })) p l (j.f 51 5)
    (BitVec.ofNat 64 g)) p l no (fun f => { f with rtGen := some g })

theorem issueBuild_eq {s : State} {p l g : Nat} (h : g = ((s.cluster p (clusterOf l)).rtGen.toNat + 1) % 65536) (j : Job) (no : Nat) :
    issueBuild p l s j no = if buildReady s p (clusterOf l) g then runBuild p l g (numberBuild p l g no s j) j no
      else updFlight (numberBuild p l g no s j) p l no (fun f => { f with wait := .build }) := by
  subst h; rfl

section
variable (s : State) (p l g no : Nat) (j : Job)

theorem numberBuild_reach : (numberBuild p l g no s j).reach p l =
    { (s.reach p l).setScalar (j.f 51 5) (BitVec.ofNat 64 g) with flights := ((numberBuild p l g no s j).reach p l).flights } := by
  simp only [numberBuild, updFlight, setScalar, State.updReach_reach_same, State.updCluster_reach]

theorem numberBuild_cluster : (numberBuild p l g no s j).cluster p (clusterOf l) =
    { s.cluster p (clusterOf l) with rtGen := BitVec.ofNat 16 g } := by
  simp [numberBuild, updFlight, setScalar]

theorem numberBuild_frame : RatingFrame p l s (numberBuild p l g no s j) := by
  refine .trans (.trans (ratingFrame_updCluster s p l (clusterOf l) rfl) (ratingFrame_updReach _ p l ?_ ?_)) (ratingFrame_updFlight ..)
  all_goals unfold Reach.setScalar; split <;> rfl

end

theorem setScalar_task (r : Reach) (n : Nat) (v : Word) : (r.setScalar n v).task = r.task := by
  unfold Reach.setScalar; split <;> rfl
theorem setScalar_cbBase (r : Reach) (n : Nat) (v : Word) : (r.setScalar n v).cbBase = r.cbBase := by
  unfold Reach.setScalar; split <;> rfl
theorem setScalar_flights (r : Reach) (n : Nat) (v : Word) : (r.setScalar n v).flights = r.flights := by
  unfold Reach.setScalar; split <;> rfl
theorem setScalar_ruined (r : Reach) (n : Nat) (v : Word) (h : r.ruined = []) : (r.setScalar n v).ruined = [] := by
  unfold Reach.setScalar; split
  · exact h
  · simp [h]

/-- What the issue of a build does from the state `e` in which it runs to `u`: its number `g` goes to register `n`, and its
table, if its bank is free, into the bank. -/
structure BuildIssued (p l g n : Nat) (e u : State) (b : RtBank) : Prop where
  own : u.reach p l = { (e.reach p l).setScalar n (BitVec.ofNat 64 g) with flights := (u.reach p l).flights }
  frame : RatingFrame p l e u
  rtGen : (u.cluster p (clusterOf l)).rtGen = BitVec.ofNat 16 g
  bank : (u.cluster p (clusterOf l)).bank g = b
  next : (u.cluster p (clusterOf l)).bank (g + 1) = (e.cluster p (clusterOf l)).bank (g + 1)

theorem issueBuild_issued {s e : State} {p l g : Nat} {j : Job} {un : FuncUnit} (he : Entered s e p l un 0 .none)
    (hg : g = ((e.cluster p (clusterOf l)).rtGen.toNat + 1) % 65536) (hp : (e.cluster p (clusterOf l)).poison = []) :
    Entered s (issueBuild p l e j ((s.reach p l).task.issueNo + 1)) p l un 0
      (if buildReady e p (clusterOf l) g then .none else .build) ∧
    BuildIssued p l g (j.f 51 5) e (issueBuild p l e j ((s.reach p l).task.issueNo + 1))
      (if buildReady e p (clusterOf l) g then builtBank (e.cluster p (clusterOf l)) (prof j.prof) g (j.sv 41)
        (elemsAt e p (clusterOf l) j ((e.reach p l).cbBase + j.sv 31)) else (e.cluster p (clusterOf l)).bank g) := by
  obtain ⟨no, hno⟩ : ∃ no, no = (s.reach p l).task.issueNo + 1 := ⟨_, rfl⟩
  obtain ⟨w, hw⟩ : ∃ w, w = numberBuild p l g no e j := ⟨_, rfl⟩
  have hreach := numberBuild_reach e p l g no j
  have hcluster := numberBuild_cluster e p l g no j
  have hframe := numberBuild_frame e p l g no j
  have hent : Entered s w p l un 0 .none := by
    rw [hw, numberBuild, hno]
    refine Entered.updFlight (he.congr ?_ ?_ ?_) (fun _ => ⟨rfl, rfl, rfl⟩) (fun _ hst hwt => ⟨hst, hwt⟩)
    all_goals simp [setScalar, setScalar_task, setScalar_flights]
  rw [← hno, issueBuild_eq hg, ← hw]
  rw [← hw] at hreach hcluster hframe
  split
  · obtain ⟨hkeep, hsame, hgen, hbank, hnext⟩ := runBuild_keeps (s := w) rfl (by rw [hcluster]; exact hp) g no j
    refine ⟨hent.of_reach (hsame p l), by rw [hsame]; exact hreach, hframe.trans hkeep, by rw [hgen, hcluster], ?_, ?_⟩
    · have hbase : (w.reach p l).cbBase = (e.reach p l).cbBase := by rw [hreach]; exact setScalar_cbBase ..
      rw [hbank, hcluster, hbase, elemsAt, rdBytes, hframe.memory]
      rfl
    · rw [hnext, hcluster]; rfl
  · refine ⟨?_, ?_, hframe.trans (ratingFrame_updFlight ..), ?_, ?_, ?_⟩
    · rw [hno]; exact hent.updFlight (fun _ => ⟨rfl, rfl, rfl⟩) (fun _ hst _ => ⟨hst, rfl⟩)
    · rw [updFlight, State.updReach_reach_same, hreach]
    · rw [updFlight, State.updReach_cluster, hcluster]
    all_goals rw [updFlight, State.updReach_cluster, hcluster]; rfl

/-- An instruction that has just entered its unit keeps no build from its bank: it has no generation yet. -/
theorem buildReady_entering {s e : State} {p l : Nat} {pl : Plan} (h : Entering s e p l pl) (c g : Nat) :
    buildReady e p c g = buildReady s p c g := by
  unfold buildReady
  refine congrArg (List.all (clusterReaches c)) (funext fun m => ?_)
  by_cases hm : m = l
  · obtain ⟨_, _, _, _, hr⟩ := h.reach
    subst hm
    rw [hr]
    simp [Reach.enter]
  · rw [otherReaches_of_around h.around p m (fun hml => hm hml.2)]

end Sys2Proof.Machine
end

section
/-!
The end of an instruction leaves the banks of every cluster (06 R160, R164, R171), so that the end of a build shows in its bank
(04 R121).
-/

namespace Sys2Proof.Machine

/-- The banks of every cluster are as they were. -/
def SameBanks (s t : State) : Prop :=
  ∀ q c, (t.cluster q c).bank0 = (s.cluster q c).bank0 ∧ (t.cluster q c).bank1 = (s.cluster q c).bank1

section
variable {s t u : State}

theorem SameBanks.trans (h : SameBanks s t) (k : SameBanks t u) : SameBanks s u := fun q c => by
  obtain ⟨h0, h1⟩ := h q c
  obtain ⟨k0, k1⟩ := k q c
  exact ⟨k0.trans h0, k1.trans h1⟩

theorem sameBanks_of_clusters (h : SameClusters s t) : SameBanks s t := fun q c => by rw [h q c]; exact ⟨rfl, rfl⟩

theorem SameBanks.bank (h : SameBanks s t) (q c g : Nat) : (t.cluster q c).bank g = (s.cluster q c).bank g := by
  obtain ⟨h0, h1⟩ := h q c
  rw [Cluster.bank, h0, h1, Cluster.bank]

end

section
variable (s : State) (p l : Nat)

theorem raiseSat_sameClusters (pc no : Nat) (a b : Option SatRec) : SameClusters s (raiseSat s p l pc no a b) := fun _ _ => by
  cases a <;> cases b <;> rfl

theorem sampleEnd_sameClusters (j : Job) (st : Nat) (tag : Option SampleTag) :
    SameClusters s (sampleEnd s p l j st tag) := fun _ _ => by
  cases tag with
  | none => rfl
  | some t => simp [sampleEnd]

theorem retire_sameClusters (f : Flight) : SameClusters s (retire s p l f) := fun q c => by
  rw [retire, sampleEnd_sameClusters, raiseSat_sameClusters]
  simp [writeStatus, setScalar]

theorem endDrain_sameClusters : SameClusters s (endDrain s p l) := fun q c => by unfold endDrain; split <;> simp

theorem drainOf_sameClusters (w : Nat) : SameClusters s (drainOf s w) := by
  obtain ⟨_, hc, _⟩ := drainIf_beside s (fun x => x.writer == w)
  exact hc

theorem fenceEffect_sameClusters (j : Job) : SameClusters s (fenceEffect s p l j) := fun q c => by
  unfold fenceEffect
  split
  · rfl
  · split
    · exact drainOf_sameClusters s _ q c
    · rfl

theorem finishStop_sameClusters : SameClusters s (finishStop s p l) := fun q c => by
  have hdrain (t : State) (w : Nat) : (drainOf t w).cluster q c = t.cluster q c := drainOf_sameClusters t w q c
  unfold finishStop
  dsimp only
  split
  · have hmark (t : State) (b : Bool) (x : HwBit) : (if b then t.mark x else t).cluster q c = t.cluster q c := by cases b <;> rfl
    split
    all_goals simp [hdrain, hmark]
  · rfl

theorem withdrawHead_sameBanks : SameBanks s (withdrawHead s p l) := by
  have htask (t : State) (f : Task → Task) : SameBanks t (t.updTask p l f) := sameBanks_of_clusters (fun _ _ => by simp)
  unfold withdrawHead
  split
  · refine .trans (fun q c => ?_) (htask _ _)
    rw [State.updCluster_cluster]
    split
    · next h => rw [h.1, h.2]; exact ⟨rfl, rfl⟩
    · exact ⟨rfl, rfl⟩
  · next k _ =>
    obtain ⟨_, hclusters, _⟩ := Beside.updParcel s p
      (fun x => { x with bar := SMap.put x.bar k (Barrier.withdraw (SMap.get ({} : Barrier) x.bar k) l) }) rfl rfl
    exact .trans (sameBanks_of_clusters hclusters) (htask _ _)
  · exact htask _ _

theorem stopTask_sameBanks (no code reason pc : Nat) : SameBanks s (stopTask s p l no code reason pc) := by
  unfold stopTask
  refine .trans (withdrawHead_sameBanks s p l) (.trans (sameBanks_of_clusters fun _ _ => ?_) (sameBanks_of_clusters
    (finishStop_sameClusters _ p l)))
  simp

theorem fetchCheck_sameBanks : SameBanks s (fetchCheck s p l) := by
  unfold fetchCheck
  dsimp only
  split
  · exact stopTask_sameBanks (raise s _ _ _) p l _ _ _ _
  · exact fun _ _ => ⟨rfl, rfl⟩

theorem headDone_sameBanks (j : Job) (st : Nat) : SameBanks s (headDone s p l j st) := by
  refine .trans (sameBanks_of_clusters fun q c => ?_) (fetchCheck_sameBanks (sampleEnd (writeStatus
    (advance s p l j 0 (j.pc.toNat + 16)).1 p l j st) p l j st (advance s p l j 0 (j.pc.toNat + 16)).2) p l)
  rw [sampleEnd_sameClusters]
  simp [writeStatus, setScalar, advance]

theorem wakeHead_sameBanks : SameBanks s (wakeHead s p l) := by
  unfold wakeHead
  refine .trans (sameBanks_of_clusters (endDrain_sameClusters s p l)) ?_
  dsimp only
  split
  · refine sameBanks_of_clusters fun q c => ?_
    rw [finishStop_sameClusters, endDrain_sameClusters]
    simp only [State.updTask_cluster]
    rw [retire_sameClusters, fenceEffect_sameClusters]
  · split
    · exact sameBanks_of_clusters (finishStop_sameClusters _ _ _)
    · split
      · exact headDone_sameBanks _ _ _ _ _
      · exact sameBanks_of_clusters fun _ _ => by simp
      · exact fun _ _ => ⟨rfl, rfl⟩

theorem retire_held (f : Flight) (q : Nat) : ((retire s p l f).parcel q).held = (s.parcel q).held := by
  have hsat (t : State) (pc no : Nat) (a b : Option SatRec) : (raiseSat t p l pc no a b).parcel q = t.parcel q := by
    cases a <;> cases b <;> rfl
  have hsample (t : State) (tag : Option SampleTag) : ((sampleEnd t p l f.job f.status tag).parcel q).held = (t.parcel q).held := by
    cases tag with
    | none => rfl
    | some _ => simp [sampleEnd]
  rw [retire, hsample, hsat]
  simp [writeStatus, setScalar]

/-- No access waits: none is performed. -/
theorem releaseHeld_sameClusters (h : (s.parcel p).held = []) : SameClusters s (releaseHeld s p) := by
  obtain ⟨_, hclusters, _⟩ := Beside.updParcel s p (fun x => { x with held := [] }) rfl rfl
  have hrel : releaseHeld s p = s.updParcel p (fun x => { x with held := [] }) := by unfold releaseHeld; rw [h]; rfl
  rw [hrel]
  exact hclusters

/-- A build whose generation is live, and that has ended with status 0, makes it complete. -/
theorem buildDone_completes {f : Flight} {g : Nat} (hg : f.rtGen = some g) (hb : isBuild f = true) (hst : f.status = 0)
    (hlive : ((s.cluster p (clusterOf l)).bank g).live = true) (hgen : ((s.cluster p (clusterOf l)).bank g).gen.toNat = g)
    (hfail : ((s.cluster p (clusterOf l)).bank g).failed = false) :
    buildDone s p l f = s.updCluster p (clusterOf l) (fun x => x.setBank g
      { (s.cluster p (clusterOf l)).bank g with complete := true, failed := false }) := by
  simp [buildDone, hg, hb, hst, hlive, hgen, hfail]

end

end Sys2Proof.Machine
end

section
/-!
MATL look (04 R120; 06 R173): its checks, the sums of one chunk, and what its run leaves.
-/

namespace Sys2Proof.Machine

/-! ### The shape checks that it has passed (R208) -/

/-- Where the lowest reason of the shape checks is none, each of them is. -/
theorem shapes_none {cs : List (Option ShapeFail)} {j : Job} {a b : Bool} (h : failShape j a b (lowestShape cs) = none) :
    ∀ c ∈ cs, c = none := by
  obtain ⟨f, hf⟩ : ∃ f : Option ShapeFail → Option ShapeFail → Option ShapeFail, f = fun a c => match a, c with
    | none, c => c
    | a, none => a
    | some x, some y => if y.1 < x.1 then some y else some x := ⟨_, rfl⟩
  have hsome (cs : List (Option ShapeFail)) (x : ShapeFail) : cs.foldl f (some x) ≠ none := by
    induction cs generalizing x with
    | nil => simp
    | cons c cs ih =>
      obtain ⟨y, hy⟩ : ∃ y, f (some x) c = some y := by
        cases c with
        | none => exact ⟨x, by rw [hf]⟩
        | some y => rw [hf]; dsimp only; split <;> exact ⟨_, rfl⟩
      rw [List.foldl_cons, hy]
      exact ih y
  have hfold : cs.foldl f none = none := by
    have hlow : lowestShape cs = [cs.foldl f none] := by rw [hf]; rfl
    rw [failShape, hlow] at h
    cases hv : cs.foldl f none with
    | none => rfl
    | some x => simp [hv, mkFail] at h
  clear h
  induction cs with
  | nil => simp
  | cons c cs ih =>
    have hc : f none c = c := by rw [hf]
    rw [List.foldl_cons, hc] at hfold
    cases c with
    | none => simpa using ih hfold
    | some x => exact absurd hfold (hsome cs x)

/-- A look that issues has at most 256 columns. -/
theorem lookCols_le {s : State} {p l : Nat} {j : Job} (h : firstFail (lookPlan s p l j).checks = none) : j.sv 56 ≤ 256 := by
  have hshape := shapes_none (firstFail_none h (failShape ..) (List.mem_cons_of_mem _ List.mem_cons_self))
    (shapeChk (j.sv 56 == 0 || decide (256 < j.sv 56)) 0x01 0xFF (j.sv 56) 256) (by simp)
  by_contra hlt
  simp [shapeChk, show 256 < j.sv 56 by omega] at hshape

/-! ### The sums -/

/-- Values added to outputs of a slot, each once. -/
theorem poolGet_addEach {pool : SMap PoolEntry} {paired : Bool} (slot idx : Nat) (rec : Option SatRec) (pv : Nat → Int)
    (h : SMap.sorted pool = true) (n : Nat) : ∀ i < n, poolGet ((List.range n).foldl
      (fun st i => poolAdd paired slot idx st i (pv i)) (pool, rec)).1 paired slot i =
        (guardAdd paired (poolGet pool paired slot i) (pv i)).1 := by
  have hv (x : SMap PoolEntry × Option SatRec) (i : Nat) := inGuard_guardAdd (pv i) (inGuard_poolGet x.1 paired slot i)
  obtain ⟨_, hg⟩ := poolGet_foldl (β := SMap PoolEntry × Option SatRec) Prod.fst paired slot
    (fun st i => poolAdd paired slot idx st i (pv i)) (fun i old => (guardAdd paired old (pv i)).1)
    (fun x i hx => by rw [poolAdd_pool]; exact sorted_poolSet paired slot i _ _ hx)
    (fun x i k hx => by
      rw [poolAdd_pool, poolGet_poolSet _ _ _ _ hx (hv x i)]
      split
      · next hk => rw [hk]
      · rfl)
    (List.range n) List.nodup_range (pool, rec) h
  exact fun i hi => (hg i).trans (if_pos (List.mem_range.mpr hi))

/-- The sum of the products that column `n` of a look of one chunk takes from the table `b` (R120). -/
def lookSum (s : State) (p l : Nat) (j : Job) (b : RtBank) (vs : List Visit) (n : Nat) : Int :=
  ((List.range (j.sv 41)).map (fun e => (b.table.getD (j.sv 46 + e) []).getD
    (field (leVal (rdBytes s (.cb p (clusterOf l)) (lookAddr (s.reach p l) j vs n e) (2 * b.wc))) (e % 16 * b.wc) b.wc) 0)).sum

/-- The only chunk of a look without group scales, in a buffer without poison. -/
theorem lookChunk_only {s : State} {p l : Nat} {j : Job} {x : LookRun} (b : RtBank) (vs : List Visit) (hx : x.fault = none)
    (hp : (s.cluster p (clusterOf l)).poison = []) (hgs : (prof j.prof).gs = false) (hK : j.sv 41 ≤ (prof j.prof).chunkLen) :
    (lookChunk s p l j b vs x 0).fault = none ∧ (lookChunk s p l j b vs x 0).pool = ((List.range (j.sv 56)).foldl
      (fun st n => poolAdd false (j.f 25 5) 0 st n (promote (prof j.prof).frac none 1 (lookSum s p l j b vs n)))
      (x.pool, x.guard)).1 := by
  have hsum (h : Nat → Int) (n : Nat) : (List.range n).foldl (fun acc i => acc + h i) 0 = ((List.range n).map h).sum := by
    rw [List.sum_eq_foldl, List.foldl_map]
  obtain ⟨pool, paired, undo, guard, fault⟩ := x
  obtain rfl : fault = none := hx
  unfold lookChunk
  simp only [poisoned, hp, List.isEmpty_nil, if_true, hgs, Bool.false_eq_true, if_false, hsum, Nat.zero_mul, Nat.zero_add,
    Nat.sub_zero, Nat.min_eq_right hK, lookSum, and_self]

/-! ### The run -/

/-- What the run of a look that has entered unit `un` leaves from the state `e` to `u`: of its own reach all but the pool, its
tags and what is in flight, and otherwise only counters and records have changed. -/
structure LookRan (s : State) (p l : Nat) (un : FuncUnit) (e u : State) (pool : SMap PoolEntry) : Prop where
  own : ∃ (tags : BitVec 32) (fl : List Flight), u.reach p l = { e.reach p l with pool := pool, paired := tags, flights := fl }
  entered : Entered s u p l un 0 .none
  frame : RatingFrame p l e u

/-- The pool of an initialising look starts from zeros (R120). -/
def lookStart (r : Reach) (j : Job) : SMap PoolEntry := if bvb j.word 30 then r.pool else fillSlot r.pool false (j.f 25 5) 0

theorem lookStart_get {r : Reach} (j : Job) (h : SMap.sorted r.pool = true) : SMap.sorted (lookStart r j) = true ∧
    ∀ n < 256, poolGet (lookStart r j) false (j.f 25 5) n =
      if bvb j.word 30 then poolGet r.pool false (j.f 25 5) n else (0, false) := by
  unfold lookStart
  split
  · exact ⟨h, fun _ _ => rfl⟩
  · exact poolGet_fillSlot _ h (inGuard_zero _)

theorem runLook_ran {s e : State} {p l no : Nat} {un : FuncUnit} {j : Job} (he : Entered s e p l un 0 .none)
    (hno : no = (s.reach p l).task.issueNo + 1) (hp : (e.cluster p (clusterOf l)).poison = []) (hgs : (prof j.prof).gs = false)
    (hK0 : 0 < j.sv 41) (hK : j.sv 41 ≤ (prof j.prof).chunkLen) {b : RtBank} (hb : b = (e.cluster p (clusterOf l)).bank (lookGen j))
    {vs : List Visit} (hvs : vs = visits lookUnits ((walked j.trv).filter (fun x => x.2.dim == 2))) :
    LookRan s p l un e (runLook p l e j no) ((List.range (j.sv 56)).foldl
      (fun st n => poolAdd false (j.f 25 5) 0 st n (promote (prof j.prof).frac none 1 (lookSum e p l j b vs n)))
      (lookStart (e.reach p l) j, none)).1 := by
  have hone : ceilDiv (j.sv 41) (prof j.prof).chunkLen = 1 := by
    rw [ceilDiv, if_neg (by omega)]
    exact Nat.div_eq_of_lt_le (by omega) (by omega)
  obtain ⟨x0, hx0⟩ : ∃ x0 : LookRun, x0 = { pool := lookStart (e.reach p l) j, paired := (e.reach p l).paired
                                            undo := if bvb j.word 30 then [] else [{ pool := (e.reach p l).poolNow }] } := ⟨_, rfl⟩
  obtain ⟨hfault, hpool⟩ := lookChunk_only (x := x0) b vs (by rw [hx0]) hp hgs hK
  obtain ⟨x, hx⟩ : ∃ x, x = lookChunk e p l j b vs x0 0 := ⟨_, rfl⟩
  rw [← hx] at hfault hpool
  rw [← show (x0.pool, x0.guard) = (lookStart (e.reach p l) j, none) by rw [hx0], ← hpool]
  have hrun : runLook p l e j no = updFlight (bumpCcnt (bumpCcnt (e.updReach p l (fun y => { y with
      pool := x.pool, paired := if bvb j.word 30 then y.paired else setTag y.paired false (j.f 25 5) })) p (clusterOf l) 1
        (ceilDiv (j.sv 41) 16 * 2 * b.wc * j.sv 56)) p (clusterOf l) 3 (ceilDiv (j.sv 41) 16)) p l no
      (fun f => { f with guard := x.guard, rtGen := some (lookGen j), undo := x.undo.reverse }) := by
    have hfold : (List.range (ceilDiv (j.sv 41) (prof j.prof).chunkLen)).foldl (lookChunk e p l j b vs) x0 = x := by
      rw [hone, hx]; rfl
    rw [hx0, lookStart] at hfold
    simp only [runLook, ← hb, ← hvs, hfold, hfault]
  obtain ⟨y, hy⟩ : ∃ y, y = bumpCcnt (bumpCcnt (e.updReach p l (fun y => { y with
      pool := x.pool, paired := if bvb j.word 30 then y.paired else setTag y.paired false (j.f 25 5) })) p (clusterOf l) 1
        (ceilDiv (j.sv 41) 16 * 2 * b.wc * j.sv 56)) p (clusterOf l) 3 (ceilDiv (j.sv 41) 16) := ⟨_, rfl⟩
  have hyr : y.reach p l = { e.reach p l with
      pool := x.pool, paired := if bvb j.word 30 then (e.reach p l).paired else setTag (e.reach p l).paired false (j.f 25 5) } := by
    rw [hy, (bumpCcnt_keeps ..).1, (bumpCcnt_keeps ..).1, State.updReach_reach_same]
  have hyf : RatingFrame p l e y := by
    rw [hy]
    refine .trans (.trans (ratingFrame_updReach e p l ?_ ?_) (ratingFrame_bumpCcnt ..)) (ratingFrame_bumpCcnt ..)
    · rfl
    · rfl
  rw [hrun, ← hy]
  refine ⟨?_, ?_, hyf.trans (ratingFrame_updFlight ..)⟩
  · rw [updFlight, State.updReach_reach_same, hyr]
    exact ⟨_, _, rfl⟩
  · rw [hno]
    exact (he.congr (by rw [hyr]) (by rw [hyr]) (by rw [hyr])).updFlight (fun _ => ⟨rfl, rfl, rfl⟩) (fun _ hst hw => ⟨hst, hw⟩)

end Sys2Proof.Machine
end

section
/-!
The obligation on the rating tables.
-/

namespace Sys2Proof.Machine

/-- A build that issues takes the next number, and its table or a wait (R119, R121). -/
theorem matlBuild_gives {p : ParcelId} {l : ReachId} {s : State} {g a : Nat} {q : Prof} {c : Cluster}
    (hop : wOp (headJob s p l).word = 1) (h24 : bvb (headJob s p l).word 24 = false)
    (hI : Issues s p l (buildPlan s p l (headJob s p l)))
    (hc : c = s.cluster p (clusterOf l)) (hg : g = (c.rtGen.toNat + 1) % 65536) (hq : q = prof (headJob s p l).prof)
    (ha : a = (s.reach p l).cbBase + ((s.reach p l).scalar (bvf (headJob s p l).word 31 5)).toNat) (hp : c.poison = [])
    (hsort : SMap.sorted (s.reach p l).s = true) : Gives (.matlBuild p l) s (fun t =>
      Entered s t p l .ratingTable 0 (if buildReady s p (clusterOf l) g then .none else .build) ∧
      (t.cluster p (clusterOf l)).rtGen.toNat = g ∧
      (∀ n, (t.reach p l).scalar n = if n = bvf (headJob s p l).word 51 5 ∧ n ≠ 0 then BitVec.ofNat 64 g else (s.reach p l).scalar n) ∧
      (t.cluster p (clusterOf l)).bank g = (if buildReady s p (clusterOf l) g then
        builtBank c q g ((headJob s p l).sv 41) (elemsAt s p (clusterOf l) (headJob s p l) a) else c.bank g) ∧
      (t.cluster p (clusterOf l)).bank (g + 1) = c.bank (g + 1) ∧ OtherReaches s t p l ∧ SameMemory s t ∧ SameTime s t) := by
  obtain ⟨e, he, hissue⟩ := exec_atMostStops (i := .matlBuild p l) (sel := fun w => wOp w == 1 && !bvb w 24)
    (plan := buildPlan s p l) (run := issueBuild p l) rfl (by simp [hop, h24]) hI
  have hec : e.cluster p (clusterOf l) = c := by rw [sameClusters_of_around he.around, hc]
  have hready : buildReady e p (clusterOf l) g = buildReady s p (clusterOf l) g := buildReady_entering he _ _
  have hea : (e.reach p l).cbBase + (headJob s p l).sv 31 = a := by
    obtain ⟨_, _, _, _, hr⟩ := he.reach
    rw [ha, hr]; rfl
  obtain ⟨hent, hissued⟩ := issueBuild_issued (j := headJob s p l) (g := g) he.entered (by rw [hec]; exact hg) (by rw [hec]; exact hp)
  rw [hready, hec, hea, ← hq] at hissued
  rw [hready] at hent
  obtain ⟨u, hu⟩ : ∃ u, u = issueBuild p l e (headJob s p l) ((s.reach p l).task.issueNo + 1) := ⟨_, rfl⟩
  rw [← hu] at hent hissued
  obtain ⟨_, _, _, _, _, _, _, hruined, _⟩ := hI
  have hes : (e.reach p l).s = (s.reach p l).s := scalars_of_around he.around
  obtain ⟨t, hexec, hstop⟩ := hissue u hu ⟨by
      rw [hissued.own]
      exact (setScalar_ruined _ _ _ (he.ruined.trans hruined)).trans (he.ruined.trans hruined).symm,
    fun w hw => .inl (hissued.frame.posted ▸ hw), by
      rw [hissued.own]
      exact congrArg Task.wait (setScalar_task ..), fun _ => hent.flights_ne_nil⟩
  have htc := sameClusters_of_around hstop.around p (clusterOf l)
  have hframe := (ratingFrame_of_around he.around he.posted).trans
    (hissued.frame.trans (ratingFrame_of_around hstop.around hstop.posted))
  refine ⟨t, hexec, hstop.entered hent, ?_, fun n => ?_, ?_, ?_, hframe.others, sameMemory_of_cells hframe.memory, hframe.time⟩
  · rw [htc, hissued.rtGen, BitVec.toNat_ofNat, hg]
    omega
  · have hscalar := scalar_setScalar (e.reach p l) (bvf (headJob s p l).word 51 5) n (BitVec.ofNat 64 g) (by rw [hes]; exact hsort)
    have hold : (e.reach p l).scalar n = (s.reach p l).scalar n := by rw [Reach.scalar, hes, Reach.scalar]
    rw [hold] at hscalar
    rw [← hscalar, hstop.reach, hissued.own]
    rfl
  · rw [htc, hissued.bank, elemsAt, rdBytes, cells_of_around he.around, ← rdBytes, ← elemsAt]
  · rw [htc, hissued.next, hec]

/-- RT_BUILD_START runs the build that may start, and it no longer waits (R121). -/
theorem rtBuildStart_gives {p : ParcelId} {c : ClusterId} {s : State} {l g : Nat} {f : Flight}
    (hwait : waitingBuild s p c = some (l, f, g)) (hp : (s.cluster p c).poison = []) (hc : clusterOf l = c.val)
    (hups : s.upsets = []) : Gives (.rtBuildStart p c) s (fun t =>
      (∃ es, (t.cluster p c).bank g = builtBank (s.cluster p c) (prof f.job.prof) g (f.job.sv 41) es) ∧
      (t.cluster p c).bank (g + 1) = (s.cluster p c).bank (g + 1) ∧
      (∀ x ∈ (t.reach p l).flights, x.no = f.no → x.wait = .none) ∧
      (t.reach p l).s = (s.reach p l).s ∧ OtherReaches s t p l ∧ SameMemory s t ∧ t.book = s.book ∧ SameTime s t) := by
  obtain ⟨w, hw⟩ : ∃ w, w = updFlight s p l f.no (fun x => { x with wait := .none }) := ⟨_, rfl⟩
  have hframe : RatingFrame p l s w := by rw [hw]; exact ratingFrame_updFlight ..
  have hwc : w.cluster p c = s.cluster p c := by rw [hw, updFlight, State.updReach_cluster]
  obtain ⟨hkeep, hsame, _, hbank, hnext⟩ := runBuild_keeps (s := w) (l := l) hc (by rw [hwc]; exact hp) g f.no f.job
  have hexec : exec (.rtBuildStart p c) s = .next (runBuild p l g w f.job f.no) := by
    refine congrArg Host.Outcome.next ?_
    rw [hwait, hw]
    exact if_pos (by simp [updFlight, hups])
  have hall := hframe.trans hkeep
  refine ⟨_, hexec, ⟨_, by rw [hbank, hwc]⟩, by rw [hnext, hwc], fun x hx hno => ?_, ?_, hall.others,
    sameMemory_of_cells hall.memory, ?_, hall.time⟩
  · rw [hsame, hw] at hx
    obtain ⟨y, _, _, rfl⟩ := mem_flights_updFlight hx hno
    rfl
  · rw [hsame, hw, updFlight, State.updReach_reach_same]
  · rw [runBuild_clean hc (by rw [hwc]; exact hp), hw, State.updCluster_book, bumpCcnt_book]
    rfl

/-- The end of a build that alone is in flight makes its generation complete, and what goes on then leaves the bank (R121). -/
theorem buildCompletes_gives {p : ParcelId} {l : ReachId} {s : State} {f : Flight} {g : Nat} (hfl : (s.reach p l).flights = [f])
    (hgen : f.rtGen = some g) (hbuild : isBuild f = true) (hmay : mayComplete (s.reach p l) f = true) (hgated : s.datum.gated = none)
    (hheld : (s.parcel p).held = []) (hlive : ((s.cluster p (clusterOf l)).bank g).live = true)
    (hno : ((s.cluster p (clusterOf l)).bank g).gen.toNat = g) (hfail : ((s.cluster p (clusterOf l)).bank g).failed = false)
    (hst : f.status = 0) : Gives (.instructionComplete p l 0) s (fun t =>
      (t.cluster p (clusterOf l)).bank g = { (s.cluster p (clusterOf l)).bank g with complete := true, failed := false }) := by
  have hret := retire_sameClusters s p l f
  obtain ⟨w, hw⟩ : ∃ w, w = buildDone (retire s p l f) p l f := ⟨_, rfl⟩
  have hdone := buildDone_completes (retire s p l f) p l hgen hbuild hst (by rw [hret]; exact hlive) (by rw [hret]; exact hno)
    (by rw [hret]; exact hfail)
  have hwheld : (w.parcel p).held = [] := by rw [hw, hdone, State.updCluster_parcel_held, retire_held, hheld]
  have hbank : (w.cluster p (clusterOf l)).bank g =
      { (s.cluster p (clusterOf l)).bank g with complete := true, failed := false } := by
    rw [hw, hdone, State.updCluster_cluster_same, bank_setBank, hret]
  have hsame : SameBanks w (completeFlight s p l f) := by
    rw [completeFlight, ← hw]
    exact .trans (sameBanks_of_clusters (releaseHeld_sameClusters w p hwheld)) (wakeHead_sameBanks _ p l)
  refine ⟨completeFlight s p l f, congrArg Host.Outcome.next ?_, (hsame.bank ..).trans hbank⟩
  simp [hfl, hgated, hmay]

/-- A look of one chunk that does not stall adds its sums once to each column (R120). -/
theorem matlLook_gives {p : ParcelId} {l : ReachId} {s : State} {q : Prof} {b : RtBank} {vs : List Visit}
    (hop : wOp (headJob s p l).word = 1) (h24 : bvb (headJob s p l).word 24 = true) (hq : q = prof (headJob s p l).prof)
    (hb : b = (s.cluster p (clusterOf l)).bank (lookGen (headJob s p l)))
    (hvs : vs = visits lookUnits ((walked (headJob s p l).trv).filter (fun x => x.2.dim == 2)))
    (hstalls : lookStalls s p l (headJob s p l) = false) (hI : Issues s p l (lookPlan s p l (headJob s p l))) (hgs : q.gs = false)
    (hK0 : 0 < (headJob s p l).sv 41) (hK : (headJob s p l).sv 41 ≤ q.chunkLen) (hp : (s.cluster p (clusterOf l)).poison = [])
    (hsort : SMap.sorted (s.reach p l).pool = true) : Gives (.matlLook p l) s (fun t => Entered s t p l .ratingTable 0 .none ∧
      (∀ n < (headJob s p l).sv 56, poolGet (t.reach p l).pool false ((headJob s p l).f 25 5) n =
        (guardAdd false
          (if bvb (headJob s p l).word 30 then poolGet (s.reach p l).pool false ((headJob s p l).f 25 5) n else (0, false))
          (promote q.frac none 1 (lookSum s p l (headJob s p l) b vs n))).1) ∧
      SameTables s t p l ∧ OtherReaches s t p l ∧ SameMemory s t ∧ SameTime s t) := by
  have ⟨_, _, hchecks, _⟩ := hI
  have hlook : exec (.matlLook p l) s =
      .next (issueUnit s p l (fun w => wOp w == 1 && bvb w 24) (lookPlan s p l) (runLook p l)) :=
    congrArg Host.Outcome.next (if_neg (by simp [hstalls]))
  obtain ⟨e, he, hissue⟩ := exec_atMostStops hlook (by simp [hop, h24]) hI
  have hec := sameClusters_of_around he.around p (clusterOf l)
  have hran := runLook_ran (b := b) (j := headJob s p l) he.entered rfl (by rw [hec]; exact hp) (by rw [← hq]; exact hgs) hK0
    (by rw [← hq]; exact hK) (by rw [hec]; exact hb) hvs
  obtain ⟨u, hu⟩ : ∃ u, u = runLook p l e (headJob s p l) ((s.reach p l).task.issueNo + 1) := ⟨_, rfl⟩
  rw [← hu, ← hq] at hran
  obtain ⟨tags, fl, hown⟩ := hran.own
  obtain ⟨t, hexec, hstop⟩ := hissue u hu ⟨by rw [hown], fun w hw => .inl (hran.frame.posted ▸ hw), by rw [hown],
    fun _ => hran.entered.flights_ne_nil⟩
  have hframe := (ratingFrame_of_around he.around he.posted).trans
    (hran.frame.trans (ratingFrame_of_around hstop.around hstop.posted))
  obtain ⟨_, _, _, _, her⟩ := he.reach
  have hsum (n : Nat) : lookSum e p l (headJob s p l) b vs n = lookSum s p l (headJob s p l) b vs n := by
    simp only [lookSum, rdBytes, cells_of_around he.around, her]
    rfl
  obtain ⟨hsorted, hstart⟩ := lookStart_get (headJob s p l) hsort
  have hcols : (headJob s p l).sv 56 ≤ 256 := lookCols_le hchecks
  refine ⟨t, hexec, hstop.entered hran.entered, fun n hn => ?_, ?_, hframe.others, sameMemory_of_cells hframe.memory, hframe.time⟩
  · have hpool : lookStart (e.reach p l) (headJob s p l) = lookStart (s.reach p l) (headJob s p l) := by rw [her]; rfl
    rw [hstop.pool, hown, hpool]
    rw [poolGet_addEach _ _ _ _ hsorted _ n hn, hstart n (by omega), hsum]
  · rw [SameTables, hstop.reach, hown, her]
    exact ⟨rfl, rfl, rfl, rfl, rfl, rfl, rfl⟩

/-- Settles O21: a build takes its number and fills its bank (`matlBuild_gives`, `rtBuildStart_gives`), which its end makes
complete (`buildCompletes_gives`), and a look adds what it sums from the bank (`matlLook_gives`). -/
theorem ratingTables : Obligations.RatingTables := by
  unfold Obligations.RatingTables
  refine ⟨?_, fun p s => ⟨?_, ?_, ?_⟩, ?_, ?_⟩
  · intro p l s j g a q c hj hop h24 hI hc hg hq ha hp hsort
    subst hj hq
    exact matlBuild_gives hop h24 hI hc hg rfl ha hp hsort
  · intro c l g f hwait hp hc hups
    obtain ⟨t, hexec, ⟨es, hbank⟩, hrest⟩ := rtBuildStart_gives hwait hp hc hups
    refine ⟨t, hexec, ?_⟩
    simp only [hbank]
    exact ⟨rfl, rfl, rfl, rfl, hrest⟩
  · exact fun c hnone => congrArg Host.Outcome.next (by rw [hnone])
  · intro l f g hfl hgen hbuild hmay hgated hheld hlive hno hfail hst
    obtain ⟨t, hexec, hbank⟩ := buildCompletes_gives hfl hgen hbuild hmay hgated hheld hlive hno hfail hst
    exact ⟨t, hexec, by rw [hbank], by rw [hbank]⟩
  · intro p l s j q r b vs hj hop h24 hq hr hb hvs hstalls
    subst hj hr
    exact ⟨matlLook_gives hop h24 hq hb hvs hstalls,
      fun hwait => ⟨⟨_, rfl⟩, congrArg Host.Outcome.next (if_pos (by simp [hwait, hstalls]))⟩⟩
  · intro p l s j hj hop h24 hI hstalls
    subst hj
    obtain ⟨hcan, hready, hchecks, _, harm, _⟩ := hI
    refine congrArg Host.Outcome.next (if_pos ?_)
    simp [hcan, hop, h24, hready, armFail_none _ _ _ _ _ harm, hchecks, hstalls]

end Sys2Proof.Machine
end

section
/-!
The bytes of an unstructured block (05 R132, R133): its header, its checksum and its length, and the obligation on the
checksum.
-/

namespace Sys2Proof.Machine

/-! ### The sum of the halfwords -/

theorem halfSum_eq_sum (bs : List Byte) (h : bs.length % 2 = 0) :
    halfSum bs = ((List.range (bs.length / 2)).map (fun i => leVal ((bs.drop (2 * i)).take 2))).sum := by
  induction bs using halfSum.induct with
  | case1 => rfl
  | case2 a => simp at h
  | case3 a b r ih =>
    have hlen : (a :: b :: r).length / 2 = r.length / 2 + 1 := by simp only [List.length_cons]; omega
    have hr : r.length % 2 = 0 := by simp only [List.length_cons] at h; omega
    rw [halfSum, ih hr, hlen, List.range_succ_eq_map, List.map_cons, List.sum_cons, List.map_map]
    rfl

/-! ### The bytes of a block -/

/-- The bytes behind the header of a block: the index list, the codes and the padding (R132). -/
def blockBody (b : Nat) (kept : List (Nat × Nat)) : List Byte :=
  kept.map (fun k => BitVec.ofNat 8 k.1) ++ packBytes b (kept.map (fun k => k.2)) ++
    List.replicate (blockLen b kept.length - (8 + kept.length + (kept.length * b + 7) / 8)) 0

/-- The checksum of a block with count `n` and the bytes `r` behind the checksum. -/
def blockCheck (n : Nat) (r : List Byte) : Nat := (65536 - ((BitVec.ofNat 8 n).toNat + halfSum r) % 65536) % 65536

/-- A block is its count, a zero, its checksum, its number, and its body (R132). -/
theorem encodeBlock_eq (b no : Nat) (kept : List (Nat × Nat)) : encodeBlock b no kept =
    BitVec.ofNat 8 kept.length :: 0 :: leBytes 2 (blockCheck kept.length (leBytes 4 no ++ blockBody b kept)) ++
      (leBytes 4 no ++ blockBody b kept) := by
  have hlen (sum : Nat) : (leBytes 1 kept.length ++ leBytes 1 0 ++ leBytes 2 sum ++ leBytes 4 no ++
      kept.map (fun k => BitVec.ofNat 8 k.1) ++ packBytes b (kept.map (fun k => k.2))).length =
        8 + kept.length + (kept.length * b + 7) / 8 := by
    simp only [packBytes, List.length_append, List.length_map, leBytes_length]
  have hbody (sum : Nat) : padTo (blockLen b kept.length) (leBytes 1 kept.length ++ leBytes 1 0 ++ leBytes 2 sum ++ leBytes 4 no ++
      kept.map (fun k => BitVec.ofNat 8 k.1) ++ packBytes b (kept.map (fun k => k.2))) =
        BitVec.ofNat 8 kept.length :: 0 :: leBytes 2 sum ++ (leBytes 4 no ++ blockBody b kept) := by
    rw [padTo, hlen]
    simp only [blockBody, leBytes, List.append_assoc]
    rfl
  have hsum : blockSum (BitVec.ofNat 8 kept.length :: 0 :: leBytes 2 0 ++ (leBytes 4 no ++ blockBody b kept)) =
      blockCheck kept.length (leBytes 4 no ++ blockBody b kept) := by
    simp [blockSum, blockCheck, halfSum, leBytes, leVal]
  simp only [encodeBlock, hbody, hsum]

theorem blockLen_even (b n : Nat) : blockLen b n % 2 = 0 := by unfold blockLen; omega

theorem le_blockLen (b n : Nat) : 8 + n + (n * b + 7) / 8 ≤ blockLen b n := by
  unfold blockLen ceilDiv
  rw [if_neg (by omega)]
  omega

theorem blockBody_length (b : Nat) (kept : List (Nat × Nat)) : 8 + (blockBody b kept).length = blockLen b kept.length := by
  have := le_blockLen b kept.length
  simp only [blockBody, packBytes, List.length_append, List.length_map, leBytes_length, List.length_replicate]
  omega

theorem encodeBlock_length (b no : Nat) (kept : List (Nat × Nat)) : (encodeBlock b no kept).length = blockLen b kept.length := by
  have := blockBody_length b kept
  simp only [encodeBlock_eq, List.length_append, List.length_cons, leBytes_length]
  omega

/-- The checksum makes the sum of the halfwords 0 (R133). -/
theorem halfSum_encodeBlock (b no : Nat) (kept : List (Nat × Nat)) : halfSum (encodeBlock b no kept) % 65536 = 0 := by
  obtain ⟨c, hc⟩ : ∃ c, c = blockCheck kept.length (leBytes 4 no ++ blockBody b kept) := ⟨_, rfl⟩
  have hlow : (BitVec.ofNat 8 c).toNat + 256 * (BitVec.ofNat 8 (c / 256)).toNat = c % 65536 := by
    simp only [BitVec.toNat_ofNat]; omega
  have hsplit : halfSum (encodeBlock b no kept) =
      (BitVec.ofNat 8 kept.length).toNat + 256 * 0 + (c % 65536 + halfSum (leBytes 4 no ++ blockBody b kept)) := by
    rw [encodeBlock_eq, ← hc, ← hlow]; rfl
  rw [hsplit, hc, blockCheck]
  omega

/-- Settles O33: the sum of the halfwords of a block is 0 by its checksum (`halfSum_encodeBlock`). -/
theorem blockChecksum : Obligations.BlockChecksum := by
  unfold Obligations.BlockChecksum
  refine ⟨fun b no kept bytes _ _ hbytes _ => ?_, by decide, by decide⟩
  have heven : bytes.length % 2 = 0 := by rw [hbytes, encodeBlock_length, blockLen_even]
  refine ⟨heven, ?_⟩
  rw [← List.sum_eq_foldl, ← halfSum_eq_sum bytes heven, hbytes, halfSum_encodeBlock]

end Sys2Proof.Machine
end

section
/-!
An unstructured block read back (05 R132, R145; 08 R238): its index list, its codes, the checks that it passes, and the
obligation on what it expands to.
-/

namespace Sys2Proof.Machine

/-! ### Packed codes read from a longer string (R93) -/

theorem leVal_zeros (m : Nat) : leVal (List.replicate m 0) = 0 := by
  induction m with
  | zero => rfl
  | succ m ih => rw [List.replicate_succ, leVal, ih]; rfl

theorem leVal_append_zeros (bs : List Byte) (m : Nat) : leVal (bs ++ List.replicate m 0) = leVal bs := by
  induction bs with
  | nil => exact leVal_zeros m
  | cons b bs ih => rw [List.cons_append, leVal, ih, leVal]

theorem leVal_packBytes (b : Nat) (cs : List Nat) : leVal (packBytes b cs) = packNat b cs := by
  have hbytes : 2 ^ (cs.length * b) ≤ 256 ^ ((cs.length * b + 7) / 8) := by
    rw [show (256 : Nat) = 2 ^ 8 from rfl, ← pow_mul]
    exact Nat.pow_le_pow_right (by omega) (by omega)
  rw [packBytes, leVal_leBytes, Nat.mod_eq_of_lt ((packNat_lt b cs).trans_le hbytes)]

theorem unpackAt_packBytes (b m i : Nat) (cs : List Nat) :
    unpackAt (packBytes b cs ++ List.replicate m 0) b i = cs.getD i 0 % 2 ^ b := by
  rw [unpackAt, leVal_append_zeros, leVal_packBytes, field_packNat]

/-! ### The fields of a block (R132) -/

section
variable {b no : Nat} {kept : List (Nat × Nat)}

theorem encodeBlock_count (hn : kept.length ≤ 128) : ((encodeBlock b no kept).getD 0 0).toNat = kept.length := by
  have hcount : (encodeBlock b no kept).getD 0 0 = BitVec.ofNat 8 kept.length := by rw [encodeBlock_eq]; rfl
  rw [hcount, BitVec.toNat_ofNat, Nat.mod_eq_of_lt (by omega)]

theorem encodeBlock_drop : (encodeBlock b no kept).drop 8 = blockBody b kept := by rw [encodeBlock_eq]; rfl

theorem blockIndices_encodeBlock (hn : kept.length ≤ 128) (hi : ∀ x ∈ kept, x.1 < 128) :
    blockIndices (encodeBlock b no kept) = kept.map (fun x => x.1) := by
  rw [blockIndices, encodeBlock_count hn, encodeBlock_drop, blockBody, List.append_assoc,
    List.take_left' (List.length_map ..), List.map_map]
  refine List.map_congr_left fun x hx => ?_
  exact (BitVec.toNat_ofNat ..).trans (Nat.mod_eq_of_lt (by have := hi x hx; omega))

/-- The pairs that a block keeps are read back, where each fits its field. -/
theorem blockPairs_encodeBlock (hn : kept.length ≤ 128) (hi : ∀ x ∈ kept, x.1 < 128) (hc : ∀ x ∈ kept, x.2 < 2 ^ b) :
    blockPairs b (encodeBlock b no kept) = kept := by
  rw [blockPairs, blockIndices_encodeBlock hn hi, encodeBlock_count hn, ← List.drop_drop, encodeBlock_drop, blockBody,
    List.append_assoc, List.drop_left' (List.length_map ..)]
  refine List.ext_getElem (by simp) fun i _ hlt => ?_
  have hcode := Nat.mod_eq_of_lt (hc kept[i] (List.getElem_mem hlt))
  have hgetD : (kept.map (fun x => x.2)).getD i 0 = kept[i].2 := by simp [hlt]
  simp only [List.getElem_mapIdx, List.getElem_map, unpackAt_packBytes, hgetD, hcode]

end

/-! ### The checks (R145) -/

theorem blockBad_none {bs : List Byte} {first ext : Nat} (addr : Nat) (hsum : halfSum bs % 65536 = 0)
    (hcount : (bs.getD 0 0).toNat ≤ 128) (horder : (blockIndices bs).Pairwise (· < ·))
    (hindex : ∀ x ∈ blockIndices bs, x ≤ 127 ∧ first + x < ext) : blockBad bs first ext addr = none := by
  have hnext : ((blockIndices bs).zip ((blockIndices bs).drop 1)).findIdx? (fun x => decide (x.2 ≤ x.1)) = none := by
    refine List.findIdx?_eq_none_iff.mpr fun x hx => ?_
    obtain ⟨i, hi, rfl⟩ := List.mem_iff_getElem.mp hx
    simp only [List.length_zip, List.length_drop] at hi
    have := List.pairwise_iff_getElem.mp horder i (1 + i) (by omega) (by omega) (by omega)
    simpa [Nat.add_comm 1 i] using this
  have hrange : (blockIndices bs).findIdx? (fun x => decide (127 < x) || decide (ext ≤ first + x)) = none := by
    refine List.findIdx?_eq_none_iff.mpr fun x hx => ?_
    have := hindex x hx
    simp only [Bool.or_eq_false_iff, decide_eq_false_iff_not]
    omega
  simp only [blockBad, hsum, hnext, hrange, if_neg (Nat.not_lt.mpr hcount), ne_eq, not_true_eq_false, if_false]

/-! ### What a store keeps (R238) -/

section
variable (zc : Nat) (codes : List Nat)

theorem mem_keptOf (x : Nat × Nat) : x ∈ keptOf zc codes ↔ codes[x.1]? = some x.2 ∧ x.2 ≠ zc := by
  obtain ⟨i, c⟩ := x
  simp only [keptOf, List.mem_filter, List.mem_mapIdx, Prod.mk.injEq, bne_iff_ne, List.getElem?_eq_some_iff]
  refine and_congr_left fun _ => ⟨?_, fun ⟨hi, hc⟩ => ⟨i, hi, rfl, hc⟩⟩
  rintro ⟨_, hi, rfl, hc⟩
  exact ⟨hi, hc⟩

theorem keptOf_increasing : (keptOf zc codes).Pairwise (fun x y => x.1 < y.1) := by
  refine List.Pairwise.filter _ (List.pairwise_iff_getElem.mpr fun i j _ _ hij => ?_)
  simpa using hij

theorem keptOf_length : (keptOf zc codes).length ≤ codes.length :=
  (List.length_filter_le ..).trans_eq (List.length_mapIdx ..)

/-- Code `e` of a block is the one that it keeps for `e`, or the zero code (R132). -/
theorem find_keptOf {e : Nat} (h : e < codes.length) :
    ((keptOf zc codes).find? (fun k => k.1 == e)).elim zc (fun k => k.2) = codes[e] := by
  cases hfind : (keptOf zc codes).find? (fun k => k.1 == e) with
  | none =>
    by_contra hne
    have hmem : (e, codes[e]) ∈ keptOf zc codes := (mem_keptOf ..).mpr ⟨List.getElem?_eq_getElem h, Ne.symm hne⟩
    simpa using List.find?_eq_none.mp hfind _ hmem
  | some k =>
    have hk : k.1 = e := by simpa using List.find?_some hfind
    obtain ⟨hcode, _⟩ := (mem_keptOf ..).mp (List.mem_of_find?_eq_some hfind)
    rw [hk, List.getElem?_eq_getElem h] at hcode
    exact (Option.some.inj hcode).symm

theorem denseOf_keptOf : (denseOf zc codes.length (keptOf zc codes)).1 = codes := by
  refine List.ext_getElem (by simp [denseOf]) fun e _ h => ?_
  simp only [denseOf, List.getElem_map, List.getElem_range]
  exact find_keptOf zc codes h

end

/-- Settles O32: the block's fields are read back (`blockPairs_encodeBlock`), so that it passes the checks
(`blockBad_none`) and gives each code back (`denseOf_keptOf`). -/
theorem blocksGiveBack : Obligations.BlocksGiveBack := by
  unfold Obligations.BlocksGiveBack
  intro e no zc first ext addr codes _ hlen hcodes hext bs hbs
  have hmem (x : Nat × Nat) (hx : x ∈ keptOf zc codes) : x.1 < codes.length ∧ x.2 < 2 ^ 2 ^ e := by
    obtain ⟨hget, _⟩ := (mem_keptOf zc codes x).mp hx
    exact ⟨(List.getElem?_eq_some_iff.mp hget).1, hcodes _ (List.mem_of_getElem? hget)⟩
  have hn : (keptOf zc codes).length ≤ 128 := (keptOf_length zc codes).trans hlen
  have hi : ∀ x ∈ keptOf zc codes, x.1 < 128 := fun x hx => (hmem x hx).1.trans_le hlen
  have hindices : blockIndices bs = (keptOf zc codes).map (fun x => x.1) := by rw [hbs, blockIndices_encodeBlock hn hi]
  have hcount : (bs.getD 0 0).toNat = (keptOf zc codes).length := by rw [hbs, encodeBlock_count hn]
  refine ⟨blockBad_none addr ?_ ?_ ?_ ?_, ?_, ?_⟩
  · rw [hbs, halfSum_encodeBlock]
  · rw [hcount]; exact hn
  · rw [hindices]; exact List.pairwise_map.mpr (keptOf_increasing zc codes)
  · rw [hindices]
    intro i hmemi
    obtain ⟨x, hx, rfl⟩ := List.mem_map.mp hmemi
    have hx1 := (hmem x hx).1
    omega
  · rw [hcount, hbs, encodeBlock_length]
  · rw [hbs, blockPairs_encodeBlock hn hi (fun x hx => (hmem x hx).2), denseOf_keptOf]

end Sys2Proof.Machine
end

section
/-!
TALY (05 R128; 06 R182): what the run of a claim, a set and a read leaves, and the obligation on the tallies.
-/

namespace Sys2Proof.Machine

/-! ### The tallies of a cluster -/

theorem tallyOf_congr {s t : State} {p l : Nat} (h : SameClusters s t) (i : Nat) : tallyOf t p l i = tallyOf s p l i := by
  rw [tallyOf, h, tallyOf]

section
variable (s : State) (p l : Nat)

theorem tallyOf_setTally (k i : Nat) (w : Word) : tallyOf (setTally s p l k w) p l i = if i = k then w else tallyOf s p l i := by
  rw [tallyOf, setTally, State.updCluster_cluster_same, SMap.get_put, tallyOf]

theorem tallyOf_bumpCcnt (c k n i : Nat) : tallyOf (bumpCcnt s p c k n) p l i = tallyOf s p l i := by
  obtain ⟨cnt, inc, h⟩ := bumpCcnt_cluster s p c k n
  rw [tallyOf, h, tallyOf]
  split
  · next hq => rw [hq.2]
  · rfl

theorem setScalar_sameClusters (n : Nat) (v : Word) : SameClusters s (setScalar s p l n v) := fun _ _ => State.updReach_cluster ..

theorem ratingFrame_setScalar (n : Nat) (v : Word) : RatingFrame p l s (setScalar s p l n v) := by
  refine ratingFrame_updReach s p l ?_ ?_
  all_goals unfold Reach.setScalar; split <;> rfl

theorem ratingFrame_setTally (k : Nat) (w : Word) : RatingFrame p l s (setTally s p l k w) := ratingFrame_updCluster _ _ _ _ rfl

end

/-! ### What a run leaves -/

/-- What the run of a TALY leaves from the state `e` to `u`: `v` in register `n`, the status `st`, and the tallies `tally`. -/
structure TallyRan (s : State) (p l : Nat) (e u : State) (st n : Nat) (v : Word) (tally : Nat → Word) : Prop where
  own : ∃ fl, u.reach p l = { (e.reach p l).setScalar n v with flights := fl }
  entered : Entered s u p l .tally st .none
  frame : RatingFrame p l e u
  tally : ∀ i, tallyOf u p l i = tally i

section
variable {s e u : State} {p l st n : Nat} {v : Word} {tally : Nat → Word}

/-- A run that writes its result register and no tally. -/
theorem tallyRan_setScalar (he : Entered s e p l .tally 0 .none) (n : Nat) (v : Word) :
    TallyRan s p l e (setScalar e p l n v) 0 n v (tallyOf e p l) := by
  have hreach : (setScalar e p l n v).reach p l = (e.reach p l).setScalar n v := State.updReach_reach_same ..
  refine ⟨⟨_, hreach⟩, ?_, ratingFrame_setScalar .., tallyOf_congr (setScalar_sameClusters e p l n v)⟩
  exact he.congr (by rw [hreach, setScalar_task]) (by rw [hreach, setScalar_task]) (by rw [hreach, setScalar_flights])

/-- A run that writes tally `k`, then its result register. -/
theorem tallyRan_setTally (he : Entered s e p l .tally 0 .none) (k n : Nat) (w v : Word) :
    TallyRan s p l e (setScalar (setTally e p l k w) p l n v) 0 n v (fun i => if i = k then w else tallyOf e p l i) := by
  have hreach : (setTally e p l k w).reach p l = e.reach p l := State.updCluster_reach ..
  obtain ⟨hown, hent, hframe, htally⟩ := tallyRan_setScalar (he.of_reach hreach) n v
  rw [hreach] at hown
  exact ⟨hown, hent, (ratingFrame_setTally ..).trans hframe, fun i => (htally i).trans (tallyOf_setTally ..)⟩

theorem TallyRan.flightStatus (h : TallyRan s p l e u 0 n v tally) (st : Nat) :
    TallyRan s p l e (flightStatus u p l ((s.reach p l).task.issueNo + 1) st) st n v tally := by
  obtain ⟨⟨fl, hown⟩, hent, hframe, htally⟩ := h
  refine ⟨?_, hent.updFlight (fun _ => ⟨rfl, rfl, rfl⟩) (fun _ _ hw => ⟨rfl, hw⟩), hframe.trans (ratingFrame_updFlight ..),
    fun i => (tallyOf_congr (fun _ _ => State.updReach_cluster ..) i).trans (htally i)⟩
  rw [Machine.flightStatus, updFlight, State.updReach_reach_same, hown]
  exact ⟨_, rfl⟩

theorem TallyRan.bumpCcnt (h : TallyRan s p l e u st n v tally) (c k m : Nat) :
    TallyRan s p l e (bumpCcnt u p c k m) st n v tally := by
  have hreach := (bumpCcnt_keeps u p c k m).1 p l
  exact ⟨by rw [hreach]; exact h.own, h.entered.of_reach hreach, h.frame.trans (ratingFrame_bumpCcnt ..),
    fun i => (tallyOf_bumpCcnt ..).trans (h.tally i)⟩

theorem TallyRan.useFree (h : TallyRan s p l e u st n v tally) : TallyRan s p l e u.useFree st n v tally :=
  ⟨h.own, h.entered.of_reach rfl, h.frame.trans ⟨fun _ _ _ => rfl, fun k => by cases k <;> rfl, ⟨rfl, rfl, rfl, rfl, rfl⟩, rfl⟩,
    h.tally⟩

theorem TallyRan.quiet (h : TallyRan s p l e u st n v tally) (hr : (e.reach p l).ruined = []) : QuietRun e u p l := by
  obtain ⟨fl, hown⟩ := h.own
  refine ⟨?_, fun w hw => .inl (h.frame.posted ▸ hw), ?_, fun _ => h.entered.flights_ne_nil⟩
  · rw [hown, hr]; exact setScalar_ruined _ _ _ hr
  · rw [hown]; exact congrArg Task.wait (setScalar_task ..)

end

/-! ### Issue -/

section
variable {s e : State} {p l : Nat}

/-- The instant of now and the closing stake are those of issue: a claim fits as it does before it enters. -/
theorem claimFits_entering {pl : Plan} (h : Entering s e p l pl) (cc : Nat) : claimFits e p l cc = claimFits s p l cc := by
  have hpwr : (e.parcel p).pwr = (s.parcel p).pwr := by rw [h.parcel p]
  obtain ⟨_, _, _, _, hr⟩ := h.reach
  simp only [claimFits, hr, Reach.enter, State.now, State.offset, State.nc, State.nMax, hpwr, h.datum, h.phase]

variable {i : Instr} {sel : BitVec 128 → Bool} {plan : Job → Plan} {run : State → Job → Nat → State} {st n : Nat} {v : Word}
  {tally : Nat → Word}

/-- A TALY that issues ends where its run leads. -/
theorem tally_gives (hexec : exec i s = .next (issueUnit s p l sel plan run)) (hs : sel (headJob s p l).word = true)
    (hI : Issues s p l (plan (headJob s p l))) (hsort : SMap.sorted (s.reach p l).s = true)
    (hrun : ∀ e, Entering s e p l (plan (headJob s p l)) →
      TallyRan s p l e (run e (headJob s p l) ((s.reach p l).task.issueNo + 1)) st n v tally) :
    Gives i s (fun t => Entered s t p l .tally st .none ∧ (∀ i, tallyOf t p l i = tally i) ∧
      (∀ m, (t.reach p l).scalar m = if m = n ∧ m ≠ 0 then v else (s.reach p l).scalar m) ∧
      OtherReaches s t p l ∧ SameMemory s t ∧ SameTime s t) := by
  obtain ⟨e, he, hissue⟩ := exec_atMostStops hexec hs hI
  obtain ⟨_, _, _, _, _, _, _, hruined, _⟩ := hI
  obtain ⟨u, hu⟩ : ∃ u, u = run e (headJob s p l) ((s.reach p l).task.issueNo + 1) := ⟨_, rfl⟩
  have hran := hrun e he
  rw [← hu] at hran
  obtain ⟨t, ht, hstop⟩ := hissue u hu (hran.quiet (he.ruined.trans hruined))
  have hframe := (ratingFrame_of_around he.around he.posted).trans
    (hran.frame.trans (ratingFrame_of_around hstop.around hstop.posted))
  refine ⟨t, ht, hstop.entered hran.entered, fun i => ?_, fun m => ?_, hframe.others, sameMemory_of_cells hframe.memory, hframe.time⟩
  · rw [tallyOf_congr (sameClusters_of_around hstop.around), hran.tally]
  · obtain ⟨fl, hown⟩ := hran.own
    have hes : (e.reach p l).s = (s.reach p l).s := scalars_of_around he.around
    have hscalar := scalar_setScalar (e.reach p l) n m v (by rw [hes]; exact hsort)
    have hold : (e.reach p l).scalar m = (s.reach p l).scalar m := by rw [Reach.scalar, hes, Reach.scalar]
    rw [hold] at hscalar
    rw [← hscalar, hstop.reach, hown]
    rfl

/-- At issue the tallies are as they were. -/
theorem tallyOf_entering {pl : Plan} (h : Entering s e p l pl) : tallyOf e p l = tallyOf s p l :=
  funext (tallyOf_congr (sameClusters_of_around h.around))

end

/-! ### The forms (R128, R182) -/

section
variable {s e : State} {p l k : Nat} {j : Job} {w : Word} {reads : List Nat} (he : Entering s e p l (talyPlan reads j))
  (hk : k = j.f 24 2) (hw : w = tallyOf s p l k)
include he hk

theorem runTalySet_ran {a b : Nat} (ha : a = j.sv 33) (hb : b = j.sv 38) (no : Nat) :
    TallyRan s p l e (runTalySet p l e j no) 0 (j.f 28 5) (BitVec.ofNat 64 s.freeValue)
      (fun i => if i = k then BitVec.ofNat 64 (a % 2 ^ 32 + b % 2 ^ 32 * 2 ^ 32) else tallyOf s p l i) := by
  rw [runTalySet, ← hk, ← ha, ← hb, ← tallyOf_entering he, State.freeValue, he.free]
  exact (tallyRan_setTally he.entered ..).useFree

include hw

theorem runTalyRead_ran (no : Nat) : TallyRan s p l e (runTalyRead p l e j no) 0 (j.f 28 5) w (tallyOf s p l) := by
  rw [runTalyRead, ← hk, ← tallyOf_entering he, hw, ← tallyOf_entering he]
  exact tallyRan_setScalar he.entered ..

theorem runClaim_grants (hlt : bvf w 0 32 < bvf w 32 32) (hfits : claimFits s p l (j.sv 33) = true) (no : Nat) :
    TallyRan s p l e (runClaim p l e j no) 0 (j.f 28 5) (BitVec.ofNat 64 (bvf w 0 32))
      (fun i => if i = k then putField w 0 32 (bvf w 0 32 + 1) else tallyOf s p l i) := by
  rw [← tallyOf_entering he] at hw ⊢
  rw [← claimFits_entering he] at hfits
  simp only [runClaim, ← hk, ← hw, hlt, hfits, decide_true, Bool.and_self, if_true]
  exact (tallyRan_setTally he.entered ..).bumpCcnt ..

theorem runClaim_refuses (hstop : bvf w 32 32 ≤ bvf w 0 32 ∨ claimFits s p l (j.sv 33) = false) :
    TallyRan s p l e (runClaim p l e j ((s.reach p l).task.issueNo + 1)) 4 (j.f 28 5) 0xFFFFFFFFFFFFFFFF#64
      (tallyOf s p l) := by
  rw [← tallyOf_entering he] at hw ⊢
  have hcond : (decide (bvf w 0 32 < bvf w 32 32) && claimFits e p l (j.sv 33)) = false := by
    rwa [claimFits_entering he, Bool.and_eq_false_iff, decide_eq_false_iff_not, Nat.not_lt]
  simp only [runClaim, ← hk, ← hw, hcond, Bool.false_eq_true, if_false]
  exact ((tallyRan_setScalar he.entered ..).flightStatus 4).bumpCcnt ..

end

/-- Settles O15: what the run of each form leaves (`runClaim_grants`, `runClaim_refuses`, `runTalySet_ran`,
`runTalyRead_ran`) stands when its issue ends (`tally_gives`). -/
theorem tallyClaims : Obligations.TallyClaims := by
  unfold Obligations.TallyClaims
  intro p l s j k dst w hj hop hsort hk hdst hw
  subst hj hdst
  refine ⟨fun hI hv hlt hfits => ?_, fun hI hv hstop => ?_, fun hI hv => ?_, fun hI hv => ?_⟩
  · exact tally_gives (sel := isOp 9 26 2 (fun v => v == 0 || v == 3)) (run := runClaim p l) rfl (by simp [isOp, hop, hv]) hI hsort
      fun e he => runClaim_grants he hk hw hlt hfits _
  · exact tally_gives (sel := isOp 9 26 2 (fun v => v == 0 || v == 3)) (run := runClaim p l) rfl (by simp [isOp, hop, hv]) hI hsort
      fun e he => runClaim_refuses he hk hw hstop
  · obtain ⟨a, ha⟩ : ∃ a, a = ((s.reach p l).scalar (bvf (headJob s p l).word 33 5)).toNat := ⟨_, rfl⟩
    obtain ⟨b, hb⟩ : ∃ b, b = ((s.reach p l).scalar (bvf (headJob s p l).word 38 5)).toNat := ⟨_, rfl⟩
    rw [← ha, ← hb]
    obtain ⟨t, hexec, hent, htally, hscalar, hframe⟩ := tally_gives (i := .talySet p l) (sel := isOp 9 26 2 (fun v => v == 1))
      (plan := fun j => talyPlan [j.f 33 5, j.f 38 5] j) (run := runTalySet p l) rfl (by simp [isOp, hop, hv]) hI hsort
      fun e he => runTalySet_ran he hk ha hb _
    exact ⟨t, hexec, hent, htally, fun n hn => (hscalar n).trans (if_neg (fun h => hn.elim (· h.1) h.2)), hframe⟩
  · exact tally_gives (sel := isOp 9 26 2 (fun v => v == 2)) (run := runTalyRead p l) rfl (by simp [isOp, hop, hv]) hI hsort
      fun e he => runTalyRead_ran he hk hw _

end Sys2Proof.Machine
end

section
/-!
SUPPORT. The storage of the package in its canonical form (06 R158, 12 R336): what `memOk` and `registersOk` ask of each
parcel and reach, and `Canon u s`, that the state `s` stands in it where `u` did. One rule per operation of the model
follows, each a consequence of the rules of the operations that it is made of.
-/

namespace Sys2Proof.Machine

/-- A reach whose two memories stand in canonical form. -/
def Reach.memOk (r : Reach) : Bool := memWf r.spad && memWf r.imem
/-- A reach whose scalar registers and pool are held as sorted maps. -/
def Reach.registersOk (r : Reach) : Bool := SMap.sorted r.s && SMap.sorted r.pool
/-- A parcel whose byte memories, and those of its reaches and clusters, stand in canonical form. -/
def Parcel.memOk (x : Parcel) : Bool :=
  memWf x.mem && x.reaches.all (fun y => y.2.memOk) && x.clusters.all (fun y => memWf y.2.buf)

/-- A parcel whose reaches hold their scalars and pools as sorted maps. -/
def Parcel.registersOk (x : Parcel) : Bool := x.reaches.all (fun y => y.2.registersOk)

/-- What stands in canonical form in the reach `u` does so in `r`. -/
def Reach.Canon (u r : Reach) : Prop :=
  (u.memOk = true → r.memOk = true) ∧ (u.registersOk = true → r.registersOk = true)

/-- What stands in canonical form in the parcel `u` does so in `x`. -/
def Parcel.Canon (u x : Parcel) : Prop :=
  (u.memOk = true → x.memOk = true) ∧ (u.registersOk = true → x.registersOk = true)

/-- What `memOk` and `registersOk` read of a reach, of a parcel, and of the state. -/
def Reach.stores (r : Reach) : Mem × Mem × SMap Word × SMap PoolEntry := (r.spad, r.imem, r.s, r.pool)
def Parcel.stores (x : Parcel) : Mem × SMap Reach × SMap Cluster := (x.mem, x.reaches, x.clusters)
def State.stores (s : State) : SMap Parcel × Mem := (s.parcels, s.hub.port.hostMem)

/-- What stands in canonical form in the state `u` does so in `s`. -/
def Canon (u s : State) : Prop := (u.memOk = true → s.memOk = true) ∧ (u.registersOk = true → s.registersOk = true)

theorem SMap.all_put {α : Type} {m : SMap α} {k : Nat} {a : α} {f : Nat × α → Bool} (hm : m.all f = true) (ha : f (k,
    a) = true) :
    (SMap.put m k a).all f = true := by
  rw [List.all_eq_true] at hm ⊢
  intro e he
  rcases mem_put he with rfl | he
  · exact ha
  · exact hm e he

theorem SMap.mem_of_find {α : Type} {m : SMap α} {k : Nat} {a : α} (h : SMap.find m k = some a) : (k, a) ∈ m := by
  induction m with
  | nil => simp [SMap.find] at h
  | cons e m ih =>
    obtain ⟨j, v⟩ := e
    simp only [SMap.find] at h
    split at h
    · simp_all
    · split at h
      · simp at h
      · exact List.mem_cons_of_mem _ (ih h)

theorem SMap.all_get {α : Type} {m : SMap α} {k : Nat} {d : α} {f : α → Bool} (hm : m.all (fun e => f e.2) = true)
    (hd : f d = true) :
    f (SMap.get d m k) = true := by
  unfold SMap.get
  cases h : SMap.find m k with
  | none => exact hd
  | some a => exact List.all_eq_true.mp hm _ (SMap.mem_of_find h)

variable {u s t : State} {p l c : Nat}

theorem State.memOk_iff : s.memOk = true ↔ s.parcels.all (fun x => x.2.memOk) = true ∧ memWf s.hub.port.hostMem = true := by
  simp only [State.memOk, Bool.and_eq_true]; rfl

theorem State.registersOk_iff : s.registersOk = true ↔ s.parcels.all (fun x => x.2.registersOk) = true := Iff.rfl

theorem Canon.parcel_memOk (h : s.memOk = true) : (s.parcel p).memOk = true := SMap.all_get (f := Parcel.memOk)
    (State.memOk_iff.mp h).1 rfl

protected theorem Canon.refl : Canon s s := ⟨id, id⟩
protected theorem Canon.trans (h : Canon u s) (h' : Canon s t) : Canon u t := ⟨h'.1 ∘ h.1, h'.2 ∘ h.2⟩

/-- What touches neither the parcels nor the host's memory. -/
protected theorem Canon.same (h : Canon u s) (he : t.stores = s.stores) : Canon u t := by
  obtain ⟨hp, hm⟩ := Prod.mk.inj he
  unfold Canon at *
  simpa only [State.memOk_iff, State.registersOk_iff, hp, hm] using h

protected theorem Canon.setParcel (h : Canon u s) {x} (hx : Parcel.Canon (s.parcel p) x) : Canon u (s.setParcel p x) := by
  refine h.trans ⟨fun hm => ?_, fun hr => ?_⟩
  · rw [State.memOk_iff] at hm ⊢
    exact ⟨SMap.all_put hm.1 (hx.1 (SMap.all_get (f := Parcel.memOk) hm.1 rfl)), hm.2⟩
  · rw [State.registersOk_iff] at hr ⊢
    exact SMap.all_put hr (hx.2 (SMap.all_get (f := Parcel.registersOk) hr rfl))

protected theorem Canon.updParcelWith (h : Canon u s) {f : Parcel → Parcel} (hf : ∀ x, Parcel.Canon x (f x)) : Canon
    u (s.updParcel p f) :=
  h.setParcel (hf _)

theorem Parcel.canon_of_stores {x y : Parcel} (h : y.stores = x.stores) : Parcel.Canon x y := by
  simp only [Parcel.stores, Prod.mk.injEq] at h
  obtain ⟨h1, h2, h3⟩ := h
  simp only [Parcel.Canon, Parcel.memOk, Parcel.registersOk, h1, h2, h3, imp_self, and_self]

protected theorem Canon.updParcel (h : Canon u s) {f : Parcel → Parcel} (hf : Parcel.stores ∘ f = Parcel.stores) :
    Canon u (s.updParcel p f) :=
  h.updParcelWith fun x => Parcel.canon_of_stores (congrFun hf x)

protected theorem Canon.setReach (h : Canon u s) {r} (hr : Reach.Canon (s.reach p l) r) : Canon u (s.setReach p l r) := by
  refine h.setParcel ⟨fun hm => ?_, fun hm => ?_⟩
  · simp only [Parcel.memOk, Bool.and_eq_true] at hm ⊢
    exact ⟨⟨hm.1.1, SMap.all_put hm.1.2 (hr.1 (SMap.all_get (f := Reach.memOk) hm.1.2 rfl))⟩, hm.2⟩
  · exact SMap.all_put hm (hr.2 (SMap.all_get (f := Reach.registersOk) hm rfl))

protected theorem Canon.updReachWith (h : Canon u s) {f : Reach → Reach} (hf : ∀ r, Reach.Canon r (f r)) : Canon u
    (s.updReach p l f) :=
  h.setReach (hf _)

theorem Reach.canon_of_stores {r r' : Reach} (h : r'.stores = r.stores) : Reach.Canon r r' := by
  simp only [Reach.stores, Prod.mk.injEq] at h
  obtain ⟨h1, h2, h3, h4⟩ := h
  simp only [Reach.Canon, Reach.memOk, Reach.registersOk, h1, h2, h3, h4, imp_self, and_self]

protected theorem Canon.updReach (h : Canon u s) {f : Reach → Reach} (hf : Reach.stores ∘ f = Reach.stores) :
    Canon u (s.updReach p l f) :=
  h.updReachWith fun r => Reach.canon_of_stores (congrFun hf r)

protected theorem Canon.updTask {f} (h : Canon u s) : Canon u (s.updTask p l f) := h.updReach rfl

protected theorem Canon.setCluster (h : Canon u s) {x} (hx : memWf (s.cluster p c).buf = true → memWf x.buf = true) :
    Canon u (s.setCluster p c x) := by
  refine h.setParcel ⟨fun hm => ?_, fun hm => hm⟩
  simp only [Parcel.memOk, Bool.and_eq_true] at hm ⊢
  exact ⟨hm.1, SMap.all_put hm.2 (hx (SMap.all_get (f := fun y : Cluster => memWf y.buf) hm.2 rfl))⟩

protected theorem Canon.updCluster (h : Canon u s) {f : Cluster → Cluster} (hf : Cluster.buf ∘ f = Cluster.buf) :
    Canon u (s.updCluster p c f) :=
  h.setCluster (congrArg (memWf · = true) (congrFun hf (s.cluster p c))).mpr

protected theorem Canon.updLink {q f} (h : Canon u s) : Canon u (s.updLink p q f) := h.updParcel rfl
protected theorem Canon.updMon {f} (h : Canon u s) : Canon u (s.updMon p f) := h.updParcel rfl
protected theorem Canon.updFab {f} (h : Canon u s) : Canon u (s.updFab p f) := h.updParcel rfl
protected theorem Canon.updPwr {f} (h : Canon u s) : Canon u (s.updPwr p f) := h.updParcel rfl
protected theorem Canon.updDatum {f} (h : Canon u s) : Canon u (s.updDatum f) := h.same rfl
protected theorem Canon.updDict {f} (h : Canon u s) : Canon u (s.updDict f) := h.same rfl
protected theorem Canon.updPkgPwr {f} (h : Canon u s) : Canon u (s.updPkgPwr f) := h.same rfl

protected theorem Canon.updHub {f : Hub → Hub} (h : Canon u s)
    (hf : (fun x => (f x).port.hostMem) = fun x => x.port.hostMem) : Canon u (s.updHub f) :=
  h.same (congrArg (s.parcels, ·) (congrFun hf s.hub))

protected theorem Canon.updPort {f : HostPort → HostPort} (h : Canon u s) (hf : HostPort.hostMem ∘ f = HostPort.hostMem) :
    Canon u (s.updPort f) :=
  h.same (congrArg (s.parcels, ·) (congrFun hf s.hub.port))

protected theorem Canon.ite {P : Prop} [Decidable P] {a b : State} (ha : Canon u a) (hb : Canon u b) : Canon u (if P
    then a else b) := by
  split <;> assumption

protected theorem Canon.foldl {α : Type} {f : State → α → State} (hf : ∀ {t x}, Canon u t → Canon u (f t x))
    {xs : List α} (h : Canon u s) :
    Canon u (xs.foldl f s) := by
  induction xs generalizing s with
  | nil => exact h
  | cons x xs ih => exact ih (hf h)

protected theorem Canon.forParcels {f : State → Nat → State} (hf : ∀ {t q}, Canon u t → Canon u (f t q)) (h : Canon u s) :
    Canon u (forParcels s f) := h.foldl hf

protected theorem Canon.forReaches {f : State → Nat → State} (hf : ∀ {t q}, Canon u t → Canon u (f t q)) (h : Canon u s) :
    Canon u (forReaches s f) := h.foldl hf

protected theorem Canon.setFree {n} (h : Canon u s) : Canon u { s with free := n } := h
protected theorem Canon.setUpsets {n} (h : Canon u s) : Canon u { s with upsets := n } := h

/-- A fold keeps what each of its steps keeps. -/
theorem foldl_keeps {α β : Type} {f : β → α → β} (P : β → Prop) (hf : ∀ {b a}, P b → P (f b a)) {b : β} {as : List α}
    (h : P b) :
    P (as.foldl f b) := by
  induction as generalizing b with
  | nil => exact h
  | cons a as ih => exact ih (hf h)

protected theorem Canon.updReachAt (h : Canon u s) {f : Reach → Reach} (hf : Reach.Canon (s.reach p l) (f (s.reach p l))) :
    Canon u (s.updReach p l f) := h.setReach hf

/-- A reach takes the pool `m`, and keeps its memories and its scalars. -/
theorem Reach.canon_pool {r r' : Reach} {m : SMap PoolEntry} (hm : SMap.sorted r.pool = true → SMap.sorted m = true)
    (he : r'.stores = (r.spad, r.imem, r.s, m)) : Reach.Canon r r' := by
  simp only [Reach.stores, Prod.mk.injEq] at he
  obtain ⟨hsp, hi, hs, hp⟩ := he
  simp only [Reach.Canon, Reach.memOk, Reach.registersOk, hsp, hi, hs, hp, imp_self, Bool.and_eq_true, true_and]
  exact fun h => ⟨h.1, hm h.2⟩

/-- What stands in canonical form in the reaches `xs` does so in `ys`. -/
def ReachesCanon (xs ys : SMap Reach) : Prop :=
  (xs.all (fun e => e.2.memOk) = true → ys.all (fun e => e.2.memOk) = true) ∧
  (xs.all (fun e => e.2.registersOk) = true → ys.all (fun e => e.2.registersOk) = true)

/-- The buffers of the clusters `ys` stand in canonical form where those of `xs` do. -/
def ClustersCanon (xs ys : SMap Cluster) : Prop :=
  xs.all (fun e => memWf e.2.buf) = true → ys.all (fun e => memWf e.2.buf) = true

theorem ReachesCanon.map {xs : SMap Reach} {f : Reach → Reach} (hf : ∀ r, Reach.Canon r (f r)) :
    ReachesCanon xs (xs.map (fun e => (e.1, f e.2))) := by
  simp only [ReachesCanon, List.all_map, List.all_eq_true]
  exact ⟨fun h e he => (hf e.2).1 (h e he), fun h e he => (hf e.2).2 (h e he)⟩

theorem ClustersCanon.map {xs : SMap Cluster} {f : Cluster → Cluster} (hf : ∀ c, memWf c.buf = true → memWf (f c).buf
    = true) :
    ClustersCanon xs (xs.map (fun e => (e.1, f e.2))) := by
  simp only [ClustersCanon, List.all_map, List.all_eq_true]
  exact fun h e he => hf e.2 (h e he)

theorem Parcel.canon_of {x y : Parcel} (hm : memWf x.mem = true → memWf y.mem = true) (hr : ReachesCanon x.reaches y.reaches)
    (hc : ClustersCanon x.clusters y.clusters) : Parcel.Canon x y := by
  refine ⟨fun h => ?_, fun h => hr.2 h⟩
  simp only [Parcel.memOk, Bool.and_eq_true] at h ⊢
  exact ⟨⟨hm h.1.1, hr.1 h.1.2⟩, hc h.2⟩

theorem Parcel.canon_reaches {x y : Parcel} {f : Reach → Reach} (hf : ∀ r, Reach.Canon r (f r))
    (he : y.stores = (x.mem, x.reaches.map (fun e => (e.1, f e.2)), x.clusters)) : Parcel.Canon x y := by
  simp only [Parcel.stores, Prod.mk.injEq] at he
  obtain ⟨h1, h2, h3⟩ := he
  exact Parcel.canon_of (h1 ▸ id) (h2 ▸ .map hf) (h3 ▸ id)

theorem Parcel.canon_clusters {x y : Parcel} {f : Cluster → Cluster} (hf : ∀ c, memWf c.buf = true → memWf (f c).buf = true)
    (he : y.stores = (x.mem, x.reaches, x.clusters.map (fun e => (e.1, f e.2)))) : Parcel.Canon x y := by
  simp only [Parcel.stores, Prod.mk.injEq] at he
  obtain ⟨h1, h2, h3⟩ := he
  exact Parcel.canon_of (h1 ▸ id) (h2 ▸ ⟨id, id⟩) (h3 ▸ .map hf)

/-- A parcel takes a memory, and keeps its reaches and its clusters. -/
theorem Parcel.canon_mem {x y : Parcel} {m : Mem} (hm : memWf x.mem = true → memWf m = true)
    (he : y.stores = (m, x.reaches, x.clusters)) : Parcel.Canon x y := by
  simp only [Parcel.stores, Prod.mk.injEq] at he
  obtain ⟨h1, h2, h3⟩ := he
  exact Parcel.canon_of (h1 ▸ hm) (h2 ▸ ⟨id, id⟩) (h3 ▸ id)

/-- A reach whose stores are empty. -/
theorem Reach.canon_new {r r' : Reach} (he : r'.stores = ([], [], [], [])) : Reach.Canon r r' := by
  simp only [Reach.stores, Prod.mk.injEq] at he
  obtain ⟨h1, h2, h3, h4⟩ := he
  simp only [Reach.Canon, Reach.memOk, Reach.registersOk, h1, h2, h3, h4]
  exact ⟨fun _ => rfl, fun _ => rfl⟩

/-- A reach takes two memories, and keeps its scalars and its pool. -/
theorem Reach.canon_mems {r r' : Reach} {m n : Mem} (hm : memWf r.spad = true → memWf m = true)
    (hn : memWf r.imem = true → memWf n = true) (he : r'.stores = (m, n, r.s, r.pool)) : Reach.Canon r r' := by
  simp only [Reach.stores, Prod.mk.injEq] at he
  obtain ⟨hsp, hi, hs, hp⟩ := he
  simp only [Reach.Canon, Reach.memOk, Reach.registersOk, hsp, hi, hs, hp, imp_self, Bool.and_eq_true, and_true]
  exact fun h => ⟨hm h.1, hn h.2⟩

/-- A reach takes the scalars `m`, and keeps its memories and its pool. -/
theorem Reach.canon_scalars {r r' : Reach} {m : SMap Word} (hm : SMap.sorted m = true)
    (he : r'.stores = (r.spad, r.imem, m, r.pool)) : Reach.Canon r r' := by
  simp only [Reach.stores, Prod.mk.injEq] at he
  obtain ⟨hsp, hi, hs, hp⟩ := he
  simp only [Reach.Canon, Reach.memOk, Reach.registersOk, hsp, hi, hs, hp, hm, imp_self, Bool.and_eq_true, true_and]
  exact fun h => h.2

/-- Every parcel is replaced by one that stands in canonical form where it did. -/
protected theorem Canon.mapParcels {f : Nat × Parcel → Parcel} (h : Canon u s) (hf : ∀ e, Parcel.Canon e.2 (f e))
    (he : t.stores = (s.parcels.map (fun e => (e.1, f e)), s.hub.port.hostMem)) : Canon u t := by
  obtain ⟨hp, hm⟩ := Prod.mk.inj he
  refine h.trans ?_
  simp only [Canon, State.memOk_iff, State.registersOk_iff, hp, hm, List.all_map, List.all_eq_true]
  exact ⟨fun hm => ⟨fun e hx => (hf e).1 (hm.1 e hx), hm.2⟩, fun hm e hx => (hf e).2 (hm e hx)⟩

end Sys2Proof.Machine
end

section
/-! SUPPORT. The canonical form. The state's operations and the issue of an instruction. -/

namespace Sys2Proof.Machine

variable {u s t : State}

/-! ### The operations of `Machine/Ops.lean` -/

protected theorem Canon.useFree (h : Canon u s) : Canon u (State.useFree s) := h.same (by rfl)
protected theorem Canon.raise {src code payload} (h : Canon u s) : Canon u (raise s src code payload) := h.same (by rfl)
protected theorem Canon.mark {b} (h : Canon u s) : Canon u (State.mark s b) := h.same (by rfl)

protected theorem Canon.msix {fn v} (h : Canon u s) : Canon u (msix s fn v) :=
  h.updPort (funext fun _ => by dsimp only [Function.comp]; split <;> [rfl; split <;> rfl])

protected theorem Canon.setInt {p n} (h : Canon u s) : Canon u (setInt s p n) := .ite h.updMon.mark.msix h.updMon.mark

protected theorem Canon.setHubInt {n} (h : Canon u s) : Canon u (setHubInt s n) :=
  .ite (h.updPort (by rfl)).mark.msix (h.updPort (by rfl)).mark

protected theorem Canon.bumpCnt {p l k n} (h : Canon u s) : Canon u (bumpCnt s p l k n) := .ite h (h.updReach (by rfl))

protected theorem Canon.bumpCcnt {p c k n} (h : Canon u s) : Canon u (bumpCcnt s p c k n) :=
  .ite h (h.updCluster (by rfl))

protected theorem Canon.bumpPcnt {p k n} (h : Canon u s) : Canon u (bumpPcnt s p k n) := .ite h h.updMon
protected theorem Canon.bumpBw {p k n} (h : Canon u s) : Canon u (bumpBw s p k n) := .ite h h.updMon

theorem Reach.canon_setScalar {r : Reach} {n v} : Reach.Canon r (r.setScalar n v) := by
  unfold Reach.setScalar
  split
  · exact ⟨id, id⟩
  refine ⟨id, fun h => ?_⟩
  simp only [Reach.registersOk, Bool.and_eq_true] at h ⊢
  exact ⟨SMap.sorted_store _ _ _ h.1, h.2⟩

protected theorem Canon.setScalar {p l n v} (h : Canon u s) : Canon u (setScalar s p l n v) :=
  h.updReachWith fun _ => Reach.canon_setScalar

protected theorem Canon.setCells {k m} (h : Canon u s) (hm : memWf (cells s k) = true → memWf m = true) :
    Canon u (setCells s k m) := by
  cases k with
  | sm p =>
    refine h.setParcel ⟨fun hx => ?_, id⟩
    simp only [Parcel.memOk, Bool.and_eq_true] at hx ⊢
    exact ⟨⟨hm hx.1.1, hx.1.2⟩, hx.2⟩
  | cb p c => exact h.setCluster hm
  | sp p l =>
    refine h.setReach ⟨fun hx => ?_, id⟩
    simp only [Reach.memOk, Bool.and_eq_true] at hx ⊢
    exact ⟨hm hx.1, hx.2⟩
  | imem p l =>
    refine h.setReach ⟨fun hx => ?_, id⟩
    simp only [Reach.memOk, Bool.and_eq_true] at hx ⊢
    exact ⟨hx.1, hm hx.2⟩

protected theorem Canon.setPoisoned {k m} (h : Canon u s) : Canon u (setPoisoned s k m) := by
  cases k <;> first | exact (h.updParcel (by rfl)) | exact (h.updCluster (by rfl)) | exact h.updReach (by rfl)

protected theorem Canon.writeCells {k ws} (h : Canon u s) : Canon u (writeCells s k ws).1 :=
  .same (.ite (h.setCells (memWf_foldl _)) (h.setCells (memWf_foldl _)).setPoisoned) (by rfl)

protected theorem Canon.raiseUe {k unit requester} (h : Canon u s) : Canon u (raiseUe s k unit requester) := h.raise

protected theorem Canon.countUe {k} (h : Canon u s) : Canon u (countUe s k) := by
  unfold countUe
  split
  · exact h.updMon
  · exact h

protected theorem Canon.poisonUnit {k unit requester} (h : Canon u s) : Canon u (poisonUnit s k unit requester) :=
  .ite h h.setPoisoned.countUe.raiseUe

protected theorem Canon.smCorrected {p sector symbol source} (h : Canon u s) :
    Canon u (smCorrected s p sector symbol source) :=
  h.updMon.raise

protected theorem Canon.smMeet {k requester as} (h : Canon u s) : Canon u (smMeet s k requester as) := by
  unfold smMeet
  split
  · exact (h.same (by rfl)).foldl .smCorrected
  · exact h

protected theorem Canon.plant {e} (h : Canon u s) : Canon u (plant s e) := by
  have key : Canon u (match e.site, e.wrong with
      | .cells (.sm p), some bs => setCells s (.sm p) ((cellsOf (e.unit * 64) (bs.take 64)).foldl (fun m c => memSet
        m c.1 c.2)
        (cells s (.sm p)))
      | _, _ => s) := by
    split
    · exact h.setCells (memWf_foldl _)
    · exact h
  exact .ite key (key.same (by rfl))

protected theorem Canon.plantIn {k a n err} (h : Canon u s) : Canon u (plantIn s k a n err) := by
  unfold plantIn
  dsimp only
  split
  · exact h
  · exact .ite h.plant h
  · exact .ite h.plant h
  · exact .ite h.plant h

protected theorem Canon.smCount {k write as} (h : Canon u s) : Canon u (smCount s k write as) := by
  unfold smCount
  split
  · exact h.bumpPcnt.bumpBw.updMon
  · exact h

protected theorem Canon.snooped {p n} (h : Canon u s) : Canon u (snooped s p n) :=
  (h.updPort (by rfl)).bumpPcnt.bumpPcnt

protected theorem Canon.backInvalidate {k as} (h : Canon u s) : Canon u (backInvalidate s k as) := by
  unfold backInvalidate
  split
  · exact .ite h (h.updPort (by rfl)).snooped
  · exact h

protected theorem Canon.devWrite {k requester ws} (h : Canon u s) : Canon u (devWrite s k requester ws) :=
  h.backInvalidate.smCount.writeCells.foldl .raiseUe

protected theorem Canon.devReadAt {k requester as} (h : Canon u s) : Canon u (devReadAt s k requester as) :=
  h.backInvalidate.smCount.smMeet

protected theorem Canon.devRead {k requester a n} (h : Canon u s) : Canon u (devRead s k requester a n) := h.devReadAt

protected theorem Canon.postWrite {k writer u' ws} (h : Canon u s) : Canon u (postWrite s k writer u' ws) := by
  unfold postWrite
  split
  · exact .ite h (h.same (by rfl))
  · exact h.devWrite

protected theorem Canon.drainIf {sel} (h : Canon u s) : Canon u (drainIf s sel) := (h.same (by rfl)).foldl .devWrite
protected theorem Canon.drainOf {writer} (h : Canon u s) : Canon u (drainOf s writer) := h.drainIf
protected theorem Canon.fencePosted {writer} (h : Canon u s) : Canon u (fencePosted s writer) := h.same (by rfl)
protected theorem Canon.drainFenced {p l wr} (h : Canon u s) : Canon u (drainFenced s p l wr) := .ite h h.drainIf

protected theorem Canon.withdrawHead {p l} (h : Canon u s) : Canon u (withdrawHead s p l) := by
  unfold withdrawHead
  dsimp only
  refine .updTask ?_
  split
  · exact h.updCluster (by rfl)
  · exact h.updParcel (by rfl)
  · exact h

protected theorem Canon.finishStop {p l} (h : Canon u s) : Canon u (finishStop s p l) :=
  .ite (.ite (.setInt (.drainOf (.ite (.mark (.ite h.updTask.mark h.updTask)) (.ite h.updTask.mark h.updTask))))
    (.drainOf (.ite (.mark (.ite h.updTask.mark h.updTask)) (.ite h.updTask.mark h.updTask)))) h

protected theorem Canon.stopTask {p l no code reason faultPc} (h : Canon u s) :
    Canon u (stopTask s p l no code reason faultPc) :=
  h.withdrawHead.updTask.finishStop

/-! ### The operations of `Machine/Issue.lean` -/

protected theorem Canon.raiseSat {p l pc profNo guard out} (h : Canon u s) :
    Canon u (raiseSat s p l pc profNo guard out) := by
  unfold raiseSat
  cases guard <;> cases out
  · exact h
  · exact h.raise
  · exact h.raise
  · exact h.raise.raise

protected theorem Canon.sampleEnd {p l j status tag} (h : Canon u s) : Canon u (sampleEnd s p l j status tag) := by
  unfold sampleEnd
  split
  · exact h
  · exact h.updMon

protected theorem Canon.advance {p l j addr next} (h : Canon u s) : Canon u (advance s p l j addr next).1 :=
  h.updTask.bumpCnt

protected theorem Canon.fetchCheck {p l} (h : Canon u s) : Canon u (fetchCheck s p l) := .ite h.raise.stopTask h
protected theorem Canon.writeStatus {p l j status} (h : Canon u s) : Canon u (writeStatus s p l j status) := h.setScalar

protected theorem Canon.headDoneAt {p l j status next} (h : Canon u s) : Canon u (headDoneAt s p l j status next) :=
  (h.advance (p := p) (l := l) (j := j) (addr := 0) (next := next)).writeStatus.sampleEnd.fetchCheck

protected theorem Canon.headDone {p l j status} (h : Canon u s) : Canon u (headDone s p l j status) := h.headDoneAt
protected theorem Canon.failIssue {p l j f} (h : Canon u s) : Canon u (failIssue s p l j f) := h.raise.stopTask
protected theorem Canon.updFlight {p l no f} (h : Canon u s) : Canon u (updFlight s p l no f) := h.updReach (by rfl)

protected theorem Canon.enterUnit {p l j pl w} (h : Canon u s) : Canon u (enterUnit s p l j pl w).1 :=
  (h.advance (p := p) (l := l) (j := j) (addr := pl.addr) (next := j.pc.toNat + 16)).updReach (by rfl)

protected theorem Canon.lateFaultFrom {src p l no j f} (h : Canon u s) : Canon u (lateFaultFrom s src p l no j f) :=
  h.raise.updFlight.stopTask

protected theorem Canon.lateFault {p l no j f} (h : Canon u s) : Canon u (lateFault s p l no j f) := h.lateFaultFrom
protected theorem Canon.stopRun {p l} (h : Canon u s) : Canon u (stopRun s p l) := h.withdrawHead.updTask
protected theorem Canon.failingStop {p l} (h : Canon u s) : Canon u (failingStop s p l) := h.stopRun.updTask.finishStop

protected theorem Canon.markFailing {p l hard} (h : Canon u s) : Canon u (markFailing s p l hard) :=
  .ite h (.ite h.updTask h.updTask.failingStop)

protected theorem Canon.reachCe {p l addr symbol requester} (h : Canon u s) :
    Canon u (reachCe s p l addr symbol requester) :=
  .ite h.raise.updTask.markFailing h.raise.updTask

protected theorem Canon.correctedAt {u' requester} (h : Canon u s) : Canon u (correctedAt s u' requester) := by
  unfold correctedAt
  split
  · exact h.smCorrected
  · exact h.raise
  · exact h.reachCe
  · exact h.reachCe
  · exact h.reachCe

protected theorem Canon.noteHard {u'} (h : Canon u s) : Canon u (noteHard s u') := by
  unfold noteHard
  dsimp only
  split
  · exact h
  split
  · exact h
  · exact h.updCluster (by rfl)
  · exact h.updTask
  · exact h.updTask
  · exact h.updTask

protected theorem Canon.hardFound {u'} (h : Canon u s) : Canon u (hardFound s u') := by
  unfold hardFound
  split
  · exact h
  split
  · exact h
  · exact h.noteHard
  · exact h.markFailing
  · exact h.markFailing
  · exact h.markFailing

protected theorem Canon.dropUpset {u'} (h : Canon u s) : Canon u (State.dropUpset s u') := h.same (by rfl)

protected theorem Canon.meet {requester u'} (h : Canon u s) : Canon u (meet requester s u') := by
  unfold meet
  split
  · exact h.dropUpset.correctedAt
  split
  · exact h.dropUpset.setPoisoned
  · exact h.dropUpset.noteHard.updReach (by rfl)

protected theorem Canon.settle {k a n requester} (h : Canon u s) : Canon u (settle s k a n requester) :=
  h.foldl (fun h => .ite h.dropUpset.hardFound.poisonUnit h.dropUpset.correctedAt)

protected theorem Canon.fetchMeet {p l} (h : Canon u s) : Canon u (fetchMeet s p l) :=
  h.foldl (fun h => h.meet.noteHard)

protected theorem Canon.meetWords {p l j pl} (h : Canon u s) : Canon u (meetWords s p l j pl) := h.foldl .meet

protected theorem Canon.clearWords {p l pl} (h : Canon u s) : Canon u (clearWords s p l pl) :=
  .ite h (h.updReach (by rfl))

protected theorem Canon.unmeet {u'} (h : Canon u s) : Canon u (unmeet s u') := by
  unfold unmeet
  split
  · exact .ite (h.setPoisoned.same (by rfl)) h
  · exact h

protected theorem Canon.startRun {run : State → Job → Nat → State} {p l j no rd} (hr : ∀ {t j n}, Canon u t → Canon u
    (run t j n))
    (h : Canon u s) : Canon u (startRun run s p l j no rd) := by
  unfold startRun
  split
  · exact hr h
  · have h1 := hr (j := j) (n := no) (h.foldl (f := meet (srcReach p l)) .meet (xs := s.upsets.filter (mayRead p l
      j.word rd)))
    dsimp only
    split
    · refine h1.foldl fun {_ x} h => .noteHard ?_
      cases x.site with
      | cells k => exact h.countUe
      | words => exact h
    · exact h1.foldl .unmeet

/-- What runs in a unit may be anything that keeps the canonical form: so does its issue. -/
protected theorem Canon.issueUnit {p l sel plan} {run : State → Job → Nat → State} (h : Canon u s)
    (hr : ∀ {t j n}, Canon u t → Canon u (run t j n)) : Canon u (issueUnit s p l sel plan run) := by
  have hm : Canon u (meetWords (fetchMeet s p l) p l (headJob s p l) (plan (headJob s p l))) := h.fetchMeet.meetWords
  unfold issueUnit
  dsimp only
  split
  · exact h
  split
  · exact h
  split
  · exact hm.failIssue
  split
  · exact hm
  split
  · exact hm.enterUnit.fetchCheck
  split
  · exact hm.enterUnit.fetchCheck
  split
  · exact hm.enterUnit.lateFault.fetchCheck
  · exact (hm.enterUnit.startRun hr).clearWords.drainFenced.fetchCheck

protected theorem Canon.issueSeq {p l sel plan} {act : State → Job → State} (h : Canon u s)
    (ha : ∀ {t j}, Canon u t → Canon u (act t j)) : Canon u (issueSeq s p l sel plan act) := by
  have hm : Canon u (meetWords (fetchMeet s p l) p l (headJob s p l) (plan (headJob s p l))) := h.fetchMeet.meetWords
  unfold issueSeq
  dsimp only
  split
  · exact h
  split
  · exact h
  split
  · exact hm.failIssue
  · exact .ite hm (ha hm)

protected theorem Canon.retire {p l f} (h : Canon u s) : Canon u (retire s p l f) :=
  (h.updReach (by rfl)).writeStatus.raiseSat.sampleEnd

protected theorem Canon.endDrain {p l} (h : Canon u s) : Canon u (endDrain s p l) := .ite h.updTask h

protected theorem Canon.fenceEffect {p l j} (h : Canon u s) : Canon u (fenceEffect s p l j) :=
  .ite h.fencePosted (.ite h.drainOf h)

protected theorem Canon.wakeHead {p l} (h : Canon u s) : Canon u (wakeHead s p l) := by
  unfold wakeHead
  dsimp only
  split
  · exact h.endDrain.fenceEffect.retire.updTask.endDrain.finishStop
  split
  · exact h.endDrain.finishStop
  split
  · exact h.endDrain.headDone
  · exact h.endDrain.updTask
  · exact h.endDrain

end Sys2Proof.Machine
end

section
/-! SUPPORT. The canonical form. What runs in the units and in the fabric. -/

namespace Sys2Proof.Machine

variable {u s t : State}

/-! ### The operations of `Machine/Array.lean` -/

theorem sorted_fillSlot {pool : SMap PoolEntry} {paired slot v} (h : SMap.sorted pool = true) :
    SMap.sorted (fillSlot pool paired slot v) = true := by
  unfold fillSlot
  exact foldl_keeps (SMap.sorted · = true) (sorted_poolSet _ _ _ _ _) h

theorem sorted_poolAdd {paired slot idx i v} {st : SMap PoolEntry × Option SatRec} (h : SMap.sorted st.1 = true) :
    SMap.sorted (poolAdd paired slot idx st i v).1 = true := sorted_poolSet _ _ _ _ _ h

section
variable {c : MatCtx} {slot : Nat} {x : MatRun} {v : Visit}

theorem MatCtx.sorted_init (h : SMap.sorted x.pool = true) : SMap.sorted (c.init slot x).pool = true := by
  unfold MatCtx.init
  split
  · dsimp only
    exact sorted_fillSlot h
  · exact h

theorem MatCtx.enter_pool {st : MatRun × TileRun} {e dry} : (c.enter st e dry).1.pool = st.1.pool := by
  unfold MatCtx.enter
  split
  · rfl
  · split <;> rfl

theorem MatCtx.sliceMajor_pool {rows cols} : (c.sliceMajor rows cols x).1.pool = x.pool := by
  refine foldl_keeps (fun st : MatRun × TileRun => st.1.pool = x.pool) (fun {st e} hst => ?_) rfl
  have he : (c.enter st e true).1.pool = x.pool := enter_pool.trans hst
  dsimp only
  split
  · exact he
  · exact (MatRun.clock_pool ..).trans he

theorem MatCtx.significanceMajor_pool {rows cols} : (c.significanceMajor rows cols x).1.pool = x.pool := by
  refine (MatRun.clock_pool ..).trans (foldl_keeps (fun st : MatRun × TileRun => st.1.pool = x.pool) (fun {_ pr} hst =>
    foldl_keeps (fun st : MatRun × TileRun => st.1.pool = x.pool) (fun {st e} hst => ?_) hst) rfl)
  have he : (if pr.2 = 0 then c.enter st e false else st).1.pool = x.pool := by
    split
    · exact enter_pool.trans hst
    · exact hst
  dsimp only
  generalize (if pr.2 = 0 then c.enter st e false else st) = a at he
  split <;> exact he

theorem MatCtx.sorted_wholeTile (h : SMap.sorted x.pool = true) : SMap.sorted (c.wholeTile slot v x).pool = true := by
  have hy : SMap.sorted (if c.q.tileOrder then c.significanceMajor (c.rows v) (c.cols v) x
      else c.sliceMajor (c.rows v) (c.cols v) x).1.pool = true := by
    split
    · rwa [significanceMajor_pool]
    · rwa [sliceMajor_pool]
  unfold MatCtx.wholeTile
  dsimp only
  generalize (if c.q.tileOrder then c.significanceMajor (c.rows v) (c.cols v) x else c.sliceMajor (c.rows v) (c.cols
    v) x) = y at hy
  split
  · exact hy
  dsimp only
  exact foldl_keeps (SMap.sorted · = true) (sorted_poolSet _ _ _ _ _) (sorted_init hy)

theorem MatCtx.sorted_roots (h : SMap.sorted x.pool = true) : SMap.sorted (c.roots slot x).pool = true := by
  unfold MatCtx.roots
  refine foldl_keeps (b := (x.pool, [])) (fun st : SMap PoolEntry × List (Nat × Nat × Bool) => SMap.sorted st.1 =
    true) (fun hst => ?_) h
  dsimp only
  split
  · exact hst
  · exact sorted_poolSet _ _ _ _ _ hst

theorem MatCtx.sorted_finish {ran} (h : SMap.sorted x.pool = true) :
    SMap.sorted (c.finish slot ran v x).pool = true := by
  unfold MatCtx.finish
  split
  · exact sorted_init h
  split
  · exact sorted_wholeTile h
  split
  · exact sorted_roots (sorted_init h)
  · exact sorted_init h

theorem MatCtx.sorted_begin {ran} (h : SMap.sorted x.pool = true) : SMap.sorted (c.begin slot ran x).pool = true := by
  unfold MatCtx.begin
  dsimp only
  split
  · exact h
  · exact sorted_init h

theorem MatCtx.sorted_chunk {ch lo hi A W dry} (h : SMap.sorted x.pool = true) :
    SMap.sorted (c.chunk v slot ch lo hi A W dry x).pool = true := by
  have hx : SMap.sorted (if c.q.dziro then x else c.init slot x.before).pool = true := by
    split
    · exact h
    · exact sorted_init h
  unfold MatCtx.chunk
  dsimp only
  generalize (if c.q.dziro then x else c.init slot x.before) = y at hx
  split
  · exact hx
  · exact foldl_keeps (b := (y.pool, y.guard)) (fun st : SMap PoolEntry × Option SatRec => SMap.sorted st.1 = true)
      (foldl_keeps (fun st : SMap PoolEntry × Option SatRec => SMap.sorted st.1 = true) sorted_poolAdd) hx

theorem MatCtx.sorted_chunks {s : State} {d} (h : SMap.sorted x.pool = true) :
    SMap.sorted (c.chunks s v slot d x).pool = true := by
  unfold MatCtx.chunks
  dsimp only
  rw [apply_ite MatRun.pool, MatRun.clock_pool, ite_self]
  refine foldl_keeps (b := (x, 0, 0)) (fun st : MatRun × Nat × Nat => SMap.sorted st.1.pool = true) (fun hst => ?_) h
  split
  · exact hst
  split
  · exact hst
  · exact sorted_chunk hst

theorem MatCtx.sorted_visit {s : State} (h : SMap.sorted x.pool = true) : SMap.sorted (c.visit s x v).pool = true := by
  have hx {ran} : SMap.sorted (if v.k = 0 then c.begin (c.slot + c.tileNo v) ran x else x).pool = true := by
    split
    · exact sorted_begin h
    · exact h
  have hend {y : MatRun} {P : Prop} [Decidable P] {ran} (hy : SMap.sorted y.pool = true) :
      SMap.sorted (if P then c.finish (c.slot + c.tileNo v) ran v y else y).pool = true := by
    split
    · exact sorted_finish hy
    · exact hy
  unfold MatCtx.visit
  dsimp only
  split
  · exact h
  refine hend ?_
  split
  · exact hx
  split
  · exact hx
  · exact sorted_chunks hx

end

theorem sorted_matRun {s : State} {p l j no} (h : SMap.sorted (s.reach p l).pool = true) :
    SMap.sorted (matRun s p l j no).pool = true :=
  foldl_keeps (fun x : MatRun => SMap.sorted x.pool = true) MatCtx.sorted_visit h

protected theorem Canon.runMatb {p l j no} (h : Canon u s) : Canon u (runMatb p l s j no) := by
  unfold runMatb
  dsimp only
  split
  · exact (h.updReachAt (Reach.canon_pool sorted_matRun (by
      rfl))).bumpCnt.bumpCnt.bumpCnt.bumpCnt.setFree.updFlight.lateFault
  · exact (h.updReachAt (Reach.canon_pool sorted_matRun (by rfl))).bumpCnt.bumpCnt.bumpCnt.bumpCnt.setFree.updFlight

/-! ### The operations of `Machine/Fabric.lean` -/

protected theorem Canon.countHop {p minus n} (h : Canon u s) : Canon u (countHop s p minus n) :=
  h.bumpPcnt.bumpBw.bumpBw

protected theorem Canon.countHops {minus n k p} (h : Canon u s) : Canon u (countHops minus n k s p) := by
  induction k generalizing s p with
  | zero => exact h
  | succ k ih => exact ih h.countHop

protected theorem Canon.countRing {p q n} (h : Canon u s) : Canon u (countRing s p q n) := by
  unfold countRing
  split
  · exact h
  · exact h.countHops

protected theorem Canon.queuePacket {p q vc k} (h : Canon u s) : Canon u (queuePacket s p q vc k) :=
  .ite h.updLink h.bumpPcnt

protected theorem Canon.forwardPacket {p leg k} (h : Canon u s) : Canon u (forwardPacket s p leg k) := by
  unfold forwardPacket
  split
  · exact h
  · exact h.queuePacket

protected theorem Canon.findRoute {p dst} (h : Canon u s) : Canon u (findRoute s p dst).1 := by
  unfold findRoute
  dsimp only
  split
  · exact h
  split
  · exact h
  · exact .ite h.updFab h

protected theorem Canon.sendPacket {p k} (h : Canon u s) : Canon u (sendPacket s p k).1 := by
  have hr : Canon u (findRoute s p k.dst.toNat).1 := h.findRoute
  unfold sendPacket
  dsimp only
  split
  · exact h.updFab
  split
  · next e => rw [e] at hr; exact hr
  · next e => rw [e] at hr; exact hr.forwardPacket

protected theorem Canon.takeId {p} (h : Canon u s) : Canon u (takeId s p).1 := h.updFab
protected theorem Canon.countChan {p c lo n} (h : Canon u s) : Canon u (countChan s p c lo n) := h.updFab
protected theorem Canon.countDelivered {p c} (h : Canon u s) : Canon u (countDelivered s p c) := h.countChan
protected theorem Canon.countRefused {p c} (h : Canon u s) : Canon u (countRefused s p c) := h.countChan
protected theorem Canon.countLost {p c} (h : Canon u s) : Canon u (countLost s p c) := h.countChan

protected theorem Canon.sendMessage {p l no c off bytes} (h : Canon u s) :
    Canon u (sendMessage s p l no c off bytes) := by
  unfold sendMessage
  dsimp only
  split
  · exact h.countRefused
  split
  · next e => exact (e ▸ (h.takeId (p := p)).sendPacket).countLost
  · next e => exact (e ▸ (h.takeId (p := p)).sendPacket).updFab.bumpPcnt

/-! ### The operations of `Machine/Move.lean` -/

protected theorem Canon.refuseMove {p l no j q opnd lo hi} (h : Canon u s) :
    Canon u (refuseMove s p l no j q opnd lo hi) :=
  h.raise.updFlight

protected theorem Canon.countMove {p l parcelDma viaCb halo src dst n} (h : Canon u s) :
    Canon u (countMove s p l parcelDma viaCb halo src dst n) := by
  have h1 : Canon u (if parcelDma then bumpBw (if viaCb then bumpCcnt s p (clusterOf l) 0 n else s) p 20 n else
    bumpCnt s p l 15 n) :=
    .ite (.bumpBw (.ite h.bumpCcnt h)) h.bumpCnt
  have h2 : Canon u (if halo then bumpCcnt (if parcelDma then bumpBw (if viaCb then bumpCcnt s p (clusterOf l) 0 n
    else s) p 20 n else bumpCnt s p l 15 n)
    p (clusterOf l) 8 n else _) := .ite h1.bumpCcnt h1
  cases src with
  | none => cases dst with
    | none => exact h2
    | some q => exact .ite h2 h2.countRing
  | some q =>
    have h3 := Canon.ite (P := q = p) h2 (h2.countRing (p := q) (q := p) (n := n))
    cases dst with
    | none => exact h3
    | some q' => exact .ite h3 h3.countRing

protected theorem Canon.noteUndo {p l no u' ws} (h : Canon u s) : Canon u (noteUndo s p l no u' ws) := h.updFlight

protected theorem Canon.finishMove {p l no j src dst parcelDma x} (h : Canon u s) :
    Canon u (finishMove s p l no j src dst parcelDma x) := by
  unfold finishMove
  dsimp only
  split
  · exact h.noteUndo.devReadAt.postWrite.countMove.lateFault
  · exact h.noteUndo.devReadAt.postWrite.countMove

protected theorem Canon.runDense {p l j no} (h : Canon u s) : Canon u (runDense p l s j no) := by
  unfold runDense
  split
  · exact h
  split
  · exact h.refuseMove
  · exact h.finishMove

protected theorem Canon.issueMove {p l f} {run : State → Job → Nat → State} (h : Canon u s)
    (hr : ∀ {t j n}, Canon u t → Canon u (run t j n)) : Canon u (issueMove s p l f run) := h.issueUnit hr

protected theorem Canon.runMessage {p l j no} (h : Canon u s) : Canon u (runMessage p l s j no) := by
  unfold runMessage
  split
  · exact h
  split
  · exact h.refuseMove
  dsimp only
  split
  · exact h.devReadAt.lateFault
  · exact h.devReadAt.sendMessage

protected theorem Canon.startMessage {p l j no} (h : Canon u s) : Canon u (startMessage p l s j no) :=
  .ite h.updFlight h.runMessage

protected theorem Canon.resumeMessage {p l} (h : Canon u s) : Canon u (resumeMessage s p l) := by
  unfold resumeMessage
  split
  · exact h
  · exact .ite h h.updFlight.runMessage

/-! ### The operations of `Machine/Compress.lean` -/

protected theorem Canon.finishComp {p l no j x} (h : Canon u s) : Canon u (finishComp s p l no j x) := by
  unfold finishComp
  dsimp only
  split
  · exact h.noteUndo.devReadAt.postWrite.devWrite.countMove.lateFaultFrom
  · exact h.noteUndo.devReadAt.postWrite.devWrite.countMove

protected theorem Canon.runComp {p l j no go} (h : Canon u s) : Canon u (runComp p l s j no go) := by
  unfold runComp
  split
  · exact h
  split
  · exact h.refuseMove
  · exact h.finishComp

protected theorem Canon.runExpand {p l j no} (h : Canon u s) : Canon u (runExpand p l s j no) := h.runComp
protected theorem Canon.runStore {mk p l j no} (h : Canon u s) : Canon u (runStore mk p l s j no) := h.runComp

protected theorem Canon.runPoolSave {p l j no} (h : Canon u s) : Canon u (runPoolSave p l s j no) := by
  unfold runPoolSave
  split
  · exact h.refuseMove
  · exact h.finishMove

theorem sorted_poolOf {tags k n bs} : SMap.sorted (poolOf tags k n bs) = true ∧ ∀ e ∈ poolOf tags k n bs, n ≤ e.1 := by
  simp only [SMap.sorted_iff_pairwise]
  induction k generalizing n bs with
  | zero => simp [poolOf]
  | succ k ih =>
    obtain ⟨hs, hn⟩ := @ih (n + 1) (bs.drop 8)
    unfold poolOf
    dsimp only
    split
    · exact ⟨hs, fun e he => Nat.le_of_succ_le (hn e he)⟩
    refine ⟨List.pairwise_cons.mpr ⟨hn, hs⟩, fun e he => ?_⟩
    rcases List.mem_cons.mp he with rfl | he
    · exact Nat.le_refl _
    · exact Nat.le_of_succ_le (hn e he)

theorem restorePool_sorted {r r' : Reach} {bs} (h : restorePool r bs = some r') : SMap.sorted r'.pool = true := by
  rw [restorePool, Option.ite_none_right_eq_some] at h
  rw [← Option.some.inj h.2]
  exact sorted_poolOf.1

protected theorem Canon.runPoolRestore {p l j no} (h : Canon u s) : Canon u (runPoolRestore p l s j no) := by
  unfold runPoolRestore
  split
  · exact h.refuseMove
  dsimp only
  split
  · exact h.lateFault
  split
  · exact h.devReadAt.lateFault
  · next e => exact (h.devReadAt.updReachWith fun _ => Reach.canon_pool (fun _ => restorePool_sorted e) (by rfl)).updFlight

/-! ### The operations of `Machine/Gather.lean` -/

protected theorem Canon.runIndexed {p l j no} (h : Canon u s) : Canon u (runIndexed p l s j no) := h.finishMove

protected theorem Canon.runList {p l j no} (h : Canon u s) : Canon u (runList p l s j no) := by
  unfold runList
  extract_lets n d stop x loc s1 s2 s3 moved s4 s5 s6
  have h3 : Canon u s3 := (h.noteUndo.devReadAt.foldl .devReadAt).devWrite.foldl .postWrite
  have h6 : Canon u s6 := (h3.countMove.foldl fun h => .ite h h.countRing).foldl fun h => .ite h h.countRing
  clear_value s6
  split
  · exact h6.lateFault
  split
  · exact h6.lateFaultFrom
  · exact h6.refuseMove
  · exact h6

protected theorem Canon.runGath {p l j no} (h : Canon u s) : Canon u (runGath p l s j no) :=
  .ite h (.ite h.runList h.runIndexed)

/-! ### The operations of `Machine/Cascade.lean` -/

protected theorem Canon.addSum {p x} (h : Canon u s) : Canon u (addSum s p x) := h.updParcel (by rfl)

protected theorem Canon.sendTile {p q tag paired vals} (h : Canon u s) : Canon u (sendTile s p q tag paired vals) :=
  h.queuePacket

protected theorem Canon.deliverSum {p l paired slot vals} (h : Canon u s) :
    Canon u (deliverSum s p l paired slot vals) :=
  h.updReachWith fun _ => Reach.canon_pool (foldl_keeps (SMap.sorted · = true) (sorted_poolSet _ _ _ _ _)) (by rfl)

protected theorem Canon.passSum {p l no j vals hop} (h : Canon u s) : Canon u (passSum s p l no j vals hop) := by
  unfold passSum
  dsimp only
  split
  · exact .ite h.addSum.bumpCcnt h.addSum
  split
  · exact h.deliverSum
  split
  · exact .ite h.countRing.addSum h
  split
  · exact h
  · exact .ite h.updLink.sendTile h.updFlight.addSum

protected theorem Canon.runCasc {p l j no} (h : Canon u s) : Canon u (runCasc p l s j no) := by
  unfold runCasc
  split
  · exact h.passSum
  split
  · split
    · exact h.updFlight.updLink
    · exact h.updFlight
  · exact h.updFlight

protected theorem Canon.cascadeHop {p l} (h : Canon u s) : Canon u (cascadeHop s p l) := by
  unfold cascadeHop
  split
  · exact h
  split
  · exact h
  · exact .ite (h.updParcel (by rfl)).updFlight.lateFault (h.updParcel (by rfl)).updFlight.updFlight.passSum

protected theorem Canon.breakCasc {p l f} (h : Canon u s) : Canon u (breakCasc s p l f) :=
  .ite h.updFlight.addSum (.ite (.ite h.updFlight.addSum h.updFlight) h.updFlight)

protected theorem Canon.cascadeBroken {p l} (h : Canon u s) : Canon u (cascadeBroken s p l) := by
  unfold cascadeBroken
  split
  · exact h
  · exact .ite h.raise.breakCasc (.ite (h.updParcel (by rfl)).breakCasc (.ite h.breakCasc h))

protected theorem Canon.breakCascades {p q reason} (h : Canon u s) : Canon u (breakCascades s p q reason) :=
  h.updLink.forReaches (fun h => by
      split
      · exact h
      · exact .ite (h.raise.updParcel (by rfl)).breakCasc (h.raise.updFlight.updParcel (by rfl)))

protected theorem Canon.readyToken {p q tag} (h : Canon u s) : Canon u (readyToken s p q tag) := by
  unfold readyToken
  split
  · exact h.updLink
  split
  · exact h
  · exact (h.updParcel (by rfl)).updFlight.sendTile

/-! ### The operations of `Machine/Rating.lean` -/

theorem Cluster.setBank_buf {x : Cluster} {g b} : (x.setBank g b).buf = x.buf := by
  unfold Cluster.setBank
  split <;> rfl

protected theorem Canon.runBuild {p l g j no} (h : Canon u s) : Canon u (runBuild p l g s j no) := by
  have h1 := fun b => (h.bumpCcnt (p := p) (c := clusterOf l) (k := 2) (n := 1)).updCluster (p := p) (c := clusterOf
    l) (f := fun x => x.setBank g b)
    (funext fun _ => Cluster.setBank_buf)
  unfold runBuild
  dsimp only
  split
  · exact (h1 _).lateFault
  · exact h1 _

protected theorem Canon.issueBuild {p l j no} (h : Canon u s) : Canon u (issueBuild p l s j no) :=
  .ite (h.updCluster (by rfl)).setScalar.updFlight.runBuild (h.updCluster (by rfl)).setScalar.updFlight.updFlight

theorem sorted_lookChunk {s : State} {p l j b vs} {x : LookRun} {g} (h : SMap.sorted x.pool = true) :
    SMap.sorted (lookChunk s p l j b vs x g).pool = true := by
  unfold lookChunk
  split
  · exact h
  dsimp only
  split
  · exact h
  · exact foldl_keeps (b := (x.pool, x.guard)) (fun st : SMap PoolEntry × Option SatRec => SMap.sorted st.1 = true)
      sorted_poolAdd h

protected theorem Canon.runLook {p l j no} (h : Canon u s) : Canon u (runLook p l s j no) := by
  have hp {acc : Prop} [Decidable acc] {slot} (hs : SMap.sorted (s.reach p l).pool = true) :
      SMap.sorted (if acc then (s.reach p l).pool else fillSlot (s.reach p l).pool false slot 0) = true := by
    split
    · exact hs
    · exact sorted_fillSlot hs
  have hx {b vs} {x : LookRun} {gs : List Nat} (hs : SMap.sorted x.pool = true) :
      SMap.sorted (gs.foldl (lookChunk s p l j b vs) x).pool = true :=
    foldl_keeps (fun x : LookRun => SMap.sorted x.pool = true) sorted_lookChunk hs
  unfold runLook
  dsimp only
  split
  · exact (h.updReachAt (Reach.canon_pool (fun hs => hx (hp hs)) (by rfl))).bumpCcnt.bumpCcnt.updFlight.lateFault
  · exact (h.updReachAt (Reach.canon_pool (fun hs => hx (hp hs)) (by rfl))).bumpCcnt.bumpCcnt.updFlight

protected theorem Canon.issueLook {p l} (h : Canon u s) : Canon u (issueLook s p l) :=
  .ite h.updTask (h.issueUnit .runLook)

protected theorem Canon.buildDone {p l f} (h : Canon u s) : Canon u (buildDone s p l f) := by
  unfold buildDone
  split
  · exact .ite (h.updCluster (funext fun _ => Cluster.setBank_buf)) h
  · exact h

protected theorem Canon.riflStep {p l j} {x : RiflRun} {i} (h : Canon u x.s) : Canon u (riflStep p l j x i).s := by
  unfold riflStep
  split
  · exact h
  dsimp only
  split
  · exact h
  · exact h.bumpCcnt.devWrite

protected theorem Canon.runRifl {p l j no} (h : Canon u s) : Canon u (runRifl p l s j no) := by
  have hx : Canon u ((List.range (j.sv 34)).foldl (riflStep p l j) { s := s }).s :=
    foldl_keeps (fun x : RiflRun => Canon u x.s) .riflStep h
  unfold runRifl
  dsimp only
  split
  · exact (Canon.setFree hx).updFlight.lateFault
  · exact (Canon.setFree hx).updFlight

/-! ### The operations of `Machine/Delta.lean` -/

protected theorem Canon.writeBits {p l a nbits v} (h : Canon u s) :
    Canon u (writeBits s p l a nbits v) := .ite h h.devWrite

protected theorem Canon.gqStore {p l j m n beta} (h : Canon u s) : Canon u (gqStore p l j s m n beta) := h.writeBits

section
variable {p l : Nat} {j : Job} {x : DltRun}
protected theorem Canon.noteRow {slot row os} (h : Canon u x.s) :
    Canon u (noteRow p l j slot row x os).s := .ite (h.updReach (by rfl)) h

protected theorem Canon.storeRow {v slot row os} (h : Canon u x.s) : Canon u (storeRow p l j v slot row x os).s :=
  Canon.noteRow (.bumpCnt (.ite h.writeBits.writeBits h.writeBits))

theorem sorted_rescaleRow {pool : SMap PoolEntry} {slots row mu sh} (h : SMap.sorted pool = true) :
    SMap.sorted (rescaleRow pool slots row mu sh) = true := by
  refine foldl_keeps (SMap.sorted · = true) (foldl_keeps (SMap.sorted · = true) fun hm => ?_) h
  dsimp only
  split
  · exact hm
  · exact sorted_poolSet _ _ _ _ _ hm

protected theorem Canon.statRow {slot row nc} (h : Canon u x.s) : Canon u (statRow p l j slot row nc x).s := by
  have hp {rs : Option (Nat × Nat)} (hs : SMap.sorted (x.s.reach p l).pool = true) : SMap.sorted (match rs with
      | some (mu, sh) => if fuResc (x.s.reach p l).fuse then rescaleRow (x.s.reach p l).pool (fuSlots (x.s.reach p
        l).fuse) row mu sh
        else (x.s.reach p l).pool
      | none => (x.s.reach p l).pool) = true := by
    split
    · split
      · exact sorted_rescaleRow hs
      · exact hs
    · exact hs
  unfold statRow
  dsimp only
  split
  · exact h
  split
  · exact (h.updReachAt (Reach.canon_pool hp (by rfl))).setFree
  · exact h.updReachAt (Reach.canon_pool hp (by rfl))

protected theorem Canon.before {as} (h : Canon u x.s) : Canon u (x.before p l as).s := h

protected theorem Canon.dltTileRun {i} (h : Canon u x.s) : Canon u (dltTileRun p l j x i).s := by
  unfold dltTileRun
  split
  · exact h
  dsimp only
  split
  · exact h
  split
  · exact h
  refine foldl_keeps (fun x : DltRun => Canon u x.s) (fun {z row} hz => ?_) h
  have h1 := Canon.statRow (p := p) (l := l) (j := j) (slot := j.f 24 5 + i) (row := row) (nc := dltCols j (dltTile j i))
    (x := z.before p l (rowBytes p l j (dltTile j i) row (dltCols j (dltTile j i)) z.s)) hz
  exact Canon.storeRow (Canon.setFree h1)

protected theorem Canon.gqSpanRun {k0} (h : Canon u x.s) : Canon u (gqSpanRun p l j x k0).s := by
  unfold gqSpanRun
  split
  · exact h
  dsimp only
  split
  · exact h
  refine foldl_keeps (fun x : DltRun => Canon u x.s) (fun {z _} hz => ?_) (Canon.setFree (Canon.foldl (fun {t _} ht
    => ?_) ?_))
  · split
    · exact hz
    · exact foldl_keeps (fun x : DltRun => Canon u x.s) (fun hz => Canon.storeRow (Canon.before hz)) hz
  · exact .ite ht (.ite ht.gqStore ht.gqStore)
  · exact foldl_keeps (fun x : DltRun => Canon u x.s) (fun hz => foldl_keeps (fun x : DltRun => Canon u x.s)
      Canon.statRow hz) (Canon.before h)
end

protected theorem Canon.runDlta {p l j no} (h : Canon u s) : Canon u (runDlta p l s j no) := by
  have h0 : Canon u (if bvb j.word 76 then s.updReach p l (fun r => { r with stats := [] }) else s) := .ite
    (h.updReach (by rfl)) h
  have hx {x0 : DltRun} {P : Prop} [Decidable P] {is ks : List Nat} (hs : Canon u x0.s) :
      Canon u (if P then is.foldl (dltTileRun p l j) x0 else ks.foldl (gqSpanRun p l j) x0).s := by
    split
    · exact foldl_keeps (fun x : DltRun => Canon u x.s) Canon.dltTileRun hs
    · exact foldl_keeps (fun x : DltRun => Canon u x.s) Canon.gqSpanRun hs
  unfold runDlta
  dsimp only
  split
  · exact (hx h0).updFlight.lateFault
  · exact (hx h0).updFlight

/-! ### The operations of `Machine/Confluence.lean` -/

protected theorem Canon.queueAdd {q a} (h : Canon u s) : Canon u (queueAdd s q a) := h.updParcel (by rfl)

protected theorem Canon.confLocal {p l no j} (h : Canon u s) : Canon u (confLocal s p l no j) := by
  unfold confLocal
  dsimp only
  split
  · exact (h.foldl (fun h => h.queueAdd.countRing)).updFlight
  · exact ((h.foldl (fun h => h.queueAdd.countRing)).updFlight).refuseMove

protected theorem Canon.confRow {p l no j dev row vals} (h : Canon u s) :
    Canon u (confRow p l no j dev s row vals) := by
  unfold confRow
  dsimp only
  split
  · next e => exact (e ▸ (h.takeId (p := p)).sendPacket).updFlight
  · next e => exact (e ▸ (h.takeId (p := p)).sendPacket).updFab.updFlight

protected theorem Canon.confRemote {p l no j} (h : Canon u s) : Canon u (confRemote s p l no j) :=
  .ite h.updFlight (h.updFlight.foldl .confRow)

protected theorem Canon.runConf {p l j no} (h : Canon u s) : Canon u (runConf p l s j no) :=
  .ite h.confRemote h.confLocal

protected theorem Canon.answerAdds {p l no n bad} (h : Canon u s) : Canon u (answerAdds s p l no n bad) := h.updFlight
protected theorem Canon.answerRow {q a} (h : Canon u s) : Canon u (answerRow s q a) := h.sendPacket

protected theorem Canon.answerAdd {q a refused} (h : Canon u s) : Canon u (answerAdd s q a refused) := by
  unfold answerAdd
  split
  · exact h.answerAdds.updFlight
  split
  · exact h
  · exact .ite h.updFab.answerRow h.updFab

protected theorem Canon.refuseAdd {q a} (h : Canon u s) : Canon u (refuseAdd s q a) := h.bumpPcnt.answerAdd

protected theorem Canon.applyAdd {q a} (h0 : Canon u s) : Canon u (applyAdd s q a) := by
  unfold applyAdd
  extract_lets w s0 bound
  have h : Canon u s0 := .ite h0.settle h0
  clear_value s0
  split
  · exact h.raise.refuseAdd
  split
  · exact h.raise.refuseAdd
  split
  · exact h.raiseUe.refuseAdd
  dsimp only
  split
  · refine (Canon.raise (.mark (.updParcel ?_ (by rfl)))).answerAdd
    exact .ite h.devRead.devWrite.bumpPcnt.bumpBw h.devRead.devWrite.bumpPcnt.bumpBw.setInt
  · exact h.devRead.devWrite.bumpPcnt.bumpBw.answerAdd

protected theorem Canon.acceptPacket {p k} (h : Canon u s) : Canon u (acceptPacket s p k).1 := by
  unfold acceptPacket
  extract_lets s1 f record
  have h1 : Canon u s1 := h.updFab
  have hr : Canon u record := h1.updFab
  clear_value record s1
  split
  · exact h1.bumpPcnt
  split
  · exact h1.raise
  split
  · exact hr
  extract_lets d
  clear_value d
  split
  · exact h1
  split
  · exact hr
  · exact h1.raise

protected theorem Canon.confluenceRow {p k} (h : Canon u s) : Canon u (confluenceRow s p k) :=
  .ite h.answerRow (h.updFab.foldl .queueAdd)

protected theorem Canon.endRow {p id bad} (h : Canon u s) : Canon u (endRow s p id bad) := by
  unfold endRow
  split
  · exact h
  · exact h.updFab.answerAdds

protected theorem Canon.rowAnswered {p id mask} (h : Canon u s) : Canon u (rowAnswered s p id mask) := by
  unfold rowAnswered
  split
  · exact h
  · exact h.endRow

end Sys2Proof.Machine
end

section
/-! SUPPORT. The canonical form. The sequencer's own instructions, the cycle and the task control. -/

namespace Sys2Proof.Machine

variable {u s t : State}

/-! ### The operations of `Machine/Sequencer.lean` -/

protected theorem Canon.flightStatus {p l no st} (h : Canon u s) : Canon u (flightStatus s p l no st) := h.updFlight
protected theorem Canon.setTally {p l k w} (h : Canon u s) : Canon u (setTally s p l k w) := h.updCluster (by rfl)

protected theorem Canon.runClaim {p l j no} (h : Canon u s) : Canon u (runClaim p l s j no) :=
  .ite h.setTally.setScalar.bumpCcnt h.setScalar.flightStatus.bumpCcnt

protected theorem Canon.runTalySet {p l j _no} (h : Canon u s) : Canon u (runTalySet p l s j _no) :=
  h.setTally.setScalar.useFree

protected theorem Canon.runTalyRead {p l j _no} (h : Canon u s) : Canon u (runTalyRead p l s j _no) := h.setScalar
protected theorem Canon.holdStake {p l st isStep} (h : Canon u s) : Canon u (holdStake s p l st isStep) := h.updTask

protected theorem Canon.issueStak {p l sel isStep reads} {act : State → Job → State} (h : Canon u s)
    (ha : ∀ {t j}, Canon u t → Canon u (act t j)) : Canon u (issueStak s p l sel isStep reads act) := by
  have hm : Canon u (meetWords (fetchMeet s p l) p l (headJob s p l) { reads := reads (headJob s p l) }) :=
    h.fetchMeet.meetWords
  unfold issueStak
  dsimp only
  split
  · exact h
  split
  · exact h
  split
  · exact hm.failIssue
  · exact ha hm

protected theorem Canon.haltTask {p l} (h : Canon u s) : Canon u (haltTask s p l) := h.withdrawHead.updTask.finishStop

protected theorem Canon.doHalt {p l j} (h : Canon u s) : Canon u (doHalt s p l j) :=
  (h.advance (p := p) (l := l) (j := j) (addr := 0) (next := j.pc.toNat + 16)).writeStatus.sampleEnd.haltTask

protected theorem Canon.scanTask {p l closing} (h : Canon u s) : Canon u (scanTask s p l closing) := by
  unfold scanTask
  dsimp only
  split
  · exact h
  split
  · exact h.updTask
  · exact h.updTask.updTask.doHalt
  · exact h.updTask.updTask.fetchCheck

protected theorem Canon.openStep {p l st} (h : Canon u s) : Canon u (openStep s p l st) := by
  unfold openStep
  dsimp only
  split
  · exact h.raise.bumpPcnt.headDone.scanTask
  · exact h.bumpPcnt.updTask.headDone

protected theorem Canon.runFence {p l j} (h : Canon u s) : Canon u (runFence p l s j) :=
  .ite h.fenceEffect.headDone h.enterUnit.updTask

protected theorem Canon.issueFence {p l ok} (h : Canon u s) : Canon u (issueFence s p l ok) := h.issueSeq .runFence
protected theorem Canon.resume {p ls} (h : Canon u s) : Canon u (resume s p ls) := h.foldl .headDone

protected theorem Canon.setClusterBar {p c k b} (h : Canon u s) : Canon u (setClusterBar s p c k b) :=
  h.updCluster (by rfl)

protected theorem Canon.setParcelBar {p k b} (h : Canon u s) : Canon u (setParcelBar s p k b) := h.updParcel (by rfl)

protected theorem Canon.clusterRound {p c k} (h : Canon u s) : Canon u (clusterRound s p c k) :=
  h.setClusterBar.bumpCcnt.resume

protected theorem Canon.parcelRound {p k} (h : Canon u s) : Canon u (parcelRound s p k) :=
  .resume (.ite h.setParcelBar.setInt h.setParcelBar)

protected theorem Canon.clusterArrive {p c k} (h : Canon u s) : Canon u (clusterArrive s p c k) :=
  .ite h.setClusterBar.clusterRound h.setClusterBar

protected theorem Canon.parcelArrive {p k} (h : Canon u s) : Canon u (parcelArrive s p k) :=
  .ite h (.ite h.setParcelBar.parcelRound h.setParcelBar)

protected theorem Canon.runClusterSync {p l j} (h : Canon u s) : Canon u (runClusterSync p l s j) :=
  .ite h.headDone h.setClusterBar.updTask.clusterArrive

protected theorem Canon.runParcelSync {p l j} (h : Canon u s) : Canon u (runParcelSync p l s j) :=
  .ite h.headDone h.setParcelBar.updTask.parcelArrive

protected theorem Canon.runLocalSync {p l j} (h : Canon u s) : Canon u (runLocalSync p l s j) :=
  .ite h.headDone h.updTask

protected theorem Canon.issueSync {p l ok} {act : State → Job → State} (h : Canon u s)
    (ha : ∀ {t j}, Canon u t → Canon u (act t j)) : Canon u (issueSync s p l ok act) := h.issueSeq fun h => ha h.drainFenced

/-! ### The operations of `Machine/Cycle.lean` -/

theorem SMap.all_passMap {α : Type} {d : α} {k : Nat} {m : SMap α} {f : Nat → α → α} {P : α → Bool} (hd : P d = true)
    (hf : ∀ i a, P a = true → P (f i a) = true) (hm : m.all (fun e => P e.2) = true) : (passMap d k m f).all (fun e
      => P e.2) = true := by
  simp only [passMap, List.all_append, List.all_map, Bool.and_eq_true]
  exact ⟨List.all_eq_true.mpr fun i _ => hf i _ (SMap.all_get (f := P) hm hd),
    List.all_eq_true.mpr fun e he => List.all_eq_true.mp hm e (List.mem_of_mem_filter he)⟩

theorem Reach.canon_pass {r : Reach} {frozen held n} : Reach.Canon r (r.pass frozen held n) := ⟨id, id⟩

theorem ReachesCanon.passMap {xs : SMap Reach} {k f} (hf : ∀ i r, Reach.Canon r (f i r)) :
    ReachesCanon xs (Machine.passMap {} k xs f) :=
  ⟨SMap.all_passMap (P := Reach.memOk) rfl fun i r => (hf i r).1, SMap.all_passMap (P := Reach.registersOk) rfl fun i
    r => (hf i r).2⟩

theorem ClustersCanon.passMap {xs : SMap Cluster} {k f} (hf : ∀ i c, memWf c.buf = true → memWf (f i c).buf = true) :
    ClustersCanon xs (Machine.passMap {} k xs f) := SMap.all_passMap (P := fun c : Cluster => memWf c.buf) rfl hf

theorem Parcel.canon_pass {x : Parcel} {held n} : Parcel.Canon x (x.pass held n) := by
  unfold Parcel.pass
  split
  · exact ⟨id, id⟩
  · exact Parcel.canon_of id (.passMap fun _ _ => Reach.canon_pass) (.passMap (f := fun c y => y.pass (riffleBusy x c
      && !x.mon.frozen) n) fun _ _ => id)

protected theorem Canon.passTo {phase} (h : Canon u s) : Canon u (passTo s phase) := by
  have h1 : Canon u ((Config.upsets (s.wall + (phase - s.phase))).foldl plant (drainIf s (fun _ => true))) :=
    h.drainIf.foldl .plant
  unfold passTo
  dsimp only
  generalize (Config.upsets (s.wall + (phase - s.phase))).foldl plant (drainIf s (fun _ => true)) = t at h1
  split
  · exact h1.same (by rfl)
  · exact Canon.mapParcels h1 (fun _ => Parcel.canon_pass) (by rfl)

protected theorem Canon.cycle (h : Canon u s) : Canon u (cycle s) := .ite h.passTo (h.drainIf.same (by rfl))

/-! ### The operations of `Machine/Book.lean` -/

protected theorem Canon.i3cPush {m} (h : Canon u s) : Canon u (i3cPush s m) := h.updDict
protected theorem Canon.sendNotice {r} (h : Canon u s) : Canon u (sendNotice s r) := h.updDict.i3cPush

protected theorem Canon.classNotice {r} (h : Canon u s) : Canon u (classNotice s r) :=
  .ite (h.same (by rfl)).sendNotice h

protected theorem Canon.noticeOf {lg r} (h : Canon u s) : Canon u (noticeOf s lg r) :=
  .ite (.ite (h.same (by rfl)) (.ite (h.same (by rfl)) h)) (.ite h.sendNotice h.classNotice)

protected theorem Canon.sendUnsent (h : Canon u s) : Canon u (sendUnsent s) :=
  ((h.same (by rfl)).foldl .classNotice).foldl .sendNotice

protected theorem Canon.freeSlot {src} (h : Canon u s) : Canon u (freeSlot s src) := by
  unfold freeSlot
  dsimp only
  split <;> exact h.same (by rfl)

protected theorem Canon.raiseFail {copy slot seq} (h : Canon u s) : Canon u (raiseFail s copy slot seq) := h.raise

protected theorem Canon.afterFail {old} (h : Canon u s) : Canon u (afterFail s old) :=
  .ite h (.raiseFail (.ite (h.same (by rfl)) h))

protected theorem Canon.bookDone {src e okA okB} (h : Canon u s) : Canon u (bookDone s src e okA okB) :=
  .noticeOf (.setHubInt (.ite (h.same (by rfl)).freeSlot (h.same (by rfl)).freeSlot.afterFail))

protected theorem Canon.bookWrite {src e okA okB} (h : Canon u s) : Canon u (bookWrite s src e okA okB) :=
  h.bookDone.same (by rfl)

/-! ### The operations of `Machine/Steps.lean` -/

protected theorem Canon.closeStep {p l} (h : Canon u s) : Canon u (closeStep s p l) := h.updReach (by rfl)

theorem Reach.canon_slotsBack {slots old} {r : Reach} : Reach.Canon r (slotsBack slots old r) := by
  refine Reach.canon_pool (fun hp => foldl_keeps (SMap.sorted · = true) (fun {m e} hm => ?_) ?_) (by rfl)
  · rw [SMap.sorted_iff_pairwise] at hm ⊢
    exact pairwise_put _ _ hm
  · rw [SMap.sorted_iff_pairwise] at hp ⊢
    exact hp.filter _

protected theorem Canon.undoPiece {p l f e} (h : Canon u s) : Canon u (undoPiece p l f s e) := by
  have h1 : Canon u (e.bytes.foldl (fun t b => setCells t b.1 (memSet (cells t b.1) b.2.1 b.2.2)) s) :=
    h.foldl fun h => h.setCells (memWf_set _ _)
  have h2 : Canon u (match e.pool with
      | some old => (e.bytes.foldl (fun t b => setCells t b.1 (memSet (cells t b.1) b.2.1 b.2.2)) s).updReach p l
        (slotsBack f.wr.slots old)
      | none => e.bytes.foldl (fun t b => setCells t b.1 (memSet (cells t b.1) b.2.1 b.2.2)) s) := by
    split
    · exact h1.updReachWith fun _ => Reach.canon_slotsBack
    · exact h1
  unfold undoPiece
  dsimp only
  split
  · exact h2.updReach (by rfl)
  · exact h2

protected theorem Canon.dropAdds {p l no k} (h : Canon u s) : Canon u (dropAdds s p l no k) :=
  h.forParcels (fun h => h.updParcel (by rfl))

protected theorem Canon.cutFlight {p l f started} (h : Canon u s) : Canon u (cutFlight s p l f started) :=
  .ite h (.updFlight (.ite (((h.same (by rfl)).foldl .undoPiece).dropAdds) ((h.same (by rfl)).foldl .undoPiece)))

protected theorem Canon.cutFlights {p l} (h : Canon u s) : Canon u (cutFlights s p l) := h.drainOf.foldl .cutFlight

protected theorem Canon.abortReach {p l closing} (h : Canon u s) : Canon u (abortReach s p l closing) := by
  unfold abortReach
  extract_lets s2 s3
  have h2 : Canon u s2 := h.withdrawHead.cutFlights
  have h3 : Canon u s3 := h2.updParcel rfl
  exact h3.closeStep.scanTask

protected theorem Canon.overrun {p l o} (h : Canon u s) : Canon u (overrun s p l o) :=
  .ite h.raise.bumpPcnt.updTask.abortReach h.raise.bumpPcnt.updTask.updTask

protected theorem Canon.closingReached {p l o} (h : Canon u s) : Canon u (closingReached s p l o) :=
  .ite h.closeStep h.overrun

theorem Canon.stopAtStep {p l} (h : Canon u s) (ht : stopAtStep s p l = some t) : Canon u t := by
  unfold Machine.stopAtStep at ht
  split at ht
  · exact Option.some.inj ht ▸ h.failingStop
  split at ht
  · exact Option.some.inj ht ▸ h.stopRun
  · contradiction

protected theorem Canon.stakeRelease {p l st isStep} (h : Canon u s) : Canon u (stakeRelease s p l st isStep) := by
  unfold stakeRelease
  split
  · split
    · next e => exact h.stopAtStep e
    · exact h.openStep
  · exact h.headDone

protected theorem Canon.stretchDone {p l} (h : Canon u s) : Canon u (stretchDone s p l) := by
  unfold stretchDone
  dsimp only
  split
  · exact h
  split
  · exact h
  split
  · exact .ite h.closeStep.updTask.stakeRelease h.closeStep.updTask
  · exact h.closeStep.updTask

/-! ### The operations of `Machine/TaskControl.lean` -/

protected theorem Canon.resetReach {p l} (h : Canon u s) :
    Canon u (resetReach s p l) := h.updReachWith fun _ => Reach.canon_new (by rfl)

protected theorem Canon.requestReset {p l} (h : Canon u s) : Canon u (requestReset s p l) := .ite h.resetReach.updTask h

protected theorem Canon.startTask {p l} (h : Canon u s) : Canon u (startTask s p l) := by
  unfold startTask
  dsimp only
  split
  · exact .ite h.updTask.overrun h.updTask.fetchCheck
  · exact h.updTask.fetchCheck

protected theorem Canon.ctlWrite {p l v} (h : Canon u s) : Canon u (ctlWrite s p l v) :=
  .ite h.requestReset (.ite (.ite h.updTask.startTask h.updTask) (.ite h.updTask.stopRun h.updTask))

protected theorem Canon.pcWrite {p l v} (h : Canon u s) : Canon u (pcWrite s p l v) := .ite h.updTask h

theorem cellsOf_ge {a bs} : ∀ c ∈ cellsOf a bs, a ≤ c.1 ∧ c.1 < a + bs.length := by
  induction bs generalizing a with
  | nil => simp [cellsOf]
  | cons b bs ih =>
    simp only [cellsOf, List.mem_cons, List.length_cons, forall_eq_or_imp]
    exact ⟨by omega, fun c hc => by have := ih c hc; omega⟩

theorem pairwise_cellsOf {a bs} : (cellsOf a bs).Pairwise (fun c d => c.1 < d.1) := by
  induction bs generalizing a with
  | nil => exact .nil
  | cons b bs ih => exact List.pairwise_cons.mpr ⟨fun c hc => (cellsOf_ge c hc).1, ih⟩

theorem memWf_nonzeroCells {a bs} : memWf (nonzeroCells a bs) = true :=
  memWf_iff.mpr ⟨pairwise_cellsOf.filter _, fun c hc => by simpa using (List.mem_filter.mp hc).2⟩

/-- Three memories one above the other. -/
theorem memWf_append₃ {x y z : Mem} {a b : Nat} (hab : a ≤ b) (hx : memWf x = true) (hy : memWf y = true) (hz : memWf
    z = true)
    (hxa : ∀ c ∈ x, c.1 < a) (hya : ∀ c ∈ y, a ≤ c.1 ∧ c.1 < b) (hzb : ∀ c ∈ z, b ≤ c.1) : memWf (x ++ y ++ z) = true := by
  rw [memWf_iff] at hx hy hz ⊢
  simp only [List.pairwise_append, List.mem_append]
  refine ⟨⟨⟨hx.1, hy.1, fun c hc d hd => ?_⟩, hz.1, fun c hc d hd => ?_⟩, fun c hc => ?_⟩
  · exact Nat.lt_of_lt_of_le (hxa c hc) (hya d hd).1
  · rcases hc with hc | hc
    · exact Nat.lt_of_lt_of_le (hxa c hc) (Nat.le_trans hab (hzb d hd))
    · exact Nat.lt_of_lt_of_le (hya c hc).2 (hzb d hd)
  · rcases hc with (hc | hc) | hc
    · exact hx.2 c hc
    · exact hy.2 c hc
    · exact hz.2 c hc

theorem memWf_blit {m : Mem} {a bs} (h : memWf m = true) : memWf (memBlit m a bs) = true :=
  memWf_append₃ (Nat.le_add_right a bs.length) (memWf_filter _ h) memWf_nonzeroCells (memWf_filter _ h)
    (fun c hc => by simpa using (List.mem_filter.mp hc).2) (fun c hc => cellsOf_ge c (List.mem_filter.mp hc).1)
    (fun c hc => by simpa using (List.mem_filter.mp hc).2)

protected theorem Canon.smBlit {p a bs} (h : Canon u s) : Canon u (smBlit s p a bs) := by
  unfold smBlit
  extract_lets as s1 s2
  have h1 : Canon u s1 := h.backInvalidate.smCount
  have h2 : Canon u s2 := h1.updParcelWith fun _ => Parcel.canon_mem memWf_blit (by rfl)
  exact h2.setUpsets

protected theorem Canon.settleWords {p l mask} (h : Canon u s) : Canon u (settleWords s p l mask) :=
  h.foldl (fun h => .ite h.dropUpset.correctedAt (h.dropUpset.hardFound.updReach (by rfl)).raise)

protected theorem Canon.reportPoison {p l r mask} (h : Canon u s) : Canon u (reportPoison s p l r mask) :=
  .foldl .raise (.ite (.foldl .raiseUe (.ite (h.foldl .raiseUe) h)) (.ite (h.foldl .raiseUe) h))

protected theorem Canon.saveImage {p l a mask} (h : Canon u s) : Canon u (saveImage s p l a mask) :=
  .ite h (.reportPoison (.foldl .smBlit (.ite (.settle (.ite h.settleWords.settle h.settleWords)) (.ite
    h.settleWords.settle h.settleWords))))

protected theorem Canon.restoreWin {p l a cb v} (h : Canon u s) : Canon u (restoreWin p l a cb s v) :=
  .ite (h.updReachWith fun _ => by unfold Reach.setWin; split <;> exact ⟨id, id⟩) h.raise

theorem pairwise_pieces {k n i bs} :
    (pieces k n i bs).Pairwise (fun c d => c.1 < d.1) ∧ ∀ e ∈ pieces k n i bs, i ≤ e.1 := by
  induction n generalizing i bs with
  | zero => simp [pieces]
  | succ n ih =>
    obtain ⟨hs, hn⟩ := @ih (i + 1) (bs.drop k)
    refine ⟨List.pairwise_cons.mpr ⟨hn, hs⟩, fun e he => ?_⟩
    rcases List.mem_cons.mp he with rfl | he
    · exact Nat.le_refl _
    · exact Nat.le_of_succ_le (hn e he)

theorem sorted_piecesMap {k mask : Nat} {ps : List (Nat × Nat)} (h : ps.Pairwise (fun c d => c.1 < d.1)) :
    SMap.sorted (piecesMap (k := k) mask ps) = true := by
  rw [SMap.sorted_iff_pairwise, piecesMap, List.pairwise_filterMap]
  refine h.imp fun hab c hc d hd => ?_
  simp only [Option.ite_none_left_eq_some, Option.some.injEq] at hc hd
  rw [← hc.2, ← hd.2]
  exact hab

protected theorem Canon.restoreBase {p l a} (h : Canon u s) : Canon u (restoreBase s p l a) :=
  Canon.restoreWin (Canon.restoreWin (h.updReachWith fun _ => Reach.canon_scalars (sorted_piecesMap
    (pairwise_pieces.1.drop)) (by rfl)))

protected theorem Canon.restorePoolArea {p l a} (h : Canon u s) : Canon u (restorePoolArea s p l a) := by
  unfold restorePoolArea
  split
  · next r e =>
    refine h.setReach (Reach.canon_pool (fun _ => restorePool_sorted e) ?_)
    rw [restorePool, Option.ite_none_right_eq_some] at e
    rw [← Option.some.inj e.2]
    rfl
  · exact h.raise

protected theorem Canon.restoreTables {p l a} (h : Canon u s) : Canon u (restoreTables s p l a) := h.updReach (by rfl)

protected theorem Canon.restoreImage {p l a mask} (h0 : Canon u s) : Canon u (restoreImage s p l a mask) := by
  unfold restoreImage
  extract_lets as s0 s1 s2 s3 s4 s5
  have h : Canon u s0 := .ite h0.backInvalidate.smCount.settle h0
  split
  · exact h
  split
  · exact h.raise
  · have h1 : Canon u s1 := h.restoreBase
    have h2 : Canon u s2 := .ite h1.restorePoolArea h1
    have h3 : Canon u s3 := .ite h2.restoreTables h2
    have h4 : Canon u s4 := .ite (h3.updReachWith fun _ => Reach.canon_mems (fun _ => memWf_nonzeroCells) id (by rfl)) h3
    have h5 : Canon u s5 := .ite (h4.updReachWith fun _ => Reach.canon_mems id (fun _ => memWf_nonzeroCells) (by rfl)) h4
    exact (h5.updReach (by rfl)).setFree

protected theorem Canon.imgWrite {p l v} (h : Canon u s) : Canon u (imgWrite s p l v) :=
  .ite h.updTask.saveImage (.ite h.updTask.restoreImage h.updTask)

end Sys2Proof.Machine
end

section
/-! SUPPORT. The canonical form. What happens to the part. -/

namespace Sys2Proof.Machine

variable {u s t : State}

/-! ### The operations of `Machine/Links.lean` -/

protected theorem Canon.pushCtl {p q c} (h : Canon u s) : Canon u (pushCtl s p q c) := h.updLink

protected theorem Canon.flood {p not c} (h : Canon u s) : Canon u (flood s p not c) :=
  h.foldl (fun h => .ite h.pushCtl h)

protected theorem Canon.setMark {p m down} (h : Canon u s) : Canon u (setMark s p m down) := h.updFab
protected theorem Canon.noteFault {p q down} (h : Canon u s) : Canon u (noteFault s p q down) := h.setMark.updFab.flood
protected theorem Canon.raiseDown {p q reason} (h : Canon u s) : Canon u (raiseDown s p q reason) := h.raise

protected theorem Canon.linkDown {p q reason dst} (h : Canon u s) : Canon u (linkDown s p q reason dst) :=
  .ite h.updLink (.ite (.noteFault (.updLink (.ite h.raiseDown.bumpPcnt.breakCascades h.raiseDown.bumpPcnt)))
    (.updLink (.ite h.raiseDown.bumpPcnt.breakCascades h.raiseDown.bumpPcnt)))

protected theorem Canon.riverOff {p} (h : Canon u s) : Canon u (riverOff s p) := h.foldl .linkDown

protected theorem Canon.linksStart {p} (h : Canon u s) : Canon u (linksStart s p) :=
  .ite h (h.foldl (fun h => .ite h.updLink h))

protected theorem Canon.linkCtlWrite {p q v} (h : Canon u s) : Canon u (linkCtlWrite s p q v) :=
  .ite (.linkDown (.ite h (.ite h.updLink.linksStart h.updLink.linkDown))) (.ite h (.ite h.updLink.linksStart
    h.updLink.linkDown))

protected theorem Canon.linkMove {p q frm dst} (h : Canon u s) : Canon u (linkMove s p q frm dst) := .ite h.updLink h
protected theorem Canon.startNeg {p q} (h : Canon u s) : Canon u (startNeg s p q) := h.updLink
protected theorem Canon.negFails {p q} (h : Canon u s) : Canon u (negFails s p q) := .ite h.updLink h

protected theorem Canon.raisePeer {p q vmax vmin neg} (h : Canon u s) : Canon u (raisePeer s p q vmax vmin neg) :=
  h.raise

protected theorem Canon.linkUp {p q n lat v} (h : Canon u s) : Canon u (linkUp s p q n lat v) :=
  .ite (.foldl .pushCtl (.noteFault (.ite h.updLink.raisePeer h.updLink))) (.ite h.updLink.raisePeer h.updLink)

protected theorem Canon.wiringFails {p q n} (h : Canon u s) : Canon u (wiringFails s p q n) :=
  .negFails (.ite h.updLink h.updLink.raiseDown.updLink)

protected theorem Canon.sendVer {p q} (h : Canon u s) : Canon u (sendVer s p q) := h.pushCtl.updLink
protected theorem Canon.verCount {p q} (h : Canon u s) : Canon u (verCount s p q) := h.updLink
protected theorem Canon.flitCommon {p q f} (h : Canon u s) : Canon u (flitCommon s p q f) := h.updLink
protected theorem Canon.resendAll {p q} (h : Canon u s) : Canon u (resendAll s p q) := h.updLink
protected theorem Canon.nakReceived {p q ack} (h : Canon u s) : Canon u (nakReceived s p q ack) := h.updLink.resendAll
protected theorem Canon.packetIn {p q vc} (h : Canon u s) : Canon u (packetIn s p q vc) := h.updLink.updFab
protected theorem Canon.protocolError {p q} (h : Canon u s) : Canon u (protocolError s p q) := .ite h.linkDown h

protected theorem Canon.dataIn {p q f} (h : Canon u s) : Canon u (dataIn s p q f) :=
  .ite h.protocolError (.ite h.bumpPcnt.bumpBw.updLink.packetIn h.bumpPcnt.bumpBw.updLink)

protected theorem Canon.ctlIn {p q f} (h : Canon u s) : Canon u (ctlIn s p q f) := .ite h.protocolError h

protected theorem Canon.sequencedIn {p q f ok} (h : Canon u s) : Canon u (sequencedIn s p q f ok) :=
  .ite (.ite h.flitCommon.updLink.dataIn h.flitCommon.updLink.ctlIn) (.ite (.ite h.flitCommon h) (.updLink (.ite
    h.flitCommon h)))

protected theorem Canon.transmit {p q f} (h : Canon u s) : Canon u (transmit s p q f) := h.updLink
protected theorem Canon.sendIdle {p q} (h : Canon u s) : Canon u (sendIdle s p q) := h.transmit.updLink
protected theorem Canon.sendSequenced {p q f} (h : Canon u s) : Canon u (sendSequenced s p q f) := h.updLink.transmit

protected theorem Canon.sendData {p q v} (h : Canon u s) : Canon u (sendData s p q v) := by
  unfold sendData
  split
  · exact h
  · exact h.updLink.sendSequenced.bumpPcnt.bumpBw

protected theorem Canon.sendCtl {p q c} (h : Canon u s) : Canon u (sendCtl s p q c) := by
  unfold sendCtl
  dsimp only
  split
  · exact (h.same (by rfl)).sendSequenced.updLink
  · exact (h.same (by rfl)).sendSequenced.updLink.verCount
  · exact (h.same (by rfl)).sendSequenced.updLink

protected theorem Canon.sendAgain {p q f} (h : Canon u s) : Canon u (sendAgain s p q f) := h.updLink.transmit.bumpPcnt
protected theorem Canon.sendNak {p q} (h : Canon u s) : Canon u (sendNak s p q) := h.transmit.updLink

protected theorem Canon.flitSlot {p q} (h : Canon u s) : Canon u (flitSlot s p q) := by
  unfold flitSlot
  dsimp only
  split
  · exact h.sendNak
  split
  · exact h.sendIdle
  split
  · exact h.sendAgain
  split
  · exact h.sendIdle
  split
  · exact h.sendCtl
  split
  · exact h.sendIdle
  split
  · exact h.sendData
  · exact h.sendIdle

protected theorem Canon.land {p k} (h : Canon u s) : Canon u (land s p k) :=
  .ite (.parcelArrive (.ite h.devWrite.bumpPcnt.updFab.setInt h.devWrite.bumpPcnt.updFab)) (.ite
    h.devWrite.bumpPcnt.updFab.setInt h.devWrite.bumpPcnt.updFab)

protected theorem Canon.answerMessage {p k result} (h : Canon u s) : Canon u (answerMessage s p k result) :=
  h.sendPacket

protected theorem Canon.messageIn {p k} (h : Canon u s) : Canon u (messageIn s p k) :=
  .answerMessage (.ite h.land (.ite (h.foldl .raiseUe) h))

protected theorem Canon.messageAnswered {p id result} (h : Canon u s) : Canon u (messageAnswered s p id result) := by
  unfold messageAnswered
  split
  · exact h
  · exact .ite h (.ite h.updFab.countDelivered h.updFab.countRefused)

/-! ### The operations of `Machine/Datum.lean` -/

protected theorem Canon.atPos {pos} (h : Canon u s) : Canon u (atPos s pos) := h.same (by rfl)
protected theorem Canon.refreshHops (h : Canon u s) : Canon u (refreshHops s) := h.updDatum

protected theorem Canon.wakeUnset (h : Canon u s) : Canon u (wakeUnset s) :=
  h.forParcels fun h => h.updParcelWith fun _ => Parcel.canon_reaches (f := fun r => { r with
      task := { r.task with wait := if r.task.wait = .unset then .none else r.task.wait } }) (fun _ => ⟨id, id⟩) (by rfl)

protected theorem Canon.enterDatum {st} (h : Canon u s) : Canon u (enterDatum s st) :=
  .ite (.refreshHops (.updDatum (.ite h.wakeUnset h))) (.setHubInt (.refreshHops (.updDatum (.ite h.wakeUnset h))))

protected theorem Canon.enterHoldover {lost} (h : Canon u s) : Canon u (enterHoldover s lost) := h.updDatum.enterDatum
protected theorem Canon.raiseJump {ref j behind} (h : Canon u s) : Canon u (raiseJump s ref j behind) := h.raise

protected theorem Canon.compareDatum {pos ref} (h : Canon u s) : Canon u (compareDatum s pos ref) :=
  .ite h (.ite h.updDatum.updDatum (.ite h.updDatum h.updDatum.raiseJump.updDatum))

protected theorem Canon.referenceLost (h : Canon u s) : Canon u (referenceLost s) :=
  .ite h.updDatum.enterHoldover h.updDatum

theorem Parcel.canon_tick {x : Parcel} {epoch} : Parcel.Canon x (x.tick epoch) := by
  refine Parcel.canon_of id ?_ id
  unfold Parcel.tick
  dsimp only
  split
  · exact .map (f := fun r => { r with task := { r.task with ceCount := 0 } }) fun _ => ⟨id, id⟩
  · exact ⟨id, id⟩

protected theorem Canon.tickBoundary {count} (h : Canon u s) : Canon u (tickBoundary s count) := by
  have h1 : Canon u (passTo s s.nMax) := h.passTo
  unfold tickBoundary
  extract_lets s1 d y s2
  have h2 : Canon u s2 := .mapParcels h1 (f := fun e => e.2.tick _) (fun _ => Parcel.canon_tick) (by rfl)
  exact .ite h2.referenceLost h2

protected theorem Canon.pulseCompare (h : Canon u s) : Canon u (pulseCompare s) :=
  .ite h.updDatum.compareDatum.enterDatum h.updDatum.compareDatum

protected theorem Canon.setSource {x} (h : Canon u s) : Canon u (setSource s x) := h.updDatum
protected theorem Canon.compareSource {x} (h : Canon u s) : Canon u (compareSource s x) := h.compareDatum
protected theorem Canon.adopt {x} (h : Canon u s) : Canon u (adopt s x) := h.setSource.compareSource.enterDatum

protected theorem Canon.reselect {sender} (h : Canon u s) : Canon u (reselect s sender) := by
  unfold reselect
  split
  · exact h.enterHoldover
  · exact .ite (.ite h.compareSource.refreshHops h.refreshHops) h.adopt

protected theorem Canon.followDatum {sender} (h : Canon u s) : Canon u (followDatum s sender) := by
  unfold followDatum
  split
  · exact h
  split
  · split
    · exact h.setSource.atPos.enterDatum
    · exact h
  · split
    · exact h.adopt
    · exact h
  · exact h.reselect
  · exact h
  · exact h
  · exact h

protected theorem Canon.recordIn {p q bs} (h : Canon u s) : Canon u (recordIn s p q bs) := h.updLink
protected theorem Canon.raiseLoss {entered} (h : Canon u s) : Canon u (raiseLoss s entered) := h.raise

protected theorem Canon.datumCfgSet {v} (h : Canon u s) : Canon u (datumCfgSet s v) := by
  unfold datumCfgSet
  extract_lets tick now s1
  have h1 : Canon u s1 := h.updDatum
  exact .refreshHops (.ite (h1.same (by rfl)) h1)

protected theorem Canon.datumLoadSet {v} (h : Canon u s) : Canon u (datumLoadSet s v) := .ite h.updDatum h

/-! ### The operations of `Machine/Monitor.lean` -/

protected theorem Canon.takeSnapshot {p} (h : Canon u s) : Canon u (takeSnapshot s p) := by
  unfold takeSnapshot
  extract_lets m s1
  have h1 : Canon u s1 := h.mark.updParcelWith fun _ => Parcel.canon_of id (.map (f := fun r =>
    { r with snap := r.cntOld }) fun _ => ⟨id, id⟩)
    (.map (f := fun c => { c with snap := c.cntOld }) fun _ => id)
  exact .ite h.updMon h1.updDict

protected theorem Canon.perfCtlSet {p v} (h : Canon u s) : Canon u (perfCtlSet s p v) := h.updMon
protected theorem Canon.snapshotAll (h : Canon u s) : Canon u (snapshotAll s) := h.forParcels .updMon
protected theorem Canon.bwCfgSet {p v} (h : Canon u s) : Canon u (bwCfgSet s p v) := h.updMon

protected theorem Canon.sampleCfgSet {p v} (h : Canon u s) : Canon u (sampleCfgSet s p v) :=
  .ite (h.updMon.updMon.forReaches .updTask) h.updMon

protected theorem Canon.calClose {p l m} (h : Canon u s) : Canon u (calClose s p l m) :=
  .updReach (.ite (.mark (.ite h.raise h)) (.ite h.raise h)) (by rfl)

protected theorem Canon.skewClose {p} (h : Canon u s) : Canon u (skewClose s p) := .updMon (.ite h.raise h)
protected theorem Canon.skewCfgSet {p v} (h : Canon u s) : Canon u (skewCfgSet s p v) := h.updMon
protected theorem Canon.updKeys {p f} (h : Canon u s) : Canon u (updKeys s p f) := h.updParcel (by rfl)
protected theorem Canon.chanRotateSet {p w v} (h : Canon u s) : Canon u (chanRotateSet s p w v) := h.updKeys

/-! ### The operations of `Machine/Contain.lean` -/

protected theorem Canon.drainParcel {p} (h : Canon u s) : Canon u (drainParcel s p) := h.drainIf
protected theorem Canon.ucieUp {p q v} (h : Canon u s) : Canon u (ucieUp s p q v) := h.updLink.useFree

protected theorem Canon.ringNegotiate {p n q r} (h : Canon u s) : Canon u (ringNegotiate s p n q r) := by
  unfold ringNegotiate
  dsimp only
  split
  · exact h.raisePeer.raisePeer.updLink.updLink
  · exact .ucieUp (.ucieUp (.ite (.raisePeer (.ite h.raisePeer h)) (.ite h.raisePeer h)))

protected theorem Canon.ucieStart {p} (h : Canon u s) : Canon u (ucieStart s p) :=
  .ite (.ringNegotiate (.ite h.ucieUp.ringNegotiate h.ucieUp)) (.ite h.ucieUp.ringNegotiate h.ucieUp)

protected theorem Canon.contain {p cause} (h : Canon u s) : Canon u (contain s p cause) := by
  unfold contain
  extract_lets stops s1 s2
  split
  · exact h
  · have h1 : Canon u s1 := h.drainParcel.riverOff.updParcelWith fun _ => Parcel.canon_of id (.map fun _ => ⟨id, id⟩)
      (.map (f := fun c => { c with bar := c.bar.map (fun b => (b.1, b.2.emptied)) }) fun _ => id)
    have h2 : Canon u s2 := h1.foldl fun h => h.mark.mark.setInt
    exact .ite h2.ucieStart h2

protected theorem Canon.thermalFence {p n} (h : Canon u s) : Canon u (thermalFence s p n) := .ite h h.raise.contain
protected theorem Canon.controlFault {p} (h : Canon u s) : Canon u (controlFault s p) := .ite h h.raise.useFree.contain
protected theorem Canon.raiseSpared {p l dst} (h : Canon u s) : Canon u (raiseSpared s p l dst) := h.raise

protected theorem Canon.remapReach {p l} (h : Canon u s) : Canon u (remapReach s p l) :=
  .ite h ((h.raiseSpared.updCluster (by rfl)).updReachWith fun _ => Reach.canon_new (by rfl)).updDict

protected theorem Canon.retireReach {p l} (h : Canon u s) : Canon u (retireReach s p l) :=
  .ite h (h.raiseSpared.updReach (by rfl)).setInt

protected theorem Canon.portsOff {p} (h : Canon u s) : Canon u (portsOff s p) := h.riverOff.foldl .updLink

protected theorem Canon.refuseAdds {p} (h : Canon u s) : Canon u (refuseAdds s p) :=
  (h.updParcel (by rfl)).foldl .answerAdd

theorem Parcel.canon_afterReset {x : Parcel} {vmax vmin} : Parcel.Canon x (x.afterReset vmax vmin) :=
  Parcel.canon_of id (.map fun _ => Reach.canon_new (by rfl)) (.map (f := fun c =>
    { reachMap := c.reachMap, spare := c.spare, hardUnits := c.hardUnits, spareRows := c.spareRows }) fun _ _ => rfl)

protected theorem Canon.resetParcel {p} (h : Canon u s) : Canon u (resetParcel s p) := by
  unfold resetParcel
  extract_lets b s1
  have h1 : Canon u s1 := h.drainParcel.refuseAdds.portsOff
  clear_value s1
  exact (h1.updParcelWith fun _ => Parcel.canon_afterReset).setUpsets

protected theorem Canon.enterState {p st} (h : Canon u s) : Canon u (enterState s p st) :=
  .ite (h.updParcel (by rfl)).linksStart (h.updParcel (by rfl))

protected theorem Canon.trainingEnd {p ok st} (h : Canon u s) : Canon u (trainingEnd s p ok st) := by
  unfold trainingEnd
  split
  · exact (h.updParcelWith fun _ => Parcel.canon_clusters (f := Cluster.repaired) (fun _ => id) (by
      rfl)).enterState.ucieStart
  · exact (h.updParcel (by rfl)).ucieStart

/-! ### The operations of `Machine/Power.lean` -/

protected theorem Canon.raiseSpate {reason mask} (h : Canon u s) : Canon u (raiseSpate s reason mask) := h.raise
protected theorem Canon.lowerCap {p cap} (h : Canon u s) : Canon u (lowerCap s p cap) := h.updPwr

protected theorem Canon.dropRequest (h : Canon u s) : Canon u (dropRequest s).1 :=
  (h.forParcels (fun h => .ite h (.ite (.ite h.lowerCap h) h.lowerCap))).updPkgPwr

protected theorem Canon.dropWith {reason} (h : Canon u s) : Canon u (dropWith s reason) := h.dropRequest.raiseSpate
protected theorem Canon.govParcel {p watts} (h : Canon u s) : Canon u (govParcel s p watts) := h.updPwr.updPwr

protected theorem Canon.govSpate {pkg} (h : Canon u s) : Canon u (govSpate s pkg) :=
  .ite (.ite h.updPkgPwr h.updPkgPwr) (.ite (.ite h.updPkgPwr.updPkgPwr (.ite h.updPkgPwr.dropRequest h.updPkgPwr))
    (.ite h.updPkgPwr.dropWith h.updPkgPwr))

protected theorem Canon.applyClock {p} (h : Canon u s) : Canon u (applyClock s p) := h.updPwr

protected theorem Canon.applyLimit (h : Canon u s) : Canon u (applyLimit s) := by
  unfold applyLimit
  split
  · exact h
  · exact .ite h.updPkgPwr h

protected theorem Canon.applyChanges {p} (h : Canon u s) : Canon u (applyChanges s p) :=
  .applyLimit (.ite h.applyClock h)

protected theorem Canon.cutStep {p l} (h : Canon u s) : Canon u (cutStep s p l) := by
  unfold cutStep
  split
  · exact h.abortReach
  · exact h

protected theorem Canon.storeSample {p n temp} (h : Canon u s) : Canon u (storeSample s p n temp) :=
  .ite (.updPkgPwr (.ite h.updPwr h.updPkgPwr)) (.ite h.updPwr h.updPkgPwr)

protected theorem Canon.setLimit {v} (h : Canon u s) : Canon u (setLimit s v) := h.updPkgPwr
protected theorem Canon.pwrParcelSet {p v} (h : Canon u s) : Canon u (pwrParcelSet s p v) := h.updPwr

/-! ### The operations of `Machine/Queues.lean` -/

protected theorem Canon.runQueued {p l j no} (h : Canon u s) : Canon u (runQueued p l s j no) := by
  unfold runQueued
  split
  · split
    · exact h.runDense
    · exact h.runDense
    · exact h.runDense
    · exact h.runDense
    · exact h.startMessage
    · exact h.runPoolSave
    · exact h.runPoolRestore
    · exact h.runExpand
    · exact h.runStore
    · exact h.runStore
    · exact h.runStore
  · exact h.runGath
  · exact h.runGath
  · exact h.runCasc
  · exact h.runConf
  · exact h

protected theorem Canon.startArmed {p l f} (h : Canon u s) : Canon u (startArmed s p l f) :=
  (h.updFlight.startRun .runQueued).drainFenced

protected theorem Canon.startTurns {k p l} (h : Canon u s) : Canon u (startTurns k s p l) := by
  induction k generalizing s with
  | zero => exact h
  | succ k ih =>
    unfold startTurns
    split
    · exact h
    · exact ih h.startArmed

protected theorem Canon.startQueued {p l f} (h : Canon u s) : Canon u (startQueued s p l f) :=
  .ite h.updFlight h.startArmed.startTurns

/-! ### The operations of `Machine/Sched.lean` -/

protected theorem Canon.fired {k} (h : Canon u s) : Canon u (fired s k) := h.updHub (by rfl)

protected theorem Canon.forMask {mask} {f : State → Nat → State} (h : Canon u s) (hf : ∀ {t q}, Canon u t → Canon u
    (f t q)) :
    Canon u (forMask s mask f) := h.forParcels fun h => .ite (hf h) h

protected theorem Canon.fire {k action} {f : State → BitVec 128 → State} (h : Canon u s) (hf : ∀ {t e}, Canon u t →
    Canon u (f t e)) :
    Canon u (fire s k action f) := .ite (hf h).fired h

protected theorem Canon.lockRefused {k} (h : Canon u s) : Canon u (lockRefused s k) := h.raise

protected theorem Canon.applyLock {p} (h : Canon u s) : Canon u (applyLock s p) := by
  unfold applyLock
  split
  · exact h
  split
  · exact h
  · exact (h.updParcelWith fun _ => Parcel.canon_reaches
      (f := fun r => { r with task := { r.task with drain := !r.flights.isEmpty } }) (fun _ => ⟨id, id⟩) (by
        rfl)).foldl fun h => .ite h.sendVer h

protected theorem Canon.applyBoundary {p} (h : Canon u s) : Canon u (applyBoundary s p) :=
  ((h.forReaches (fun h => h.remapReach.retireReach)).applyLock).applyChanges

protected theorem Canon.applyAct {p a} (h : Canon u s) : Canon u (applyAct s p a) := by
  unfold applyAct
  split
  · split
    · exact h.closingReached
    · exact h
  · exact h.applyBoundary
  · exact h.stakeRelease
  · exact h.startQueued

protected theorem Canon.applyBounds {k p} (h : Canon u s) : Canon u (applyBounds k s p) := by
  induction k generalizing s with
  | zero => exact h
  | succ k ih =>
    unfold applyBounds
    split
    · exact h
    · exact ih h.applyAct

/-! ### The operations of `Machine/Dma.lean` -/

protected theorem Canon.smRange {p write a n} (h : Canon u s) : Canon u (smRange s p write a n) :=
  .updMon (.bumpBw (.bumpPcnt (.ite h (h.updPort (by rfl)).snooped)))

protected theorem Canon.updDma {c f} (h : Canon u s) : Canon u (updDma s c f) := h.updPort (by rfl)
protected theorem Canon.dmaSet {c w v} (h : Canon u s) : Canon u (dmaSet s c w v) := h.updDma
protected theorem Canon.hubPast {tick} (h : Canon u s) : Canon u (hubPast s tick) := h.raise
protected theorem Canon.dmaArm {c v} (h : Canon u s) : Canon u (dmaArm s c v) := .ite h (.ite h.hubPast h.updDma)

protected theorem Canon.dmaEnd {c status} (h : Canon u s) : Canon u (dmaEnd s c status) :=
  .setHubInt (.ite h.mark.updDma.parcelArrive h.mark.updDma)

protected theorem Canon.dmaBound {d origin parcel} (h : Canon u s) : Canon u (dmaBound s d origin parcel) := h.raise

theorem memWf_copyRange {src dst : Mem} {a b n} (hs : memWf src = true) (hd : memWf dst = true) :
    memWf (copyRange src a dst b n) = true := by
  refine memWf_append₃ (Nat.le_add_right b n) (memWf_filter _ hd) ?_ (memWf_filter _ hd) (fun c hc => by simpa using
    (List.mem_filter.mp hc).2)
    (fun c hc => ?_) (fun c hc => by simpa using (List.mem_filter.mp hc).2)
  · rw [memWf_iff] at hs ⊢
    refine ⟨List.pairwise_map.mpr ((List.pairwise_filter.mpr (hs.1.imp fun hcd hc hd => ?_))), fun c hc => ?_⟩
    · simp only [Bool.and_eq_true, decide_eq_true_eq] at hc hd
      show _ - a + b < _ - a + b
      omega
    obtain ⟨c', hc', rfl⟩ := List.mem_map.mp hc
    exact hs.2 c' (List.mem_filter.mp hc').1
  obtain ⟨c', hc', rfl⟩ := List.mem_map.mp hc
  have := (List.mem_filter.mp hc').2
  simp only [Bool.and_eq_true, decide_eq_true_eq] at this
  show b ≤ _ - a + b ∧ _ - a + b < b + n
  omega

/-- A parcel takes the memory `m`, and keeps its reaches and its clusters. -/
protected theorem Canon.setMem {p : Nat} {m : Mem} (h : Canon u s) {x : Parcel} (hm : u.memOk = true → memWf m = true)
    (he : x.stores = (m, (s.parcel p).reaches, (s.parcel p).clusters)) : Canon u (s.setParcel p x) := by
  refine ⟨fun hu => (Canon.refl.setParcel (Parcel.canon_mem (fun _ => hm hu) he)).1 (h.1 hu), fun hu => ?_⟩
  have hr := h.2 hu
  rw [State.registersOk_iff] at hr ⊢
  refine SMap.all_put hr ?_
  simp only [Parcel.stores, Prod.mk.injEq] at he
  simp only [Parcel.registersOk, he.2.1]
  exact SMap.all_get (f := Parcel.registersOk) hr rfl

/-- The host's memory changes; every parcel stays. -/
protected theorem Canon.setHostMem (h : Canon u s) {f : HostPort → HostPort} (hm : u.memOk = true → memWf (f
    s.hub.port).hostMem = true) :
    Canon u (s.updPort f) :=
  ⟨fun hu => State.memOk_iff.mpr ⟨(State.memOk_iff.mp (h.1 hu)).1, hm hu⟩, h.2⟩

theorem State.parcel_memWf (h : s.memOk = true) : memWf (s.parcel p).mem = true := by
  have := Canon.parcel_memOk (p := p) h
  simp only [Parcel.memOk, Bool.and_eq_true] at this
  exact this.1.1

theorem State.hostMem_memWf (h : s.memOk = true) : memWf s.hub.port.hostMem = true := (State.memOk_iff.mp h).2

protected theorem Canon.dmaMove {d n} (h : Canon u s) : Canon u (dmaMove s d n) := by
  unfold dmaMove
  extract_lets p a s1 s2 s3
  have h1 : Canon u s1 := h.smRange.bumpPcnt.bumpBw.bumpBw
  have h2 : Canon u s2 := h.smRange.bumpPcnt.bumpBw.bumpBw
  clear_value s1 s2
  have h3 : Canon u s3 := h2.setMem (fun hu => memWf_copyRange (State.hostMem_memWf (h.1 hu)) (State.parcel_memWf
    (h2.1 hu))) (by rfl)
  exact .ite (h1.setHostMem fun hu => memWf_copyRange (State.parcel_memWf (h.1 hu)) (State.hostMem_memWf (h1.1 hu)))
    h3.setUpsets

protected theorem Canon.dmaAbortAll (h : Canon u s) : Canon u (dmaAbortAll s) :=
  h.foldl (fun h => .ite h.useFree.dmaMove.dmaEnd (.ite h.updDma.dmaEnd h))

/-! ### The operations of `Machine/Stay.lean` -/

protected theorem Canon.updStay {f} (h : Canon u s) : Canon u (updStay s f) := h.same (by rfl)

protected theorem Canon.raiseStay {code leaving tail} (h : Canon u s) : Canon u (raiseStay s code leaving tail) :=
  h.raise.setHubInt

protected theorem Canon.stayAsserted {leaving} (h : Canon u s) : Canon u (stayAsserted s leaving) := h.raiseStay.updStay

protected theorem Canon.stayMove {both off} (h : Canon u s) : Canon u (stayMove s both off) :=
  .ite (.ite h.updStay.stayAsserted (.ite h h.updStay)) (.ite (.ite h.updStay.stayAsserted (.ite h.updStay
    h.updStay)) (.ite (.ite h.updStay (.ite h.updStay (.ite h h.updStay))) h))

protected theorem Canon.stayStop {p} (h : Canon u s) : Canon u (stayStop s p) :=
  h.forReaches (fun h => h.cutStep.stopRun)

protected theorem Canon.stayRearm (h : Canon u s) : Canon u (stayRearm s) := .ite h.updStay h

end Sys2Proof.Machine
end

section
/-! SUPPORT. The canonical form. The registers, the windows, the package and the dictionary. -/

namespace Sys2Proof.Machine

variable {u s t : State}

/-! ### The operations of `Machine/RegMap.lean` -/

protected theorem Canon.takeLatch {rq a v} (h : Canon u s) : Canon u (takeLatch s rq a v) := by
  unfold takeLatch
  dsimp only
  split
  · exact h.updReach (by rfl)
  · exact h.updParcel (by rfl)
  · exact h.updParcel (by rfl)
  · exact h.updPort (by rfl)
  · exact h

protected theorem Canon.regRead {rq a size} (h : Canon u s) : Canon u (regRead s rq a size).1 := by
  unfold regRead
  dsimp only
  split
  · exact h
  split
  · exact h.takeLatch
  split
  · exact h
  · exact h

protected theorem Canon.refuseAccess {rq a size mem} (h : Canon u s) : Canon u (refuseAccess s rq a size mem) := h.raise

/-! ### The operations of `Machine/RegWrite.lean` -/

theorem Reach.canon_store {r : Reach} {rq off v set} : Reach.Canon r (reachStore r rq off v set) := by
  unfold reachStore
  split
  · exact ⟨id, id⟩
  split
  · exact ⟨id, id⟩
  split
  · exact ⟨id, id⟩
  split
  · exact ⟨id, id⟩
  split
  · exact ⟨id, id⟩
  split
  · split <;> exact ⟨id, id⟩
  split
  · exact Reach.canon_mems id (memWf_write _ _) (by rfl)
  split
  · exact ⟨id, id⟩
  split
  · unfold stageWrite
    split <;> split <;> exact ⟨id, id⟩
  · exact ⟨id, id⟩

protected theorem Canon.reachSet {rq p l off v} (h : Canon u s) : Canon u (reachSet s rq p l off v) :=
  .ite h.ctlWrite (.ite h.pcWrite (.ite h.imgWrite (h.updReachWith fun _ => Reach.canon_store)))

protected theorem Canon.membersSetCluster {p c k m} (h : Canon u s) : Canon u (membersSetCluster s p c k m) :=
  .ite h.setClusterBar.clusterRound h.setClusterBar

protected theorem Canon.membersSetParcel {p k m} (h : Canon u s) : Canon u (membersSetParcel s p k m) :=
  .ite h.setParcelBar.parcelRound h.setParcelBar

protected theorem Canon.clusterSet {p c off v} (h : Canon u s) : Canon u (clusterSet s p c off v) := by
  refine .ite h.membersSetCluster (h.updCluster (funext fun _ => ?_))
  dsimp only [Function.comp]
  split
  · rfl
  split
  · rfl
  split
  · rfl
  split
  · rfl
  · rfl

protected theorem Canon.intStatSet {p v} (h : Canon u s) : Canon u (intStatSet s p v) :=
  h.updMon.foldl (fun h => .ite h.msix h)

protected theorem Canon.hubIntStatSet {v} (h : Canon u s) : Canon u (hubIntStatSet s v) :=
  (h.updPort (by rfl)).foldl (fun h => .ite h.msix h)

protected theorem Canon.intEnSet {p v} (h : Canon u s) : Canon u (intEnSet s p v) :=
  h.updMon.foldl (fun h => .ite h.msix h)

protected theorem Canon.hubIntEnSet {v} (h : Canon u s) : Canon u (hubIntEnSet s v) :=
  (h.updPort (by rfl)).foldl (fun h => .ite h.msix h)

protected theorem Canon.parcelSet {p off v} (h : Canon u s) : Canon u (parcelSet s p off v) := by
  refine .ite (h.updParcel (by rfl)) (.ite h.membersSetParcel (.ite h.updKeys (.ite h.skewCfgSet (.ite
    h.chanRotateSet (.ite h.intStatSet
    (.ite h.intEnSet (.ite h.parcelArrive (.ite h.perfCtlSet (.ite h.sampleCfgSet (.ite h.bwCfgSet ?_))))))))))
  split
  · exact .ite h.linkCtlWrite h
  · exact h.updMon.updFab

protected theorem Canon.schedSet {k w v} (h : Canon u s) : Canon u (schedSet s k w v) := h.updHub (by rfl)

protected theorem Canon.hubSet {off v} (h : Canon u s) : Canon u (hubSet s off v) :=
  .ite h.datumCfgSet (.ite h.datumLoadSet (.ite h.schedSet (.ite (h.updHub (by rfl)) (.ite h.hubIntStatSet (.ite
    h.hubIntEnSet (.ite (.ite h.dmaArm h.dmaSet) (.ite h.setLimit (.ite h.pwrParcelSet (.ite (h.same (by rfl)) (.ite
    h.updStay (.ite (.ite h.stayRearm h) h)))))))))))

protected theorem Canon.msixRelease {fn} (h : Canon u s) : Canon u (msixRelease s fn) :=
  h.foldl (fun h => .ite (h.updPort (by rfl)) h)

protected theorem Canon.configSet {fn r v} (h : Canon u s) : Canon u (configSet s fn r v) := by
  unfold configSet
  split
  · exact .ite h (h.updPort (by rfl))
  · exact (h.updPort (by rfl)).msixRelease
  · exact (h.updPort (by rfl)).msixRelease

protected theorem Canon.regSet {rq a v} (h : Canon u s) : Canon u (regSet s rq a v) := by
  unfold regSet
  split
  · exact h.reachSet
  · exact h.clusterSet
  · exact h.parcelSet
  · exact h.hubSet
  · exact h.configSet

protected theorem Canon.dropStaging {rq a} (h : Canon u s) : Canon u (dropStaging s rq a) := by
  unfold dropStaging
  split
  · split
    · exact .ite h (.ite (h.updReach (by rfl)) (h.updReach (by rfl)))
    · exact h
  · exact h
  · exact h
  · exact h
  · exact h

protected theorem Canon.raiseRegState {a} (h : Canon u s) : Canon u (raiseRegState s a) := h.raise

protected theorem Canon.regWrite {rq a size v} (h : Canon u s) : Canon u (regWrite s rq a size v) := by
  unfold regWrite
  split
  · exact h.regSet
  · exact h
  · exact h.raiseRegState
  · exact h.hubPast
  · exact h.refuseAccess
  · exact h.raise.dropStaging

/-! ### The operations of `Machine/Access.lean` -/

protected theorem Canon.reply {r} (h : Canon u s) : Canon u (reply s r) := h.updPort (by rfl)

protected theorem Canon.refuseWin {src parcel mem off acc} (h : Canon u s) :
    Canon u (refuseWin s src parcel mem off acc) :=
  .ite h.raise.reply h.raise

protected theorem Canon.abortWin {acc} (h : Canon u s) : Canon u (abortWin s acc) := .ite h.reply h

protected theorem Canon.cacheLine {p line} (h : Canon u s) : Canon u (cacheLine s p line) :=
  .ite h (.ite (h.updPort (by rfl)) (h.updPort (by rfl)).snooped)

protected theorem Canon.cellError {k a n err} (h : Canon u s) : Canon u (cellError s k a n err) := h.plantIn.settle

protected theorem Canon.countHost {k write n cxl} (h : Canon u s) : Canon u (countHost s k write n cxl) := by
  unfold countHost
  dsimp only
  split
  · refine .bumpBw ?_
    split
    · split
      · exact h.bumpCcnt
      · exact h
    refine .bumpBw ?_
    split
    · exact h.bumpCcnt
    · exact h
  refine .bumpBw ?_
  refine .bumpPcnt ?_
  split
  · split
    · exact h.bumpCcnt
    · exact h
  refine .bumpBw ?_
  split
  · exact h.bumpCcnt
  · exact h

protected theorem Canon.hostRead {k a n cxl err} (h : Canon u s) : Canon u (hostRead s k a n cxl err) :=
  .same (.reply (.cellError (.countHost (.ite (.foldl .cacheLine (.smCount (.ite h h.backInvalidate))) (.smCount
    (.ite h h.backInvalidate)))))) (by rfl)

protected theorem Canon.hostStore {k a bs cxl} (h : Canon u s) : Canon u (hostStore s k a bs cxl) :=
  .foldl .raiseUe (.writeCells (.countHost (.smCount (.ite h h.backInvalidate))))

protected theorem Canon.memAccess {k a acc cxl err} (h : Canon u s) : Canon u (memAccess s k a acc cxl err) := by
  unfold memAccess
  split
  · exact h.hostRead
  · exact h.hostStore

protected theorem Canon.parcelWin {p off acc cxl err} (h : Canon u s) : Canon u (parcelWin s p off acc cxl err) := by
  unfold parcelWin
  split
  · exact h.refuseWin
  split
  · exact h.refuseWin
  · exact h.memAccess

protected theorem Canon.hubWin {off acc} (h : Canon u s) : Canon u (hubWin s off acc) := by
  unfold hubWin
  split
  · exact .ite h.reply h.refuseWin
  · exact h.refuseWin

protected theorem Canon.portCount {p write n} (h : Canon u s) : Canon u (portCount s p write n) :=
  .ite h.bumpBw h.bumpPcnt.bumpBw

theorem Reach.canon_scalarStore {r : Reach} {o bs} : Reach.Canon r (scalarStore r o bs) :=
  foldl_keeps (Reach.Canon r) (fun hx => ⟨Reach.canon_setScalar.1 ∘ hx.1, Reach.canon_setScalar.2 ∘ hx.2⟩) ⟨id, id⟩

protected theorem Canon.dbgWin {p off acc} (h : Canon u s) : Canon u (dbgWin s p off acc) := by
  unfold dbgWin
  dsimp only
  split
  · exact h.refuseWin
  cases acc with
  | read n => exact .ite h.portCount.reply (.ite h.portCount.reply h.refuseWin)
  | write bs => exact .ite (h.updReachWith fun _ => Reach.canon_scalarStore).portCount h.refuseWin

protected theorem Canon.replyTo {rq r} (h : Canon u s) : Canon u (replyTo s rq r) := .ite h.reply h

protected theorem Canon.portBytes {rq p write n} (h : Canon u s) : Canon u (portBytes s rq p write n) :=
  .ite h h.portCount

protected theorem Canon.readNow {rq a size} (h : Canon u s) : Canon u (readNow s rq a size) := h.regRead.replyTo

protected theorem Canon.performHeld {p a} (h : Canon u s) : Canon u (performHeld s p a) := by
  unfold performHeld
  split
  · exact h.regWrite
  · exact h.portBytes.readNow
  · exact h.dbgWin
  · exact h.parcelWin

protected theorem Canon.releaseHeld {p} (h : Canon u s) : Canon u (releaseHeld s p) := by
  refine Canon.updParcel (foldl_keeps (fun x : State × List Held => Canon u x.1) (fun {x _} hx => ?_) h) (by rfl)
  split
  · exact hx
  · exact hx.performHeld

protected theorem Canon.holdOr {p h'} (h : Canon u s) : Canon u (holdOr s p h') :=
  .ite (h.updParcel (by rfl)) h.performHeld

protected theorem Canon.accessWrite {rq a size v} (h : Canon u s) : Canon u (accessWrite s rq a size v) := by
  unfold accessWrite
  split
  · exact h.reply
  split
  · exact h
  split
  · exact h.refuseAccess
  split
  · exact h.regWrite
  · exact h.regWrite
  · exact h.portBytes.holdOr
  · exact h.portBytes.holdOr
  · exact h.portBytes.holdOr

protected theorem Canon.accessRead {rq a size} (h : Canon u s) : Canon u (accessRead s rq a size) := by
  unfold accessRead
  split
  · exact h.reply
  split
  · exact h
  split
  · exact h.replyTo
  split
  · exact h.refuseAccess.replyTo
  split
  · exact h.readNow
  · exact h.readNow
  · exact h.holdOr
  · exact h.holdOr
  · exact h.holdOr

/-! ### The operations of `Machine/Csr.lean` -/

protected theorem Canon.csrValue {p l j} (h : Canon u s) : Canon u (csrValue s p l j).1 := by
  unfold csrValue
  split
  · exact h
  · exact h.regRead

protected theorem Canon.completeFlight {p l f} (h : Canon u s) : Canon u (completeFlight s p l f) :=
  h.retire.buildDone.releaseHeld.wakeHead

/-! ### The operations of `Machine/Package.lean` -/

protected theorem Canon.updLands {f} (h : Canon u s) : Canon u (State.updLands s f) := h.updHub (by rfl)

protected theorem Canon.dmaReset {c} (h : Canon u s) : Canon u (dmaReset s c) :=
  .ite h.useFree.dmaMove.dmaEnd.updDma h.updDma

protected theorem Canon.dmaResetAll (h : Canon u s) : Canon u (dmaResetAll s) := h.foldl .dmaReset
protected theorem Canon.msixReset {fn} (h : Canon u s) : Canon u (msixReset s fn) := h.updPort (by rfl)

protected theorem Canon.portReset (h : Canon u s) : Canon u (portReset s) :=
  (h.dmaResetAll.foldl .msixReset).updPort (by rfl)

protected theorem Canon.bootBank (h : Canon u s) : Canon u (bootBank s) := by
  unfold bootBank
  dsimp only
  split <;> exact (h.updHub (by rfl)).updDict

protected theorem Canon.resetParcels {f} (hf : ∀ x, Parcel.Canon x (f x)) (h : Canon u s) :
    Canon u (resetParcels s f) :=
  h.drainIf.forParcels fun h => h.resetParcel.updParcelWith hf

theorem Parcel.canon_memoryLost {x : Parcel} : Parcel.Canon x x.memoryLost := Parcel.canon_of (fun _ => rfl) ⟨id, id⟩ id

protected theorem Canon.loadLost (h : Canon u s) : Canon u (loadLost s) := by
  have h1 : Canon u (portReset (resetParcels s Parcel.memoryLost)) := (h.resetParcels fun _ =>
    Parcel.canon_memoryLost).portReset
  exact (h1.updHub (by rfl)).setUpsets

protected theorem Canon.completeRecord (h : Canon u s) : Canon u (completeRecord s) := by
  unfold completeRecord
  split
  · exact h.bookDone
  · exact h

theorem Parcel.canon_fresh {x : Parcel} {st} :
    Parcel.Canon x { x.fresh with state := st } := Parcel.canon_of (fun _ => rfl) ⟨id, id⟩ id

protected theorem Canon.packageReset (h : Canon u s) : Canon u (packageReset s) := by
  unfold packageReset
  extract_lets s0 st s1 port hub s2
  have h0 : Canon u s0 := h.completeRecord
  have h1 : Canon u s1 := (h0.resetParcels fun _ => Parcel.canon_fresh).portReset
  clear_value s1
  have h2 : Canon u s2 := h1.same (by rfl)
  exact .ite h (.ite h2.bootBank h2)

theorem Parcel.canon_unpowered {x : Parcel} : Parcel.Canon x x.unpowered :=
  Parcel.canon_of (fun _ => rfl) (.map (f := fun r =>
    { task := { retired := r.task.retired, issueNo := r.task.issueNo } }) fun _ => Reach.canon_new (by rfl))
    (.map (f := fun c => { reachMap := c.reachMap, spare := c.spare, hardUnits := c.hardUnits, spareRows := c.spareRows }) fun _ _ => rfl)

protected theorem Canon.unpowered (h : Canon u s) :
    Canon u (unpowered s) := h.mapParcels (fun _ => Parcel.canon_unpowered) (by rfl)

protected theorem Canon.setLands {f} (h : Canon u s) : Canon u (setLands s f) :=
  .ite h.updLands.packageReset (.ite (h.updLands.updHub (by rfl)) h.updLands)

protected theorem Canon.tapLoad {ir ac f} (h : Canon u s) : Canon u (tapLoad s ir ac f) := .ite (h.updHub (by rfl)) h

/-! ### The operations of `Machine/States.lean` -/

protected theorem Canon.parcelsEnter {a b} (h : Canon u s) : Canon u (parcelsEnter s a b) :=
  h.forParcels (fun h => .ite h.enterState h)

protected theorem Canon.hubEnter {st} (h : Canon u s) : Canon u (hubEnter s st) := h.updHub (by rfl)
protected theorem Canon.linksBack {p} (h : Canon u s) : Canon u (linksBack s p) := h.riverOff.updParcel (by rfl)

/-! ### The operations of `Machine/Dict.lean` -/

protected theorem Canon.sendMsg {path m} (h : Canon u s) : Canon u (sendMsg s path m) := by
  unfold sendMsg
  split
  · exact h.i3cPush
  · exact h.updDict
  · exact h.updDict

protected theorem Canon.phySeen {a} (h : Canon u s) : Canon u (phySeen s a) := by
  unfold phySeen
  split
  · exact h
  · exact h.updDict
  · exact h.updDict

protected theorem Canon.tagged {m} (h : Canon u s) : Canon u (tagged s m).1 := by
  unfold tagged
  dsimp only
  split
  · exact h
  split
  · exact h
  · exact h.useFree

protected theorem Canon.raiseDict {path m code status parcel} (h : Canon u s) :
    Canon u (raiseDict s path m code status parcel) :=
  h.raise

protected theorem Canon.raiseDictIllegal {m} (h : Canon u s) : Canon u (raiseDictIllegal s m) := h.raise

protected theorem Canon.raiseStatus {path m status parcel} (h : Canon u s) :
    Canon u (raiseStatus s path m status parcel) :=
  .ite h.raiseDict (.ite h.raiseDict (.ite h.raiseDictIllegal h))

protected theorem Canon.snapTaken {who o off} (h : Canon u s) : Canon u (snapTaken s who o off) := by
  unfold snapTaken
  split
  · exact .ite h.updDict h
  · exact h

protected theorem Canon.mirror {a f} (h : Canon u s) : Canon u (mirror s a f).1 := by
  unfold mirror
  dsimp only
  split
  · exact h.regSet
  · exact h
  · exact h
  · exact h.hubPast
  · exact h
  · exact h

protected theorem Canon.mirrorField {a lo n v} (h : Canon u s) : Canon u (mirrorField s a lo n v).1 := h.mirror
protected theorem Canon.dropSched {who k} (h : Canon u s) : Canon u (dropSched s who k) := h.updDict
protected theorem Canon.stageSched {who k sub v} (h : Canon u s) : Canon u (stageSched s who k sub v) := h.updDict

protected theorem Canon.schedValidWrite {who k v} (h : Canon u s) : Canon u (schedValidWrite s who k v).1 := by
  unfold schedValidWrite
  dsimp only
  split
  · exact h.updHub (by rfl)
  split
  · exact h.dropSched
  split
  · exact h.dropSched
  split
  · exact h.dropSched.hubPast
  · exact h.dropSched.updHub (by rfl)

protected theorem Canon.dropStaged {index sub} (h : Canon u s) : Canon u (dropStaged s index sub) := h.updDict
protected theorem Canon.commitImage {b img} (h : Canon u s) : Canon u (commitImage s b img) := h.updHub (by rfl)

protected theorem Canon.imageSegment {who m} (h : Canon u s) : Canon u (imageSegment s who m).1 := by
  unfold imageSegment
  dsimp only
  split
  · exact h
  split
  · exact h
  split
  · exact h.dropStaged.commitImage
  · exact h.dropStaged.updDict

theorem Canon.getD {o : Option State} (ho : ∀ t ∈ o, Canon u t) (h : Canon u s) : Canon u (o.getD s) := by
  cases o with
  | none => exact h
  | some t => exact ho t rfl

theorem Canon.ofSome (h : Canon u s) : ∀ t ∈ some s, Canon u t := fun _ ht => Option.mem_some.mp ht ▸ h

theorem Canon.iteSome {P : Prop} [Decidable P] {o o' : Option State} (h : ∀ t ∈ o, Canon u t) (h' : ∀ t ∈ o', Canon u t) :
    ∀ t ∈ (if P then o else o'), Canon u t := by
  split <;> assumption

theorem Canon.ofNone : ∀ t ∈ (none : Option State), Canon u t := by simp

theorem Canon.pkgMove {v} (h : Canon u s) : ∀ t ∈ pkgMove s v, Canon u t := by
  refine iteSome ofNone (iteSome h.ofSome ?_)
  split
  · exact iteSome h.hubEnter.parcelsEnter.ofSome ofNone
  · exact iteSome (Canon.forParcels .linksBack h.hubEnter).parcelsEnter.ofSome (iteSome
      h.hubEnter.parcelsEnter.ofSome ofNone)
  · exact iteSome h.hubEnter.parcelsEnter.ofSome ofNone
  · exact iteSome h.hubEnter.parcelsEnter.ofSome ofNone
  · exact ofNone
  · exact ofNone
  · exact ofNone
  · exact ofNone

theorem Canon.parcelMove {p v} (h : Canon u s) : ∀ t ∈ parcelMove s p v, Canon u t := by
  refine iteSome ofNone (iteSome h.ofSome ?_)
  split
  · exact iteSome h.enterState.ofSome ofNone
  · exact iteSome h.linksBack.enterState.ofSome (iteSome h.enterState.ofSome ofNone)
  · exact iteSome h.enterState.ofSome ofNone
  · exact iteSome h.enterState.ofSome ofNone
  · exact ofNone
  · exact ofNone
  · exact ofNone
  · exact ofNone

protected theorem Canon.objWrite {who v} {o : Obj} (h : Canon u s) : Canon u (o.write s who v).1 := by
  unfold Obj.write
  split
  · exact h.updDict
  · exact h.updDict
  · exact h.updDict
  · exact h.updHub (by rfl)
  · exact .getD h.pkgMove h
  · exact .getD h.parcelMove h
  · exact h.mirrorField
  · exact h.mirrorField
  · exact h.mirrorField
  · exact h.mirrorField
  · exact h.mirrorField
  · exact h.mirrorField
  · exact h.mirrorField
  · exact h.mirrorField
  · exact h.mirror
  · exact h.schedValidWrite
  · split
    · exact h
    · exact h.stageSched
  · exact h.mirrorField
  · exact h.mirrorField
  · exact h.mirrorField
  · split
    · exact h
    · exact h.mirrorField
  · exact h.mirrorField
  · exact h.updDict
  · exact .ite h.snapshotAll h
  · exact h.mirrorField
  · exact h.mirrorField
  · exact h

protected theorem Canon.objWriteStr {data} {o : Obj} (h : Canon u s) : Canon u (o.writeStr s data).1 := by
  unfold Obj.writeStr
  split
  · exact h.updDict
  · exact h

protected theorem Canon.writeEntry {who o x m} (h : Canon u s) : Canon u (writeEntry s who o x m).1 := by
  unfold writeEntry
  split
  · split
    · exact h
    · exact h.objWrite
  · exact h.objWriteStr
  · exact h.imageSegment

protected theorem Canon.takeSeq {m} (h : Canon u s) : Canon u (takeSeq s m) := .ite h h.updDict

protected theorem Canon.access {role o m} (h : Canon u s) : Canon u (access s role o m).st := by
  unfold access
  dsimp only
  split
  · exact h
  split
  · exact h
  split
  · exact h
  split
  · exact h.writeEntry
  · exact h.snapTaken

protected theorem Canon.answer {path m keep kind} {r : Served} (h : Canon u r.st) :
    Canon u (answer path m keep kind r) := by
  have h1 : Canon u (tagged (raiseStatus r.st path m r.status r.parcel) (responseMsg m kind r.status r.flags
    r.data)).1 := h.raiseStatus.tagged
  exact Canon.sendMsg (.ite h1.updDict h1)

protected theorem Canon.serveAccess {path m} (h : Canon u s) : Canon u (serveAccess s path m) := by
  unfold serveAccess
  split
  · exact Canon.answer h
  split
  · exact Canon.answer h
  · exact h.sendMsg
  · exact h.updDict
  · exact Canon.answer h.takeSeq.access

protected theorem Canon.serveDiscover {path m} (h : Canon u s) : Canon u (serveDiscover s path m) := by
  unfold serveDiscover
  split
  · exact .sendMsg (.ite h.raiseStatus.tagged.updDict h.raiseStatus.tagged)
  · exact h.sendMsg
  · exact h.updDict
  · exact h.takeSeq.updDict

protected theorem Canon.serve {path m} (h : Canon u s) : Canon u (serve s path m) :=
  .ite (.sendMsg (.ite h.raiseStatus.tagged.updDict h.raiseStatus.tagged)) (.ite h.serveDiscover h.serveAccess)

protected theorem Canon.receive {path m} (h : Canon u s) : Canon u (receive s path m) :=
  .ite h (.ite h.phySeen (.ite h.phySeen.updDict h.phySeen.serve))

end Sys2Proof.Machine
end

section
/-! SUPPORT. The canonical form through every command and every step. -/

namespace Sys2Proof.Machine

variable {u s t : State}

/-- Every state that the outcome leaves stands in canonical form where `u` did. -/
def Keeps (u : State) (o : Out) : Prop := ∀ t, o = .next t → Canon u t

theorem Keeps.next (h : Canon u s) : Keeps u (.next s) := fun _ e => (Host.Outcome.next.inj e) ▸ h

theorem Canon.of_eq {α : Type} {x : State × α} {a : α} (h : Canon u x.1) (e : x = (t, a)) : Canon u t := by
  subst e
  exact h

theorem Keeps.fault {r} : Keeps u (.fault r) := fun _ e => nomatch e

theorem Keeps.ite {P : Prop} [Decidable P] {a b : Out} (ha : Keeps u a) (hb : Keeps u b) :
    Keeps u (if P then a else b) := by
  split <;> assumption

protected theorem Canon.wordWrite {rq a v} (h : Canon u s) : Keeps u (wordWrite s rq a v) := .next h.accessWrite

protected theorem Canon.execRtBuildStart {p c} (h : Canon u s) : Keeps u (execRtBuildStart p c s) := by
  unfold execRtBuildStart
  refine .next ?_
  split
  · exact h.updFlight.startRun .runBuild
  · exact h

protected theorem Canon.execConfluenceAdd {p} (h : Canon u s) : Keeps u (execConfluenceAdd p s) := by
  unfold execConfluenceAdd
  refine .next ?_
  split
  · exact h
  · exact (h.updParcel (by rfl)).applyAdd

protected theorem Canon.execConfluenceRowRx {p k} (h : Canon u s) : Keeps u (execConfluenceRowRx p k s) := by
  have hk : Canon u (acceptPacket s p k).1 := h.acceptPacket
  refine .next ?_
  split
  · split
    · next e => exact Canon.confluenceRow (hk.of_eq e)
    · next e => exact hk.of_eq e
  · exact h

/-- A packet that is looked up, or what stands for none found. -/
theorem Canon.lookedUp {x : Option Packet} {f : Packet → State} (h : Canon u s) (hf : ∀ a, Canon u (f a)) : Canon u
    (match x with
    | none => s
    | some a => f a) := by
  split
  · exact h
  · exact hf _

protected theorem Canon.execConfluenceAnswerRx {p id mask} (h : Canon u s) :
    Keeps u (execConfluenceAnswerRx p id mask s) := by
  unfold execConfluenceAnswerRx
  refine .next (.lookedUp h.rowAnswered fun k => ?_)
  have hk : Canon u (acceptPacket s p k).1 := h.acceptPacket
  split
  · next e => exact Canon.rowAnswered (hk.of_eq e)
  · next e => exact hk.of_eq e

protected theorem Canon.execConfluenceAnswerTimeout {p id} (h : Canon u s) :
    Keeps u (execConfluenceAnswerTimeout p id s) := by
  unfold execConfluenceAnswerTimeout
  refine .next ?_
  split
  · exact h
  · exact .ite h.endRow h

protected theorem Canon.execCascadeTileRx {p port k} (h : Canon u s) : Keeps u (execCascadeTileRx p port k s) := by
  have hk : Canon u (acceptPacket s p k).1 := h.acceptPacket
  refine .next ?_
  split
  · exact h
  split
  · next e => exact hk.of_eq e
  · next e =>
    split
    · exact hk.of_eq e
    · exact Canon.addSum (hk.of_eq e)

protected theorem Canon.execStakStep {p l} (h : Canon u s) : Keeps u (execStakStep p l s) := by
  refine .next (h.issueStak fun h => .ite h.holdStake ?_)
  split
  · next e => exact h.stopAtStep e
  · exact .ite h.openStep h.holdStake

protected theorem Canon.execFieldBookWrite {okA okB} (h : Canon u s) : Keeps u (execFieldBookWrite okA okB s) := by
  unfold execFieldBookWrite
  refine .next ?_
  split
  · exact .ite h.bookWrite h
  · exact h

protected theorem Canon.execNegRx {p port n} (h : Canon u s) : Keeps u (execNegRx p port n s) := by
  unfold execNegRx
  refine .next ?_
  split
  · exact h
  split
  · exact h.raisePeer.negFails
  split
  · exact h.wiringFails
  split
  · exact h.updLink
  · exact .ite h.updLink.linkUp h.wiringFails

protected theorem Canon.execVerRx {p port vmax vmin} (h : Canon u s) : Keeps u (execVerRx p port vmax vmin s) := by
  unfold execVerRx
  refine .next ?_
  split
  · exact h
  split
  · exact h.updLink.raisePeer.linkDown
  · exact .verCount (.updLink (.ite h.updLink h.updLink.sendVer))

protected theorem Canon.execLinkRetryExhaust {p port} (h : Canon u s) : Keeps u (execLinkRetryExhaust p port s) := by
  unfold execLinkRetryExhaust
  dsimp only
  refine .next ?_
  split
  · exact .ite h.raise.linkDown h
  · exact h

protected theorem Canon.execMessagePacketRx {p k} (h : Canon u s) : Keeps u (execMessagePacketRx p k s) := by
  have hk : Canon u (acceptPacket s p k).1 := h.acceptPacket
  refine .next ?_
  split
  · exact h
  split
  · next e => exact Canon.messageIn (hk.of_eq e)
  · next e => exact hk.of_eq e

protected theorem Canon.execMessageAnswerRx {p id result} (h : Canon u s) :
    Keeps u (execMessageAnswerRx p id result s) := by
  unfold execMessageAnswerRx
  refine .next (.lookedUp h.messageAnswered fun k => ?_)
  have hk : Canon u (acceptPacket s p k).1 := h.acceptPacket
  split
  · next e => exact Canon.messageAnswered (hk.of_eq e)
  · next e => exact hk.of_eq e

protected theorem Canon.execMessageLost {p id} (h : Canon u s) : Keeps u (execMessageLost p id s) := by
  unfold execMessageLost
  refine .next ?_
  split
  · exact h
  · exact .ite h.updFab.countLost h

protected theorem Canon.execDatumJumpCorrection (h : Canon u s) : Keeps u (execDatumJumpCorrection s) := by
  unfold execDatumJumpCorrection
  refine .next ?_
  split
  · exact h
  · exact h.tickBoundary.updDatum
  · exact h.passTo.updDatum

protected theorem Canon.execClockGatingEnd (h : Canon u s) : Keeps u (execClockGatingEnd s) := by
  unfold execClockGatingEnd
  refine .next ?_
  split
  · exact h
  · exact h.tickBoundary.updDatum

protected theorem Canon.execSourceLinkLost (h : Canon u s) : Keeps u (execSourceLinkLost s) := by
  unfold execSourceLinkLost
  refine .next ?_
  split
  · split
    · exact .ite h.adopt h.enterHoldover
    · exact h.enterHoldover
  · exact h

protected theorem Canon.execHoldoverExpiry (h : Canon u s) : Keeps u (execHoldoverExpiry s) := by
  unfold execHoldoverExpiry
  refine .next ?_
  split
  · split
    · exact .ite h.raiseLoss.adopt h.raiseLoss.enterDatum
    · exact h.raiseLoss.enterDatum
  · exact h

protected theorem Canon.execParcelContain {p cause} (h : Canon u s) : Keeps u (execParcelContain p cause s) := by
  unfold execParcelContain
  refine .next ?_
  split
  · exact h.controlFault
  · exact .ite h.contain h
  · split
    · exact h.thermalFence
    · exact h
  · exact .ite h h.contain

protected theorem Canon.execHubDmaDone {c host} (h0 : Canon u s) : Keeps u (execHubDmaDone c host s) := by
  unfold execHubDmaDone
  extract_lets d n s1
  have h : Canon u s1 := .ite h0.settle h0
  clear_value s1
  refine .next (.ite h (.ite h.useFree.dmaMove.dmaBound.dmaEnd ?_))
  split
  · exact h.dmaMove.dmaEnd
  · exact h.useFree.dmaMove.dmaEnd
  · exact h.dmaMove.dmaEnd

protected theorem Canon.execInstructionComplete {p l k} (h : Canon u s) :
    Keeps u (execInstructionComplete p l k s) := by
  unfold execInstructionComplete
  refine .next ?_
  split
  · exact .ite h.completeFlight h
  · exact h

protected theorem Canon.execTaskStopComplete {p l} (h : Canon u s) : Keeps u (execTaskStopComplete p l s) := by
  unfold execTaskStopComplete
  dsimp only
  refine .next ?_
  split
  · exact .ite h.completeFlight h
  · exact h

protected theorem Canon.execAuxGood {scope} (h : Canon u s) : Keeps u (execAuxGood scope s) :=
  .next (.ite h (Canon.same (s := s.updLands fun x => { x with auxGood := true, scope := scope }) h.updLands (by rfl)))

protected theorem Canon.execStagedWriteTimeout {index sub} (h : Canon u s) :
    Keeps u (execStagedWriteTimeout index sub s) := by
  unfold execStagedWriteTimeout
  refine .next ?_
  split
  · exact .ite h.dropStaged h
  · exact h

protected theorem Canon.execDiscoverAnswer (h : Canon u s) : Keeps u (execDiscoverAnswer s) := by
  refine .next ?_
  split
  · exact h
  split
  · exact h
  dsimp only
  split
  · exact h.updDict.sendMsg
  · exact Canon.answer h.updDict

protected theorem Canon.execSyncBarMembersWrite {rq p c k v} (h : Canon u s) :
    Keeps u (execSyncBarMembersWrite rq p c k v s) := by
  unfold execSyncBarMembersWrite
  refine .next ?_
  split <;> exact h.accessWrite

/-- Every command keeps the canonical form: the state that it leaves stands in it where the state before stood. -/
protected theorem Canon.exec {i : Instr} (h : Canon u s) : Keeps u (exec i s) := by
  cases i with
  | matb => exact .next (.issueUnit (.ite h.plantIn h) .runMatb)
  | matlBuild => exact .next (h.issueUnit .issueBuild)
  | rtBuildStart => exact h.execRtBuildStart
  | matlLook => exact .next h.issueLook
  | rtLookStart => exact .next (.ite h.updTask.issueLook h)
  | rifl => exact .next (h.issueUnit .runRifl)
  | dlta => exact .next (h.issueUnit .runDlta)
  | move => exact .next (h.issueMove .runDense)
  | movePoolSave => exact .next (h.issueMove .runPoolSave)
  | movePoolRestore => exact .next (h.issueMove .runPoolRestore)
  | moveImemLoad => exact .next (h.issueMove .runDense)
  | moveHalo => exact .next (h.issueMove .runDense)
  | moveLocalCopy => exact .next (h.issueMove .runDense)
  | moveMessageSend => exact .next (h.issueMove .startMessage)
  | messageIdAvailable => exact .next h.resumeMessage.startTurns
  | moveExpand => exact .next (h.issueMove .runExpand)
  | moveStoreUnstructured => exact .next (h.issueMove .runStore)
  | moveStore24 => exact .next (h.issueMove .runStore)
  | moveStore24Masked => exact .next (h.issueMove .runStore)
  | gath => exact .next (h.issueUnit .runGath)
  | scat => exact .next (h.issueUnit .runGath)
  | casc => exact .next (h.issueUnit .runCasc)
  | cascadeHop => exact .next (.ite h h.cascadeHop)
  | cascadeBroken => exact .next h.cascadeBroken
  | conf => exact .next (h.issueUnit .runConf)
  | confluenceAdd => exact h.execConfluenceAdd
  | talyClaim => exact .next (h.issueUnit .runClaim)
  | talySet => exact .next (h.issueUnit .runTalySet)
  | talyRead => exact .next (h.issueUnit .runTalyRead)
  | stakWait => exact .next (h.issueStak (fun h => .ite h.headDone h.holdStake))
  | stakStep => exact h.execStakStep
  | stakArm => exact .next (h.issueStak (fun h => .ite h.updTask (.ite h h.headDone.updTask)))
  | fencAcq => exact .next h.issueFence
  | fencRel => exact .next h.issueFence
  | fencFull => exact .next h.issueFence
  | syncLocal => exact .next (h.issueSync .runLocalSync)
  | syncClusterBarrier => exact .next (h.issueSync .runClusterSync)
  | syncParcelBarrier => exact .next (h.issueSync .runParcelSync)
  | scl => exact .next (h.issueSeq (fun h => h.setScalar.headDone))
  | brc => exact .next (h.issueSeq .headDoneAt)
  | brcHalt => exact .next (h.issueSeq .doHalt)
  | csrRead => exact .next (h.issueSeq (fun h => h.csrValue.setScalar.headDone))
  | csrWrite => exact .next (h.issueSeq (fun h => .ite h h.regWrite.headDone))
  | instructionComplete => exact h.execInstructionComplete
  | sampleRecordWrite => exact .next (.ite h h.updMon)
  | taskRun => exact h.wordWrite
  | taskStopRequest => exact h.wordWrite
  | taskStopComplete => exact h.execTaskStopComplete
  | reachReset => exact h.wordWrite
  | reachResetComplete => exact .next (.ite h.updTask.releaseHeld h)
  | taskImageSave => exact h.wordWrite
  | taskImageRestore => exact h.wordWrite
  | taskImageDone => exact .next h.updTask
  | profileWordWrite => exact .next h.accessWrite
  | profileCommit => exact .next h.accessWrite
  | traverseWordWrite => exact .next h.accessWrite
  | traverseCommit => exact .next h.accessWrite
  | codebookWrite => exact .next h.accessWrite
  | actSegWrite => exact .next h.accessWrite
  | fuseCfgWrite => exact .next h.accessWrite
  | windowWrite => exact .next h.accessWrite
  | swzKeyWrite => exact .next h.accessWrite
  | syncBarMembersWrite => exact h.execSyncBarMembersWrite
  | doorbell => exact .next h.accessWrite
  | intEnWrite => exact .next h.accessWrite
  | confRegionWrite => exact .next h.accessWrite
  | msgChanWrite => exact .next h.accessWrite
  | rxWinWrite => exact .next h.accessWrite
  | torusCfgWrite => exact .next h.accessWrite
  | datumCfgWrite => exact .next h.accessWrite
  | datumLoadWrite => exact .next h.accessWrite
  | stakeSchedWrite => exact .next h.accessWrite
  | linkEnWrite => exact h.wordWrite
  | linkRetrain => exact h.wordWrite
  | linkVerPktWrite => exact h.wordWrite
  | chanRotateArm => exact .next h.accessWrite
  | rotationStart => exact .next (.ite h.updKeys h)
  | rotationBlockMigrated => exact .next (.updKeys (.ite h.mark h))
  | hubDmaArm => exact .next h.accessWrite
  | hubDmaStart => exact .next (.ite h (.ite h.updDma.dmaBound.dmaEnd (.ite h.updDma.dmaBound.dmaEnd h.updDma)))
  | hubDmaDone => exact h.execHubDmaDone
  | pwrCfgWrite => exact .next h.accessWrite
  | pwrParcelWrite => exact .next h.accessWrite
  | perfFreeze => exact h.wordWrite
  | perfSnapRequest => exact h.wordWrite
  | counterSnapshot => exact .next (.ite h.takeSnapshot h)
  | sampleEnable => exact .next h.accessWrite
  | stayDtimeWrite => exact h.wordWrite
  | stayRearm => exact h.wordWrite
  | registerWrite => exact .next h.accessWrite
  | latchedRead => exact .next h.accessRead
  | winMemAccess => exact .next (.ite h (.ite h.hubWin (.ite h.abortWin (.ite h.parcelWin h.holdOr))))
  | winDbgAccess => exact .next (.ite h (.ite h.abortWin h.holdOr))
  | functionLevelResetParcel => exact .next (.ite (h.resetParcel.msixReset.updPort (by rfl)) h)
  | functionLevelResetHub => exact .next (.ite (h.dmaResetAll.msixReset.updPort (by rfl)) h)
  | dictRead => exact .next h.receive
  | dictWrite => exact .next h.receive
  | domainSegmentWrite => exact .next h.receive
  | stagedWriteTimeout => exact h.execStagedWriteTimeout
  | discover => exact .next h.receive
  | discoverAnswer => exact h.execDiscoverAnswer
  | keyWrite => exact .next h.receive
  | firmwareImageLoad => exact .next h.receive
  | requestConfigure => exact .next (.getD h.pkgMove h)
  | requestReady => exact .next (.getD h.pkgMove h)
  | requestRun => exact .next (.getD h.pkgMove h)
  | requestQuiesce => exact .next (.getD h.pkgMove h)
  | parcelStateRequest => exact .next (.ite (.getD h.parcelMove h) h)
  | quiesceReachStop => exact .next (.ite h.stopRun h)
  | snapshotOnCommand => exact .next h.snapshotAll
  | i3cPrivateWrite => exact .next h.receive
  | i3cPrivateRead => exact .next h.updDict
  | entdaa => exact .next (.ite h h.updDict)
  | datumTick => exact .next (.ite h (.ite (.ite h.tickBoundary.updDatum.enterDatum h.tickBoundary) h.tickBoundary))
  | datumSyncPulse => exact .next (.ite h (.ite (.ite h.atPos.updDatum.enterDatum h) h.pulseCompare))
  | datumJumpCorrection => exact h.execDatumJumpCorrection
  | clockGatingEnd => exact h.execClockGatingEnd
  | referenceLost => exact .next h.referenceLost
  | referenceQualified => exact .next h.updDatum
  | holdoverExpiry => exact h.execHoldoverExpiry
  | idleFlitRx => exact .ite .fault (.next (.ite h.flitCommon.recordIn.followDatum h))
  | sourceLinkLost => exact h.execSourceLinkLost
  | stakeReached => exact .next (.ite h h.applyBounds)
  | stretchEnd => exact .next h.stretchDone
  | schedNone => exact .next (h.fire id)
  | schedReachClockSetting => exact .next (h.fire (fun h => h.forMask .updPwr))
  | clockChangeApply => exact .next (.ite h.applyChanges h)
  | schedLockSwitchover => exact .next (.ite h (h.fire (fun h => .ite (h.forMask (fun h => h.updParcel (by rfl)))
    h.lockRefused)))
  | lockSwitchoverApply => exact .next (.ite h.applyLock h)
  | schedSurveyorSwitchover => exact .next (.ite h (h.fire (fun h => .ite (h.updHub (by rfl)) h.lockRefused)))
  | surveyorRestartDone => exact .next (.ite h (((h.updHub (by rfl)).updDict.foldl .serve).sendUnsent))
  | schedCounterSnapshot => exact .next (.ite (h.fire (fun h => h.forMask .takeSnapshot)) h)
  | schedPowerRateLimit => exact .next (h.fire .setLimit)
  | dataFlitRx => exact .ite .fault (.next (.ite h (.ite h.sequencedIn (.ite h (.ite h.protocolError (.ite
    h.nakReceived h.flitCommon))))))
  | nakRx => exact .next (.ite h.nakReceived h)
  | retryTimeout => exact .next (.ite h.resendAll h)
  | linkRetryExhaust => exact h.execLinkRetryExhaust
  | signalDetected => exact .next (.ite h.linkMove h)
  | trainingConverged => exact .next (.ite h.linkMove (.ite h.startNeg h))
  | trainingTimeout => exact .next h.linkMove
  | frameLock => exact .next (.ite h.startNeg h)
  | frameSearchTimeout => exact .next h.linkMove
  | negRx => exact h.execNegRx
  | negTimeout => exact .next h.negFails
  | lossOfSignal => exact .next (.ite h.linkDown h)
  | missingIdleFlits => exact .next (.ite h.linkDown h)
  | holdExpiry => exact .next h.linkMove
  | uciePortDown => exact .next (.ite h.linkDown h)
  | faultRecordRx => exact .next (.ite h h.updFab.setMark.flood)
  | mapRecordRx => exact .next (.ite h h.updFab)
  | verRx => exact h.execVerRx
  | versionSwitch => exact .next (.ite h.updLink h)
  | packetForward => exact .next (.ite h (.ite h.updFab.bumpPcnt h.updFab.forwardPacket))
  | messagePacketRx => exact h.execMessagePacketRx
  | messageAnswerRx => exact h.execMessageAnswerRx
  | messageLost => exact h.execMessageLost
  | confluenceRowRx => exact h.execConfluenceRowRx
  | confluenceAnswerRx => exact h.execConfluenceAnswerRx
  | confluenceAnswerTimeout => exact h.execConfluenceAnswerTimeout
  | readyTokenRx => exact .next (.ite h.readyToken h)
  | cascadeTileRx => exact h.execCascadeTileRx
  | scrubSector => exact .next (.ite h h.plantIn.settle)
  | reachRemap => exact .next (.ite h.remapReach h)
  | reachRetire => exact .next (.ite h.retireReach h)
  | parcelContain => exact h.execParcelContain
  | parcelTrainingEnd => exact .next (.ite h.trainingEnd h)
  | fieldBookWrite => exact h.execFieldBookWrite
  | stayInputChange => exact .next (.ite h h.updStay.stayMove)
  | discrepancyTimeReached => exact .next (.ite h h.raiseStay.updStay)
  | stayQuiesce => exact .next (.ite h (.ite ((((((h.forParcels .stayStop).dmaAbortAll).updStay).updHub (by
    rfl))).forParcels (fun h => .ite (h.updParcel (by rfl)) h)) (((h.forParcels .stayStop).dmaAbortAll).updStay)))
  | governorTick => exact .ite .fault (.next (.ite h (.ite (((h.updPkgPwr.forParcels .govParcel).govSpate).dropWith)
    ((h.updPkgPwr.forParcels .govParcel).govSpate))))
  | spateDropRequest => exact .next (.ite h.updPkgPwr.dropWith h)
  | spateCutShort => exact .next (.ite (((h.foldl (fun h => (h.forReaches .cutStep).applyClock)).updPkgPwr).raiseSpate) h)
  | recoveryEnd => exact .next (.ite (h.updPkgPwr.forParcels .updPwr) h)
  | thermalCapRaise => exact .next (.ite h.updPwr h)
  | sensorSample => exact .next (.ite h (.ite h.storeSample (.ite h.storeSample.updPkgPwr.thermalFence
    (h.storeSample.updPkgPwr.forParcels .thermalFence))))
  | thermtripRelease => exact .next (.ite h.updPkgPwr h)
  | channelThrottleRise => exact .next (.ite (.ite h.updPwr.raise h.updPwr) h)
  | channelThrottleFall => exact .next (.ite h.updPwr h)
  | calWindowClose => exact .next (.ite h.calClose h)
  | channelSkewWindowClose => exact .next (.ite h.skewClose h)
  | bwWindowClose => exact .next (.ite h.updMon h)
  | auxGood => exact h.execAuxGood
  | surveyorBoot => exact .next (.ite ((h.bootBank.updHub (by rfl)).forParcels (fun h => h.updParcel (by rfl))) h)
  | auxLost => exact .next (.ite h.unpowered h)
  | vin48Qualified => exact .next (.ite h.updLands.updPkgPwr h)
  | vin48OutOfRange => exact .next (.ite h (.ite (h.updLands.updPkgPwr.updHub (by rfl)) h.updLands.updPkgPwr.loadLost))
  | identifyToTrain => exact .next (.ite ((h.updHub (by rfl)).forParcels (fun h => h.updParcel (by rfl))) h)
  | trainingComplete => exact .next (.ite h ((h.updHub (by rfl)).forParcels (fun h => .ite h.trainingEnd h)))
  | resetNAsserted => exact .next h.setLands
  | resetNReleased => exact .next h.setLands
  | perstNAsserted => exact .next (.ite h.setLands.portReset h.setLands)
  | perstNReleased => exact .next h.setLands
  | extest => exact .next h.tapLoad
  | samplePreload => exact .next h.tapLoad
  | extestPulse => exact .next h.tapLoad
  | extestTrain => exact .next h.tapLoad
  | highz => exact .next h.tapLoad
  | clamp => exact .next h.tapLoad
  | bypass => exact .next h.tapLoad
  | flitSlot => exact .next (.ite h.updLink.flitSlot h)
  | hostLinkTrained => exact .next (.ite h (h.updPort (by rfl)))

protected theorem Canon.step (h : Canon u s) : Keeps u (step s) := by
  unfold Machine.step
  split
  · exact .next h.cycle
  · exact Canon.exec (h.same (t := { s with pending := _ }) (by rfl))

/-- Settles O60: a step keeps the canonical form, by the rule of the command that it executes. -/
theorem storageStaysCanonical : Obligations.StorageStaysCanonical := by
  unfold Obligations.StorageStaysCanonical
  exact ⟨fun s t hs ht => (Canon.step .refl t ht).1 hs, fun s t hs ht => (Canon.step .refl t ht).2 hs⟩

end Sys2Proof.Machine
end

section
/-!
Staged entries (06 R191, R196, R197): the words of PROFILE and TRAVERSE entries that a requester stages, the entry that the write
of the last word composes of them, and the obligation on their commit.
-/

namespace Sys2Proof.Machine

/-! ### Words of a wide value -/

theorem getLsbD_wordOf {k : Nat} (v : BitVec k) (w : Nat) {i : Nat} (hi : i < 64) : (wordOf v w).getLsbD i = v.getLsbD (64 * w + i) := by
  rw [wordOf, BitVec.getLsbD_ofNat, bvf, field, Nat.testBit_mod_two_pow, Nat.testBit_shiftRight, BitVec.testBit_toNat]
  simp [hi]

theorem wordOf_setWord {k : Nat} (v : BitVec k) (w : Nat) (x : Word) {i : Nat} (hi : 64 * i + 64 ≤ k) :
    wordOf (setWord v w x) i = if i = w then x else wordOf v i := by
  refine BitVec.eq_of_getLsbD_eq fun j hj => ?_
  rw [getLsbD_wordOf _ _ hj, setWord, getLsbD_putField _ _ _ _ _ (by omega)]
  split
  · next h => rw [if_pos (by omega), show 64 * i + j - 64 * w = j by omega, BitVec.testBit_toNat]
  · next h => rw [if_neg (by omega), getLsbD_wordOf _ _ hj]

/-! ### What stands staged -/

theorem stageKey_inj {rq : Requester} {n i j : Nat} : stageKey rq n i = stageKey rq n j ↔ i = j := by
  unfold stageKey; omega

/-- The staged entry: each of its words is the word staged, or the word that stands, under the writable bits (R191). -/
theorem wordOf_stagedEntry {k : Nat} (st : SMap Word) (rq : Requester) (n : Nat) (cur : BitVec k) (mask : Nat → Word) (m : Nat)
    {w i : Nat} (hi : 64 * i + 64 ≤ k) (hw : w ≤ i ∧ i < w + m) :
    wordOf (stagedEntry st rq n cur mask m w) i = (SMap.find st (stageKey rq n i)).getD (wordOf cur i) &&& mask i := by
  induction m generalizing w with
  | zero => omega
  | succ m ih =>
    rw [stagedEntry, wordOf_setWord _ _ _ hi]
    split
    · next h => rw [h]
    · next h => exact ih (by omega)

/-- With the last word put, that word is the one written. -/
theorem find_stage_put (st : SMap Word) (rq : Requester) (n last i : Nat) (v x : Word) :
    (SMap.find (SMap.put st (stageKey rq n last) v) (stageKey rq n i)).getD x =
      if i = last then v else (SMap.find st (stageKey rq n i)).getD x := by
  split
  · next h => rw [h, SMap.find_put_same, Option.getD_some]
  · next h => rw [SMap.find_put_other _ _ _ _ (fun e => h (stageKey_inj.mp e))]

/-- Once a staging ends, nothing of its entry stands staged by the requester. -/
theorem find_endStaging (st : SMap Word) (rq : Requester) (n : Nat) {w : Nat} (hw : w < 16) :
    SMap.find (endStaging st rq n) (stageKey rq n w) = none := by
  cases h : SMap.find (endStaging st rq n) (stageKey rq n w) with
  | none => rfl
  | some v =>
    have hne := (List.mem_filter.mp (SMap.mem_of_find h)).2
    simp only [stageKey, bne_iff_ne] at hne
    omega

/-! ### The registers of an entry -/

theorem stagedAt_prof {n w : Nat} (hn : n < 64) (hw : w < 4) : stagedAt (0x800 + 32 * n + 8 * w) = some (n, w, 3) := by
  rw [stagedAt, if_pos (within_eq_true (by omega)), show (0x800 + 32 * n + 8 * w - 0x800) / 32 = n by omega,
    show (0x800 + 32 * n + 8 * w) % 32 / 8 = w by omega]

theorem stagedAt_trv {n w : Nat} (hn : n < 32) (hw : w < 16) : stagedAt (0x1000 + 128 * n + 8 * w) = some (n, w, 15) := by
  rw [stagedAt, if_neg (not_within (by omega)), if_pos (within_eq_true (by omega)),
    show (0x1000 + 128 * n + 8 * w - 0x1000) / 128 = n by omega, show (0x1000 + 128 * n + 8 * w) % 128 / 8 = w by omega]

theorem reachWord_entry (r : Reach) {off : Nat} (h : 0x800 ≤ off ∧ off < 0x2000) : reachWord r off =
    if within off 0x800 0x800 then wordOf (SMap.get 0 r.prof ((off - 0x800) / 32)) (off % 32 / 8)
    else wordOf (SMap.get 0 r.trv ((off - 0x1000) / 128)) (off % 128 / 8) := by
  unfold reachWord
  rw [if_neg (by omega), if_neg (by omega), if_neg (not_within (by omega)), if_neg (by omega), if_neg (by omega),
    if_neg (by omega), if_neg (by omega), if_neg (by omega), if_neg (by omega), if_neg (by omega),
    if_neg (not_within (by omega))]
  split
  · rfl
  · next hp => rw [if_pos (within_eq_true (by simp [within] at hp; omega))]

theorem reachWord_prof (r : Reach) (n : Fin 64) (w : Fin 4) :
    reachWord r (0x800 + 32 * n + 8 * w) = wordOf (SMap.get 0 r.prof n) w := by
  have hn := n.isLt
  have hw := w.isLt
  rw [reachWord_entry r (by omega), if_pos (within_eq_true (by omega)),
    show (0x800 + 32 * n.val + 8 * w.val - 0x800) / 32 = n.val by omega,
    show (0x800 + 32 * n.val + 8 * w.val) % 32 / 8 = w.val by omega]

theorem reachWord_trv (r : Reach) (n : Fin 32) (w : Fin 16) :
    reachWord r (0x1000 + 128 * n + 8 * w) = wordOf (SMap.get 0 r.trv n) w := by
  have hn := n.isLt
  have hw := w.isLt
  rw [reachWord_entry r (by omega), if_neg (not_within (by omega)),
    show (0x1000 + 128 * n.val + 8 * w.val - 0x1000) / 128 = n.val by omega,
    show (0x1000 + 128 * n.val + 8 * w.val) % 128 / 8 = w.val by omega]

/-- What the commit of a composed entry comes to: a reserved encoding, whose entry begins at `off` and whose word 0 is `v`, or
none (R57, R197). -/
def commitVerdict (reserved : Option Nat) (off : Nat) (v : Word) : Verdict :=
  match reserved with
  | some b => .reserved b off v
  | none => .ok

/-- What decides a write to a word of an entry (R191, R197): the last word commits the entry, any other is only staged. -/
def entryVerdict (r : Reach) (rq : Requester) (v : Word) : Option (Nat × Nat × Nat) → Verdict
  | some (n, 3, 3) => commitVerdict (profReserved (profCommit r rq n v)) (0x800 + 32 * n) (wordOf (profCommit r rq n v) 0)
  | some (n, 15, _) => commitVerdict (trvReserved (trvCommit r rq n v)) (0x1000 + 128 * n) (wordOf (trvCommit r rq n v) 0)
  | _ => .ok

/-- A word that is not the last commits nothing. -/
theorem entryVerdict_stages {r : Reach} {rq : Requester} {v : Word} {n w last : Nat} (hw : w < last) (hl : last = 3 ∨ last = 15) :
    entryVerdict r rq v (some (n, w, last)) = .ok := by
  unfold entryVerdict
  split
  · next e => simp only [Option.some.injEq, Prod.mk.injEq] at e; omega
  · next e => simp only [Option.some.injEq, Prod.mk.injEq] at e; omega
  · rfl

theorem reachVerdict_entry (s : State) (rq : Requester) (p l : Nat) {off : Nat} (v : Word) (h : 0x800 ≤ off ∧ off < 0x2000) :
    reachVerdict s rq p l off v = entryVerdict (s.reach p l) rq v (stagedAt off) := by
  unfold reachVerdict
  rw [if_neg (by omega), if_neg (by omega), if_neg (by omega), if_neg (by omega), if_neg (not_within (by omega)),
    if_neg (by have : Config.imemSize = 16384 := rfl; exact not_within (by omega))]
  rfl

theorem reachStore_entry (r : Reach) (rq : Requester) {off : Nat} (v : Word) (set : Bool) (h : 0x800 ≤ off ∧ off < 0x2000)
    {n w last : Nat} (hs : stagedAt off = some (n, w, last)) : reachStore r rq off v set = stageWrite r rq off n w last v := by
  unfold reachStore
  rw [if_neg (by omega), if_neg (by omega), if_neg (by omega), if_neg (not_within (by omega)), if_neg (not_within (by omega)),
    if_neg (not_within (by omega)), if_neg (by have : Config.imemSize = 16384 := rfl; exact not_within (by omega)),
    if_neg (not_within (by omega)), hs]

/-! ### What the write of a word leaves -/

/-- A change of one reach that touches no memory leaves every other reach and the memories. -/
theorem updReach_frame {s u : State} (hw : world u = world s) (p l : Nat) {f : Reach → Reach}
    (hf : ∀ r, (f r).spad = r.spad ∧ (f r).imem = r.imem) : OtherReaches s (u.updReach p l f) p l ∧ SameMemory s (u.updReach p l f) := by
  refine ⟨fun q m h => (State.updReach_reach_other _ _ _ _ _ _ h).trans (reach_of_world hw q m),
    sameMemory_of_cells (cells_congr (fun q => by simp [mem_of_world hw]) (fun q c => by simp [sameClusters_of_world hw q c])
      fun q m => ?_)⟩
  rw [State.updReach_reach, ← reach_of_world hw q m]
  split
  · next h => obtain ⟨rfl, rfl⟩ := h; exact hf _
  · exact ⟨rfl, rfl⟩

@[simp] theorem world_portBytes (s : State) (rq : Requester) (p : Nat) (w : Bool) (n : Nat) :
    world (portBytes s rq p w n) = world s := by
  unfold portBytes portCount; split <;> simp

section
variable {s : State} {rq : Requester} {p : ParcelId} {l : ReachId} {off n w last : Nat} {v : Word}
  (h : Arrives s rq p (.reach p l off) v) (h8 : off % 8 = 0) (hoff : 0x800 ≤ off ∧ off < 0x2000)
  (hs : stagedAt off = some (n, w, last))
include h h8 hoff hs

/-- An accepted write of a word of an entry is staged, or commits it (R191). -/
theorem accessWrite_entry (hv : entryVerdict (s.reach p l) rq v (some (n, w, last)) = .ok) :
    accessWrite s rq (.reach p l off) 8 v = (portBytes s rq p true 8).updReach p l (fun r => stageWrite r rq off n w last v) :=
  accessWrite_reach_stores s rq p l off v _ h h8 (by omega) (by rw [reachVerdict_entry s rq p l v hoff, hs, hv])
    fun r set => reachStore_entry r rq v set hoff hs

/-- A commit of a reserved encoding raises ILLEGAL_ENCODING, and ends the staging of its entry (R19, R57, R197). -/
theorem accessWrite_reserved {b off' : Nat} {w0 : Word}
    (hv : entryVerdict (s.reach p l) rq v (some (n, w, last)) = .reserved b off' w0) :
    accessWrite s rq (.reach p l off) 8 v = dropStaging (raise (portBytes s rq p true 8) (srcReach p l) evIllegalEncoding
      (illegalPayload 1 0xFF b 0xFFFFFFFF (0x654000000 + l * 0x10000 + off') w0.toNat)) rq (.reach p l off) := by
  rw [accessWrite_reach_arrives s rq p l off v h h8]
  simp only [regWrite, regVerdict_reach _ _ _ _ _ _ h8, reachVerdict_portBytes, reachVerdict_entry s rq p l v hoff, hs, hv]
  rfl

end

/-- The record of a refused commit is the one that the state before would have raised. -/
theorem raise_portBytes_book (s : State) (rq : Requester) (p n src code : Nat) (b : List Byte) :
    (raise (portBytes s rq p true n) src code b).book = (raise s src code b).book := by
  obtain ⟨hdatum, _, _, hphase, _⟩ := portBytes_sameTime s rq p n
  refine raise_book_congr (portBytes_book s rq p n) hdatum hphase (fun q => ?_) src code b
  rw [portBytes_parcel_mon]
  split
  · next h => rw [h]
  · rfl

/-! ### The commit of a composed entry -/

theorem wordOf_profCommit (r : Reach) (rq : Requester) (n : Fin 64) (v : Word) (w : Fin 4) : wordOf (profCommit r rq n v) w =
    (if w = 3 then v else (SMap.find r.profStage (stageKey rq n w)).getD (reachWord r (0x800 + 32 * n + 8 * w))) &&& profMask w := by
  have hw := w.isLt
  rw [profCommit, wordOf_stagedEntry _ _ _ _ _ _ (by omega) (by omega), find_stage_put, reachWord_prof]
  simp only [Fin.ext_iff]
  rfl

theorem wordOf_trvCommit (r : Reach) (rq : Requester) (n : Fin 32) (v : Word) (w : Fin 16) : wordOf (trvCommit r rq n v) w =
    (if w = 15 then v else (SMap.find r.trvStage (stageKey rq n w)).getD (reachWord r (0x1000 + 128 * n + 8 * w))) &&& trvMask w := by
  have hw := w.isLt
  rw [trvCommit, wordOf_stagedEntry _ _ _ _ _ _ (by omega) (by omega), find_stage_put, reachWord_trv]
  simp only [Fin.ext_iff]
  rfl

/-- The reach once entry `n` of PROFILE is committed with `v` in its last word. -/
def Reach.commitProf (r : Reach) (rq : Requester) (n : Nat) (v : Word) : Reach :=
  Reach.cleanWord { r with prof := SMap.put r.prof n (profCommit r rq n v), profStage := endStaging r.profStage rq n } .prof (n * 4) 4

/-- The reach once entry `n` of TRAVERSE is committed with `v` in its last word. -/
def Reach.commitTrv (r : Reach) (rq : Requester) (n : Nat) (v : Word) : Reach :=
  Reach.cleanWord { r with trv := SMap.put r.trv n (trvCommit r rq n v), trvStage := endStaging r.trvStage rq n } .trv (n * 16) 16

section
variable {s : State} {rq : Requester} {p : ParcelId} {l : ReachId} {v : Word}

theorem accessWrite_profWord {n : Fin 64} {w : Fin 3} (h : Arrives s rq p (.reach p l (0x800 + 32 * n + 8 * w)) v) :
    accessWrite s rq (.reach p l (0x800 + 32 * n + 8 * w)) 8 v = (portBytes s rq p true 8).updReach p l (fun r =>
      { r with profStage := SMap.put r.profStage (stageKey rq n w) v }) := by
  have hn := n.isLt
  have hw := w.isLt
  rw [accessWrite_entry h (by omega) (by omega) (stagedAt_prof hn (by omega)) ?_]
  · refine State.updReach_congr _ _ _ ?_
    rw [stageWrite, if_pos (by omega), if_neg (by omega)]
  · exact entryVerdict_stages (by omega) (.inl rfl)

theorem accessWrite_trvWord {n : Fin 32} {w : Fin 15} (h : Arrives s rq p (.reach p l (0x1000 + 128 * n + 8 * w)) v) :
    accessWrite s rq (.reach p l (0x1000 + 128 * n + 8 * w)) 8 v = (portBytes s rq p true 8).updReach p l (fun r =>
      { r with trvStage := SMap.put r.trvStage (stageKey rq n w) v }) := by
  have hn := n.isLt
  have hw := w.isLt
  rw [accessWrite_entry h (by omega) (by omega) (stagedAt_trv hn (by omega)) ?_]
  · refine State.updReach_congr _ _ _ ?_
    rw [stageWrite, if_neg (by omega), if_neg (by omega)]
  · exact entryVerdict_stages (by omega) (.inr rfl)

section
variable {n : Fin 64} (h : Arrives s rq p (.reach p l (0x818 + 32 * n)) v)
include h

theorem accessWrite_profCommit (hv : profReserved (profCommit (s.reach p l) rq n v) = none) :
    accessWrite s rq (.reach p l (0x818 + 32 * n)) 8 v =
      (portBytes s rq p true 8).updReach p l (fun r => r.commitProf rq n v) := by
  have hn := n.isLt
  have hs : stagedAt (0x818 + 32 * n.val) = some (n.val, 3, 3) := by
    rw [show 0x818 + 32 * n.val = 0x800 + 32 * n.val + 8 * 3 by omega, stagedAt_prof hn (by omega)]
  rw [accessWrite_entry h (by omega) (by omega) hs (by rw [entryVerdict, hv]; rfl)]
  refine State.updReach_congr _ _ _ ?_
  rw [stageWrite, if_pos (by omega), if_pos rfl]; rfl

theorem accessWrite_profReserved {b : Nat} (hv : profReserved (profCommit (s.reach p l) rq n v) = some b) :
    accessWrite s rq (.reach p l (0x818 + 32 * n)) 8 v = (raise (portBytes s rq p true 8) (srcReach p l) evIllegalEncoding
      (illegalPayload 1 0xFF b 0xFFFFFFFF (0x654000800 + l * 0x10000 + 32 * n)
        (wordOf (profCommit (s.reach p l) rq n v) 0).toNat)).updReach p l
      (fun r => { r with profStage := endStaging r.profStage rq n }) := by
  have hn := n.isLt
  have hs : stagedAt (0x818 + 32 * n.val) = some (n.val, 3, 3) := by
    rw [show 0x818 + 32 * n.val = 0x800 + 32 * n.val + 8 * 3 by omega, stagedAt_prof hn (by omega)]
  rw [accessWrite_reserved h (by omega) (by omega) hs (by rw [entryVerdict, hv]; rfl), dropStaging, hs]
  dsimp only
  rw [if_neg (by simp), if_pos (by omega), show 0x654000000 + l.val * 0x10000 + (0x800 + 32 * n.val) =
    0x654000800 + l.val * 0x10000 + 32 * n.val by omega]

end

section
variable {n : Fin 32} (h : Arrives s rq p (.reach p l (0x1078 + 128 * n)) v)
include h

theorem accessWrite_trvCommit (hv : trvReserved (trvCommit (s.reach p l) rq n v) = none) :
    accessWrite s rq (.reach p l (0x1078 + 128 * n)) 8 v =
      (portBytes s rq p true 8).updReach p l (fun r => r.commitTrv rq n v) := by
  have hn := n.isLt
  have hs : stagedAt (0x1078 + 128 * n.val) = some (n.val, 15, 15) := by
    rw [show 0x1078 + 128 * n.val = 0x1000 + 128 * n.val + 8 * 15 by omega, stagedAt_trv hn (by omega)]
  rw [accessWrite_entry h (by omega) (by omega) hs (by rw [entryVerdict, hv]; rfl)]
  refine State.updReach_congr _ _ _ ?_
  rw [stageWrite, if_neg (by omega), if_pos rfl]; rfl

theorem accessWrite_trvReserved {b : Nat} (hv : trvReserved (trvCommit (s.reach p l) rq n v) = some b) :
    accessWrite s rq (.reach p l (0x1078 + 128 * n)) 8 v = (raise (portBytes s rq p true 8) (srcReach p l) evIllegalEncoding
      (illegalPayload 1 0xFF b 0xFFFFFFFF (0x654001000 + l * 0x10000 + 128 * n)
        (wordOf (trvCommit (s.reach p l) rq n v) 0).toNat)).updReach p l
      (fun r => { r with trvStage := endStaging r.trvStage rq n }) := by
  have hn := n.isLt
  have hs : stagedAt (0x1078 + 128 * n.val) = some (n.val, 15, 15) := by
    rw [show 0x1078 + 128 * n.val = 0x1000 + 128 * n.val + 8 * 15 by omega, stagedAt_trv hn (by omega)]
  rw [accessWrite_reserved h (by omega) (by omega) hs (by rw [entryVerdict, hv]; rfl), dropStaging, hs]
  dsimp only
  rw [if_neg (by simp), if_neg (by omega), show 0x654000000 + l.val * 0x10000 + (0x1000 + 128 * n.val) =
    0x654001000 + l.val * 0x10000 + 128 * n.val by omega]

end

end

/-- Settles O2: each word is staged, or commits the entry that it composes, or ends the staging of one with a reserved
encoding. -/
theorem stagedEntriesCommit : Obligations.StagedEntriesCommit := by
  unfold Obligations.StagedEntriesCommit
  have hother {n : Nat} {m k : Fin n} (hm : m ≠ k) : m.val ≠ k.val := fun e => hm (Fin.ext e)
  refine ⟨fun rq p l v s => ⟨fun n w h => ?profWord, fun n w h => ?trvWord, fun n h hv => ?prof, fun n h hv => ?trv⟩,
    fun rq p l v s => ⟨fun n b h hv => ?profBad, fun n b h hv => ?trvBad⟩⟩
  case profWord => exact congrArg Host.Outcome.next (accessWrite_profWord h)
  case trvWord => exact congrArg Host.Outcome.next (accessWrite_trvWord h)
  case prof =>
    obtain ⟨hreach, hmem⟩ := updReach_frame (world_portBytes s rq p true 8) p l (f := fun r => r.commitProf rq n v)
      fun _ => ⟨rfl, rfl⟩
    refine ⟨_, congrArg Host.Outcome.next (accessWrite_profCommit h hv), fun w => ?_, fun m hm => ?_, fun w => ?_, ?_, ?_, ?_,
      hreach, hmem,
      (portBytes_book s rq p 8 :), by simp⟩
    · rw [State.updReach_reach_same, portBytes_reach, reachWord_prof, ← wordOf_profCommit, Reach.commitProf, Reach.cleanWord,
        SMap.get_put_same]
    · simp [Reach.commitProf, Reach.cleanWord, SMap.get_put_other _ _ _ _ _ (hother hm)]
    · simp [Reach.commitProf, Reach.cleanWord, find_endStaging _ _ _ (show w.val < 16 by omega)]
    all_goals simp [Reach.commitProf, Reach.cleanWord]
  case trv =>
    obtain ⟨hreach, hmem⟩ := updReach_frame (world_portBytes s rq p true 8) p l (f := fun r => r.commitTrv rq n v)
      fun _ => ⟨rfl, rfl⟩
    refine ⟨_, congrArg Host.Outcome.next (accessWrite_trvCommit h hv), fun w => ?_, fun m hm => ?_, fun w => ?_, ?_, ?_, ?_,
      hreach, hmem,
      (portBytes_book s rq p 8 :), by simp⟩
    · rw [State.updReach_reach_same, portBytes_reach, reachWord_trv, ← wordOf_trvCommit, Reach.commitTrv, Reach.cleanWord,
        SMap.get_put_same]
    · simp [Reach.commitTrv, Reach.cleanWord, SMap.get_put_other _ _ _ _ _ (hother hm)]
    · simp [Reach.commitTrv, Reach.cleanWord, find_endStaging _ _ _ (show w.val < 16 by omega)]
    all_goals simp [Reach.commitTrv, Reach.cleanWord]
  case profBad =>
    obtain ⟨hreach, hmem⟩ := updReach_frame ((world_raise ..).trans (world_portBytes s rq p true 8)) p l
      (f := fun r => { r with profStage := endStaging r.profStage rq n }) fun _ => ⟨rfl, rfl⟩
    exact ⟨_, congrArg Host.Outcome.next (accessWrite_profReserved h hv), by simp,
      fun w => by simp [find_endStaging _ _ _ (show w.val < 16 by omega)], (raise_portBytes_book ..), hreach, hmem⟩
  case trvBad =>
    obtain ⟨hreach, hmem⟩ := updReach_frame ((world_raise ..).trans (world_portBytes s rq p true 8)) p l
      (f := fun r => { r with trvStage := endStaging r.trvStage rq n }) fun _ => ⟨rfl, rfl⟩
    exact ⟨_, congrArg Host.Outcome.next (accessWrite_trvReserved h hv), by simp,
      fun w => by simp [find_endStaging _ _ _ (show w.val < 16 by omega)], (raise_portBytes_book ..), hreach, hmem⟩

end Sys2Proof.Machine
end

section
/-!
Barriers that are written (06 R185): the obligation on the members and the doorbell fails, for a round that ends may stop a task
that waits at the last word of its IMEM, and what the task has posted becomes visible with the stop (R164, R358).
-/

namespace Sys2Proof.Machine

/-! ### What a command leaves at a byte -/

/-- The byte of memory `k` at `a` once command `i` has completed. -/
def byteAfter (i : Instr) (s : State) (k : Space) (a : Nat) : Byte :=
  match exec i s with
  | .next t => rdByte t k a
  | .fault _ => 0
  | .refused _ => 0

theorem byteAfter_of_exec {i : Instr} {s t : State} (h : exec i s = .next t) (k : Space) (a : Nat) :
    byteAfter i s k a = rdByte t k a := by rw [byteAfter, h]

/-! ### A SYNC in the last word of IMEM -/

/-- A reach whose SYNC at parcel barrier 0, in the last word of IMEM, waits for another reach. -/
def lastSync : Reach :=
  { imem := (cellsOf 16368 (leBytes 16 (12 + 2 * 2 ^ 24))).foldl (fun m c => memSet m c.1 c.2) []
    task := { run := true, pc := 16368, wait := .parcelBar 0 } }

/-- A parcel with that reach alone at its barrier. -/
def lastSyncParcel : Parcel :=
  { state := .run, bar := [(0, { members := 2, arrived := 1, waiting := [0] })], reaches := [(0, lastSync)] }

/-- That parcel, with a byte that the reach has written and no other agent sees yet. -/
def lastSyncState : State :=
  { parcels := [(0, lastSyncParcel)], posted := [{ p := 0, writer := 0, unit := .parcelDma, cells := [(0, 1)] }] }

theorem lastSync_arrives : Arrives lastSyncState .surveyor 0 (.parcel 0 0x200) 1 := by unfold Arrives; decide +kernel

/-- With one member the round is full: the SYNC resumes, its task runs past IMEM and stops, and its write becomes visible. -/
theorem lastSync_round : byteAfter (.syncBarMembersWrite .surveyor 0 none 0 1) lastSyncState (.sm 0) 0 = 1 ∧
    rdByte lastSyncState (.sm 0) 0 = 0 := by decide +kernel

theorem lastSync_waiters : Waiters lastSyncState 0 (parcelBar lastSyncState 0 0).waiting := by
  unfold Waiters; decide +kernel

/-- Refutes O4: memory need not stay as it was, for a task that resumes at the last word of IMEM stops, and a stop makes its posted
writes visible. -/
theorem not_barriersAreWritten : ¬ Obligations.BarriersAreWritten := by
  unfold Obligations.BarriersAreWritten
  intro ⟨hmembers, _⟩
  obtain ⟨_, hparcel⟩ := hmembers .surveyor 0 0 1 lastSyncState
  obtain ⟨_, hround⟩ := hparcel lastSync_arrives
  obtain ⟨t, ht, _, _, hmem, _⟩ := hround (by decide +kernel) lastSync_waiters
  obtain ⟨hafter, hbefore⟩ := lastSync_round
  rw [byteAfter_of_exec ht, hmem, hbefore] at hafter
  exact absurd hafter (by decide)

end Sys2Proof.Machine
end

section
/-!
Completion of an instruction in flight (06 R171): what its retirement leaves, and the obligation on an instruction that completes
while nothing waits for it.
-/

namespace Sys2Proof.Machine

/-! ### Retirement -/

/-- Reach `r` once instruction `f` has left it, with its status in sd (R171). -/
def Reach.retired (r : Reach) (f : Flight) : Reach :=
  ({ r with flights := r.flights.filter (fun g => g.no != f.no) }).setScalar (wSd f.job.word) (BitVec.ofNat 64 f.status)

/-- Of a reach a retirement changes the flights and the scalar registers alone. -/
theorem Reach.retired_frame (r : Reach) (f : Flight) : (r.retired f).flights = r.flights.filter (fun g => g.no != f.no) ∧
    (r.retired f).task = r.task ∧ (r.retired f).pool = r.pool ∧ (r.retired f).prof = r.prof ∧ (r.retired f).trv = r.trv ∧
    (r.retired f).spad = r.spad ∧ (r.retired f).imem = r.imem := by
  unfold Reach.retired Reach.setScalar; split <;> exact ⟨rfl, rfl, rfl, rfl, rfl, rfl, rfl⟩

theorem Reach.scalar_retired (r : Reach) (f : Flight) (n : Nat) (h : SMap.sorted r.s = true) :
    (r.retired f).scalar n = if n = wSd f.job.word ∧ n ≠ 0 then BitVec.ofNat 64 f.status else r.scalar n := by
  exact scalar_setScalar { r with flights := r.flights.filter (fun g => g.no != f.no) } _ _ _ h

/-- No change of a reach shows in a record that is raised after it. -/
theorem raise_book_updReach (s : State) (p l : Nat) (g : Reach → Reach) (src code : Nat) (b : List Byte) :
    (raise (s.updReach p l g) src code b).book = (raise s src code b).book :=
  raise_book_congr (by simp) (by simp) (by simp) (fun q => by simp) src code b

section
variable (s : State) (p l : Nat) (f : Flight)

/-- The state in which the instruction has left its reach, before its records and its sample. -/
theorem retire_eq : retire s p l f =
    sampleEnd (raiseSat (s.updReach p l (·.retired f)) p l f.job.pc.toNat f.job.profNo f.guard f.out) p l f.job f.status f.tag := by
  rw [retire, writeStatus, setScalar, State.updReach_updReach]
  rfl

@[simp] theorem world_raiseSat (pc no : Nat) (a b : Option SatRec) : world (raiseSat s p l pc no a b) = world s := by
  cases a <;> cases b <;> rfl

@[simp] theorem world_sampleEnd (j : Job) (st : Nat) (tag : Option SampleTag) : world (sampleEnd s p l j st tag) = world s := by
  cases tag with
  | none => rfl
  | some t => exact world_updMon ..

theorem world_retire : world (retire s p l f) = world (s.updReach p l (·.retired f)) := by
  rw [retire_eq, world_sampleEnd, world_raiseSat]

theorem sampleEnd_shared (j : Job) (st : Nat) (tag : Option SampleTag) : (sampleEnd s p l j st tag).hub = s.hub ∧
    (sampleEnd s p l j st tag).book = s.book ∧ (sampleEnd s p l j st tag).posted = s.posted := by
  cases tag <;> exact ⟨rfl, rfl, rfl⟩

theorem raiseSat_shared (pc no : Nat) (a b : Option SatRec) :
    (raiseSat s p l pc no a b).hub = s.hub ∧ (raiseSat s p l pc no a b).posted = s.posted := by
  cases a <;> cases b <;> exact ⟨rfl, rfl⟩

theorem retire_hub : (retire s p l f).hub = s.hub := by
  rw [retire_eq, (sampleEnd_shared ..).1, (raiseSat_shared ..).1]; rfl

theorem retire_posted : (retire s p l f).posted = s.posted := by
  rw [retire_eq, (sampleEnd_shared ..).2.2, (raiseSat_shared ..).2]; rfl

theorem raiseSat_updReach_book (g : Reach → Reach) (pc no : Nat) (a b : Option SatRec) :
    (raiseSat (s.updReach p l g) p l pc no a b).book = (raiseSat s p l pc no a b).book := by
  have h1 (src code : Nat) (x : List Byte) := raise_book_updReach s p l g src code x
  cases a with
  | none => cases b with
    | none => rfl
    | some y => exact h1 ..
  | some x => cases b with
    | none => exact h1 ..
    | some y => exact raise_book_congr (h1 ..) rfl rfl (State.updReach_parcel_pwr s p l g) ..

theorem retire_book : (retire s p l f).book = (raiseSat s p l f.job.pc.toNat f.job.profNo f.guard f.out).book := by
  rw [retire_eq, (sampleEnd_shared ..).2.1, raiseSat_updReach_book]

/-! ### What follows a retirement -/

theorem buildDone_none (h : f.rtGen = none) : buildDone s p l f = s := by simp [buildDone, h]

/-- No access waits: only the list of those that wait is written, and it is empty. -/
theorem releaseHeld_none (h : (s.parcel p).held = []) : releaseHeld s p = s.updParcel p (fun x => { x with held := [] }) := by
  unfold releaseHeld; rw [h]; rfl

/-- The state in which an instruction that no build and no held access waits for has left, before the head of its reach wakes. -/
def flightLeft (s : State) (p l : Nat) (f : Flight) : State := (retire s p l f).updParcel p (fun x => { x with held := [] })

theorem completeFlight_eq (hheld : (s.parcel p).held = []) (hgen : f.rtGen = none) :
    completeFlight s p l f = wakeHead (flightLeft s p l f) p l := by
  rw [completeFlight, buildDone_none _ _ _ _ hgen, releaseHeld_none _ _ ((retire_held s p l f p).trans hheld), flightLeft]

theorem world_flightLeft : world (flightLeft s p l f) = world (s.updReach p l (·.retired f)) := by
  rw [flightLeft, world_updParcel _ _ _ rfl rfl rfl, world_retire]

theorem flightLeft_reach : (flightLeft s p l f).reach p l = (s.reach p l).retired f := by
  rw [reach_of_world (world_flightLeft s p l f), State.updReach_reach_same]

theorem flightLeft_shared : (flightLeft s p l f).hub = s.hub ∧ (flightLeft s p l f).posted = s.posted ∧
    (flightLeft s p l f).book = (raiseSat s p l f.job.pc.toNat f.job.profNo f.guard f.out).book :=
  ⟨retire_hub s p l f, retire_posted s p l f, retire_book s p l f⟩

/-- What `flightLeft` leaves of the rest of the part. -/
theorem flightLeft_frame : OtherReaches s (flightLeft s p l f) p l ∧ SameClusters s (flightLeft s p l f) ∧
    SameMemory s (flightLeft s p l f) ∧
    SameTime s (flightLeft s p l f) := by
  obtain ⟨hother, hmem⟩ := updReach_frame (s := s) rfl p l (f := (·.retired f)) fun r => by
    obtain ⟨_, _, _, _, _, hspad, himem⟩ := r.retired_frame f
    exact ⟨hspad, himem⟩
  have hw := world_flightLeft s p l f
  refine ⟨fun q m hqm => (reach_of_world hw q m).trans (hother q m hqm), fun q c => ?_,
    fun k a => (sameMemory_of_world hw k a).trans (hmem k a),
    SameTime.trans (s := s) (t := s.updReach p l (·.retired f)) ⟨rfl, rfl, rfl, rfl, rfl⟩ (sameTime_of_world hw)⟩
  rw [sameClusters_of_world hw]
  simp

end

/-! ### The head of a reach at which nothing waits -/

theorem endDrain_busy {s : State} {p l : Nat} (h : (s.reach p l).flights ≠ [] ∨ (s.reach p l).task.drain = false) :
    endDrain s p l = s := by
  unfold endDrain
  obtain h | h := h <;> simp [h]

theorem finishStop_busy {s : State} {p l : Nat} (h : (s.reach p l).flights ≠ []) : finishStop s p l = s := by
  simp [finishStop, h]

/-- A fence that is not alone in flight does not complete. -/
theorem onlyFence_none {r : Reach} (h : ∀ g, r.flights = [g] → wOp g.job.word ≠ 11) : onlyFence r = none := by
  unfold onlyFence
  split
  · next f hf => exact if_neg (by simpa using h f hf)
  · rfl

/-- A head that waits for nothing older, or has older ones still in flight, stays as it is (R167). -/
theorem wakeHead_still {s : State} {p l : Nat} (hfence : ∀ g, (s.reach p l).flights = [g] → wOp g.job.word ≠ 11)
    (hempty : (s.reach p l).flights = [] → (s.reach p l).task.issuing = true ∧ (s.reach p l).task.drain = false ∧
      (s.reach p l).task.wait ≠ .syncLocal ∧ (s.reach p l).task.wait ≠ .scan) : wakeHead s p l = s := by
  by_cases hf : (s.reach p l).flights = []
  · obtain ⟨hissue, hdrain, hsync, hscan⟩ := hempty hf
    simp only [wakeHead, endDrain_busy (.inr hdrain), onlyFence_none hfence, hf, hissue]
    split
    · next h => exact absurd h (by simp)
    · rfl
  · simp only [wakeHead, endDrain_busy (.inl hf), onlyFence_none hfence, finishStop_busy hf]
    simp [hf]

/-- Settles O10: a retirement writes sd and the records, and with nothing that waits for it the head does not wake. -/
theorem instructionCompletes : Obligations.InstructionCompletes := by
  unfold Obligations.InstructionCompletes
  intro p l k f rest s hfl hmay hgated hheld hsort hgen hrest hempty hfence
  have hreach := flightLeft_reach s p l f
  obtain ⟨hflights, htask, hpool, hprof, htrv, _, _⟩ := (s.reach p l).retired_frame f
  obtain ⟨hhub, _, hbook⟩ := flightLeft_shared s p l f
  obtain ⟨hother, hclusters, hmem, htime⟩ := flightLeft_frame s p l f
  rw [← hreach] at hflights htask hpool hprof htrv
  have hstill : wakeHead (flightLeft s p l f) p l = flightLeft s p l f := by
    refine wakeHead_still (fun g hg => hfence g (hrest.trans (hflights.symm.trans hg))) fun he => ?_
    rw [htask]
    exact hempty (hrest.trans (hflights.symm.trans he))
  refine ⟨flightLeft s p l f, congrArg Host.Outcome.next ?_, hflights.trans hrest.symm, htask, fun n => ?_, hpool, hprof, htrv, hbook,
    hother, hclusters, hmem, hhub, htime⟩
  · simp [hfl, hgated, hmay, completeFlight_eq s p l f hheld hgen, hstill]
  · rw [hreach, Reach.scalar_retired _ _ _ hsort]

end Sys2Proof.Machine
end

section
/-!
Posted writes that become visible (12 R356, R357): what a drain makes of the memories depends on them, on the poison of the stacked
ones and on the posted writes alone; and of the hub a drain or an interrupt changes the host port only.
-/

namespace Sys2Proof.Machine

/-! ### The memories and the writes still to come -/

/-- What the bytes of the memories come to once posted writes become visible. -/
structure Store where
  cells : Space → Mem
  poison : Nat → List Nat
  posted : List Posted

/-- That part of a state. -/
def store (s : State) : Store := { cells := cells s, poison := fun q => (s.parcel q).poison, posted := s.posted }

section
variable {s t : State}

theorem cells_of_store (h : store t = store s) : cells t = cells s := congrArg Store.cells h
theorem poison_of_store (h : store t = store s) (q : Nat) : (t.parcel q).poison = (s.parcel q).poison :=
  congrFun (congrArg Store.poison h) q
theorem posted_of_store (h : store t = store s) : t.posted = s.posted := congrArg Store.posted h
theorem sameMemory_of_store (h : store t = store s) : SameMemory s t := sameMemory_of_cells (congrFun (cells_of_store h))

theorem store_ext (hc : ∀ k, cells t k = cells s k) (hp : ∀ q, (t.parcel q).poison = (s.parcel q).poison) (hq : t.posted = s.posted) :
    store t = store s := by
  rw [store, funext hc, funext hp, hq, store]

end

section
variable (s : State)

@[simp] theorem store_raise (src code : Nat) (b : List Byte) : store (raise s src code b) = store s :=
  store_ext (cells_of_world (world_raise ..)) (fun _ => rfl) rfl
@[simp] theorem store_mark (b : HwBit) : store (s.mark b) = store s := store_ext (cells_of_world (world_mark ..)) (fun _ => rfl) rfl
@[simp] theorem store_updPort (f : HostPort → HostPort) : store (s.updPort f) = store s :=
  store_ext (cells_of_world (world_updPort ..)) (fun _ => rfl) rfl
@[simp] theorem store_upsets (us : List Upset) : store { s with upsets := us } = store s :=
  store_ext (cells_of_world (world_upsets ..)) (fun _ => rfl) rfl

@[simp] theorem store_updParcel (p : Nat) (f : Parcel → Parcel) (hr : (f (s.parcel p)).reaches = (s.parcel p).reaches)
    (hc : (f (s.parcel p)).clusters = (s.parcel p).clusters) (hm : (f (s.parcel p)).mem = (s.parcel p).mem)
    (hp : (f (s.parcel p)).poison = (s.parcel p).poison) : store (s.updParcel p f) = store s := by
  refine store_ext (cells_of_world (world_updParcel s p f hr hc hm)) (fun q => ?_) rfl
  rw [State.updParcel_parcel]
  split
  · next h => rw [hp, h]
  · rfl

@[simp] theorem store_updMon (p : Nat) (f : Monitors → Monitors) : store (s.updMon p f) = store s :=
  store_updParcel _ _ _ rfl rfl rfl rfl

@[simp] theorem store_updReach (p l : Nat) (f : Reach → Reach)
    (hf : (f (s.reach p l)).spad = (s.reach p l).spad ∧ (f (s.reach p l)).imem = (s.reach p l).imem) :
    store (s.updReach p l f) = store s := by
  refine store_ext (cells_congr (fun q => by simp) (fun q c => by simp) fun q m => ?_) (fun q => by simp) rfl
  rw [State.updReach_reach]
  split
  · next h => obtain ⟨rfl, rfl⟩ := h; exact hf
  · exact ⟨rfl, rfl⟩

@[simp] theorem store_updTask (p l : Nat) (f : Task → Task) : store (s.updTask p l f) = store s :=
  store_updReach s p l _ ⟨rfl, rfl⟩

@[simp] theorem store_bumpPcnt (p k n : Nat) : store (bumpPcnt s p k n) = store s := by unfold bumpPcnt; split <;> simp
@[simp] theorem store_bumpBw (p k n : Nat) : store (bumpBw s p k n) = store s := by unfold bumpBw; split <;> simp
@[simp] theorem store_snooped (p n : Nat) : store (snooped s p n) = store s := by simp [snooped]
@[simp] theorem store_smCount (k : Space) (w : Bool) (as : List Nat) : store (smCount s k w as) = store s := by
  cases k <;> simp [smCount]

@[simp] theorem store_backInvalidate (k : Space) (as : List Nat) : store (backInvalidate s k as) = store s := by
  unfold backInvalidate
  split
  · dsimp only
    split <;> simp
  · rfl

@[simp] theorem store_setInt (p n : Nat) : store (setInt s p n) = store s := by
  obtain ⟨_, h⟩ | ⟨_, h⟩ := setInt_cases s p n
  · rw [h]; simp
  · rw [h]
    obtain ⟨f, hf⟩ := msix_eq ((s.updMon p (fun m => { m with intStat := putBit m.intStat n true })).mark ‹_›) (p + 1) n
    rw [hf]; simp

theorem store_foldl {α : Type} (f : State → α → State) (h : ∀ s a, store (f s a) = store s) (l : List α) :
    store (l.foldl f s) = store s := by
  induction l generalizing s with
  | nil => rfl
  | cons a l ih => rw [List.foldl_cons, ih, h]

theorem store_posted (ws : List Posted) : store { s with posted := ws } = { store s with posted := ws } := by
  rw [store, funext (cells_of_world (world_posted s ws)), store]
  rfl

theorem store_setCells (p : Nat) (m : Mem) :
    store (setCells s (.sm p) m) = { store s with cells := fun k => if k = .sm p then m else cells s k } := by
  rw [store, funext (cells_setCells s (.sm p) · m), show (fun q => ((setCells s (.sm p) m).parcel q).poison) =
    fun q => (s.parcel q).poison from funext fun q => poison_of_confView (confView_updParcel s p (fun x => { x with mem := m })
      rfl rfl rfl rfl) q, setCells_posted, store]

theorem store_setPoisoned (p : Nat) (us : List Nat) : store (setPoisoned s (.sm p) us) =
    { store s with poison := fun q => if q = p then us else (store s).poison q } := by
  have hc : cells (setPoisoned s (.sm p) us) = cells s :=
    funext (cells_of_world (world_updParcel s p (fun x => { x with poison := us }) rfl rfl rfl))
  have hp (q : Nat) : ((setPoisoned s (.sm p) us).parcel q).poison = if q = p then us else (s.parcel q).poison := by
    rw [setPoisoned, State.updParcel_parcel]
    split <;> rfl
  rw [store, hc, funext hp, setPoisoned_posted, store]

end

/-! ### Drains -/

section
variable {s t : State}

theorem store_writeCells_congr (h : store t = store s) (p : Nat) (ws : List Host.Cell) :
    store (writeCells t (.sm p) ws).1 = store (writeCells s (.sm p) ws).1 := by
  have hpoison : poisoned t (.sm p) = poisoned s (.sm p) := poison_of_store h p
  have hset (m : Mem) : store (setCells t (.sm p) m) = store (setCells s (.sm p) m) := by
    rw [store_setCells, store_setCells, h, cells_of_store h]
  have hset' (m : Mem) (us : List Nat) : store (setPoisoned (setCells t (.sm p) m) (.sm p) us) =
      store (setPoisoned (setCells s (.sm p) m) (.sm p) us) := by
    rw [store_setPoisoned, store_setPoisoned, hset]
  simp only [writeCells, hpoison, cells_of_store h, store_upsets, apply_ite store, hset, hset']

/-- A write to stacked memory makes the same of the same memories (R352). -/
theorem store_devWrite_congr (h : store t = store s) (p rq : Nat) (ws : List Host.Cell) :
    store (devWrite t (.sm p) rq ws) = store (devWrite s (.sm p) rq ws) := by
  have hue (l : List Nat) (u : State) : store (l.foldl (fun t x => raiseUe t (.sm p) x rq) u) = store u :=
    store_foldl u _ (fun _ _ => store_raise ..) l
  unfold devWrite
  simp only [hue]
  exact store_writeCells_congr (by simp [h]) p ws

/-- A drain makes the same of the same memories and posted writes (R356). -/
theorem store_drainIf_congr (h : store t = store s) (sel : Posted → Bool) : store (drainIf t sel) = store (drainIf s sel) := by
  have hfold (l : List Posted) (t s : State) (h : store t = store s) :
      store (l.foldl (fun t w => devWrite t (.sm w.p) w.writer w.cells) t) =
      store (l.foldl (fun t w => devWrite t (.sm w.p) w.writer w.cells) s) := by
    induction l generalizing t s with
    | nil => exact h
    | cons w l ih => exact ih _ _ (store_devWrite_congr h ..)
  unfold drainIf
  rw [posted_of_store h]
  exact hfold _ _ _ (by rw [store_posted t, store_posted s, h])

theorem nonePosted_drainOf (s : State) (p l : Nat) : NonePosted (drainOf s (srcReach p l)) p l := by
  intro w hw
  rw [drainOf, drainIf_posted] at hw
  simpa using (List.mem_filter.mp hw).2

/-- A drain of a reach that has nothing posted changes nothing. -/
theorem drainOf_none {s : State} {p l : Nat} (h : NonePosted s p l) : drainOf s (srcReach p l) = s :=
  drainIf_none _ _ fun w hw => by simpa using h w hw

end

/-! ### The hub apart from its port -/

/-- The hub with the host port left out. -/
def apart (s : State) : Hub := { s.hub with port := {} }

theorem sameHub_of_apart {s t : State} (h : apart t = apart s) : SameHub s t :=
  ⟨(congrArg Hub.state h :), (congrArg Hub.sched h :), (congrArg Hub.torus h :), (congrArg Hub.pwr h :), (congrArg Hub.dict h :),
    (congrArg Hub.fw h :), (congrArg Hub.tap h :), (congrArg Hub.lands h :)⟩

section
variable (s : State)

@[simp] theorem apart_updPort (f : HostPort → HostPort) : apart (s.updPort f) = apart s := rfl
@[simp] theorem apart_mark (b : HwBit) : apart (s.mark b) = apart s := rfl
@[simp] theorem apart_raise (src code : Nat) (b : List Byte) : apart (raise s src code b) = apart s := rfl
@[simp] theorem apart_updParcel (p : Nat) (f : Parcel → Parcel) : apart (s.updParcel p f) = apart s := rfl
@[simp] theorem apart_updReach (p l : Nat) (f : Reach → Reach) : apart (s.updReach p l f) = apart s := rfl
@[simp] theorem apart_updTask (p l : Nat) (f : Task → Task) : apart (s.updTask p l f) = apart s := rfl
@[simp] theorem apart_updMon (p : Nat) (f : Monitors → Monitors) : apart (s.updMon p f) = apart s := rfl

theorem apart_foldl {α : Type} (f : State → α → State) (h : ∀ s a, apart (f s a) = apart s) (l : List α) :
    apart (l.foldl f s) = apart s := by
  induction l generalizing s with
  | nil => rfl
  | cons a l ih => rw [List.foldl_cons, ih, h]

@[simp] theorem apart_bumpPcnt (p k n : Nat) : apart (bumpPcnt s p k n) = apart s := by unfold bumpPcnt; split <;> simp
@[simp] theorem apart_bumpBw (p k n : Nat) : apart (bumpBw s p k n) = apart s := by unfold bumpBw; split <;> simp
@[simp] theorem apart_smCount (k : Space) (w : Bool) (as : List Nat) : apart (smCount s k w as) = apart s := by
  cases k <;> simp [smCount]

@[simp] theorem apart_backInvalidate (k : Space) (as : List Nat) : apart (backInvalidate s k as) = apart s := by
  cases k <;> simp [backInvalidate, snooped, apply_ite apart]

@[simp] theorem apart_setCells (k : Space) (m : Mem) : apart (setCells s k m) = apart s := by cases k <;> rfl
@[simp] theorem apart_setPoisoned (k : Space) (us : List Nat) : apart (setPoisoned s k us) = apart s := by cases k <;> rfl
@[simp] theorem apart_upsets (us : List Upset) : apart { s with upsets := us } = apart s := rfl
@[simp] theorem apart_posted (ws : List Posted) : apart { s with posted := ws } = apart s := rfl

@[simp] theorem apart_writeCells (k : Space) (ws : List Host.Cell) : apart (writeCells s k ws).1 = apart s := by
  simp [writeCells, apply_ite apart]

@[simp] theorem apart_devWrite (k : Space) (rq : Nat) (ws : List Host.Cell) : apart (devWrite s k rq ws) = apart s := by
  unfold devWrite
  exact (apart_foldl _ _ (fun _ _ => apart_raise ..) _).trans (by simp)

@[simp] theorem apart_drainIf (sel : Posted → Bool) : apart (drainIf s sel) = apart s := by
  unfold drainIf
  exact (apart_foldl _ _ (fun _ _ => apart_devWrite ..) _).trans (apart_posted ..)

@[simp] theorem apart_setInt (p n : Nat) : apart (setInt s p n) = apart s := by
  obtain ⟨_, h⟩ | ⟨_, h⟩ := setInt_cases s p n <;> (rw [h]; rfl)

end

/-! ### A task that stops for good -/

/-- A task once what stops it has taken effect (R164, R187). -/
def Task.ended (t : Task) : Task :=
  { t with
    run := t.run && !t.stopFault && !t.stopHalt
    fault := t.fault || t.stopFault
    halt := t.halt || t.stopHalt
    stopFault := false
    stopHalt := false }

/-- A task that nothing stops goes on. -/
theorem Task.ended_of_going {t : Task} (hf : t.stopFault = false) (hh : t.stopHalt = false) : t.ended = t := by
  cases t; simp_all [Task.ended]

/-- With nothing left in flight a task ends as its stop says, and the stop makes its posted writes visible (R160, R164, R358). -/
structure Ended (s t : State) (p l : Nat) : Prop where
  reach : t.reach p l = { s.reach p l with task := (s.reach p l).task.ended }
  others : OtherReaches s t p l
  clusters : SameClusters s t
  hub : SameHub s t
  time : SameTime s t
  bit : (s.reach p l).task.stopFault && !(s.reach p l).task.fault || (s.reach p l).task.stopHalt && !(s.reach p l).task.halt →
    bvb (t.parcel p).mon.intStat 0 = true
  stopped : (s.reach p l).task.stopFault || (s.reach p l).task.stopHalt → MemoryDrained s t p l ∧ NonePosted t p l
  memory : NonePosted s p l → SameMemory s t


/-- An interrupt of a parcel sets its bit of INT_STAT. -/
theorem bvb_setInt (s : State) (p : Nat) : bvb ((setInt s p 0).parcel p).mon.intStat 0 = true := by
  have h : bvb ((s.updMon p (fun m => { m with intStat := putBit m.intStat 0 true })).parcel p).mon.intStat 0 = true := by
    rw [State.updMon, State.updParcel_parcel_same]
    exact bvb_putBit_same _ _ _ (by decide)
  obtain ⟨b, hs⟩ | ⟨b, hs⟩ := setInt_cases s p 0 <;> (rw [hs]; exact h)

/-- The state in which the task has ended, with the bits `bs` of this cycle, and what it has posted is visible. -/
def endedState (s : State) (p l : Nat) (bs : List HwBit) : State :=
  drainOf { s.updTask p l Task.ended with hwSet := bs } (srcReach p l)

/-- What a reach with nothing in flight comes to when its task stops. -/
theorem finishStop_stops {s : State} {p l : Nat} (hf : (s.reach p l).flights = [])
    (h : ((s.reach p l).task.stopFault || (s.reach p l).task.stopHalt) = true) : ∃ bs, finishStop s p l =
      if (s.reach p l).task.stopFault && !(s.reach p l).task.fault || (s.reach p l).task.stopHalt && !(s.reach p l).task.halt then
        setInt (endedState s p l bs) p 0
      else endedState s p l bs := by
  have hended : s.updTask p l (fun t => { t with
      run := false, fault := t.fault || t.stopFault, halt := t.halt || t.stopHalt, stopFault := false, stopHalt := false }) =
      s.updTask p l Task.ended := by
    refine State.updReach_congr _ _ _ ?_
    have hrun : ((s.reach p l).task.run && !(s.reach p l).task.stopFault && !(s.reach p l).task.stopHalt) = false := by
      rw [Bool.or_eq_true] at h; obtain h | h := h <;> simp [h]
    simp only [Task.ended, hrun]
  have hbits (u : State) (a b : Bool) (x y : HwBit) : ∃ bs, (if b then (if a then u.mark x else u).mark y else
      if a then u.mark x else u) = { u with hwSet := bs } := by cases a <;> cases b <;> exact ⟨_, rfl⟩
  obtain ⟨bs, hbs⟩ := hbits (s.updTask p l Task.ended) (s.reach p l).task.stopFault (s.reach p l).task.stopHalt (.fault p l) (.halt p l)
  refine ⟨bs, ?_⟩
  simp only [finishStop, hf, h, List.isEmpty_nil, Bool.and_true, if_true, hended, hbs, endedState]

/-- What stands in for the state in which the task has ended: it may have sent an interrupt. -/
theorem ended_of_endedState {s t : State} {p l : Nat} {bs : List HwBit} (hw : world t = world (endedState s p l bs))
    (hst : store t = store (endedState s p l bs)) (hhub : apart t = apart (endedState s p l bs))
    (hbit : (s.reach p l).task.stopFault && !(s.reach p l).task.fault || (s.reach p l).task.stopHalt && !(s.reach p l).task.halt →
      bvb (t.parcel p).mon.intStat 0 = true) : Ended s t p l := by
  have hstore : store { s.updTask p l Task.ended with hwSet := bs } = store s := store_updTask s p l _
  obtain ⟨hreach, hcluster, hdatum, hstay, hphase, hwall, _, hpending, _⟩ :=
    drainIf_beside { s.updTask p l Task.ended with hwSet := bs } (fun w => w.writer == srcReach p l)
  refine ⟨?_, fun q m hqm => ?_, fun q c => ?_, sameHub_of_apart (hhub.trans (apart_drainIf ..)),
    .trans ⟨hdatum, hstay, hpending, hphase, hwall⟩ (sameTime_of_world hw), hbit,
    fun _ => ⟨sameMemory_of_store (hst.trans (store_drainIf_congr hstore _)), ?_⟩, fun hnone => ?_⟩
  · rw [reach_of_world hw, endedState, drainOf, hreach]
    exact State.updTask_reach_same ..
  · rw [reach_of_world hw, endedState, drainOf, hreach]
    exact State.updTask_reach_other _ _ _ _ _ _ hqm
  · rw [sameClusters_of_world hw, endedState, drainOf, hcluster]
    exact State.updReach_cluster s p l (fun r => { r with task := r.task.ended }) q c
  · rw [NonePosted, posted_of_store hst]
    exact nonePosted_drainOf _ p l
  · refine sameMemory_of_store (hst.trans ?_)
    rw [endedState, drainOf_none (by exact hnone)]
    exact hstore

/-- With nothing left in flight a task ends as what stops it says. -/
theorem finishStop_ended {s : State} {p l : Nat} (hf : (s.reach p l).flights = []) : Ended s (finishStop s p l) p l := by
  by_cases h : ((s.reach p l).task.stopFault || (s.reach p l).task.stopHalt) = true
  · obtain ⟨bs, hbs⟩ := finishStop_stops hf h
    rw [hbs]
    split
    · exact ended_of_endedState (world_setInt ..) (store_setInt ..) (apart_setInt ..) fun _ => bvb_setInt ..
    · next hno => exact ended_of_endedState rfl rfl rfl fun hyes => absurd hyes hno
  · rw [show finishStop s p l = s by simp [finishStop, h]]
    rw [Bool.not_eq_true, Bool.or_eq_false_iff] at h
    obtain ⟨hfault, hhalt⟩ := h
    exact ⟨by rw [Task.ended_of_going hfault hhalt], fun _ _ _ => rfl, fun _ _ => rfl, sameHub_of_apart rfl, ⟨rfl, rfl, rfl, rfl, rfl⟩,
      by simp [hfault, hhalt], by simp [hfault, hhalt], fun _ _ _ => rfl⟩

end Sys2Proof.Machine
end

section
/-!
TASK_CTL (06 R159, R160, R164): what a write of it makes of a task that starts, goes on or stops, and the obligation on a task's
start, its stop on request and its end.
-/

namespace Sys2Proof.Machine

/-! ### A write of TASK_CTL -/

/-- A write of TASK_CTL is taken in every state. -/
theorem accessWrite_taskCtl {s : State} {rq : Requester} {p : ParcelId} {l : ReachId} {v : Word}
    (h : Arrives s rq p (.reach p l 0) v) :
    accessWrite s rq (.reach p l 0) 8 v = ctlWrite (portBytes s rq p true 8) p l v := by
  rw [accessWrite_reach_arrives s rq p l 0 v h rfl, regWrite, regVerdict_reach _ _ _ _ _ _ rfl]
  rfl

/-- A write that neither resets the reach nor clears `fault` or `halt` gives `strict`, and starts or stops the task by `run`
(R159, R160). -/
theorem ctlWrite_run {s : State} {p l : Nat} {v : Word} (h3 : bvb v 3 = false) (h4 : bvb v 4 = false) (h5 : bvb v 5 = false) :
    ctlWrite s p l v =
      if bvb v 0 && !(s.reach p l).task.run then
        if mayRun s p l && !(s.marked (.fault p l) || s.marked (.halt p l)) then
          startTask (s.updTask p l (fun t => { t with strict := bvb v 1 })) p l
        else s.updTask p l (fun t => { t with strict := bvb v 1 })
      else if !bvb v 0 && (s.reach p l).task.run then stopRun (s.updTask p l (fun t => { t with strict := bvb v 1 })) p l
      else s.updTask p l (fun t => { t with strict := bvb v 1 }) := by
  have hkeep (b set : Bool) : w1c b false set = b := by simp [w1c]
  simp only [ctlWrite, h3, h4, h5, hkeep, Bool.false_eq_true, if_false]

section
variable {s : State} {rq : Requester} {p : ParcelId} {l : ReachId} {strict : Bool}

theorem exec_taskRun (h : Arrives s rq p (.reach p l 0) (BitVec.ofNat 64 (1 + 2 * b2n strict))) :
    exec (.taskRun rq p l strict) s = .next
      (if !(s.reach p l).task.run && (mayRun s p l && !(s.marked (.fault p l) || s.marked (.halt p l))) then
        startTask ((portBytes s rq p true 8).updTask p l (fun t => { t with strict := strict })) p l
      else (portBytes s rq p true 8).updTask p l (fun t => { t with strict := strict })) := by
  have hmay : mayRun (portBytes s rq p true 8) p l = mayRun s p l := by
    rw [mayRun, portBytes_parcel_mon, portBytes_reach, mayRun]
    split <;> rfl
  have hbits : bvb (BitVec.ofNat 64 (1 + 2 * b2n strict)) 0 = true ∧ bvb (BitVec.ofNat 64 (1 + 2 * b2n strict)) 1 = strict ∧
      bvb (BitVec.ofNat 64 (1 + 2 * b2n strict)) 3 = false ∧ bvb (BitVec.ofNat 64 (1 + 2 * b2n strict)) 4 = false ∧
      bvb (BitVec.ofNat 64 (1 + 2 * b2n strict)) 5 = false := by cases strict <;> decide
  obtain ⟨h0, h1, h3, h4, h5⟩ := hbits
  refine congrArg Host.Outcome.next ((accessWrite_taskCtl h).trans ?_)
  rw [ctlWrite_run h3 h4 h5, h0, h1, hmay, portBytes_reach, portBytes_marked, portBytes_marked]
  cases (s.reach p l).task.run <;> simp

theorem exec_taskStopRequest (h : Arrives s rq p (.reach p l 0) (BitVec.ofNat 64 (2 * b2n strict))) :
    exec (.taskStopRequest rq p l strict) s = .next
      (if (s.reach p l).task.run then stopRun ((portBytes s rq p true 8).updTask p l (fun t => { t with strict := strict })) p l
      else (portBytes s rq p true 8).updTask p l (fun t => { t with strict := strict })) := by
  have hbits : bvb (BitVec.ofNat 64 (2 * b2n strict)) 0 = false ∧ bvb (BitVec.ofNat 64 (2 * b2n strict)) 1 = strict ∧
      bvb (BitVec.ofNat 64 (2 * b2n strict)) 3 = false ∧ bvb (BitVec.ofNat 64 (2 * b2n strict)) 4 = false ∧
      bvb (BitVec.ofNat 64 (2 * b2n strict)) 5 = false := by cases strict <;> decide
  obtain ⟨h0, h1, h3, h4, h5⟩ := hbits
  refine congrArg Host.Outcome.next ((accessWrite_taskCtl h).trans ?_)
  rw [ctlWrite_run h3 h4 h5, h0, h1, portBytes_reach]
  simp

end

/-- A task with no step past its stake, and its PC inside IMEM, starts and does nothing else yet. -/
theorem startTask_inside {s : State} {p l : Nat} (hpc : (s.reach p l).task.pc.toNat < 16384)
    (hstep : ∀ o, (s.reach p l).task.step = some o → o.late = false) :
    startTask s p l = s.updTask p l (fun t => { t with run := true, faultNo := none, headCc := 0 }) := by
  have hfetch := fetchCheck_inside (s.updTask p l (fun t => { t with run := true, faultNo := none, headCc := 0 })) p l
    (by rw [State.updTask_reach_same]; exact hpc)
  unfold startTask
  dsimp only
  split
  · next o ho => rw [hstep o ho, if_neg (by decide), hfetch]
  · exact hfetch

/-! ### A stop on request -/

/-- A task that waits at no barrier stops where it is (R160). -/
theorem stopRun_plain {s : State} {p l : Nat} (h : ∀ k, (s.reach p l).task.wait ≠ .clusterBar k ∧ (s.reach p l).task.wait ≠ .parcelBar k) :
    stopRun s p l = s.updTask p l (fun t => { t with run := false, wait := if t.wait = .fence then .fence else .none }) := by
  rw [stopRun, withdrawHead]
  split
  · next k hk => exact absurd hk (h k).1
  · next k hk => exact absurd hk (h k).2
  · rw [State.updTask_updTask]

/-- The task of a reach once it has stopped on request, with the strict bit as written. -/
def Task.halted (t : Task) (strict : Bool) : Task := { t with strict := strict, run := false, wait := .none }

theorem stopRun_clusterBar {s : State} {p l k : Nat} (h : (s.reach p l).task.wait = .clusterBar k) :
    stopRun s p l = (s.updCluster p (clusterOf l) (fun c =>
      { c with bar := SMap.put c.bar k (Barrier.withdraw (SMap.get ({} : Barrier) c.bar k) l) })).updTask p l
        (fun t => { t with wait := if t.wait = .fence then .fence else .none, run := false }) := by
  simp only [stopRun, withdrawHead, h, State.updTask_updTask]

theorem stopRun_parcelBar {s : State} {p l k : Nat} (h : (s.reach p l).task.wait = .parcelBar k) :
    stopRun s p l = (s.updParcel p (fun x =>
      { x with bar := SMap.put x.bar k (Barrier.withdraw (SMap.get ({} : Barrier) x.bar k) l) })).updTask p l
        (fun t => { t with wait := if t.wait = .fence then .fence else .none, run := false }) := by
  simp only [stopRun, withdrawHead, h, State.updTask_updTask]

theorem Barrier.withdraw_waiting {b : Barrier} {l : Nat} (h : l ∈ b.waiting) : b.withdraw l =
    { b with arrived := b.arrived - 1, waiting := b.waiting.filter (fun m => m != l) } := by
  rw [Barrier.withdraw, if_pos (by simpa using h)]

@[simp] theorem store_portBytes (s : State) (rq : Requester) (p n : Nat) : store (portBytes s rq p true n) = store s := by
  unfold portBytes portCount; split <;> simp

@[simp] theorem store_updCluster (s : State) (p c : Nat) (f : Cluster → Cluster) (h : (f (s.cluster p c)).buf = (s.cluster p c).buf) :
    store (s.updCluster p c f) = store s := by
  refine store_ext (cells_congr (fun q => by simp) (fun q d => ?_) fun q m => by simp) (fun q => by simp) rfl
  rw [State.updCluster_cluster]
  split
  · next hqd => rw [h, hqd.1, hqd.2]
  · rfl

/-- A task that leaves its barrier as it stops: the barrier apart, which `u` has changed already, only the task has changed. -/
theorem halted_frame {s u : State} {rq : Requester} {p l : Nat} {strict : Bool}
    (hu : ∀ q m, u.reach q m = ((portBytes s rq p true 8).updTask p l (fun t => { t with strict := strict })).reach q m)
    (hst : store u = store ((portBytes s rq p true 8).updTask p l (fun t => { t with strict := strict })))
    (hb : u.book = (portBytes s rq p true 8).book) (hhub : u.hub = (portBytes s rq p true 8).hub)
    (htime : SameTime (portBytes s rq p true 8) u) (hw : (s.reach p l).task.wait ≠ .fence) :
    let t := u.updTask p l (fun t => { t with wait := if t.wait = .fence then .fence else .none, run := false })
    t.reach p l = { s.reach p l with task := (s.reach p l).task.halted strict } ∧
    OtherReaches s t p l ∧ SameMemory s t ∧ t.book = s.book ∧ t.hub = s.hub ∧ SameTime s t := by
  refine ⟨?_, fun q m hqm => ?_, sameMemory_of_store ?_, hb.trans (portBytes_book ..), hhub.trans (portBytes_hub ..),
    .trans (portBytes_sameTime ..) htime⟩
  · rw [State.updTask_reach_same, hu, State.updTask_reach_same, portBytes_reach]
    simp only [if_neg hw, Task.halted]
  · rw [State.updTask_reach_other _ _ _ _ _ _ hqm, hu, State.updTask_reach_other _ _ _ _ _ _ hqm, portBytes_reach]
  · rw [store_updTask, hst, store_updTask, store_portBytes]

section
variable {s : State} {rq : Requester} {p : ParcelId} {l : ReachId} {strict : Bool} {k : Nat}
  (h : Arrives s rq p (.reach p l 0) (BitVec.ofNat 64 (2 * b2n strict))) (hrun : (s.reach p l).task.run = true)
include h hrun

/-- A SYNC that waits at a barrier of its cluster leaves it as its task stops (R160, R185). -/
theorem taskStopRequest_clusterBar (hw : (s.reach p l).task.wait = .clusterBar k)
    (hin : l.val ∈ (clusterBar s p (clusterOf l) k).waiting) : Gives (.taskStopRequest rq p l strict) s (fun t =>
      t.reach p l = { s.reach p l with task := (s.reach p l).task.halted strict } ∧
      clusterBar t p (clusterOf l) k = { clusterBar s p (clusterOf l) k with
        arrived := (clusterBar s p (clusterOf l) k).arrived - 1
        waiting := (clusterBar s p (clusterOf l) k).waiting.filter (fun m => m != l.val) } ∧
      OtherReaches s t p l ∧ SameMemory s t ∧ t.book = s.book ∧ t.hub = s.hub ∧ SameTime s t) := by
  obtain ⟨u, hu⟩ : ∃ u, u = (portBytes s rq p true 8).updTask p l (fun t => { t with strict := strict }) := ⟨_, rfl⟩
  have hwait : (u.reach p l).task.wait = .clusterBar k := by rw [hu, State.updTask_reach_same, portBytes_reach]; exact hw
  have hcl : u.cluster p (clusterOf l) = s.cluster p (clusterOf l) := by
    rw [hu]; exact (State.updReach_cluster ..).trans (portBytes_cluster ..)
  obtain ⟨hreach, hframe⟩ := halted_frame (s := s) (rq := rq) (p := p) (l := l) (strict := strict)
    (u := u.updCluster p (clusterOf l) (fun c =>
      { c with bar := SMap.put c.bar k (Barrier.withdraw (SMap.get ({} : Barrier) c.bar k) l) })) (fun q m => by simp [hu])
    (by rw [store_updCluster _ _ _ _ rfl, hu]) (by rw [hu]; rfl) (by rw [hu]; rfl) (by rw [hu]; exact ⟨rfl, rfl, rfl, rfl, rfl⟩)
    (by simp [hw])
  refine ⟨_, (exec_taskStopRequest h).trans (by rw [if_pos hrun, ← hu, stopRun_clusterBar hwait]), hreach, ?_, hframe⟩
  rw [clusterBar, State.updTask, State.updReach_cluster, State.updCluster_cluster_same, hcl, SMap.get_put_same]
  exact Barrier.withdraw_waiting hin

/-- A SYNC that waits at a barrier of its parcel leaves it as its task stops (R160, R185). -/
theorem taskStopRequest_parcelBar (hw : (s.reach p l).task.wait = .parcelBar k) (hin : l.val ∈ (parcelBar s p k).waiting) :
    Gives (.taskStopRequest rq p l strict) s (fun t =>
      t.reach p l = { s.reach p l with task := (s.reach p l).task.halted strict } ∧
      parcelBar t p k = { parcelBar s p k with
        arrived := (parcelBar s p k).arrived - 1
        waiting := (parcelBar s p k).waiting.filter (fun m => m != l.val) } ∧
      OtherReaches s t p l ∧ SameMemory s t ∧ t.book = s.book ∧ t.hub = s.hub ∧ SameTime s t) := by
  obtain ⟨u, hu⟩ : ∃ u, u = (portBytes s rq p true 8).updTask p l (fun t => { t with strict := strict }) := ⟨_, rfl⟩
  have hwait : (u.reach p l).task.wait = .parcelBar k := by rw [hu, State.updTask_reach_same, portBytes_reach]; exact hw
  have hbar : (u.parcel p).bar = (s.parcel p).bar := by
    rw [hu, State.updTask, State.updReach_parcel_bar, portBytes_parcel_mon]
    split <;> rfl
  have hbeside := Beside.updParcel u p (fun x =>
      { x with bar := SMap.put x.bar k (Barrier.withdraw (SMap.get ({} : Barrier) x.bar k) l) }) rfl rfl
  obtain ⟨hreach, hframe⟩ := halted_frame (s := s) (rq := rq) (p := p) (l := l) (strict := strict)
    (u := u.updParcel p (fun x => { x with bar := SMap.put x.bar k (Barrier.withdraw (SMap.get ({} : Barrier) x.bar k) l) }))
    (fun q m => by rw [hbeside.1, hu]) (by rw [store_updParcel _ _ _ rfl rfl rfl rfl, hu]) (by rw [hu]; rfl) (by rw [hu]; rfl)
    (by rw [hu]; exact ⟨rfl, rfl, rfl, rfl, rfl⟩) (by simp [hw])
  refine ⟨_, (exec_taskStopRequest h).trans (by rw [if_pos hrun, ← hu, stopRun_parcelBar hwait]), hreach, ?_, hframe⟩
  rw [parcelBar, State.updTask, State.updReach_parcel_bar, State.updParcel_parcel_same, SMap.get_put_same, hbar]
  exact Barrier.withdraw_waiting hin

end

/-! ### The end of a task -/

/-- A drain of the unit ends with the last instruction in flight, and nothing else does (log 40). -/
theorem endDrain_frame {s : State} {p l : Nat} (hf : (s.reach p l).flights = []) :
    (endDrain s p l).reach p l = { s.reach p l with task := { (s.reach p l).task with drain := false } } ∧
    OtherReaches s (endDrain s p l) p l ∧ store (endDrain s p l) = store s ∧ apart (endDrain s p l) = apart s ∧
    SameTime s (endDrain s p l) := by
  unfold endDrain
  split
  · exact ⟨State.updTask_reach_same .., fun q m hqm => State.updTask_reach_other _ _ _ _ _ _ hqm, store_updTask .., rfl,
      ⟨rfl, rfl, rfl, rfl, rfl⟩⟩
  · next h =>
    have hdrain : (s.reach p l).task.drain = false := by simpa [hf] using h
    exact ⟨by rw [← hdrain], fun _ _ _ => rfl, rfl, rfl, ⟨rfl, rfl, rfl, rfl, rfl⟩⟩

/-- With nothing in flight, and no task that issues, the head only ends what it is to end. -/
theorem wakeHead_stopped {s : State} {p l : Nat} (hf : (s.reach p l).flights = []) (hi : (s.reach p l).task.issuing = false) :
    wakeHead s p l = finishStop (endDrain s p l) p l := by
  obtain ⟨hreach, _⟩ := endDrain_frame hf
  have hno : onlyFence ((endDrain s p l).reach p l) = none := onlyFence_none (by simp [hreach, hf])
  have hstop : ((endDrain s p l).reach p l).task.issuing = false := by rw [hreach]; exact hi
  unfold wakeHead
  dsimp only
  split
  · next g hg => exact absurd (hg.symm.trans hno) (by simp)
  · exact if_pos (by simp [hstop])

theorem store_flightLeft (s : State) (p l : Nat) (f : Flight) : store (flightLeft s p l f) = store s := by
  obtain ⟨_, hposted, _⟩ := flightLeft_shared s p l f
  obtain ⟨_, _, _, _, _, hmem⟩ := (s.reach p l).retired_frame f
  have hpoison (q : Nat) : ((retire s p l f).parcel q).poison = (s.parcel q).poison := by
    have hsat (t : State) (pc no : Nat) (a b : Option SatRec) : (raiseSat t p l pc no a b).parcel q = t.parcel q := by
      cases a <;> cases b <;> rfl
    have hsample (t : State) (tag : Option SampleTag) :
        ((sampleEnd t p l f.job f.status tag).parcel q).poison = (t.parcel q).poison := by
      cases tag with
      | none => rfl
      | some _ => exact poison_of_store (store_updMon ..) q
    rw [retire_eq, hsample, hsat, State.updReach_parcel_poison]
  rw [flightLeft, store_updParcel _ _ _ rfl rfl rfl rfl]
  refine (store_ext (cells_of_world (world_retire s p l f)) (fun q => ?_) hposted).trans (store_updReach s p l (·.retired f) hmem)
  rw [hpoison, State.updReach_parcel_poison]

/-- The last instruction in flight of a task that no longer issues leaves, and the task ends (R160, R164, R187). -/
theorem taskStopComplete_gives {p : ParcelId} {l : ReachId} {f : Flight} {s : State} (hfl : (s.reach p l).flights = [f])
    (hissue : (s.reach p l).task.issuing = false) (hmay : mayComplete (s.reach p l) f = true) (hgated : s.datum.gated = none)
    (hheld : (s.parcel p).held = []) (hgen : f.rtGen = none) : ∃ e t, exec (.taskStopComplete p l) s = .next t ∧ Ended e t p l ∧
      e.reach p l = { (s.reach p l).retired f with task := { (s.reach p l).task with drain := false } } ∧ OtherReaches s e p l ∧
      SameClusters s e ∧ SameHub s e ∧ SameTime s e ∧ store e = store s := by
  obtain ⟨hflights, htask, _⟩ := (s.reach p l).retired_frame f
  have hreach := flightLeft_reach s p l f
  obtain ⟨hhub, _⟩ := flightLeft_shared s p l f
  obtain ⟨hothers, hclusters, _, htime⟩ := flightLeft_frame s p l f
  have hempty : ((flightLeft s p l f).reach p l).flights = [] := by rw [hreach, hflights, hfl]; simp
  have hstop : ((flightLeft s p l f).reach p l).task.issuing = false := by rw [hreach, htask]; exact hissue
  obtain ⟨hdrained, hothers', hstore, hhub', htime'⟩ := endDrain_frame hempty
  have hexec : exec (.taskStopComplete p l) s = .next (finishStop (endDrain (flightLeft s p l f) p l) p l) := by
    refine congrArg Host.Outcome.next ?_
    simp [hfl, hissue, hgated, hmay, completeFlight_eq s p l f hheld hgen, wakeHead_stopped hempty hstop]
  refine ⟨endDrain (flightLeft s p l f) p l, _, hexec, finishStop_ended ?_, ?_, fun q m h => (hothers' q m h).trans (hothers q m h),
    fun q c => (endDrain_sameClusters _ p l q c).trans (hclusters q c), sameHub_of_apart (hhub'.trans ?_), .trans htime htime',
    hstore.trans (store_flightLeft ..)⟩
  · rw [hdrained]; exact hempty
  · rw [hdrained, hreach, htask]
  · rw [apart, hhub, apart]

theorem nonePosted_of_store {s t : State} {p l : Nat} (h : store t = store s) (hs : NonePosted s p l) : NonePosted t p l := by
  rw [NonePosted, posted_of_store h]; exact hs

theorem SameHub.trans {s t u : State} (h : SameHub s t) (k : SameHub t u) : SameHub s u := by
  obtain ⟨h1, h2, h3, h4, h5, h6, h7, h8⟩ := h
  obtain ⟨k1, k2, k3, k4, k5, k6, k7, k8⟩ := k
  exact ⟨k1.trans h1, k2.trans h2, k3.trans h3, k4.trans h4, k5.trans h5, k6.trans h6, k7.trans h7, k8.trans h8⟩

/-- Settles O9: a write of TASK_CTL starts the task or stops its issue, and the task ends with its last instruction in flight. -/
theorem tasksRunAndStop : Obligations.TasksRunAndStop := by
  unfold Obligations.TasksRunAndStop
  refine ⟨fun rq p l strict s h => ⟨fun hrun hstate hret hpc hstep hfault hhalt => ?start, fun hno => ?strict⟩,
    fun rq p l strict s h => ⟨fun hrun => ?idle, fun hrun hwait => ?stop, fun k hrun hwait hin => ?cluster,
      fun k hrun hwait hin => ?parcel⟩,
    fun p l f s hfl hissue hmay hgated hheld hsort hgen => ?ends⟩
  case start =>
    have hmay : mayRun s p l = true := by simp [mayRun, hstate, hret]
    rw [exec_taskRun h, if_pos (by simp [hrun, hmay, hfault, hhalt]), startTask_inside (by simpa using hpc) (by simpa using hstep),
      State.updTask_updTask]
  case strict =>
    refine (exec_taskRun h).trans (congrArg Host.Outcome.next (if_neg ?_))
    obtain h | h | h | h | h := hno <;> simp [mayRun, h]
  case idle => exact (exec_taskStopRequest h).trans (congrArg Host.Outcome.next (if_neg (by simp [hrun])))
  case stop => rw [exec_taskStopRequest h, if_pos hrun, stopRun_plain (by simpa using hwait), State.updTask_updTask]
  case cluster => exact taskStopRequest_clusterBar h hrun hwait hin
  case parcel => exact taskStopRequest_parcelBar h hrun hwait hin
  case ends =>
    obtain ⟨e, t, ht, hend, hreach, hothers, hclusters, hhub, htime, hstore⟩ := taskStopComplete_gives hfl hissue hmay hgated hheld hgen
    obtain ⟨hflights, htask, hpool, _⟩ := (s.reach p l).retired_frame f
    have hbit := hend.bit
    have hstopped := hend.stopped
    rw [hreach] at hbit hstopped
    refine ⟨t, ht, ?_, ?_, fun n => ?_, hbit, fun h => (hstopped h).2, fun hnone k a => ?_, ?_,
      fun q m h => (hend.others q m h).trans (hothers q m h), fun q c => (hend.clusters q c).trans (hclusters q c),
      hhub.trans hend.hub, htime.trans hend.time⟩
    · rw [hend.reach, hreach]; simpa [hfl] using hflights
    · rw [hend.reach, hreach]; rfl
    · rw [hend.reach, hreach]; exact Reach.scalar_retired _ _ _ hsort
    · exact (hend.memory (nonePosted_of_store hstore hnone) k a).trans (sameMemory_of_store hstore k a)
    · rw [hend.reach, hreach]; exact hpool

end Sys2Proof.Machine
end

section
/-!
Instructions in the last word of IMEM (06 R157, R164, R358): a task that goes on behind it stops, and what it has posted becomes
visible with the stop. So the obligations fail that hold every memory unchanged over an instruction of the sequencer at any PC.
-/

namespace Sys2Proof.Machine

/-- A reach with nothing in flight that is about to issue the instruction `w` in the last word of its IMEM. -/
def lastWord (w : Nat) : Reach :=
  { imem := (cellsOf 16368 (leBytes 16 w)).foldl (fun m c => memSet m c.1 c.2) []
    task := { run := true, pc := 16368 } }

/-- A package with that reach alone, its datum running past a tick 0 that a jump skipped, and a byte that the reach has written and
no other agent sees yet. -/
def lastWordState (w : Nat) : State :=
  { parcels := [(0, { state := .run, reaches := [(0, lastWord w)] })], datum := { state := .cabled, count := 1, skipped := [(0, 1)] }
    posted := [{ p := 0, writer := 0, unit := .parcelDma, cells := [(0, 1)] }] }

/-- No memory stays as it was where the posted byte has become visible. -/
theorem not_sameMemory_lastWord {i : Instr} {w : Nat} {t : State} (ht : exec i (lastWordState w) = .next t)
    (h : byteAfter i (lastWordState w) (.sm 0) 0 = 1) : ¬ SameMemory (lastWordState w) t := by
  intro hmem
  have hbefore : rdByte (lastWordState w) (.sm 0) 0 = 0 := rfl
  rw [byteAfter_of_exec ht, hmem, hbefore] at h
  exact absurd h (by decide)

/-- Refutes O13: an SCL of s0 in the last word of IMEM. -/
theorem not_scalarFunctions : ¬ Obligations.ScalarFunctions := by
  unfold Obligations.ScalarFunctions
  intro h
  have hissues : Issues (lastWordState 13) 0 0 (sclPlan (headJob (lastWordState 13) 0 0)) := by
    unfold Issues Undisturbed; decide +kernel
  obtain ⟨t, ht, _, _, _, _, _, _, hmem, _⟩ :=
    h 0 0 (lastWordState 13) _ _ _ _ _ rfl hissues (by decide +kernel) rfl rfl rfl rfl rfl
  exact not_sameMemory_lastWord ht (by decide +kernel) hmem

/-- Refutes O14: a BRC in the last word of IMEM whose condition, s0 unequal to s0, does not hold. -/
theorem not_branchesAndRegisterMoves : ¬ Obligations.BranchesAndRegisterMoves := by
  unfold Obligations.BranchesAndRegisterMoves
  intro ⟨h, _⟩
  obtain ⟨hbrc, _⟩ := h 0 0 (lastWordState (14 + 2 * 2 ^ 24)) _ 2 0 0 rfl (by decide +kernel) rfl (by decide +kernel)
    (by decide +kernel) (by decide +kernel)
  have hissues : Issues (lastWordState (14 + 2 * 2 ^ 24)) 0 0 (brcPlan 0 0 (headJob (lastWordState (14 + 2 * 2 ^ 24)) 0 0)) := by
    unfold Issues Undisturbed; decide +kernel
  obtain ⟨t, ht, _, _, _, _, _, _, _, hmem, _⟩ := hbrc hissues (by decide) False (by simp)
  exact not_sameMemory_lastWord ht (by decide +kernel) hmem

/-- Refutes O16: a STAK WAIT in the last word of IMEM whose stake, in the tick that was skipped, has come. -/
theorem not_stakesHoldAndPass : ¬ Obligations.StakesHoldAndPass := by
  unfold Obligations.StakesHoldAndPass
  intro ⟨_, h⟩
  obtain ⟨hwait, _⟩ := h 0 0 (lastWordState 10) _ _ rfl (by decide +kernel) rfl (by decide) (by decide +kernel) rfl
  have hissues : StakIssues (lastWordState 10) 0 0 false [bvf (headJob (lastWordState 10) 0 0).word 27 5,
      bvf (headJob (lastWordState 10) 0 0).word 32 5] := by unfold StakIssues Undisturbed; decide +kernel
  obtain ⟨t, ht, _, _, _, _, hmem, _⟩ := hwait hissues (by decide +kernel) (by intro o ho; cases ho)
    (by decide +kernel)
  exact not_sameMemory_lastWord ht (by decide +kernel) hmem

/-- Refutes O17: a FENC.acq in the last word of IMEM, with nothing in flight. -/
theorem not_fencesAndBarriers : ¬ Obligations.FencesAndBarriers := by
  unfold Obligations.FencesAndBarriers
  intro ⟨h, _⟩
  obtain ⟨hfenc, _⟩ := h 0 0 (lastWordState 11) _ (.fencAcq 0 0) rfl rfl
  obtain ⟨halone, _⟩ := hfenc (by decide +kernel) (by unfold Issues Undisturbed; decide +kernel)
    (.inl ⟨rfl, by decide +kernel⟩)
  obtain ⟨t, ht, _, _, _, _, _, hmem, _⟩ := halone rfl
  exact not_sameMemory_lastWord ht (by decide +kernel) (hmem (by decide))

end Sys2Proof.Machine
end

section
/-!
MATB (06 R172): a run without a fault is the nest's visits and leaves the rest, and the obligation on it.
-/

namespace Sys2Proof.Machine

/-! ### The nest reads what was taken at issue -/

/-- A fault of a segment is named from what the MATB took at issue: the state around it does not matter. -/
theorem MatCtx.segFault_state (c : MatCtx) (s e : State) : c.segFault e = c.segFault s := rfl

theorem MatCtx.visit_state (c : MatCtx) (s e : State) : c.visit e = c.visit s := by
  have hseg := c.segFault_state s e
  funext x v
  simp only [MatCtx.visit, MatCtx.chunks, MatCtx.slicesOf, hseg]

/-- The instruction that has just entered the array follows the same ones as it did before. -/
theorem matRun_entering {s e : State} {p l : Nat} {pl : Plan} (h : Entering s e p l pl) (j : Job) :
    matRun e p l j ((s.reach p l).task.issueNo + 1) = matRun s p l j ((s.reach p l).task.issueNo + 1) := by
  obtain ⟨_, _, _, _, hr⟩ := h.reach
  have hfollows : (e.reach p l).flights.any (fun f => f.unit == .array && f.no != (s.reach p l).task.issueNo + 1) =
      (s.reach p l).flights.any (fun f => f.unit == .array && f.no != (s.reach p l).task.issueNo + 1) := by
    rw [hr]; simp [Reach.enter]
  have hline : (e.reach p l).line = (s.reach p l).line := by rw [hr]; rfl
  simp only [matRun, matCtx_entering h, (matCtx s p l j).visit_state s e, hfollows, h.pool, h.paired, hline]

/-! ### What a run leaves -/

theorem bumpCnt_paired (s : State) (p l k n : Nat) : ((bumpCnt s p l k n).reach p l).paired = (s.reach p l).paired := by
  rw [bumpCnt_reach]

theorem reach_free (s : State) (n q m : Nat) : ({ s with free := n } : State).reach q m = s.reach q m := rfl

section
variable {s e : State} {p l : Nat} {j : Job} {no : Nat} (h : (matRun e p l j no).fault = none)
include h

theorem runMatb_paired : ((runMatb p l e j no).reach p l).paired = (matRun e p l j no).paired := by
  simp only [runMatb, h, reach_updFlight_free, bumpCnt_paired, State.updReach_reach_same]

theorem runMatb_around : (world (runMatb p l e j no)).around p l = (world e).around p l := by
  simp only [runMatb, h, around_updFlight, world_free, around_bumpCnt]
  exact around_updReach e p l _ rfl

theorem runMatb_entered {u : FuncUnit} (he : Entered s e p l u 0 .none) (hno : no = (s.reach p l).task.issueNo + 1) :
    Entered s (runMatb p l e j no) p l u 0 .none := by
  subst hno
  simp only [runMatb, h]
  refine Entered.updFlight (Entered.congr he ?_ ?_ ?_) (fun _ => ⟨rfl, rfl, rfl⟩) fun _ hst hw => ⟨hst, hw⟩
  all_goals simp only [reach_free, bumpCnt_task, bumpCnt_flights, State.updReach_reach_same]

end

/-- Settles O19: the visits are those of the state before issue (`matRun_entering`), and the run writes the pool, its tags, the
scan line and the counters of its reach only. -/
theorem matbRuns : Obligations.MatbRuns := by
  unfold Obligations.MatbRuns
  intro p l s j hj hop hI hfault
  subst hj
  have hexec : exec (.matb p l .none) s = .next (issueUnit s p l (fun w => wOp w == 0) (matPlan s p l) (runMatb p l)) := by
    have hplant : (if canIssue s p l && wOp (headJob s p l).word == 0 then plantIn s (.sp p l) 0 Config.spSize .none else s) = s :=
      ite_self s
    exact congrArg (fun x => Host.Outcome.next (issueUnit x p l (fun w => wOp w == 0) (matPlan x p l) (runMatb p l))) hplant
  obtain ⟨e, he, hissue⟩ := exec_atMostStops hexec (by simp [hop]) hI
  have hrun := matRun_entering he (headJob s p l)
  rw [← hrun] at hfault ⊢
  obtain ⟨hpool, hquiet⟩ := runMatb_sound p l e _ _ hfault
  obtain ⟨t, ht, hstop⟩ := hissue _ rfl hquiet
  have haround := hstop.around.trans ((runMatb_around hfault).trans he.around)
  exact ⟨t, ht, hstop.entered (runMatb_entered hfault he.entered rfl), hstop.pool.trans hpool,
    hstop.paired.trans (runMatb_paired hfault), scalars_of_around haround, sameTables_of_around haround,
    otherReaches_of_around haround, sameClusters_of_around haround, sameMemory_of_around haround, sameTime_of_around haround⟩

end Sys2Proof.Machine
end

section
/-!
The dense forms of MOVE (06 R177, R178, R211; 09 R256; 12 R356): the bytes that a run gathers, its write, what the counts of a
transfer leave, and the obligation on them.
-/

namespace Sys2Proof.Machine

/-! ### The run reads what stood at issue -/

theorem mvForm_entering {s e : State} {p l : Nat} {pl : Plan} (h : Entering s e p l pl) (j : Job) : mvForm e p j = mvForm s p j := by
  have haperture : inAperture e p = inAperture s p := by
    funext v
    rw [inAperture, State.dev, h.hub]
    rfl
  unfold mvForm mvAperture
  rw [haperture]

theorem moveRun_entering {s e : State} {p l : Nat} {pl : Plan} (h : Entering s e p l pl) (j : Job) :
    moveRun e p l j = moveRun s p l j := by
  have hsame := h.sameOperands
  have hdense : mvDense e p l j = mvDense s p l j := by
    simp only [mvDense, hsame.mvSrc, hsame.mvDst, hsame.phys, hsame.viewOf, hsame.viewPoison]
  rw [moveRun, hdense, mvForm_entering h, moveRun]

/-! ### The bytes that a run gathers -/

theorem sorted_putElem (m : Mem) (ph : Int → Nat) (ew : Nat) {ov : Overlay} (b : Int) (v : Nat) (h : SMap.sorted ov = true) :
    SMap.sorted (putElem m ph ew ov b v) = true := by
  unfold putElem
  split
  · exact sorted_putBytes ph [_] (b / 8) h
  · exact sorted_putBytes ph _ _ h

theorem sorted_denseStep (c : MvDense) {x : MvRun} (e : Option Int × Option Int) (h : SMap.sorted x.ov = true) :
    SMap.sorted (denseStep c x e).ov = true := by
  unfold denseStep
  split
  · exact h
  · split
    · exact h
    · dsimp only
      split
      · exact sorted_putElem _ _ _ _ _ h
      · split
        · exact h
        · exact sorted_putElem _ _ _ _ _ h

/-- The bytes that a dense MOVE writes are listed once each, in ascending order. -/
theorem sorted_moveRun (s : State) (p l : Nat) (j : Job) : SMap.sorted (moveRun s p l j).ov = true := by
  have hdense (c : MvDense) (es : List (Option Int × Option Int)) (x : MvRun) (h : SMap.sorted x.ov = true) :
      SMap.sorted (es.foldl (denseStep c) x).ov = true := by
    induction es generalizing x with
    | nil => exact h
    | cons e es ih => exact ih _ (sorted_denseStep c e h)
  have hlocal (c : MvDense) (n : Nat) (es : List (Nat × (Option Int × Option Int))) (x : MvRun × Mem) (h : SMap.sorted x.1.ov = true) :
      SMap.sorted (es.foldl (localStep c n) x).1.ov = true := by
    induction es generalizing x with
    | nil => exact h
    | cons e es ih => exact ih _ (sorted_denseStep _ _ h)
  unfold moveRun
  dsimp only
  split
  · exact hlocal _ _ _ _ rfl
  · exact hdense _ _ _ rfl

/-! ### The write -/

section
variable {s : State} {dst : Space} (hp : poisoned s dst = []) (writer : Nat) (u : FuncUnit) (ov : Overlay)
include hp

/-- A write to an on-die memory is there at once, and posts nothing. -/
theorem postWrite_onDie (hk : ∀ q, dst ≠ .sm q) : ∃ us, postWrite s dst writer u ov =
    { setCells s dst (ov.foldl (fun m c => memSet m c.1 c.2) (cells s dst)) with upsets := us } := by
  have hpost : postWrite s dst writer u ov = devWrite s dst writer ov := by
    cases dst with
    | sm q => exact absurd rfl (hk q)
    | _ => rfl
  rw [hpost]
  exact devWrite_onDie hk hp writer ov

theorem cells_postWrite_onDie (hk : ∀ q, dst ≠ .sm q) (k : Space) : cells (postWrite s dst writer u ov) k =
    if k = dst then ov.foldl (fun m c => memSet m c.1 c.2) (cells s dst) else cells s k := by
  obtain ⟨us, h⟩ := postWrite_onDie hp writer u ov hk
  rw [h, cells_upsets, cells_setCells]

theorem posted_postWrite_onDie (hk : ∀ q, dst ≠ .sm q) : (postWrite s dst writer u ov).posted = s.posted := by
  obtain ⟨us, h⟩ := postWrite_onDie hp writer u ov hk
  rw [h]
  exact setCells_posted ..

end

/-- A write to stacked memory is posted, if it has a byte (R356). -/
theorem postWrite_sm (s : State) (q writer : Nat) (u : FuncUnit) (ov : Overlay) : postWrite s (.sm q) writer u ov =
    { s with posted := s.posted ++ (if ov = [] then [] else [{ p := q, writer := writer, unit := u, cells := ov }]) } := by
  cases ov with
  | nil => simp [postWrite]
  | cons c ov => rfl

theorem viewOf_congr {s t : State} (hposted : t.posted = s.posted) {k : Space} (hc : cells t k = cells s k) (writer : Nat)
    (u : FuncUnit) : viewOf t k writer u = viewOf s k writer u := by
  unfold viewOf
  rw [hposted, hc]

/-- The queue that writes sees its write at once (R356). -/
theorem viewOf_postWrite {s : State} {dst : Space} (hp : poisoned s dst = []) (writer : Nat) (u : FuncUnit) (ov : Overlay)
    (k : Space) : viewOf (postWrite s dst writer u ov) k writer u =
      if k = dst then ov.foldl (fun m c => memSet m c.1 c.2) (viewOf s k writer u) else viewOf s k writer u := by
  by_cases hsm : ∃ q, dst = .sm q
  · obtain ⟨q, rfl⟩ := hsm
    rw [postWrite_sm]
    cases ov with
    | nil => simp
    | cons c ov => exact (viewOf_posted (s := s) (w := { p := q, writer := writer, unit := u, cells := c :: ov }) rfl
        (cells_of_world (world_posted ..)) k writer u).trans (by simp)
  · have hk : ∀ q, dst ≠ .sm q := fun q h => hsm ⟨q, h⟩
    by_cases hkd : k = dst
    · subst hkd
      have hview (t : State) : viewOf t k writer u = cells t k := by
        cases k with
        | sm q => exact absurd rfl (hk q)
        | _ => rfl
      rw [hview, hview, if_pos rfl, cells_postWrite_onDie hp _ _ _ hk, if_pos rfl]
    · rw [if_neg hkd]
      exact viewOf_congr (posted_postWrite_onDie hp _ _ _ hk) (by rw [cells_postWrite_onDie hp _ _ _ hk, if_neg hkd]) _ _

/-! ### What a movement leaves -/

/-- What a movement of reach `l` leaves: of its own reach all but the memories and counters, of every other one all but the
scratchpad, the field book and the time. -/
structure MoveView where
  reach : Nat → Nat → Reach
  book : Book
  time : Datum × Stay × List Instr × Nat × Nat

/-- That part of a state. -/
def moveView (p l : Nat) (s : State) : MoveView :=
  { reach := fun q m => if q = p ∧ m = l then { s.reach q m with spad := [], imem := [], cnt := [], cntInc := [] }
      else { s.reach q m with spad := [] }
    book := s.book
    time := (s.datum, s.stay, s.pending, s.phase, s.wall) }

section
variable {s t : State} {p l : Nat}

theorem moveView_ext (hr : ∀ q m, t.reach q m = s.reach q m) (hb : t.book = s.book) (ht : SameTime s t) :
    moveView p l t = moveView p l s := by
  obtain ⟨hdatum, hstay, hpending, hphase, hwall⟩ := ht
  simp only [moveView, hr, hb, hdatum, hstay, hpending, hphase, hwall]

variable (h : moveView p l t = moveView p l s)
include h

theorem own_of_moveView : { t.reach p l with spad := [], imem := [], cnt := [], cntInc := [] } =
    ({ s.reach p l with spad := [], imem := [], cnt := [], cntInc := [] } : Reach) := by
  have := congrFun (congrFun (congrArg MoveView.reach h) p) l
  simpa only [moveView, and_self, if_true] using this

theorem other_of_moveView {q m : Nat} (hqm : ¬ (q = p ∧ m = l)) : t.reach q m = { s.reach q m with spad := (t.reach q m).spad } := by
  have := congrFun (congrFun (congrArg MoveView.reach h) q) m
  simp only [moveView, if_neg hqm] at this
  exact (congrArg (fun r : Reach => { r with spad := (t.reach q m).spad }) this :)

theorem book_of_moveView : t.book = s.book := congrArg MoveView.book h
theorem time_of_moveView : SameTime s t := by
  have := congrArg MoveView.time h
  simp only [moveView, Prod.mk.injEq] at this
  exact this

end

section
variable (s : State) (p l : Nat)

@[simp] theorem moveView_bumpPcnt (q k n : Nat) : moveView p l (bumpPcnt s q k n) = moveView p l s :=
  moveView_ext (bumpPcnt_beside ..).1 (by simp) (sameTime_of_world (world_bumpPcnt ..))
@[simp] theorem moveView_bumpBw (q k n : Nat) : moveView p l (bumpBw s q k n) = moveView p l s :=
  moveView_ext (bumpBw_beside ..).1 (by simp) (sameTime_of_world (world_bumpBw ..))
@[simp] theorem moveView_bumpCcnt (q c k n : Nat) : moveView p l (bumpCcnt s q c k n) = moveView p l s := by
  obtain ⟨hreach, _, _, _, htime⟩ := bumpCcnt_keeps s q c k n
  refine moveView_ext hreach ?_ htime
  unfold bumpCcnt
  split <;> rfl

@[simp] theorem moveView_bumpCnt (k n : Nat) : moveView p l (bumpCnt s p l k n) = moveView p l s := by
  have hreach (q m : Nat) := bumpCnt_reach s p l k n q m
  have hother (q m : Nat) (h : ¬ (q = p ∧ m = l)) := bumpCnt_reach_other s p l k n q m h
  obtain ⟨hbook, hdatum, hstay, hpending, hphase, hwall⟩ : (bumpCnt s p l k n).book = s.book ∧ (bumpCnt s p l k n).datum = s.datum ∧
      (bumpCnt s p l k n).stay = s.stay ∧ (bumpCnt s p l k n).pending = s.pending ∧ (bumpCnt s p l k n).phase = s.phase ∧
      (bumpCnt s p l k n).wall = s.wall := by
    obtain h | h := bumpCnt_cases s p l k n <;> (rw [h]; exact ⟨rfl, rfl, rfl, rfl, rfl, rfl⟩)
  have hmap : (moveView p l (bumpCnt s p l k n)).reach = (moveView p l s).reach := by
    funext q m
    simp only [moveView]
    split
    · rw [hreach]
    · next h => rw [hother q m h]
  rw [moveView, hbook, hdatum, hstay, hpending, hphase, hwall]
  exact congrArg (fun r => ({ moveView p l s with reach := r } : MoveView)) hmap

@[simp] theorem moveView_countRing (a b n : Nat) : moveView p l (countRing s a b n) = moveView p l s := by
  have hhops (minus : Bool) (k : Nat) (s : State) (a : Nat) : moveView p l (countHops minus n k s a) = moveView p l s := by
    induction k generalizing s a with
    | zero => rfl
    | succ k ih => rw [countHops, ih, countHop]; simp
  unfold countRing
  split
  · rfl
  · exact hhops ..

@[simp] theorem moveView_countMove (parcelDma viaCb halo : Bool) (src dst : Option Nat) (n : Nat) :
    moveView p l (countMove s p l parcelDma viaCb halo src dst n) = moveView p l s := by
  have hparcel (t : State) (b : Bool) : moveView p l (if b then bumpCcnt t p (clusterOf l) 0 n else t) = moveView p l t := by
    cases b <;> simp
  have hhalo (t : State) (b : Bool) : moveView p l (if b then bumpCcnt t p (clusterOf l) 8 n else t) = moveView p l t := by
    cases b <;> simp
  have hring (t : State) (a b : Nat) (c : Prop) [Decidable c] : moveView p l (if c then t else countRing t a b n) = moveView p l t := by
    split <;> simp
  have hbase : moveView p l (if parcelDma then bumpBw (if viaCb then bumpCcnt s p (clusterOf l) 0 n else s) p 20 n else
      bumpCnt s p l 15 n) = moveView p l s := by cases parcelDma <;> simp [hparcel]
  unfold countMove
  cases src <;> cases dst <;> simp only [hring, hhalo, hbase]

/-- A read with no error standing, a change of what is in flight apart. -/
theorem moveView_devReadAt (k : Space) (rq : Nat) (as : List Nat) (h : s.upsets = []) :
    moveView p l (devReadAt s k rq as) = moveView p l s := by
  rw [devReadAt_sound _ _ _ _ h]
  exact moveView_ext (fun q m => reach_of_world (by simp) q m) (book_of_confView (by simp)) (sameTime_of_world (by simp))

/-- A memory that a MOVE may write: IMEM only of its own reach (R178). -/
theorem moveView_setCells (k : Space) (m : Mem) (h : ∀ q i, k = .imem q i → q = p ∧ i = l) :
    moveView p l (setCells s k m) = moveView p l s := by
  cases k with
  | sm q => exact moveView_ext (setCells_sm_beside s q m).1 rfl ⟨rfl, rfl, rfl, rfl, rfl⟩
  | cb q c => exact moveView_ext (fun _ _ => State.updCluster_reach ..) rfl ⟨rfl, rfl, rfl, rfl, rfl⟩
  | sp q i =>
    refine congrArg (fun r => ({ moveView p l s with reach := r } : MoveView)) (funext fun a => funext fun b => ?_)
    simp only [setCells, State.updReach_reach]
    split <;> split <;> simp_all
  | imem q i =>
    obtain ⟨rfl, rfl⟩ := h q i rfl
    refine congrArg (fun r => ({ moveView q i s with reach := r } : MoveView)) (funext fun a => funext fun b => ?_)
    simp only [setCells, State.updReach_reach]
    split
    · next hab => obtain ⟨rfl, rfl⟩ := hab; rfl
    · rfl

end

section
variable {s : State} {p l : Nat}

theorem moveView_postWrite {dst : Space} (hp : poisoned s dst = []) (writer : Nat) (u : FuncUnit) (ov : Overlay)
    (h : ∀ q i, dst = .imem q i → q = p ∧ i = l) : moveView p l (postWrite s dst writer u ov) = moveView p l s := by
  by_cases hsm : ∃ q, dst = .sm q
  · obtain ⟨q, rfl⟩ := hsm
    rw [postWrite_sm]
    rfl
  · obtain ⟨us, hw⟩ := postWrite_onDie hp writer u ov (fun q hq => hsm ⟨q, hq⟩)
    rw [hw]
    exact moveView_setCells s p l dst _ h

end

/-! ### Counts leave the memories -/

section
variable (s : State)

@[simp] theorem store_bumpCcnt (p c k n : Nat) : store (bumpCcnt s p c k n) = store s := by
  refine store_ext (cells_bumpCcnt s p c k n) (fun q => ?_) (bumpCcnt_posted ..)
  unfold bumpCcnt
  split
  · rfl
  · exact State.updCluster_parcel_poison ..

@[simp] theorem store_bumpCnt (p l k n : Nat) : store (bumpCnt s p l k n) = store s := by
  obtain h | h := bumpCnt_cases s p l k n <;> rw [h]
  exact store_updReach s p l _ ⟨rfl, rfl⟩

@[simp] theorem store_countRing (a b n : Nat) : store (countRing s a b n) = store s := by
  have hhops (minus : Bool) (k : Nat) (s : State) (a : Nat) : store (countHops minus n k s a) = store s := by
    induction k generalizing s a with
    | zero => rfl
    | succ k ih => rw [countHops, ih, countHop]; simp
  unfold countRing
  split
  · rfl
  · exact hhops ..

@[simp] theorem store_countMove (p l : Nat) (parcelDma viaCb halo : Bool) (src dst : Option Nat) (n : Nat) :
    store (countMove s p l parcelDma viaCb halo src dst n) = store s := by
  have hparcel (t : State) (b : Bool) : store (if b then bumpCcnt t p (clusterOf l) 0 n else t) = store t := by cases b <;> simp
  have hhalo (t : State) (b : Bool) : store (if b then bumpCcnt t p (clusterOf l) 8 n else t) = store t := by cases b <;> simp
  have hring (t : State) (a b : Nat) (c : Prop) [Decidable c] : store (if c then t else countRing t a b n) = store t := by
    split <;> simp
  have hbase : store (if parcelDma then bumpBw (if viaCb then bumpCcnt s p (clusterOf l) 0 n else s) p 20 n else
      bumpCnt s p l 15 n) = store s := by cases parcelDma <;> simp [hparcel]
  unfold countMove
  cases src <;> cases dst <;> simp only [hring, hhalo, hbase]

theorem store_devReadAt (k : Space) (rq : Nat) (as : List Nat) (h : s.upsets = []) : store (devReadAt s k rq as) = store s := by
  rw [devReadAt_sound _ _ _ _ h]
  simp

end

/-! ### A movement that meets no poison -/

/-- What the movement `x` of reach `l` to memory `dst` makes of `s`: its bytes written, and what `moveView` names left. -/
structure Moved (s u : State) (p l : Nat) (dst : Space) (unit : FuncUnit) (ov : Overlay) : Prop where
  view : moveView p l u = moveView p l s
  seen : ∀ k, viewOf u k (srcReach p l) unit =
    if k = dst then ov.foldl (fun m c => memSet m c.1 c.2) (viewOf s k (srcReach p l) unit) else viewOf s k (srcReach p l) unit
  posted : ∀ q, dst = .sm q → (∀ k, cells u k = cells s k) ∧
    u.posted = s.posted ++ (if ov = [] then [] else [{ p := q, writer := srcReach p l, unit := unit, cells := ov }])
  onDie : (∀ q, dst ≠ .sm q) → u.posted = s.posted ∧
    ∀ k, cells u k = if k = dst then ov.foldl (fun m c => memSet m c.1 c.2) (cells s dst) else cells s k

theorem poisoned_devReadAt (s : State) (k j : Space) (rq : Nat) (as : List Nat) (h : s.upsets = []) :
    poisoned (devReadAt s k rq as) j = poisoned s j := by
  have hw := world_devReadAt s k rq as h
  cases j with
  | sm q => exact poison_of_store (store_devReadAt s k rq as h) q
  | cb q c => exact congrArg Cluster.poison (sameClusters_of_world hw q c)
  | sp q m => exact congrArg Reach.spPoison (reach_of_world hw q m)
  | imem q m => exact congrArg Reach.imemPoison (reach_of_world hw q m)

theorem poisoned_updFlight (s : State) (p l no : Nat) (f : Flight → Flight) (k : Space) :
    poisoned (updFlight s p l no f) k = poisoned s k := (sameOperands_updReach s p l (by rfl)).poisoned k

theorem finishMove_moved {s : State} {p l no : Nat} {j : Job} {src dst : MvSide} {parcelDma : Bool} {x : MvRun}
    (hup : s.upsets = []) (hbad : x.bad = none) (hp : poisoned s (dst.space p l) = []) :
    Moved (noteUndo s p l no (dmaUnitOf parcelDma) x.ws.reverse) (finishMove s p l no j src dst parcelDma x) p l (dst.space p l)
      (dmaUnitOf parcelDma) x.ov := by
  obtain ⟨n, hn⟩ : ∃ n, n = noteUndo s p l no (dmaUnitOf parcelDma) x.ws.reverse := ⟨_, rfl⟩
  obtain ⟨r, hr⟩ : ∃ r, r = devReadAt n (src.space p l) (srcReach p l) x.reads.reverse := ⟨_, rfl⟩
  have hnup : n.upsets = [] := by rw [hn]; exact hup
  have hrstore : store r = store n := by rw [hr]; exact store_devReadAt _ _ _ _ hnup
  have hrview : moveView p l r = moveView p l n := by rw [hr]; exact moveView_devReadAt _ _ _ _ _ _ hnup
  have hrp : poisoned r (dst.space p l) = [] := by
    rw [hr, poisoned_devReadAt _ _ _ _ _ hnup, hn, noteUndo, poisoned_updFlight, hp]
  obtain ⟨w, hw⟩ : ∃ w, w = postWrite r (dst.space p l) (srcReach p l) (dmaUnitOf parcelDma) x.ov := ⟨_, rfl⟩
  have himem : ∀ q i, dst.space p l = .imem q i → q = p ∧ i = l := by
    intro q i h
    unfold MvSide.space at h
    split at h <;> simp_all
  obtain ⟨u, hu⟩ : ∃ u, u = finishMove s p l no j src dst parcelDma x := ⟨_, rfl⟩
  have hustore : store u = store w := by
    rw [hu, finishMove, hbad]
    dsimp only
    rw [store_countMove, ← hn, ← hr, ← hw]
  have huview : moveView p l u = moveView p l w := by
    rw [hu, finishMove, hbad]
    dsimp only
    rw [moveView_countMove, ← hn, ← hr, ← hw]
  have hpw : moveView p l w = moveView p l r := by rw [hw]; exact moveView_postWrite hrp _ _ _ himem
  rw [← hn, ← hu]
  refine ⟨huview.trans (hpw.trans hrview), fun k => ?_, fun q hq => ?_, fun hk => ?_⟩
  · have hview := viewOf_postWrite hrp (srcReach p l) (dmaUnitOf parcelDma) x.ov k
    rw [← hw] at hview
    rw [viewOf_congr (posted_of_store hustore) (congrFun (cells_of_store hustore) k), hview,
      viewOf_congr (posted_of_store hrstore) (congrFun (cells_of_store hrstore) k)]
  · rw [hq, postWrite_sm] at hw
    refine ⟨fun k => ?_, ?_⟩
    · rw [cells_of_store hustore, ← cells_of_store hrstore, hw]
      exact cells_of_world (world_posted ..) k
    · rw [posted_of_store hustore, ← posted_of_store hrstore, hw]
  · refine ⟨?_, fun k => ?_⟩
    · rw [posted_of_store hustore, ← posted_of_store hrstore, hw]
      exact posted_postWrite_onDie hrp _ _ _ hk
    · rw [cells_of_store hustore, ← cells_of_store hrstore, hw, cells_postWrite_onDie hrp _ _ _ hk]

/-! ### The obligation -/

/-- An instruction of a unit that comes to issue ends with the check of the next fetch. -/
theorem exec_fetchCheck {s : State} {p l : Nat} {i : Instr} {sel : BitVec 128 → Bool} {plan : Job → Plan}
    {run : State → Job → Nat → State} (hexec : exec i s = .next (issueUnit s p l sel plan run))
    (hs : sel (headJob s p l).word = true) (hI : Issues s p l (plan (headJob s p l))) :
    ∃ e, Entering s e p l (plan (headJob s p l)) ∧
      ∀ u, u = run e (headJob s p l) ((s.reach p l).task.issueNo + 1) → QuietRun e u p l → exec i s = .next (fetchCheck u p l) := by
  obtain ⟨cd, tag, cnt, inc, hissue⟩ := issueUnit_eq_fetchCheck s p l sel plan run hs hI
  obtain ⟨_, _, _, _, _, _, _, hruined, _, hposted⟩ := hI
  obtain ⟨e, he⟩ : ∃ e, e = s.updReach p l (fun r => r.enter (headJob s p l) (plan (headJob s p l)) .none cd tag cnt inc) :=
    ⟨_, rfl⟩
  have hent : Entering s e p l (plan (headJob s p l)) := ⟨cd, tag, cnt, inc, he⟩
  refine ⟨e, hent, fun u hu hq => ?_⟩
  rw [hexec, hissue e u he hu ((hq.ruined.trans hent.ruined).trans hruined)]
  intro w hw hsrc
  exact (hq.posted w hw).elim (fun hwe => hposted w (hent.posted ▸ hwe) hsrc) id

/-- The four forms of MOVE that this is about. -/
theorem exec_denseMove {p : ParcelId} {l : ReachId} {s : State} {i : Instr}
    (h : (i = .move p l ∧ mvForm s p (headJob s p l) = .plain) ∨ (i = .moveImemLoad p l ∧ mvForm s p (headJob s p l) = .imem) ∨
      (i = .moveHalo p l ∧ mvForm s p (headJob s p l) = .halo) ∨
      (i = .moveLocalCopy p l ∧ mvForm s p (headJob s p l) = .localCopy)) :
    exec i s = .next (issueMove s p l (mvForm s p (headJob s p l)) (runDense p l)) := by
  obtain ⟨rfl, hf⟩ | ⟨rfl, hf⟩ | ⟨rfl, hf⟩ | ⟨rfl, hf⟩ := h <;> (rw [hf]; rfl)

/-- A MOVE of no element does nothing but enter its engine (R224). -/
theorem emptyMove {p : ParcelId} {l : ReachId} {s : State} (hop : wOp (headJob s p l).word = 4)
    (hI : Issues s p l (mvPlan s p l (headJob s p l))) (hform : mvForm s p (headJob s p l) = .plain)
    (hempty : mvEmpty (headJob s p l) = true) : Gives (.move p l) s (fun t =>
      Entered s t p l (if mvParcel (headJob s p l) then .parcelDma else .reachDma) 0 .none ∧ SameMemory s t ∧ OtherReaches s t p l ∧
      SameTime s t) := by
  obtain ⟨e, he, hissue⟩ := exec_atMostStops (exec_denseMove (.inl ⟨rfl, hform⟩)) (by simp [hop]) hI
  obtain ⟨t, ht, hstop⟩ := hissue e (by simp [runDense, hempty]) ⟨rfl, fun w hw => .inl hw, rfl, id⟩
  have haround := hstop.around.trans he.around
  exact ⟨t, ht, hstop.entered he.entered, sameMemory_of_around haround, otherReaches_of_around haround, sameTime_of_around haround⟩

/-- A memory as a queue sees it is kept in canonical form. -/
theorem memWf_view {s : State} {k : Space} (h : memWf (cells s k) = true) (writer : Nat) (u : FuncUnit) :
    memWf (viewOf s k writer u) = true := by
  cases k with
  | sm q => exact memWf_viewOf writer u h
  | _ => exact h

/-- The registers and the poison of a reach, without its memories. -/
def Reach.bare (r : Reach) : Reach := { r.kept with spad := [], imem := [] }

theorem sameTables_of_bare {s t : State} {p l : Nat} (h : (t.reach p l).bare = (s.reach p l).bare) :
    (t.reach p l).s = (s.reach p l).s ∧ SameTables s t p l :=
  ⟨(congrArg Reach.s h :), (congrArg Reach.prof h :), (congrArg Reach.trv h :), (congrArg Reach.swz h :), (congrArg Reach.spWin h :),
    (congrArg Reach.cbWin h :), (congrArg Reach.fuse h :), (congrArg Reach.actSeg h :)⟩

/-- What the state `v`, in which a movement that has entered its engine has run, has of its reach, and of the others. -/
structure MovedFrom (s v : State) (p l : Nat) (unit : FuncUnit) : Prop where
  entered : Entered s v p l unit 0 .none
  quiet : (v.reach p l).task.wait = .none ∧ (v.reach p l).flights ≠ []
  bare : (v.reach p l).bare = (s.reach p l).bare
  pool : (v.reach p l).pool = (s.reach p l).pool
  others : ∀ q m, ¬ (q = p ∧ m = l) → v.reach q m = { s.reach q m with spad := (v.reach q m).spad }
  book : v.book = s.book
  time : SameTime s v

/-- What the entry of a MOVE and the note of what it replaces have left, before its bytes are written. -/
theorem movedFrom_of_view {s e v : State} {p l : Nat} {pl : Plan} (he : Entering s e p l pl) (ws : List (Space × Nat))
    (hview : moveView p l v = moveView p l (noteUndo e p l ((s.reach p l).task.issueNo + 1) pl.unit ws)) :
    MovedFrom s v p l pl.unit ∧ (v.reach p l).ruined = (e.reach p l).ruined := by
  obtain ⟨n, hn⟩ : ∃ n, n = noteUndo e p l ((s.reach p l).task.issueNo + 1) pl.unit ws := ⟨_, rfl⟩
  have hent : Entered s n p l pl.unit 0 .none := by
    rw [hn]
    exact he.entered.updFlight (fun _ => ⟨rfl, rfl, rfl⟩) fun _ hst hw => ⟨hst, hw⟩
  have hnr : n.reach p l = { e.reach p l with flights := (n.reach p l).flights } := by rw [hn]; simp [noteUndo, updFlight]
  have haround : (world n).around p l = (world s).around p l := by
    rw [hn, noteUndo, around_updFlight, he.around]
  rw [← hn] at hview
  have hown := own_of_moveView hview
  have htask : (v.reach p l).task = (n.reach p l).task := (congrArg Reach.task hown :)
  have hflights : (v.reach p l).flights = (n.reach p l).flights := (congrArg Reach.flights hown :)
  refine ⟨⟨hent.congr (by rw [htask]) (by rw [htask]) hflights, ⟨?_, ?_⟩, ?_, ?_, fun q m h => ?_, ?_, ?_⟩, ?_⟩
  · rw [htask, hnr]; exact he.wait
  · rw [hflights]; exact hent.flights_ne_nil
  · exact (congrArg Reach.bare hown :).trans (congrArg (fun r : Reach => { r with spad := [], imem := [] }) (kept_of_around haround))
  · exact (congrArg Reach.pool hown :).trans (by rw [hnr]; exact he.pool)
  · have := other_of_moveView hview h
    rwa [otherReaches_of_around haround q m h] at this
  · exact (book_of_moveView hview).trans (hn ▸ he.book)
  · exact .trans (sameTime_of_around haround) (time_of_moveView hview)
  · exact (congrArg Reach.ruined hown :).trans (by rw [hnr])

/-- Settles O25: the run is the one that stood at issue (`moveRun_entering`), its bytes are written once each, in order
(`sorted_moveRun`), and the counts of the transfer change no memory (`finishMove_moved`). -/
theorem denseMovesWrite : Obligations.DenseMovesWrite := by
  unfold Obligations.DenseMovesWrite
  refine ⟨?_, fun p l s j hj hop hI hform hempty => by subst hj; exact emptyMove hop hI hform hempty⟩
  intro p l s j i dst x u hj hu hop hI hi hempty hblocked hdst hx hbad hp hwf
  subst hj
  obtain ⟨e, he, hissue⟩ := exec_fetchCheck (exec_denseMove hi) (by simp [hop]) hI
  obtain ⟨_, _, _, _, _, _, hup, _⟩ := hI
  have hsame := he.sameOperands
  obtain ⟨v, hv⟩ : ∃ v, v = runDense p l e (headJob s p l) ((s.reach p l).task.issueNo + 1) := ⟨_, rfl⟩
  have hunit : (mvPlan s p l (headJob s p l)).unit = u := by rw [hu]; rfl
  have hmoved : Moved (noteUndo e p l ((s.reach p l).task.issueNo + 1) u x.ws.reverse) v p l dst u x.ov := by
    have hfinish : v = finishMove e p l ((s.reach p l).task.issueNo + 1) (headJob s p l) (mvSrc s p l (headJob s p l))
        (mvDst s p l (headJob s p l)) (mvParcel (headJob s p l)) x := by
      rw [hv, runDense, if_neg (by simp [hempty]), hsame.mvBlocked, hblocked, hsame.mvSrc, hsame.mvDst, moveRun_entering he, ← hx]
    rw [hfinish, hu, hdst]
    exact finishMove_moved (he.upsets.trans hup) hbad (by rw [hsame.poisoned, ← hdst, hp])
  obtain ⟨hfrom, hruined⟩ := movedFrom_of_view he x.ws.reverse (hunit.symm ▸ hmoved.view)
  rw [hunit] at hfrom
  have hcells : ∀ k, cells (noteUndo e p l ((s.reach p l).task.issueNo + 1) u x.ws.reverse) k = cells s k :=
    cells_of_around (by rw [noteUndo, around_updFlight, he.around])
  have hposted : (noteUndo e p l ((s.reach p l).task.issueNo + 1) u x.ws.reverse).posted = s.posted := he.posted
  have hview (k : Space) : viewOf (noteUndo e p l ((s.reach p l).task.issueNo + 1) u x.ws.reverse) k (srcReach p l) u =
      viewOf s k (srcReach p l) u := viewOf_congr hposted (hcells k) _ _
  have hquiet : QuietRun e v p l := by
    refine ⟨hruined, fun w hw => ?_, hfrom.quiet.1.trans he.wait.symm, fun _ => hfrom.quiet.2⟩
    by_cases hsm : ∃ q, dst = .sm q
    · obtain ⟨q, hq⟩ := hsm
      rw [(hmoved.posted q hq).2, List.mem_append] at hw
      refine hw.imp id fun h => ?_
      split at h
      · simp at h
      · rw [List.mem_singleton.mp h]
    · exact .inl ((hmoved.onDie fun q hq => hsm ⟨q, hq⟩).1 ▸ hw)
  have hstop := fetchCheck_atMostStops v p l hfrom.quiet.2 hfrom.quiet.1
  have htcells := cells_of_around hstop.around
  have htreach : (fetchCheck v p l).reach p l = { v.reach p l with task := ((fetchCheck v p l).reach p l).task } := hstop.reach
  obtain ⟨hs, htables⟩ := sameTables_of_bare (s := s) (t := fetchCheck v p l) (p := p) (l := l)
    ((congrArg Reach.bare htreach :).trans hfrom.bare)
  refine ⟨fetchCheck v p l, hissue v hv hquiet, hstop.entered hfrom.entered, fun k a => ?_, fun q hq => ⟨fun k a => ?_, ?_⟩,
    fun hk => ⟨?_, fun k a => ?_⟩, hstop.pool.trans hfrom.pool, hs, htables, fun q m h => ?_, fun hpc => ?_,
    hfrom.time.trans (sameTime_of_around hstop.around)⟩
  · rw [seenByte, viewOf_congr hstop.posted (htcells k), hmoved.seen, hview]
    split
    · next hkd => subst hkd; exact memByte_overlay a (by rw [hx]; exact sorted_moveRun ..) (memWf_view hwf _ _)
    · rfl
  · rw [rdByte, htcells, (hmoved.posted q hq).1, hcells, rdByte]
  · rw [hstop.posted, (hmoved.posted q hq).2, hposted]
  · rw [hstop.posted, (hmoved.onDie hk).1, hposted]
  · rw [rdByte, htcells, (hmoved.onDie hk).2, hcells, hcells]
    split
    · next hkd => subst hkd; exact memByte_overlay a (by rw [hx]; exact sorted_moveRun ..) hwf
    · rfl
  · rw [otherReaches_of_around hstop.around q m h]
    exact hfrom.others q m h
  · have hinside : (v.reach p l).task.pc.toNat < Config.imemSize := by
      obtain ⟨hvpc, _⟩ := hfrom.entered
      have h16 : ((s.reach p l).task.pc + 16).toNat < 16384 := by
        have : (s.reach p l).task.pc.toNat + 16 < 16384 := hpc
        bv_omega
      rwa [hvpc]
    rw [fetchCheck_inside _ _ _ hinside, hfrom.book]

end Sys2Proof.Machine
end

section
/-!
Reach reset, and accesses that wait (06 R161; 04 R96, R108, R214; 12 R359): which locks hold an access, what its release does, and
the obligation on them.
-/

namespace Sys2Proof.Machine

/-! ### Accesses that must wait -/

theorem holdOr_waits {s : State} {p : Nat} {h : Held} (hw : mustWait s p (s.parcel p).held h = true) :
    holdOr s p h = s.updParcel p (fun x => { x with held := x.held ++ [h] }) := if_pos hw

/-- An access waits while one of its locks is taken. -/
theorem mustWait_of_locked {s : State} {p : Nat} {h : Held} {k : Lock} (os : List Held) (hk : k ∈ heldLocks h)
    (hl : locked s p k = true) : mustWait s p os h = true := by
  have hany : (heldLocks h).any (fun k => locked s p k || os.any (fun o => (heldLocks o).contains k)) = true :=
    List.any_eq_true.mpr ⟨k, hk, by rw [hl]; rfl⟩
  rw [mustWait, hany]
  rfl

/-- A write of a reach register of a legal form waits while its lock is taken. -/
theorem accessWrite_reach_waits {s : State} {rq : Requester} {p : ParcelId} {l : ReachId} {off : Nat} (v : Word) {k : Lock}
    (hrq : rqPresent s rq = true) (hgate : regGate s rq true (.reach p l off) = true) (h8 : off % 8 = 0)
    (hk : k ∈ heldLocks (.reg rq (.reach p l off) 8 v)) (hl : locked s p k = true) :
    accessWrite s rq (.reach p l off) 8 v = (portBytes s rq p true 8).updParcel p (fun x =>
      { x with held := x.held ++ [.reg rq (.reach p l off) 8 v] }) := by
  have hwait := mustWait_of_locked (s.parcel p).held hk hl
  rw [← holdOr_waits (by rw [mustWait_portBytes, portBytes_held, hwait])]
  simp [accessWrite, configRetry, hrq, hgate, regForm_eight off h8, regOff]

/-- A write of a cluster register of a legal form waits while its lock is taken. -/
theorem accessWrite_cluster_waits {s : State} {rq : Requester} {p : ParcelId} {c : ClusterId} {off : Nat} (v : Word) {k : Lock}
    (hrq : rqPresent s rq = true) (hgate : regGate s rq true (.cluster p c off) = true) (h8 : off % 8 = 0)
    (hk : k ∈ heldLocks (.reg rq (.cluster p c off) 8 v)) (hl : locked s p k = true) :
    accessWrite s rq (.cluster p c off) 8 v = (portBytes s rq p true 8).updParcel p (fun x =>
      { x with held := x.held ++ [.reg rq (.cluster p c off) 8 v] }) := by
  have hwait := mustWait_of_locked (s.parcel p).held hk hl
  rw [← holdOr_waits (by rw [mustWait_portBytes, portBytes_held, hwait])]
  simp [accessWrite, configRetry, hrq, hgate, regForm_eight off h8, regOff]

section
variable (rq : Requester) (p : ParcelId) (l : ReachId) (v : Word)

theorem resetLock_mem (off : Nat) : Lock.reset l ∈ heldLocks (.reg rq (.reach p l off) 8 v) := by simp [heldLocks, heldReach]

theorem fuseLock_mem : Lock.fuse l ∈ heldLocks (.reg rq (.reach p l 0x40) 8 v) := by simp [heldLocks, regLock]

theorem tableLock_mem (n : Fin 128) (w : Fin 2) :
    Lock.table l (n / 16) ∈ heldLocks (.reg rq (.reach p l (0x2000 + 16 * n + 8 * w)) 8 v) := by
  have hn := n.isLt
  have hw := w.isLt
  have hlock : regLock (.reach p l (0x2000 + 16 * n + 8 * w)) = some (.table l (n / 16)) := by
    rw [regLock, if_neg (by omega), if_pos (within_eq_true (by omega)),
      show (0x2000 + 16 * n.val + 8 * w.val - 0x2000) / 256 = n.val / 16 by omega]
  simp [heldLocks, hlock]

theorem bookLock_mem (c : ClusterId) (k : Fin 8) {off : Nat}
    (hoff : off = 0x100 + 8 * k.val ∨ ∃ i : Fin 16, off = 0x200 + 128 * k.val + 8 * i.val) :
    Lock.book c k ∈ heldLocks (.reg rq (.cluster p c off) 8 v) := by
  have hk := k.isLt
  have hlock : regLock (.cluster p c off) = some (.book c k) := by
    obtain rfl | ⟨i, rfl⟩ := hoff
    · rw [regLock, if_pos (within_eq_true (by omega)), show (0x100 + 8 * k.val - 0x100) / 8 = k.val by omega]
    · have hi := i.isLt
      rw [regLock, if_neg (not_within (by omega)), if_pos (within_eq_true (by omega)),
        show (0x200 + 128 * k.val + 8 * i.val - 0x200) / 128 = k.val by omega]
  simp [heldLocks, hlock]

end

/-- A read of the host waits behind an older access of the host (R359). -/
theorem accessRead_parcel_waits {s : State} {p : ParcelId} {off : Nat} (hlink : s.hub.port.linkUp = true)
    (hgate : regGate s .host false (.parcel p off) = true) (h8 : off % 8 = 0) (hold : ∃ o ∈ (s.parcel p).held, hostHeld o = true) :
    accessRead s .host (.parcel p off) 8 =
      s.updParcel p (fun x => { x with held := x.held ++ [.read .host (.parcel p off) 8] }) := by
  rw [← holdOr_waits (by rw [mustWait_hostRead]; exact List.any_eq_true.mpr hold)]
  simp [accessRead, configRetry, rqPresent, hlink, hgate, regForm_eight off h8, regOff]

/-! ### Reset -/

/-- A write of TASK_CTL.reset to an idle reach clears it and begins its reset; one to any other is discarded (R161). -/
theorem exec_reachReset {s : State} {rq : Requester} {p : ParcelId} {l : ReachId} (h : Arrives s rq p (.reach p l 0) 0x20#64) :
    exec (.reachReset rq p l) s = .next (requestReset (portBytes s rq p true 8) p l) :=
  congrArg Host.Outcome.next ((accessWrite_taskCtl h).trans (if_pos (by decide)))

theorem requestReset_idle {s : State} {p l : Nat} (h : (s.reach p l).idle = true) : requestReset s p l =
    s.updReach p l (fun r => { task := {
      failing := r.task.failing, failHard := r.task.failHard, retired := r.task.retired, ceCount := r.task.ceCount
      issueNo := r.task.issueNo, resetting := true } }) := by
  rw [requestReset, if_pos (by simp [h, Reach.run_of_idle h]), resetReach, State.updTask, State.updReach_updReach]
  rfl

theorem requestReset_busy {s : State} {p l : Nat} (h : (s.reach p l).idle = false) : requestReset s p l = s := by
  rw [requestReset, if_neg (by simp [h])]

/-! ### Release -/

/-- With no access waiting, the release that follows a change of a reach changes nothing more. -/
theorem releaseHeld_updReach {s : State} {p l : Nat} (h : (s.parcel p).held = []) (f : Reach → Reach) :
    releaseHeld (s.updReach p l f) p = s.updReach p l f := by
  rw [releaseHeld_none _ _ (by rw [State.updReach_parcel_held, h]), State.updReach, State.setReach, State.updParcel_updParcel]
  refine State.updParcel_congr _ _ ?_
  rw [← h]

/-- The one access that waits is performed where nothing holds it any longer. -/
theorem releaseHeld_one {s : State} {p : Nat} {h : Held} (hh : (s.parcel p).held = [h]) (hw : mustWait s p [] h = false) :
    releaseHeld s p = (performHeld s p h).updParcel p (fun x => { x with held := [] }) := by
  simp [releaseHeld, hh, hw]

/-- A write of FUSE_CFG that has waited. -/
theorem performHeld_fuse (s : State) (rq : Requester) (p : ParcelId) (l : ReachId) (v : Word) :
    performHeld s p (.reg rq (.reach p l 0x40) 8 v) = s.updReach p l (fun r => { r with fuse := v &&& 0xFFFF#64 }) := by
  rw [performHeld, composed, if_pos (by decide)]
  exact regWrite_reach_stores s rq p l 0x40 8 v _ rfl (by decide) (reachVerdict_fuse ..) fun _ _ => rfl

theorem mustWait_fuse {s : State} {rq : Requester} {p : ParcelId} {l : ReachId} {v : Word} (hr : (s.reach p l).task.resetting = false)
    (hf : (s.reach p l).flights = []) : mustWait s p [] (.reg rq (.reach p l 0x40) 8 v) = false := by
  simp [mustWait, heldLocks, heldReach, regLock, locked, hr, hf]

/-! ### The obligation -/

section
variable {s : State} {rq : Requester} {p : ParcelId} {l : ReachId} {v : Word}

/-- The reset of a reach that a write of FUSE_CFG waits for completes (R161). -/
theorem reachResetComplete_fuse (hh : (s.parcel p).held = [.reg rq (.reach p l 0x40) 8 v]) (hf : (s.reach p l).flights = [])
    (hr : (s.reach p l).task.resetting = true) : Gives (.reachResetComplete p l) s (fun t =>
      (t.reach p l).fuse = v &&& 0xFFFF#64 ∧ (t.parcel p).held = [] ∧ (t.reach p l).task.resetting = false ∧
      OtherReaches s t p l ∧ SameMemory s t ∧ t.book = s.book ∧ t.hub = s.hub ∧ SameTime s t) := by
  obtain ⟨u, hu⟩ : ∃ u, u = s.updTask p l (fun t => { t with resetting := false }) := ⟨_, rfl⟩
  have hureach : u.reach p l = { s.reach p l with task := { (s.reach p l).task with resetting := false } } := by
    rw [hu]; exact State.updTask_reach_same ..
  have huheld : (u.parcel p).held = [.reg rq (.reach p l 0x40) 8 v] := by rw [hu, State.updTask, State.updReach_parcel_held, hh]
  have hwait := mustWait_fuse (s := u) (rq := rq) (p := p) (l := l) (v := v) (by rw [hureach]) (by rw [hureach]; exact hf)
  have hexec : exec (.reachResetComplete p l) s = .next ((u.updReach p l (fun r => { r with fuse := v &&& 0xFFFF#64 })).updParcel p
      (fun x => { x with held := [] })) := by
    refine congrArg Host.Outcome.next ((if_pos hr).trans ?_)
    rw [← hu, releaseHeld_one huheld hwait, performHeld_fuse]
  have hbeside := Beside.updParcel (u.updReach p l (fun r => { r with fuse := v &&& 0xFFFF#64 })) p
    (fun x => { x with held := [] }) rfl rfl
  refine ⟨_, hexec, ?_, by simp, ?_, fun q m h => ?_, sameMemory_of_store ?_, ?_, ?_, ?_⟩
  · rw [hbeside.1, State.updReach_reach_same]
  · rw [hbeside.1, State.updReach_reach_same, hureach]
  · rw [hbeside.1, State.updReach_reach_other _ _ _ _ _ _ h, hu, State.updTask_reach_other _ _ _ _ _ _ h]
  · rw [store_updParcel _ _ _ rfl rfl rfl rfl, store_updReach _ _ _ _ ⟨rfl, rfl⟩, hu, store_updTask]
  · rw [hu]; rfl
  · rw [hu]; rfl
  · rw [hu]; exact ⟨rfl, rfl, rfl, rfl, rfl⟩

/-- The DLTA that a write of FUSE_CFG waits for completes, and the write takes effect (R214). -/
theorem instructionComplete_fuse {f : Flight} (hh : (s.parcel p).held = [.reg rq (.reach p l 0x40) 8 v])
    (hfl : (s.reach p l).flights = [f]) (hop : wOp f.job.word = 3) (hunit : f.unit = .delta) (hready : f.ready = true)
    (hgated : s.datum.gated = none) (hr : (s.reach p l).task.resetting = false) (hi : (s.reach p l).task.issuing = true)
    (hd : (s.reach p l).task.drain = false) (hw : (s.reach p l).task.wait = .none) :
    Gives (.instructionComplete p l 0) s (fun t =>
      (t.reach p l).fuse = v &&& 0xFFFF#64 ∧ (t.parcel p).held = [] ∧ (t.reach p l).flights = []) := by
  obtain ⟨hflights, htask, _⟩ := (s.reach p l).retired_frame f
  obtain ⟨u, hu⟩ : ∃ u, u = retire s p l f := ⟨_, rfl⟩
  have hureach : u.reach p l = (s.reach p l).retired f := by
    rw [hu, reach_of_world (world_retire s p l f), State.updReach_reach_same]
  have hempty : (u.reach p l).flights = [] := by rw [hureach, hflights, hfl]; simp
  have huheld : (u.parcel p).held = [.reg rq (.reach p l 0x40) 8 v] := by rw [hu, retire_held, hh]
  have hwait := mustWait_fuse (s := u) (rq := rq) (v := v) (by rw [hureach, htask, hr]) hempty
  obtain ⟨t, ht⟩ : ∃ t, t = (u.updReach p l (fun r => { r with fuse := v &&& 0xFFFF#64 })).updParcel p
    (fun x => { x with held := [] }) := ⟨_, rfl⟩
  have htreach : t.reach p l = { u.reach p l with fuse := v &&& 0xFFFF#64 } := by
    have hbeside := Beside.updParcel (u.updReach p l (fun r => { r with fuse := v &&& 0xFFFF#64 })) p
      (fun x => { x with held := [] }) rfl rfl
    rw [ht, hbeside.1, State.updReach_reach_same]
  have hstill : wakeHead t p l = t := by
    refine wakeHead_still (fun g hg => ?_) fun _ => ?_
    · rw [htreach] at hg; exact absurd (hempty.symm.trans hg) (by simp)
    · rw [htreach]
      simp [hureach, htask, hi, hd, hw]
  have hmay : mayComplete (s.reach p l) f = true := by simp [mayComplete, hready, hop, hfl]
  have hdone : buildDone u p l f = u := by
    unfold buildDone
    split
    · exact if_neg (by simp [isBuild, hunit])
    · rfl
  refine ⟨t, congrArg Host.Outcome.next ?_, by rw [htreach], by rw [ht]; simp, by rw [htreach]; exact hempty⟩
  simp only [hfl, List.getElem?_cons_zero, hgated, Option.isNone_none, hmay, Bool.and_self, if_true]
  rw [completeFlight, ← hu, hdone, releaseHeld_one huheld hwait, performHeld_fuse, ← ht, hstill]

end

/-- Settles O11: each write waits for the lock that its register has, and its release performs it. -/
theorem reachResetsAndWaits : Obligations.ReachResetsAndWaits := by
  unfold Obligations.ReachResetsAndWaits
  refine ⟨fun rq p l s => ⟨fun h hidle => ?reset, fun h hbusy => ?busy, fun hr hh => ?complete, fun hr => ?none⟩,
    fun rq p l v s => ⟨fun hrq hgate ⟨f, hf, hop⟩ => ?fuse, fun n w hrq hgate ⟨f, hf, hop, hact, hsel⟩ => ?table,
      fun f hh hfl hop hunit hready hgated hr hi hd hw => ?delta, fun hh hf hr => ?resets⟩,
    fun rq p l v s hr => ⟨fun off h8 hrq hgate => ?register, fun fn off acc err hfn hlink hopen hlo hhi => ?window⟩,
    fun rq p c k lvl off v s hoff hrq hgate ⟨i, hi, f, hf, hreads⟩ => ?book, fun p off s hlink hgate h8 hold => ?read⟩
  case reset => rw [exec_reachReset h, requestReset_idle (by rw [portBytes_reach, hidle])]
  case busy => rw [exec_reachReset h, requestReset_busy (by rw [portBytes_reach, hbusy])]
  case complete => exact congrArg Host.Outcome.next ((if_pos hr).trans (releaseHeld_updReach hh _))
  case none => exact congrArg Host.Outcome.next (if_neg (by simp [hr]))
  case fuse =>
    have hlocked : locked s p (.fuse l) = true := List.any_eq_true.mpr ⟨f, hf, by simp [isDlta, hop]⟩
    exact congrArg Host.Outcome.next (accessWrite_reach_waits v hrq hgate rfl (fuseLock_mem rq p l v) hlocked)
  case table =>
    have hlocked : locked s p (.table l (n / 16)) = true :=
      List.any_eq_true.mpr ⟨f, hf, by simp [namesTable, isDlta, hop, hact, hsel]⟩
    exact congrArg Host.Outcome.next (accessWrite_reach_waits v hrq hgate (by omega) (tableLock_mem rq p l v n w) hlocked)
  case delta => exact instructionComplete_fuse hh hfl hop hunit hready hgated hr hi hd hw
  case resets => exact reachResetComplete_fuse hh hf hr
  case register => exact congrArg Host.Outcome.next (accessWrite_reach_waits v hrq hgate h8 (resetLock_mem rq p l v off) hr)
  case window =>
    have hl := l.isLt
    have hlock : Lock.reset l ∈ heldLocks (.mem off acc err) := by
      simp only [heldLocks, heldReach]
      rw [if_pos (by simp; omega), show (off - 0x650000000) / 0x80000 = l.val by omega]
      simp
    have hwait := mustWait_of_locked (s.parcel p).held hlock (show locked s p (.reset l) = true from hr)
    rw [← holdOr_waits hwait]
    refine congrArg Host.Outcome.next ?_
    simp [hlink, hfn, hopen]
  case book =>
    have hlocked : locked s p (.book c k) = true := by
      refine List.any_eq_true.mpr ⟨i, List.mem_range.mpr hi, List.any_eq_true.mpr ⟨f, hf, ?_⟩⟩
      obtain ⟨h1, h2, h3⟩ | ⟨h1, h2, h3⟩ := hreads <;> simp [readsBook, h1, h2, h3]
    have hoff' : off = 0x100 + 8 * k.val ∨ ∃ i : Fin 16, off = 0x200 + 128 * k.val + 8 * i.val := by
      cases lvl with
      | none => exact .inl hoff
      | some i => exact .inr ⟨i, hoff⟩
    have hwrite := accessWrite_cluster_waits v hrq hgate (by obtain h | ⟨i, h⟩ := hoff' <;> omega)
      (bookLock_mem rq p v c k hoff') hlocked
    rw [← hwrite, hoff]
    rfl
  case read => exact congrArg Host.Outcome.next (accessRead_parcel_waits hlink hgate h8 hold)

end Sys2Proof.Machine
end

section
/-!
Task images that are saved (06 R192, R193, R402): a memory with bytes laid into it, the areas of an image, which do not meet, and
what a save makes of the part.
-/

namespace Sys2Proof.Machine

/-! ### A memory with bytes laid into it -/

theorem SMap.find_of_mem {α : Type} {m : SMap α} (hs : SMap.sorted m = true) {k : Nat} {a : α} (h : (k, a) ∈ m) :
    SMap.find m k = some a := by
  induction m with
  | nil => simp at h
  | cons c m ih =>
    obtain ⟨j, v⟩ := c
    rw [SMap.find]
    obtain h | h := List.mem_cons.mp h
    · rw [Prod.mk.injEq] at h
      rw [if_pos h.1.symm, h.2]
    · have hlt : j < k := List.rel_of_pairwise_cons ((SMap.sorted_iff_pairwise _).mp hs) h
      rw [if_neg (by omega), if_neg (by omega), ih (SMap.sorted_tail hs) h]

theorem SMap.find_eq_none {α : Type} {m : SMap α} {k : Nat} (h : ∀ c ∈ m, c.1 ≠ k) : SMap.find m k = none := by
  cases hf : SMap.find m k with
  | none => rfl
  | some v => exact absurd rfl (h _ (SMap.mem_of_find hf))

theorem sorted_of_memWf {m : Mem} (h : memWf m = true) : SMap.sorted m = true :=
  (SMap.sorted_iff_pairwise m).mpr (memWf_iff.mp h).1

theorem mem_cellsOf {a : Nat} {bs : List Byte} {c : Host.Cell} :
    c ∈ cellsOf a bs ↔ a ≤ c.1 ∧ c.1 < a + bs.length ∧ c.2 = bs.getD (c.1 - a) 0 := by
  obtain ⟨i, v⟩ := c
  induction bs generalizing a with
  | nil => simp [cellsOf]; omega
  | cons b bs ih =>
    simp only [cellsOf, List.mem_cons, Prod.mk.injEq, ih, List.length_cons]
    rcases Nat.lt_trichotomy i a with hlt | rfl | hgt
    · omega
    · simp
    · rw [show i - a = (i - (a + 1)) + 1 by omega, List.getD_cons_succ]
      exact ⟨fun h => h.elim (fun h => by omega) fun ⟨_, _, hv⟩ => ⟨by omega, by omega, hv⟩,
        fun ⟨_, _, hv⟩ => .inr ⟨by omega, by omega, hv⟩⟩

/-- A byte of a memory with bytes laid into it. -/
theorem memByte_blit {m : Mem} (a : Nat) (bs : List Byte) (h : memWf m = true) (i : Nat) :
    memByte (memBlit m a bs) i = if a ≤ i ∧ i < a + bs.length then bs.getD (i - a) 0 else memByte m i := by
  have hsorted := sorted_of_memWf (memWf_blit (a := a) (bs := bs) h)
  have hmem (c : Nat × Byte) : c ∈ memBlit m a bs ↔ (c ∈ m ∧ c.1 < a) ∨ (c ∈ cellsOf a bs ∧ c.2 ≠ 0) ∨ (c ∈ m ∧ a + bs.length ≤ c.1) := by
    simp [memBlit, nonzeroCells]
  have hget {v : Byte} (hv : (i, v) ∈ memBlit m a bs) : memByte (memBlit m a bs) i = v := by
    rw [memByte, SMap.get, SMap.find_of_mem hsorted hv]; rfl
  have hzero (hno : ∀ c ∈ memBlit m a bs, c.1 ≠ i) : memByte (memBlit m a bs) i = 0 := by
    rw [memByte, SMap.get, SMap.find_eq_none hno]; rfl
  split
  · next hin =>
    by_cases hb : bs.getD (i - a) 0 = 0
    · rw [hb]
      refine hzero fun c hc hci => ?_
      subst hci
      obtain ⟨_, h1⟩ | ⟨h1, h2⟩ | ⟨_, h1⟩ := (hmem c).mp hc
      · omega
      · obtain ⟨_, _, hval⟩ := mem_cellsOf.mp h1
        exact h2 (hval.trans hb)
      · omega
    · exact hget ((hmem _).mpr (.inr (.inl ⟨mem_cellsOf.mpr ⟨hin.1, hin.2, rfl⟩, hb⟩)))
  · next hout =>
    cases hf : SMap.find m i with
    | some v =>
      have hv : memByte m i = v := by rw [memByte, SMap.get, hf]; rfl
      rw [hv]
      refine hget ((hmem _).mpr ?_)
      by_cases hia : i < a
      · exact .inl ⟨SMap.mem_of_find hf, hia⟩
      · exact .inr (.inr ⟨SMap.mem_of_find hf, by show a + bs.length ≤ i; omega⟩)
    | none =>
      have hv : memByte m i = 0 := by rw [memByte, SMap.get, hf]; rfl
      rw [hv]
      have hnot (c : Nat × Byte) (hc : c ∈ m) : c.1 ≠ i := by
        intro hci
        have hfind := SMap.find_of_mem (k := c.1) (a := c.2) (sorted_of_memWf h) hc
        rw [hci, hf] at hfind
        simp at hfind
      refine hzero fun c hc hci => ?_
      obtain ⟨h1, _⟩ | ⟨h1, _⟩ | ⟨h1, _⟩ := (hmem c).mp hc
      · exact hnot c h1 hci
      · obtain ⟨h2, h3, _⟩ := mem_cellsOf.mp h1
        exact hout (by omega)
      · exact hnot c h1 hci

/-- A memory with areas laid into it, each at its offset from `a`. -/
def blitAll (m : Mem) (a : Nat) (xs : List (Nat × List Byte)) : Mem := xs.foldl (fun m x => memBlit m (a + x.1) x.2) m

theorem memByte_blitAll_outside {m : Mem} {a : Nat} {xs : List (Nat × List Byte)} (h : memWf m = true) {i : Nat}
    (ho : ∀ x ∈ xs, ¬ (a + x.1 ≤ i ∧ i < a + x.1 + x.2.length)) : memByte (blitAll m a xs) i = memByte m i := by
  induction xs generalizing m with
  | nil => rfl
  | cons x xs ih =>
    refine (ih (memWf_blit h) fun y hy => ho y (List.mem_cons_of_mem _ hy)).trans ?_
    rw [memByte_blit _ _ h, if_neg (ho x List.mem_cons_self)]

/-- Areas that follow each other are read back. -/
theorem memRead_blitAll {m : Mem} {a : Nat} {xs : List (Nat × List Byte)} (h : memWf m = true)
    (hp : xs.Pairwise (fun x y => x.1 + x.2.length ≤ y.1)) {x : Nat × List Byte} (hx : x ∈ xs) :
    memRead (blitAll m a xs) (a + x.1) x.2.length = x.2 := by
  induction xs generalizing m with
  | nil => simp at hx
  | cons y ys ih =>
    obtain ⟨hy, hys⟩ := List.pairwise_cons.mp hp
    obtain rfl | hx := List.mem_cons.mp hx
    · refine List.ext_getElem (memRead_length ..) fun i hi hb => ?_
      have hout : memByte (blitAll (memBlit m (a + x.1) x.2) a ys) (a + x.1 + i) = memByte (memBlit m (a + x.1) x.2) (a + x.1 + i) :=
        memByte_blitAll_outside (memWf_blit h) fun z hz => by have := hy z hz; omega
      rw [memRead_getElem]
      refine hout.trans ?_
      rw [memByte_blit _ _ h, if_pos (by omega), Nat.add_sub_cancel_left]
      simp [List.getD, hb]
    · exact ih (memWf_blit h) hys hx

/-! ### Parts of bytes -/

theorem memRead_sub (m : Mem) (a o n k : Nat) (h : o + k ≤ n) : memRead m (a + o) k = ((memRead m a n).drop o).take k := by
  refine List.ext_getElem (by simp [memRead_length]; omega) fun i hi hj => ?_
  simp [memRead_getElem, Nat.add_assoc]

theorem drop_flatMap {α : Type} (f : α → List Byte) (k : Nat) (xs : List α) (hf : ∀ x ∈ xs, (f x).length = k) {n : Nat}
    (hn : n < xs.length) : ((xs.flatMap f).drop (k * n)).take k = f xs[n] := by
  induction xs generalizing n with
  | nil => simp at hn
  | cons x xs ih =>
    have hx := hf x List.mem_cons_self
    cases n with
    | zero => simp [← hx]
    | succ n =>
      rw [List.flatMap_cons, Nat.mul_succ, Nat.add_comm, ← List.drop_drop, ← hx, List.drop_left, hx]
      exact ih (fun y hy => hf y (List.mem_cons_of_mem _ hy)) (by simpa using hn)

/-! ### The areas of an image -/

theorem padTo_length (n : Nat) (bs : List Byte) (h : bs.length ≤ n) : (padTo n bs).length = n := by simp [padTo, h]

theorem imageHeader_length (r : Reach) (mask : Nat) : (imageHeader r mask).length = 256 := by
  unfold imageHeader
  exact padTo_length _ _ (by simp [leBytes_length])

theorem scalarBytes_length (r : Reach) : (scalarBytes r).length = 256 := by
  simp [scalarBytes, List.length_flatMap, leBytes_length]

/-- The areas of an image follow each other, whichever the mask names (R192). -/
theorem imageAreas_apart (r : Reach) (mask : Nat) : (imageAreas r mask).Pairwise (fun x y => x.1 + x.2.length ≤ y.1) := by
  have hopt (c : Bool) (x : Nat × List Byte) : (if c then [x] else []).Sublist [x] := by cases c <;> simp
  unfold imageAreas
  refine List.Pairwise.sublist (((((List.Sublist.refl _).append (hopt ..)).append (hopt ..)).append (hopt ..)).append (hopt ..)) ?_
  have hpool := padTo_length 66048 (poolImage r) (by rw [poolImage_length]; omega)
  have hwin := padTo_length 128 (leBytes 8 r.spWin.toNat ++ leBytes 8 r.cbWin.toNat) (by simp [leBytes_length])
  simp [imageHeader_length, scalarBytes_length, hpool, hwin, List.length_flatMap, leBytes_length, cleanBytes, Config.spSize]

/-! ### What is saved for a poisoned word -/

/-- One poisoned word of a reach, as it is saved. -/
def Reach.savedWord (r : Reach) (x : WordMem × Nat) : Reach :=
  match x.1 with
  | .pool => { r with pool := SMap.erase r.pool x.2 }
  | .prof => { r with prof := SMap.put r.prof (x.2 / 4) (setWord (SMap.get 0 r.prof (x.2 / 4)) (x.2 % 4) 0) }
  | .trv => { r with trv := SMap.put r.trv (x.2 / 16) (setWord (SMap.get 0 r.trv (x.2 / 16)) (x.2 % 16) 0) }
  | .seg => { r with actSeg := SMap.put r.actSeg x.2 0 }
  | .regs => { r with s := SMap.store 0 r.s x.2 0 }
  | .assoc => r
  | .planes => r

theorem Reach.savedWords_eq (r : Reach) : r.savedWords = r.ruined.foldl Reach.savedWord r := rfl

theorem Reach.savedWord_task (r : Reach) (t : Task) (x : WordMem × Nat) :
    ({ r with task := t } : Reach).savedWord x = { r.savedWord x with task := t } := by
  obtain ⟨w, n⟩ := x; cases w <;> rfl

theorem Reach.task_savedWord (r : Reach) (x : WordMem × Nat) : (r.savedWord x).task = r.task := by
  obtain ⟨w, n⟩ := x; cases w <;> rfl

/-- The task does not matter for what is saved of the words. -/
theorem Reach.savedWords_task (r : Reach) (t : Task) :
    ({ r with task := t } : Reach).savedWords = { r.savedWords with task := t } := by
  have hfold (xs : List (WordMem × Nat)) (r : Reach) :
      xs.foldl Reach.savedWord { r with task := t } = { xs.foldl Reach.savedWord r with task := t } := by
    induction xs generalizing r with
    | nil => rfl
    | cons x xs ih => rw [List.foldl_cons, Reach.savedWord_task, ih, List.foldl_cons]
  rw [savedWords_eq, savedWords_eq, hfold]

theorem Reach.task_savedWords (r : Reach) : r.savedWords.task = r.task := by
  have hfold (xs : List (WordMem × Nat)) (r : Reach) : (xs.foldl Reach.savedWord r).task = r.task := by
    induction xs generalizing r with
    | nil => rfl
    | cons x xs ih => rw [List.foldl_cons, ih, Reach.task_savedWord]
  rw [savedWords_eq, hfold]

/-- A poisoned scalar register is saved as 0 (R402). -/
theorem Reach.scalar_savedWords (r : Reach) (hs : SMap.sorted r.s = true) (n : Nat) :
    r.savedWords.scalar n = if (WordMem.regs, n) ∈ r.ruined then 0 else r.scalar n := by
  have hword (r : Reach) (hs : SMap.sorted r.s = true) (x : WordMem × Nat) : SMap.sorted (r.savedWord x).s = true ∧
      (r.savedWord x).scalar n = if x = (.regs, n) then 0 else r.scalar n := by
    obtain ⟨w, k⟩ := x
    cases w with
    | regs =>
      refine ⟨SMap.sorted_store 0 k 0 hs, ?_⟩
      simp only [Reach.savedWord, Reach.scalar, SMap.get_store _ _ _ _ _ hs, Prod.mk.injEq, true_and]
      by_cases hn : n = 0
      · simp [hn]
      · simp [hn, eq_comm]
    | _ => exact ⟨hs, by simp [Reach.savedWord, Reach.scalar]⟩
  have hfold (xs : List (WordMem × Nat)) (r : Reach) (hs : SMap.sorted r.s = true) :
      (xs.foldl Reach.savedWord r).scalar n = if (WordMem.regs, n) ∈ xs then 0 else r.scalar n := by
    induction xs generalizing r with
    | nil => simp
    | cons x xs ih =>
      obtain ⟨hs', hx⟩ := hword r hs x
      rw [List.foldl_cons, ih _ hs', hx]
      by_cases hxs : (WordMem.regs, n) ∈ xs
      · simp [hxs]
      · by_cases hxn : x = (.regs, n)
        · simp [hxn]
        · simp [hxs, hxn, Ne.symm hxn]
  exact hfold r.ruined r hs

/-- An image tells of the task its PC, the strict bit, TASK_FAULT and the step alone. -/
theorem imageAreas_task (r : Reach) {t : Task} (mask : Nat) (hpc : t.pc = r.task.pc) (hstrict : t.strict = r.task.strict)
    (hfault : t.faultWord = r.task.faultWord) (hstep : t.step = r.task.step) :
    imageAreas { r with task := t } mask = imageAreas r mask := by
  have hheader : imageHeader { r with task := t } mask = imageHeader r mask := by
    simp only [imageHeader, hpc, hstrict, hfault, hstep]
  have hscalars : scalarBytes { r with task := t } = scalarBytes r := rfl
  have hpool : poolImage { r with task := t } = poolImage r := rfl
  simp only [imageAreas, hheader, hscalars, hpool]

/-! ### A save -/

/-- What a save of the areas `xs` from address `a` on makes of the part. -/
structure Saved (s t : State) (p a : Nat) (xs : List (Nat × List Byte)) : Prop where
  reach : ∀ q m, t.reach q m = s.reach q m
  clusters : SameClusters s t
  time : SameTime s t
  cells : ∀ k, cells t k = if k = .sm p then blitAll (s.parcel p).mem a xs else cells s k

theorem smBlit_saved (s : State) (p a : Nat) (x : Nat × List Byte) : Saved s (smBlit s p (a + x.1) x.2) p a [x] := by
  obtain ⟨u, hu⟩ : ∃ u, u = smCount (backInvalidate s (.sm p) ((List.range x.2.length).map (fun i => a + x.1 + i))) (.sm p) true
    ((List.range x.2.length).map (fun i => a + x.1 + i)) := ⟨_, rfl⟩
  have hw : world u = world s := by simp [hu]
  obtain ⟨us, hblit⟩ : ∃ us, smBlit s p (a + x.1) x.2 = { u.updParcel p (fun y => { y with
      mem := memBlit y.mem (a + x.1) x.2
      poison := y.poison.filter (fun n => !(a + x.1 ≤ n * 64 && n * 64 + 64 ≤ a + x.1 + x.2.length)) }) with upsets := us } :=
    ⟨_, by rw [smBlit, ← hu]⟩
  obtain ⟨hreach, hclusters, _⟩ := Beside.updParcel u p (fun y => { y with
    mem := memBlit y.mem (a + x.1) x.2
    poison := y.poison.filter (fun n => !(a + x.1 ≤ n * 64 && n * 64 + 64 ≤ a + x.1 + x.2.length)) }) rfl rfl
  rw [hblit]
  refine ⟨fun q m => (hreach q m).trans (reach_of_world hw q m), fun q c => (hclusters q c).trans (sameClusters_of_world hw q c),
    .trans (sameTime_of_world hw) ⟨rfl, rfl, rfl, rfl, rfl⟩, fun k => ?_⟩
  rw [cells_upsets]
  cases k with
  | sm q =>
    simp only [cells, State.updParcel_parcel, Space.sm.injEq]
    split
    · rw [mem_of_world hw]; rfl
    · exact mem_of_world hw q
  | cb q c => exact congrArg Cluster.buf ((hclusters q c).trans (sameClusters_of_world hw q c))
  | sp q m => exact congrArg Reach.spad ((hreach q m).trans (reach_of_world hw q m))
  | imem q m => exact congrArg Reach.imem ((hreach q m).trans (reach_of_world hw q m))

theorem smBlits_saved (s : State) (p a : Nat) (xs : List (Nat × List Byte)) :
    Saved s (xs.foldl (fun s x => smBlit s p (a + x.1) x.2) s) p a xs := by
  induction xs generalizing s with
  | nil =>
    refine ⟨fun _ _ => rfl, fun _ _ => rfl, ⟨rfl, rfl, rfl, rfl, rfl⟩, fun k => ?_⟩
    split
    · next hk => rw [hk]; rfl
    · rfl
  | cons x xs ih =>
    have h1 := smBlit_saved s p a x
    have h2 := ih (smBlit s p (a + x.1) x.2)
    refine ⟨fun q m => (h2.reach q m).trans (h1.reach q m), fun q c => (h2.clusters q c).trans (h1.clusters q c),
      h1.time.trans h2.time, fun k => (h2.cells k).trans ?_⟩
    have hmem : ((smBlit s p (a + x.1) x.2).parcel p).mem = memBlit (s.parcel p).mem (a + x.1) x.2 :=
      (h1.cells (.sm p)).trans (if_pos rfl)
    rw [hmem, h1.cells k]
    split <;> rfl

/-- With no error standing a save lays the areas of the image into its parcel's memory, and reports what was poisoned. -/
theorem saveImage_saved {s : State} {p l a mask : Nat} (hup : s.upsets = []) (hfits : imageFits a mask = true) :
    Saved s (saveImage s p l a mask) p a (imageAreas (s.reach p l).savedWords mask) := by
  have hsettle (k : Space) (n : Nat) : settle s k 0 n (srcReach p l) = s := by simp [settle, hup]
  have hwords : settleWords s p l mask = s := by simp [settleWords, hup]
  have hreport (u : State) (r : Reach) : world (reportPoison u p l r mask) = world u := by
    have hue (k : Space) (xs : List Nat) (u : State) :
        world (xs.foldl (fun s x => raiseUe s k x (srcReach p l)) u) = world u := world_foldl u _ (fun _ _ => world_raise ..) xs
    unfold reportPoison
    dsimp only
    refine (world_foldl _ _ (fun _ _ => world_raise ..) _).trans ?_
    split <;> split <;> simp only [hue]
  have hsave : saveImage s p l a mask = reportPoison ((imageAreas (s.reach p l).savedWords mask).foldl
      (fun s x => smBlit s p (a + x.1) x.2) s) p l (s.reach p l) mask := by
    simp only [saveImage, hfits, hwords, hsettle, ite_self, Bool.not_true, Bool.false_eq_true, if_false]
  have h := smBlits_saved s p a (imageAreas (s.reach p l).savedWords mask)
  have hw := hreport ((imageAreas (s.reach p l).savedWords mask).foldl (fun s x => smBlit s p (a + x.1) x.2) s) (s.reach p l)
  rw [hsave]
  exact ⟨fun q m => (reach_of_world hw q m).trans (h.reach q m), fun q c => (sameClusters_of_world hw q c).trans (h.clusters q c),
    h.time.trans (sameTime_of_world hw), fun k => (cells_of_world hw k).trans (h.cells k)⟩

end Sys2Proof.Machine
end

section
/-!
TASK_IMG (06 R192 to R194, R258): a write of it, the bytes that a restore reads, what it takes of them, and the obligation on task
images.
-/

namespace Sys2Proof.Machine

/-! ### A write of TASK_IMG -/

/-- The fields of a write of TASK_IMG (R193). -/
theorem imgFields (mask : BitVec 4) (addr : BitVec 27) {op : Nat} (hop : op < 4) {v : Word}
    (hv : v = BitVec.ofNat 64 (mask.toNat + 16 * op + addr.toNat * 256)) :
    bvf v 0 4 = mask.toNat ∧ bvf v 4 2 = op ∧ bvf v 8 27 = addr.toNat := by
  have hm := mask.isLt
  have ha := addr.isLt
  have hnat : v.toNat = mask.toNat + 16 * op + addr.toNat * 256 := by
    rw [hv, BitVec.toNat_ofNat, Nat.mod_eq_of_lt (by omega)]
  simp only [bvf, field, hnat, Nat.shiftRight_eq_div_pow]
  omega

section
variable {s : State} {rq : Requester} {p : ParcelId} {l : ReachId} {v : Word}

theorem reachVerdict_taskImg (s : State) (rq : Requester) (p l : Nat) (v : Word) :
    reachVerdict s rq p l 0x20 v = reservedIf (bvf v 4 2 == 3) 4 0x20 v (discardIf (!imgAccepts (s.reach p l) v)) := rfl

/-- A write of TASK_IMG that is accepted takes effect. -/
theorem accessWrite_taskImg (h : Arrives s rq p (.reach p l 0x20) v) (hop : bvf v 4 2 ≠ 3)
    (hacc : imgAccepts (s.reach p l) v = true) :
    accessWrite s rq (.reach p l 0x20) 8 v = imgWrite (portBytes s rq p true 8) p l v := by
  have hverdict : regVerdict (portBytes s rq p true 8) rq (.reach p l 0x20) v = .ok := by
    rw [regVerdict_reach _ _ _ _ _ _ rfl, reachVerdict_portBytes, reachVerdict_taskImg, hacc]
    simp [reservedIf, discardIf, hop]
  rw [accessWrite_reach_arrives s rq p l 0x20 v h rfl, regWrite, hverdict]
  rfl

theorem accessWrite_taskImg_refused (h : Arrives s rq p (.reach p l 0x20) v) (hop : bvf v 4 2 ≠ 3)
    (hacc : imgAccepts (s.reach p l) v = false) : accessWrite s rq (.reach p l 0x20) 8 v = portBytes s rq p true 8 := by
  refine accessWrite_reach_discards s rq p l 0x20 v h rfl ?_
  rw [reachVerdict_taskImg, hacc]
  simp [reservedIf, discardIf, hop]

end

/-- An idle reach that moves no image takes a save and a restore; any other takes none (R193). -/
theorem imgAccepts_eq {r : Reach} {v : Word} (h0 : bvf v 4 2 ≠ 0) : imgAccepts r v = (!r.task.imgBusy && r.idle) := by
  cases hi : r.idle with
  | false => simp [imgAccepts, h0, hi]
  | true => simp [imgAccepts, hi, Reach.run_of_idle hi]

/-- The reach whose image moves, with its TASK_IMG busy. -/
def Reach.moving (r : Reach) (op : Nat) (mask : BitVec 4) (addr : BitVec 27) : Reach :=
  { r with task := { r.task with imgMask := mask, imgOp := BitVec.ofNat 2 op, imgAddr := addr, imgBusy := true } }

/-- The state in which a save or a restore runs. -/
theorem imgWrite_eq {s : State} {p l : Nat} {v : Word} {mask : BitVec 4} {addr : BitVec 27} {op : Nat} (hop : op = 1 ∨ op = 2)
    (hv : v = BitVec.ofNat 64 (mask.toNat + 16 * op + addr.toNat * 256)) : imgWrite s p l v =
      if op = 1 then saveImage (s.updReach p l (·.moving op mask addr)) p l (addr.toNat * 256) mask.toNat
      else restoreImage (s.updReach p l (·.moving op mask addr)) p l (addr.toNat * 256) mask.toNat := by
  obtain ⟨hmask, hop', haddr⟩ := imgFields mask addr (by omega) hv
  have htask : s.updTask p l (fun t => { t with
      imgMask := BitVec.ofNat 4 mask.toNat, imgOp := BitVec.ofNat 2 op, imgAddr := BitVec.ofNat 27 addr.toNat
      imgBusy := op != 0 }) = s.updReach p l (·.moving op mask addr) := by
    have hbusy : (op != 0) = true := by simp; omega
    simp only [BitVec.ofNat_toNat, BitVec.setWidth_eq, hbusy]
    rfl
  simp only [imgWrite, hmask, hop', haddr, htask]
  obtain rfl | rfl := hop <;> simp

/-! ### Save -/

/-- What is saved of a reach whose image moves is what stood in it before. -/
theorem imageAreas_moving (r : Reach) (op : Nat) (mask : BitVec 4) (addr : BitVec 27) (m : Nat) :
    imageAreas (r.moving op mask addr).savedWords m = imageAreas r.savedWords m := by
  rw [Reach.moving, Reach.savedWords_task]
  refine imageAreas_task _ m ?_ ?_ ?_ ?_ <;> rw [Reach.task_savedWords]

theorem imageHeader_pc (r : Reach) (mask : Nat) : (imageHeader r mask).take 8 = leBytes 8 r.task.pc.toNat := by
  obtain ⟨tick, off, flags, h⟩ : ∃ tick off flags, imageHeader r mask = padTo 256 (leBytes 8 r.task.pc.toNat ++
      leBytes 8 (b2n r.task.strict) ++ leBytes 16 r.task.faultWord.toNat ++ leBytes 8 mask ++ leBytes 8 1 ++ leBytes 8 tick ++
      leBytes 8 off ++ leBytes 1 flags) := ⟨_, _, _, rfl⟩
  rw [h, padTo]
  simp only [List.append_assoc]
  exact List.take_left' (leBytes_length ..)

theorem scalarBytes_get (r : Reach) {n : Nat} (hn : n < 32) : ((scalarBytes r).drop (8 * n)).take 8 = leBytes 8 (r.scalar n).toNat := by
  rw [scalarBytes, drop_flatMap _ 8 _ (fun _ _ => leBytes_length ..) (by simpa using hn), List.getElem_range]

theorem leVal_leBytes_word (v : Word) : leVal (leBytes 8 v.toNat) = v.toNat := by
  rw [leVal_leBytes]; exact Nat.mod_eq_of_lt v.isLt

/-! ### The bytes that a restore reads -/

section
variable {s u : State} {p a : Nat} (hpoison : poisonIn s (.sm p) a 4864 = none) (hstore : store u = store s)
include hpoison hstore

/-- Of an image without poison a restore reads the bytes that stand there. -/
theorem imageRead_sound {o n : Nat} (hn : 0 < n) (hin : o + n ≤ 4864) : imageRead u p (a + o) n = rdBytes s (.sm p) (a + o) n := by
  have hpu : poisoned u (.sm p) = poisoned s (.sm p) := poison_of_store hstore p
  have hnone : poisonIn u (.sm p) (a + o) n = none := by
    have hall := hpoison
    rw [poisonIn, if_neg (by omega), List.find?_eq_none] at hall
    rw [poisonIn, if_neg (by omega), hpu, List.find?_eq_none]
    intro x hx hbad
    have hsize : unitSize (.sm p) = 64 := rfl
    have := hall x hx
    simp only [hsize, Bool.and_eq_true, decide_eq_true_eq] at this hbad
    omega
  rw [imageRead, hnone, if_pos Option.isNone_none, rdBytes, cells_of_store hstore, rdBytes]

theorem imageRead_part {o n i k : Nat} (hn : 0 < n) (hin : o + n ≤ 4864) (hk : i + k ≤ n) :
    ((imageRead u p (a + o) n).drop i).take k = rdBytes s (.sm p) (a + o + i) k := by
  rw [imageRead_sound hpoison hstore hn hin, rdBytes, rdBytes, memRead_sub _ _ _ _ _ hk]

end

/-! ### What is taken of them -/

theorem mem_pieces {k n i j : Nat} {bs : List Byte} (hj : j < n) : (i + j, leVal ((bs.drop (k * j)).take k)) ∈ pieces k n i bs := by
  induction n generalizing i j bs with
  | zero => omega
  | succ n ih =>
    rw [pieces]
    cases j with
    | zero => simp
    | succ j =>
      have := ih (i := i + 1) (j := j) (bs := bs.drop k) (by omega)
      rw [List.drop_drop, show k + k * j = k * (j + 1) by ring, show i + 1 + j = i + (j + 1) by omega] at this
      exact List.mem_cons_of_mem _ this

/-- What a map of pieces has at the number of a piece. -/
theorem get_piecesMap {k mask j v : Nat} {ps : List (Nat × Nat)} (hp : ps.Pairwise (fun c d => c.1 < d.1)) (hm : (j, v) ∈ ps) :
    SMap.get 0 (piecesMap (k := k) mask ps) j = BitVec.ofNat k (v &&& mask) := by
  have hmem (x : Nat × BitVec k) : x ∈ piecesMap mask ps ↔ ∃ y ∈ ps, y.2 &&& mask ≠ 0 ∧ (y.1, BitVec.ofNat k (y.2 &&& mask)) = x := by
    simp [piecesMap, List.mem_filterMap]
  have hsorted := (SMap.sorted_iff_pairwise ps).mpr hp
  by_cases hv : v &&& mask = 0
  · rw [SMap.get, SMap.find_eq_none, hv]
    · rfl
    · intro c hc hcj
      obtain ⟨y, hy, hne, rfl⟩ := (hmem c).mp hc
      have hsame : y = (j, v) := by
        have h1 := SMap.find_of_mem hsorted hy
        rw [show y.1 = j from hcj, SMap.find_of_mem hsorted hm] at h1
        exact Prod.ext hcj (Option.some.inj h1).symm
      rw [hsame] at hne
      exact hne hv
  · rw [SMap.get, SMap.find_of_mem (sorted_piecesMap hp) ((hmem _).mpr ⟨_, hm, hv, rfl⟩)]
    rfl

/-- A reach that takes the areas that are always restored: header, scalars, traverses and swizzle keys (R192, R194). -/
def Reach.restored (r : Reach) (h scalars trvs keys : List Byte) (now : Stake) : Reach :=
  { r with
    task := { r.task with
      pc := BitVec.ofNat 32 (leVal ((h.drop 0).take 4) / 16 * 16), strict := (leVal ((h.drop 8).take 1)).testBit 0
      faultWord := BitVec.ofNat 128 (leVal ((h.drop 16).take 16)) &&& 0xFFFFFFFFFFFFFFFF00FFFFFF#128
      step := restoredStep h now, left := none, atOnce := false, arm := none }
    s := piecesMap (2 ^ 64 - 1) ((pieces 8 32 0 scalars).drop 1)
    trv := piecesMap (maskOf trvMask 16 0) (pieces 128 32 0 trvs)
    swz := piecesMap 0xFFFF (pieces 8 16 0 keys) }

theorem restoreBase_eq {s : State} {p l a : Nat} {v w : Word}
    (hv : v = BitVec.ofNat 64 (leVal ((imageRead s p (a + 4608) 256).take 8)))
    (hw : w = BitVec.ofNat 64 (leVal (((imageRead s p (a + 4608) 256).drop 8).take 8)))
    (hfv : winFits false v = true) (hfw : winFits true w = true) : restoreBase s p l a = s.updReach p l (fun r =>
      ((r.restored (imageRead s p a 256) (imageRead s p (a + 256) 256) (imageRead s p (a + 512) 4096)
        ((imageRead s p (a + 4608) 256).drop 128) (s.now p)).setWin false v).setWin true w) := by
  simp only [restoreBase, ← hv, ← hw, restoreWin, hfv, hfw, if_true, State.updReach_updReach]
  rfl

/-- The state whose image a restore reads: the reads have been counted. -/
def restoring (s : State) (p a mask : Nat) : State :=
  smCount (backInvalidate s (.sm p) ((List.range (imageLen mask)).map (fun i => a + i))) (.sm p) false
    ((List.range (imageLen mask)).map (fun i => a + i))

theorem restoreImage_base {s u : State} {p l a : Nat} {v w : Word} (hu : u = restoring s p a 0) (hup : s.upsets = [])
    (hfits : imageFits a 0 = true) (hformat : leVal (imageRead u p (a + 40) 8) = 1)
    (hv : v = BitVec.ofNat 64 (leVal ((imageRead u p (a + 4608) 256).take 8)))
    (hw : w = BitVec.ofNat 64 (leVal (((imageRead u p (a + 4608) 256).drop 8).take 8)))
    (hfv : winFits false v = true) (hfw : winFits true w = true) : ∃ (f : List (WordMem × Nat) → List (WordMem × Nat)) (n : Nat), restoreImage s p l a 0 =
      { u.updReach p l (fun r => { ((r.restored (imageRead u p a 256) (imageRead u p (a + 256) 256) (imageRead u p (a + 512) 4096)
        ((imageRead u p (a + 4608) 256).drop 128) (u.now p)).setWin false v).setWin true w with ruined := f r.ruined }) with free := n } := by
  have hsettle : settle u (.sm p) a (imageLen 0) (srcReach p l) = u := by
    have huup : u.upsets = [] := by rw [hu, restoring]; simp [hup]
    simp [settle, huup]
  refine ⟨fun xs => xs.filter (fun x => !imageWord 0 x.1), u.free + imageLen 0, ?_⟩
  have hbit (n : Nat) : Nat.testBit 0 n = false := Nat.zero_testBit n
  have hread : smCount (backInvalidate s (.sm p) ((List.range (imageLen 0)).map (fun i => a + i))) (.sm p) false
      ((List.range (imageLen 0)).map (fun i => a + i)) = u := hu.symm
  unfold restoreImage
  simp only [hfits, if_true, hread, hsettle, hformat, hbit, Bool.not_true, Bool.false_eq_true, if_false, ne_eq,
    not_true_eq_false, restoreBase_eq hv hw hfv hfw, State.updReach_updReach]
  rfl

/-! ### The obligation -/

section
variable {s : State} {rq : Requester} {p : ParcelId} {l : ReachId}

theorem portBytes_upsets (s : State) (rq : Requester) (p n : Nat) : (portBytes s rq p true n).upsets = s.upsets := by
  unfold portBytes portCount; split <;> simp

/-- The state in which the image of reach `l` moves, before the move. -/
def movingState (s : State) (rq : Requester) (p l op : Nat) (mask : BitVec 4) (addr : BitVec 27) : State :=
  (portBytes s rq p true 8).updReach p l (·.moving op mask addr)

theorem movingState_keeps (s : State) (rq : Requester) (p l op : Nat) (mask : BitVec 4) (addr : BitVec 27) :
    (movingState s rq p l op mask addr).reach p l = (s.reach p l).moving op mask addr ∧
    OtherReaches s (movingState s rq p l op mask addr) p l ∧ SameClusters s (movingState s rq p l op mask addr) ∧
    store (movingState s rq p l op mask addr) = store s ∧ (movingState s rq p l op mask addr).upsets = s.upsets ∧
    (movingState s rq p l op mask addr).book = s.book ∧ SameTime s (movingState s rq p l op mask addr) := by
  refine ⟨?_, fun q m h => ?_, fun q c => ?_, ?_, portBytes_upsets .., portBytes_book .., portBytes_sameTime ..⟩
  · rw [movingState, State.updReach_reach_same, portBytes_reach]
  · rw [movingState, State.updReach_reach_other _ _ _ _ _ _ h, portBytes_reach]
  · rw [movingState, State.updReach_cluster, portBytes_cluster]
  · rw [movingState, store_updReach _ _ _ _ (by exact ⟨rfl, rfl⟩), store_portBytes]

section
variable {mask : BitVec 4} {addr : BitVec 27} (hidle : (s.reach p l).idle = true) (hbusy : (s.reach p l).task.imgBusy = false)
include hidle hbusy

theorem exec_taskImageSave
    (h : Arrives s rq p (.reach p l 0x20) (BitVec.ofNat 64 (mask.toNat + 0x10 + addr.toNat * 256))) :
    exec (.taskImageSave rq p l mask addr) s =
      .next (saveImage (movingState s rq p l 1 mask addr) p l (addr.toNat * 256) mask.toNat) := by
  obtain ⟨_, hop, _⟩ := imgFields mask addr (op := 1) (by omega) rfl
  refine congrArg Host.Outcome.next ((accessWrite_taskImg h (by rw [hop]; omega) ?_).trans ((imgWrite_eq (op := 1) (.inl rfl) rfl).trans
    (if_pos rfl)))
  rw [imgAccepts_eq (by rw [hop]; omega), hbusy, hidle]
  rfl

theorem exec_taskImageRestore
    (h : Arrives s rq p (.reach p l 0x20) (BitVec.ofNat 64 (mask.toNat + 0x20 + addr.toNat * 256))) :
    exec (.taskImageRestore rq p l mask addr) s =
      .next (restoreImage (movingState s rq p l 2 mask addr) p l (addr.toNat * 256) mask.toNat) := by
  obtain ⟨_, hop, _⟩ := imgFields mask addr (op := 2) (by omega) rfl
  refine congrArg Host.Outcome.next ((accessWrite_taskImg h (by rw [hop]; omega) ?_).trans ((imgWrite_eq (op := 2) (.inr rfl) rfl).trans
    (if_neg (by omega))))
  rw [imgAccepts_eq (by rw [hop]; omega), hbusy, hidle]
  rfl

end

/-- A reach that is not idle, or that moves an image, takes no write of an operation (R193). -/
theorem exec_taskImage_refused {mask : BitVec 4} {addr : BitVec 27} {op : Nat} (hop : op = 1 ∨ op = 2)
    (hno : (s.reach p l).idle = false ∨ (s.reach p l).task.imgBusy = true)
    (h : Arrives s rq p (.reach p l 0x20) (BitVec.ofNat 64 (mask.toNat + 16 * op + addr.toNat * 256))) :
    accessWrite s rq (.reach p l 0x20) 8 (BitVec.ofNat 64 (mask.toNat + 16 * op + addr.toNat * 256)) = portBytes s rq p true 8 := by
  obtain ⟨_, hfield, _⟩ := imgFields mask addr (op := op) (by omega) rfl
  refine accessWrite_taskImg_refused h (by rw [hfield]; omega) ?_
  rw [imgAccepts_eq (by rw [hfield]; omega)]
  obtain h | h := hno <;> simp [h]

/-- A save lays each area where the image has it, and changes nothing else of any memory (R192, R193). -/
theorem taskImageSave_gives {mask : BitVec 4} {addr : BitVec 27} {a : Nat}
    (h : Arrives s rq p (.reach p l 0x20) (BitVec.ofNat 64 (mask.toNat + 0x10 + addr.toNat * 256)))
    (hidle : (s.reach p l).idle = true) (hbusy : (s.reach p l).task.imgBusy = false) (ha : a = addr.toNat * 256)
    (hfits : a + imageLen mask.toNat ≤ 25769803776) (hup : s.upsets = []) : ∃ t, exec (.taskImageSave rq p l mask addr) s = .next t ∧
      t.reach p l = (s.reach p l).moving 1 mask addr ∧ OtherReaches s t p l ∧ SameClusters s t ∧ SameTime s t ∧
      ∀ k, cells t k = if k = .sm p then blitAll (s.parcel p).mem a (imageAreas (s.reach p l).savedWords mask.toNat) else cells s k := by
  obtain ⟨hreach, hothers, hclusters, hstore, hup', _, htime⟩ := movingState_keeps s rq p l 1 mask addr
  subst ha
  have hsaved := saveImage_saved (s := movingState s rq p l 1 mask addr) (p := p) (l := l) (a := addr.toNat * 256) (mask := mask.toNat)
    (hup'.trans hup) (decide_eq_true hfits)
  rw [hreach, imageAreas_moving] at hsaved
  have hmem : ((movingState s rq p l 1 mask addr).parcel p).mem = (s.parcel p).mem := congrFun (cells_of_store hstore) (.sm p)
  refine ⟨_, exec_taskImageSave hidle hbusy h, (hsaved.reach p l).trans hreach, fun q m hqm => (hsaved.reach q m).trans (hothers q m hqm),
    fun q c => (hsaved.clusters q c).trans (hclusters q c), htime.trans hsaved.time, fun k => ?_⟩
  rw [hsaved.cells k, hmem, cells_of_store hstore]

/-- The bytes that a save has laid down, read back from the image. -/
theorem saved_area {s t : State} {p a : Nat} {xs : List (Nat × List Byte)} (hwf : memWf (s.parcel p).mem = true)
    (hp : xs.Pairwise (fun x y => x.1 + x.2.length ≤ y.1)) (hc : cells t (.sm p) = blitAll (s.parcel p).mem a xs)
    {x : Nat × List Byte} (hx : x ∈ xs) : rdBytes t (.sm p) (a + x.1) x.2.length = x.2 := by
  rw [rdBytes, hc]
  exact memRead_blitAll hwf hp hx

/-- What a restore of no named area takes from an image without poison, of format 1, whose windows fit (R194). -/
theorem taskImageRestore_gives {addr : BitVec 27} {a : Nat} {b : Nat → Nat → Nat}
    (h : Arrives s rq p (.reach p l 0x20) (BitVec.ofNat 64 (0x20 + addr.toNat * 256)))
    (hidle : (s.reach p l).idle = true) (hbusy : (s.reach p l).task.imgBusy = false) (ha : a = addr.toNat * 256)
    (hfits : a + 4864 ≤ 25769803776) (hup : s.upsets = []) (hpoison : poisonIn s (.sm p) a 4864 = none)
    (hb : b = (fun o n => leVal (rdBytes s (.sm p) (a + o) n))) (hformat : b 40 8 = 1)
    (hsp : winFits false (BitVec.ofNat 64 (b 4608 8)) = true) (hcb : winFits true (BitVec.ofNat 64 (b 4616 8)) = true) :
    ∃ t h scalars trvs keys now ruined, exec (.taskImageRestore rq p l 0 addr) s = .next t ∧
      t.reach p l = { (((((s.reach p l).moving 2 0 addr).restored h scalars trvs keys now).setWin false
        (BitVec.ofNat 64 (b 4608 8))).setWin true (BitVec.ofNat 64 (b 4616 8))) with ruined := ruined } ∧
      (∀ i k, i + k ≤ 256 → (h.drop i).take k = rdBytes s (.sm p) (a + i) k) ∧
      (∀ i k, i + k ≤ 256 → (scalars.drop i).take k = rdBytes s (.sm p) (a + 256 + i) k) ∧
      (∀ i k, i + k ≤ 128 → (keys.drop i).take k = rdBytes s (.sm p) (a + 4736 + i) k) ∧
      OtherReaches s t p l ∧ SameMemory s t ∧ t.book = s.book ∧ SameTime s t := by
  obtain ⟨hreach, hothers, hclusters, hstore, hup', hbook, htime⟩ := movingState_keeps s rq p l 2 0 addr
  obtain ⟨u, hu⟩ : ∃ u, u = restoring (movingState s rq p l 2 0 addr) p a 0 := ⟨_, rfl⟩
  have huw : world u = world (movingState s rq p l 2 0 addr) := by rw [hu, restoring]; simp
  have hus : store u = store s := by rw [hu, restoring, store_smCount, store_backInvalidate, hstore]
  have hub : u.book = s.book := by
    refine (book_of_confView (s := movingState s rq p l 2 0 addr) ?_).trans hbook
    rw [hu, restoring]; simp
  have hpart {o n i k : Nat} (hn : 0 < n) (hin : o + n ≤ 4864) (hk : i + k ≤ n) :=
    imageRead_part (u := u) hpoison hus (o := o) (n := n) (i := i) (k := k) hn hin hk
  have hwin (i : Nat) (hi : i + 8 ≤ 256) : leVal (((imageRead u p (a + 4608) 256).drop i).take 8) = b (4608 + i) 8 := by
    rw [hpart (by omega) (by omega) hi, hb, Nat.add_assoc]
  have hform : leVal (imageRead u p (a + 40) 8) = 1 := by rw [imageRead_sound hpoison hus (by omega) (by omega), ← hformat, hb]
  obtain ⟨f, n, hrestore⟩ := restoreImage_base (l := l) (v := BitVec.ofNat 64 (b 4608 8)) (w := BitVec.ofNat 64 (b 4616 8)) hu (hup'.trans hup)
    (decide_eq_true hfits) hform (by rw [← hwin 0 (by omega), List.drop_zero]) (by rw [hwin 8 (by omega)]) hsp hcb
  have hexec := exec_taskImageRestore (mask := 0) hidle hbusy (by simpa using h)
  rw [← ha] at hexec
  have hureach := reach_of_world huw
  refine ⟨_, imageRead u p a 256, imageRead u p (a + 256) 256, imageRead u p (a + 512) 4096,
    (imageRead u p (a + 4608) 256).drop 128, u.now p, f (u.reach p l).ruined, hexec.trans (congrArg Host.Outcome.next hrestore), ?_,
    fun i k hk => ?_, fun i k hk => ?_, fun i k hk => ?_, fun q m hqm => ?_, ?_, hub, ?_⟩
  · rw [reach_of_world (world_free _ _), State.updReach_reach_same, hureach, hreach]
  · exact hpart (o := 0) (by omega) (by omega) hk
  · exact hpart (by omega) (by omega) hk
  · rw [List.drop_drop, hpart (by omega) (by omega) (by omega), show a + 4608 + (128 + i) = a + 4736 + i by omega]
  · rw [reach_of_world (world_free _ _), State.updReach_reach_other _ _ _ _ _ _ hqm, hureach, hothers q m hqm]
  · refine sameMemory_of_cells fun k => ?_
    rw [cells_of_world (world_free _ _), cells_of_store (store_updReach u p l _ ⟨rfl, rfl⟩), cells_of_store hus]
  · exact htime.trans ((sameTime_of_world huw).trans ⟨rfl, rfl, rfl, rfl, rfl⟩)

end

/-- Settles O12: a save lays the areas down one after the other (`taskImageSave_gives`), a restore takes those always restored from
their places (`taskImageRestore_gives`). -/
theorem taskImagesMove : Obligations.TaskImagesMove := by
  unfold Obligations.TaskImagesMove
  refine ⟨?save, ?restore, fun rq p l mask addr s => ⟨fun hno => ⟨fun h => ?noSave, fun h => ?noRestore⟩, fun hbusy => ?done⟩⟩
  case save =>
    intro rq p l mask addr a s h hidle hbusy ha hfits hwf hup hsort
    obtain ⟨t, ht, hreach, hothers, hclusters, htime, hcells⟩ := taskImageSave_gives h hidle hbusy ha hfits hup
    have hp := imageAreas_apart (s.reach p l).savedWords mask.toNat
    have hsaved {x : Nat × List Byte} (hx : x ∈ imageAreas (s.reach p l).savedWords mask.toNat) :
        rdBytes t (.sm p) (a + x.1) x.2.length = x.2 := saved_area hwf hp ((hcells _).trans (if_pos rfl)) hx
    have hheader := hsaved (x := (0, imageHeader (s.reach p l).savedWords mask.toNat)) (by simp [imageAreas])
    have hscalars := hsaved (x := (256, scalarBytes (s.reach p l).savedWords)) (by simp [imageAreas])
    rw [imageHeader_length] at hheader
    rw [scalarBytes_length] at hscalars
    refine ⟨t, ht, hreach, fun x hx => hsaved hx, ?_, fun n hn => ?_, fun k i hout => ?_, hothers, hclusters, htime⟩
    · have hpart := memRead_sub (cells t (.sm p)) a 0 256 8 (by omega)
      rw [Nat.add_zero] at hpart hheader
      rw [rdBytes, hpart, ← rdBytes, hheader, List.drop_zero, imageHeader_pc, Reach.task_savedWords, leVal_leBytes]
      exact Nat.mod_eq_of_lt (lt_of_lt_of_le (s.reach p l).task.pc.isLt (by decide))
    · rw [rdBytes, memRead_sub _ _ (8 * n) 256 8 (by omega), ← rdBytes, hscalars, scalarBytes_get _ hn, leVal_leBytes_word,
        Reach.scalar_savedWords _ hsort]
      split <;> rfl
    · rw [rdByte, hcells]
      split
      · next hk =>
        subst hk
        exact memByte_blitAll_outside hwf fun x hx hin => hout ⟨rfl, x, hx, hin⟩
      · rfl
  case restore =>
    intro rq p l addr a b s h hidle hbusy ha hfits hup hpoison hb hformat hsp hcb
    obtain ⟨t, hd, scalars, trvs, keys, now, ruined, ht, hreach, hhd, hscalars, hkeys, hothers, hmem, hbook, htime⟩ :=
      taskImageRestore_gives h hidle hbusy ha hfits hup hpoison hb hformat hsp hcb
    have hheader (i k : Nat) (hi : i + k ≤ 256) : leVal ((hd.drop i).take k) = b i k := by rw [hhd i k hi, hb]
    refine ⟨t, ht, ?_, ?_, ?_, ?_, ?_, ?_, fun n hn h0 => ?_, fun n hn => ?_, ?_, ?_, ?_, ?_, ?_, ?_, hothers, hmem, hbook, htime⟩
    · rw [hreach, ← hheader 0 4 (by omega)]; rfl
    · rw [hreach, ← hheader 8 1 (by omega)]; rfl
    · rw [hreach]; rfl
    · rw [hreach]; rfl
    · rw [hreach]; rfl
    · rw [hreach, ← hheader 64 1 (by omega)]
      show (restoredStep hd now).isSome = _
      unfold restoredStep
      dsimp only
      split <;> simp_all
    · have hmem : (n, leVal ((scalars.drop (8 * n)).take 8)) ∈ (pieces 8 32 0 scalars).drop 1 := by
        have hall := mem_pieces (k := 8) (i := 0) (bs := scalars) hn
        rw [Nat.zero_add, pieces] at hall
        exact (List.mem_cons.mp hall).resolve_left fun h => h0 (congrArg Prod.fst h)
      have hget := get_piecesMap (k := 64) (mask := 2 ^ 64 - 1) (pairwise_pieces.1.drop) hmem
      have hscalar : (t.reach p l).scalar n = SMap.get 0 (piecesMap (2 ^ 64 - 1) ((pieces 8 32 0 scalars).drop 1)) n := by
        rw [hreach]; exact if_neg h0
      rw [hscalar, hget, hscalars (8 * n) 8 (by omega), hb, Nat.and_two_pow_sub_one_eq_mod, Nat.add_assoc]
      exact BitVec.eq_of_toNat_eq (by simp)
    · have hget := get_piecesMap (k := 64) (mask := 0xFFFF) pairwise_pieces.1 (mem_pieces (k := 8) (i := 0) (bs := keys) hn)
      rw [Nat.zero_add] at hget
      have hswz : (t.reach p l).swz = piecesMap 0xFFFF (pieces 8 16 0 keys) := by rw [hreach]; rfl
      rw [hswz, hget, hkeys (8 * n) 8 (by omega), hb, BitVec.ofNat_and, Nat.add_assoc]
    all_goals rw [hreach]; rfl
  case noSave => exact congrArg Host.Outcome.next (exec_taskImage_refused (op := 1) (.inl rfl) hno h)
  case noRestore => exact congrArg Host.Outcome.next (exec_taskImage_refused (op := 2) (.inr rfl) hno h)
  case done =>
    refine congrArg Host.Outcome.next (State.updReach_congr _ _ _ ?_)
    simp only [hbusy, if_true]

end Sys2Proof.Machine
end

section
/-!
An abort that undoes a piece of a MOVE into IMEM (10 R280): the word at the PC goes back to what stood there, and the scan for
the next STAK goes on behind the STAK that the piece had written. So O34 fails where it keeps the PC of every aborted reach
whose head is a STAK.
-/

namespace Sys2Proof.Machine

/-! ### What an abort does to the one instruction in flight -/

/-- Step 1 of an abort, before anything is cut short: STEP_OVERRUN is raised and counted, and the head leaves its barrier. -/
def overrunCounted (s : State) (p l : Nat) (o : OpenStep) : State :=
  withdrawHead ((bumpPcnt (raise s (srcReach p l) evStepOverrun (overrunPayload l o (workLeft (s.reach p l)))) p 17 1).updTask p l
    (fun t => { t with overruns := BitVec.ofNat 16 (satAdd 16 t.overruns.toNat 1) })) p l

/-- What follows once the instructions in flight are cut short: the sums under way to the reach go, the step closes, and the
sequencer scans forward. -/
def afterCut (s : State) (p l : Nat) (closing : Stake) : State :=
  scanTask (closeStep (s.updParcel p (fun x => { x with
    sums := x.sums.filter (fun c => c.dest != l && c.dest != 256 + l) })) p l) p l closing

theorem closingReached_abort {s : State} {p l : Nat} {o : OpenStep} (hwork : workFinished (s.reach p l) o.closing = false)
    (habort : o.abort = true) :
    closingReached s p l o = afterCut (cutFlights (overrunCounted s p l o) p l) p l o.closing := by
  simp [closingReached, hwork, overrun, habort, abortReach, afterCut, overrunCounted]

/-- One instruction in flight that has started loses the pieces from that on which the free value names. -/
theorem cutFlights_started {s : State} {p l : Nat} {f : Flight} {us : List Undo} (hflights : (s.reach p l).flights = [f])
    (hcut : cutUnit f = true) (hstatus : f.status ≠ 3) (hop : wOp f.job.word ≠ 8) (hwait : f.wait.unstarted = false)
    (hlost : f.undo.drop (Config.free (drainOf s (srcReach p l)).free % (f.undo.length + 1)) = us) :
    cutFlights s p l = updFlight (us.reverse.foldl (undoPiece p l f)
      { drainOf s (srcReach p l) with free := (drainOf s (srcReach p l)).free + 1 }) p l f.no (cutShort us) := by
  simp [cutFlights, hflights, hwait, cutFlight, hcut, hstatus, hop, hlost]

/-! ### The counterexample -/

/-- What the last piece of the MOVE below has written over: the first byte of an SCL at address 0 of the reach's IMEM. -/
def lastPiece : Undo := { bytes := [(.imem 0 0, (0, 13))] }

/-- A MOVE into IMEM in an open step: its last piece has made the SCL at address 0 a STAK, and the pieces before it, as many as
the free value keeps, have changed nothing. -/
def imemMove : Flight :=
  { no := 1, job := { word := 4 + 8 * 2 ^ 24 }, unit := .reachDma, inStep := true
    undo := List.replicate (Config.free 0) {} ++ [lastPiece] }

/-- A step under abort whose closing stake is the start of tick 0. -/
def abortedStep : OpenStep := { opening := {}, closing := {}, abort := true, alw := 0, rate := 0 }

/-- A package with one reach, which has a STAK STEP in each of its first two words of IMEM and stands at the first, that MOVE in
flight, and the step open past its closing stake. -/
def abortedState : State :=
  let words := leBytes 16 (10 + 2 ^ 24) ++ leBytes 16 (10 + 2 ^ 24)
  let r : Reach :=
    { imem := (cellsOf 0 words).foldl (fun m c => memSet m c.1 c.2) []
      task := { run := true, step := some abortedStep }, flights := [imemMove] }
  { parcels := [(0, { state := .run, reaches := [(0, r)] })], datum := { state := .cabled, count := 1 } }

/-- Nothing but the closing stake of the step is bound to a stake. -/
theorem alone_abortedState : Alone abortedState 0 0 := by
  have hsched : ∀ st, schedHolds abortedState 0 st = false := fun _ => rfl
  unfold Alone
  exact ⟨by decide, rfl, by decide, by decide +kernel, rfl, hsched, by decide, by decide⟩

/-- The abort keeps every piece of the MOVE but the last. -/
theorem imemMove_loses_lastPiece : imemMove.undo.drop (Config.free 0 % (imemMove.undo.length + 1)) = [lastPiece] := by
  have hkept : Config.free 0 % (imemMove.undo.length + 1) = Config.free 0 :=
    Nat.mod_eq_of_lt (by simp [imemMove])
  rw [hkept]
  simp [imemMove]

theorem cutFlights_abortedState {s : State} (hs : s = overrunCounted abortedState 0 0 abortedStep) :
    cutFlights s 0 0 = updFlight (undoPiece 0 0 imemMove { drainOf s 0 with free := 1 } lastPiece) 0 0 1 (cutShort [lastPiece]) := by
  have hflights : (s.reach 0 0).flights = [imemMove] := by rw [hs]; rfl
  have hfree : (drainOf s (srcReach 0 0)).free = 0 := by rw [hs]; rfl
  rw [cutFlights_started hflights rfl (by decide) (by decide) rfl (hfree ▸ imemMove_loses_lastPiece), hfree]
  rfl

/-- The scan after the abort finds the second STAK. -/
theorem pc_abortedState {t : State} (ht : exec (.stakeReached 0) abortedState = .next t) : (t.reach 0 0).task.pc = 16 := by
  have hexec : exec (.stakeReached 0) abortedState =
      .next (applyBounds 4095 (closingReached abortedState 0 0 abortedStep) 0) := by
    rfl
  obtain rfl : applyBounds 4095 (closingReached abortedState 0 0 abortedStep) 0 = t := by
    rw [hexec] at ht; exact Host.Outcome.next.inj ht
  rw [closingReached_abort (by decide +kernel) rfl, cutFlights_abortedState rfl]
  decide +kernel

/-- Refutes O34: the abort clause, on `abortedState`, where the reach goes on at the second STAK and not at the first. -/
theorem not_stakesAreReached : ¬ Obligations.StakesAreReached := by
  unfold Obligations.StakesAreReached
  intro ⟨_, h⟩
  obtain ⟨hclosing, _⟩ := h 0 0 abortedState abortedStep rfl (by intro _ _ hw; cases hw)
    (by intro f hf _ hw; cases List.mem_singleton.mp hf; cases hw)
  obtain ⟨_, _, habort⟩ := hclosing alone_abortedState (by decide +kernel) rfl rfl
  obtain ⟨t, ht, _, _, _, hpc, _⟩ := habort imemMove rfl rfl (by decide) (by decide) (by decide) (by unfold NonePosted; decide) rfl
    (by decide) rfl (by decide) (by decide +kernel) (by decide +kernel)
  have hfirst : (t.reach 0 0).task.pc = 0 := hpc
  have hsecond : (t.reach 0 0).task.pc = 16 := pc_abortedState ht
  exact absurd (hfirst.symm.trans hsecond) (by decide)

end Sys2Proof.Machine
end
